-- ==== Sys2Proof/Word.lean ====
section
/-! DEFINITION. The word types, bit fields of a word, and exact decoded values. -/

namespace Sys2Proof

/-- A byte. -/
abbrev Byte := BitVec 8
/-- A 64-bit register or general-register value (13:R382, 09:R256). -/
abbrev Word := BitVec 64
/-- The 128 bytes of a descriptor as one little-endian integer (06:R154, 00:R11). -/
abbrev Desc := BitVec 1024

/-- An exact decoded value (02:R55). A NaN keeps its sign, whether it is signalling, and its payload in 51 bits,
high-order bits first (02:R64). A finite value is (−1)^neg × man × 2^exp; a zero keeps its sign. -/
inductive Val where
  | nan (neg sig : Bool) (pay : BitVec 51)
  | inf (neg : Bool)
  | fin (neg : Bool) (man : Nat) (exp : Int)
  deriving DecidableEq, Repr, Inhabited

end Sys2Proof
end

