-- ==== Sys2Proof/Syntax.lean ====
section
/-! DEFINITION. The commands of Waxia: one constructor for each row of the opcode table, with the operands its rule gives. -/

namespace Sys2Proof

/-- Who writes a register (13:R383). -/
inductive Src where
  | host
  | core (c : Fin 8)
  | snowdrop
  deriving DecidableEq, Repr

/-- The path of a management command (13:R359): a chain frame with its DEST, SRC, SEQ and CRC, or the mailbox. -/
inductive Path where
  | chain (dest : BitVec 12) (src : BitVec 12) (seq : Byte) (crc : BitVec 32)
  | mailbox
  deriving DecidableEq, Repr

/-- A command that a register write or a WRITE of an entry makes. -/
inductive CmdSrc where
  | reg (src : Src)
  | od (p : Path)
  deriving DecidableEq, Repr

/-- Who reaches a control register of a core: the running task by CRW, or a writer through the CC window (11:R315). -/
inductive CrWho where
  | task (c : Fin 8)
  | window (src : Src) (c : Fin 8)
  deriving DecidableEq, Repr

/-- The slot, counter and tag of an AWRITE (13:R367). -/
structure Auth where
  slot    : Byte
  counter : BitVec 32
  tag     : Word
  deriving DecidableEq, Repr

/-- The status of a read (08:R233, R234). -/
inductive ReadStat where
  | clean | corrected | uncorrectable
  deriving DecidableEq, Repr

/-- The kinds of translated access (12:R341); `rowLoad` and `rowStore`: a tile row or ZLINE, which has to reach a memory page
that is not a device page (10:R299, 12:R358); `stageRead`: an engine read that has to reach stage memory (01:R34). -/
inductive Access where
  | load | store | rowLoad | rowStore | fetch | atomic | unitRead | unitWrite | engRead | stageRead | engWrite | remRead | remWrite
  deriving DecidableEq, Repr

/-- The residue check of an arithmetic result (14:R392): it matches, it matches at the retry, it never matches. -/
inductive Residue where
  | ok | retried | failed
  deriving DecidableEq, Repr

/-- A field of an instruction, with what the residue check of its result finds (14:R392). -/
structure Checked (α : Type) where
  val : α
  res : Residue
  deriving DecidableEq, Repr

/-- An upset of a protected structure since the last tick (14:R390, log 60): in the block cache (12:R357) a corrected
word, tag or state copy of a way, an uncorrectable word of a line, both copies of a line's tag and state; a victim line;
a line of an L1 data cache, dirty or not; a stage-memory word and what its code finds; a register of a bank, a tile row, a
reuse latch, a store-buffer entry; an entry of a TLB, of the walker cache, of the context cache; all copies of a voted
item, of a queue or of the timebase (14:R400); a configuration register. Lines are PA / 128. -/
inductive Upset where
  | corrected (way : Fin 16)
  | uncorrectable (line : Nat)
  | tagLost (line : Nat)
  | victim (line : Nat)
  | l1Line (c : Fin 8) (line : Nat) (dirty : Bool)
  | stage (word : BitVec 23) (found : ReadStat)
  | register (c : Fin 8) (level : Fin 8) (r : BitVec 5)
  | tileRow (c : Fin 8) (t : Fin 12) (row : BitVec 5)
  | latch (c : Fin 8) (left : Bool)
  | store (c : Fin 8) (i : Nat)
  | l1Tlb (c : Fin 8) (i : Nat)
  | tlb (i : Nat)
  | walker (i : Nat)
  | context (i : Nat)
  | voted (q : Option (Fin 32))
  | config (off : BitVec 26)
  deriving DecidableEq, Repr

/-- The context and root of a walk (12:R334). -/
inductive WalkRoot where
  | core (c : Fin 8)
  | engine (ctx : BitVec 16)
  deriving DecidableEq, Repr

/-- A remote packet (15:R427); its operation is the command's. -/
structure Packet where
  attr    : Byte
  dest    : BitVec 16
  src     : BitVec 16
  len     : BitVec 16
  addr    : Word
  txid    : BitVec 32
  arg     : Word
  payload : List Byte
  deriving DecidableEq, Repr

/-- Why an inbound packet is discarded (15:R429). -/
inductive PacketFault where
  | crc | dest | op
  deriving DecidableEq, Repr

/-- One sample of the sensors, binary32 images (14:R413). -/
structure Sample where
  tj   : Vector (BitVec 32) 16
  vdd  : Vector (BitVec 32) 2
  iblk : BitVec 32
  pblk : BitVec 32
  deriving DecidableEq, Repr

/-- The readings of a re-plan (14:R413, R414): normalised ring-oscillator counts, path delays and flagged detectors. -/
structure Monitors where
  ro      : Vector (BitVec 32) 96
  pd      : Vector (BitVec 32) 48
  flagged : BitVec 16
  deriving DecidableEq, Repr

/-- The outcomes of the checks of a BOOT phase (16:R441): B2 the two image digests, B3 the banks and spares that
fail the march, B4 the voted items (and the queue that fails, if it is a queue), B5 the readings of the re-plan. -/
structure BootChecks where
  romGood   : Bool
  imgGood   : Bool
  badBanks  : List (Fin 128)
  badSpares : List (Fin 4)
  votedGood : Bool
  votedQ    : Option (Fin 32)
  monitors  : Monitors
  deriving DecidableEq, Repr

/-- The commands, in the order of spec/opcode_table.json. -/
inductive Instr where
  /-- POWER_ON_RESET_ASSERT (R422). -/
  | powerOnResetAssert
  /-- POWER_ON_RESET_RELEASE (R422). -/
  | powerOnResetRelease
  /-- WARM_RESET_ASSERT (R422). -/
  | warmResetAssert (edges : Nat)
  /-- WARM_RESET_RELEASE (R422). -/
  | warmResetRelease
  /-- POWER_GOOD_FALL (R423). -/
  | powerGoodFall (domain : Fin 4)
  /-- BOOT_PHASE_END (R440). -/
  | bootPhaseEnd (r : BootChecks)
  /-- FUSE_READ_DATA (R435). -/
  | fuseReadData (w : BitVec 32)
  /-- FUSE_READ_TIMEOUT (R435). -/
  | fuseReadTimeout
  /-- FUSE_PROGRAM_DONE (R435). -/
  | fuseProgramDone (err : Bool)
  /-- CLOCK_MEASURE_WINDOW (R420). -/
  | clockMeasureWindow (fclk aclk : Nat) (fLost aLost : Bool)
  /-- BEAT_MEASURE_WINDOW (R420). -/
  | beatMeasureWindow (ticks : Nat)
  /-- MCLK_WATCHDOG (R431). -/
  | mclkWatchdog
  /-- MG_ALIVE_RISE (R431). -/
  | mgAliveRise
  /-- BEAT_TICK (R432). -/
  | beatTick (since : Nat) (found : List Upset)
  /-- BEAT_LOAD (R187). -/
  | beatLoad (v : Word)
  /-- APPLY_IN (R433). -/
  | applyIn
  /-- APPLY_NOW (R387). -/
  | applyNow (by_ : CmdSrc)
  /-- APPLY_ARM (R387). -/
  | applyArm (by_ : CmdSrc) (beat : Word)
  /-- APPLY_AT_WRITE (R384). -/
  | applyAtWrite (src : Src) (v : Word)
  /-- SCHEDULED_APPLY (R387). -/
  | scheduledApply
  /-- STATE_REQUEST (R371). -/
  | stateRequest (by_ : CmdSrc) (code : Byte)
  /-- STAGED_WRITE (R14). -/
  | stagedWrite (src : Src) (off : BitVec 26) (v : Word)
  /-- REGISTER_WRITE (R14). -/
  | registerWrite (src : Src) (off : BitVec 26) (v : Word)
  /-- SQC_CLEAR (R18). -/
  | sqcClear (src : Src) (off : BitVec 26) (v : Word)
  /-- HOST_WINDOW_READ (R243). -/
  | hostWindowRead (tag : BitVec 6) (addr : BitVec 44) (be : BitVec 256) (split : Bool)
  /-- HOST_WINDOW_WRITE (R243). -/
  | hostWindowWrite (addr : BitVec 44) (be : BitVec 256) (data : BitVec 2048) (split : Bool)
  /-- HOST_WINDOW_READ_TIMEOUT (R430). -/
  | hostWindowReadTimeout (tag : BitVec 6)
  /-- DQ_CFG_WRITE (R151). -/
  | dqCfgWrite (src : Src) (q : Fin 32) (reg : Fin 3) (v : Word)
  /-- DQ_DOORBELL (R165). -/
  | dqDoorbell (src : Src) (q : Fin 32) (v : Word)
  /-- QUEUE_FLUSH (R178). -/
  | queueFlush (src : Src) (q : Fin 32)
  /-- QUEUE_RESUME (R178). -/
  | queueResume (src : Src) (q : Fin 32)
  /-- QUEUE_HALT (R178). -/
  | queueHalt (src : Src) (q : Fin 32)
  /-- FLAG_WRITE_SET (R181). -/
  | flagWriteSet (src : Src) (f : Fin 4096) (v : BitVec 32)
  /-- FLAG_WRITE_ADD (R181). -/
  | flagWriteAdd (src : Src) (f : Fin 4096) (v : BitVec 32)
  /-- DESCRIPTOR_FETCH (R168). -/
  | descriptorFetch (q : Fin 32)
  /-- FETCH_EVENT_COMPLETE (R169). -/
  | fetchEventComplete (q : Fin 32)
  /-- PREDICATE_TEST (R145). -/
  | predicateTest (q : Fin 32)
  /-- BARRIER_ENTER (R174). -/
  | barrierEnter (q : Fin 32)
  /-- DESCRIPTOR_COMPLETE (R175). -/
  | descriptorComplete (q : Fin 32)
  /-- DEADLINE_MISS (R186). -/
  | deadlineMiss (q : Fin 32) (index : BitVec 32)
  /-- DEADLOCK_DECLARE (R189). -/
  | deadlockDeclare
  /-- NULL_NOP (R194). -/
  | nullNop (q : Fin 32)
  /-- NULL_FLAGS (R195). -/
  | nullFlags (q : Fin 32)
  /-- OPA_MM (R196). -/
  | opaMm (q : Fin 32)
  /-- OPA_DRAIN (R196). -/
  | opaDrain (q : Fin 32)
  /-- OPA_FORMAT_SWITCH (R99). -/
  | opaFormatSwitch (n : Fin 16)
  /-- OPA_STEP_ISSUE (R70). -/
  | opaStepIssue (n : Fin 16)
  /-- OPA_CHECKSUM_MISS (R391). -/
  | opaChecksumMiss (n : Fin 16) (g : Fin 4) (setY : Bool) (row col : BitVec 8) (dummy : Bool)
  /-- OPA_ACC_PARITY_ERROR (R402). -/
  | opaAccParityError (n : Fin 16) (g : Fin 4) (setY : Bool) (row col : BitVec 8) (outside : Bool)
  /-- OPA_REPLAY_ATTEMPT (R401). -/
  | opaReplayAttempt (n : Fin 16)
  /-- GROUP_FINAL (R90). -/
  | groupFinal (n : Fin 16)
  /-- HELD_SET_DRAIN (R102). -/
  | heldSetDrain (n : Fin 16)
  /-- DRAIN_CUBE_ROW (R110). -/
  | drainCubeRow (n : Fin 16)
  /-- OPA_KEEP_FINISH (R101). -/
  | opaKeepFinish (n : Fin 16)
  /-- OPA_DRAIN_FINISH (R114). -/
  | opaDrainFinish (n : Fin 16)
  /-- CG_LEAVE_BAND (R76). -/
  | cgLeaveBand (g : Fin 16)
  /-- GAP_WINDOW_EXPIRE (R92). -/
  | gapWindowExpire (n : Fin 16)
  /-- LAMBDA_DECAY (R92). -/
  | lambdaDecay (n : Fin 16)
  /-- LAMBDA_RAMP (R94). -/
  | lambdaRamp (n : Fin 16)
  /-- DUMMY_STEP_ISSUE (R93). -/
  | dummyStepIssue (n : Fin 16)
  /-- VE_ADD (R201). -/
  | veAdd (q : Fin 32)
  /-- VE_SUB (R201). -/
  | veSub (q : Fin 32)
  /-- VE_MUL (R201). -/
  | veMul (q : Fin 32)
  /-- VE_DIV (R201). -/
  | veDiv (q : Fin 32)
  /-- VE_FMA (R201). -/
  | veFma (q : Fin 32)
  /-- VE_SQRT (R201). -/
  | veSqrt (q : Fin 32)
  /-- VE_REM (R201). -/
  | veRem (q : Fin 32)
  /-- VE_SCALEB (R201). -/
  | veScaleb (q : Fin 32)
  /-- VE_LOGB (R203). -/
  | veLogb (q : Fin 32)
  /-- VE_RINT (R203). -/
  | veRint (q : Fin 32)
  /-- VE_NEXT (R203). -/
  | veNext (q : Fin 32)
  /-- VE_SIGN (R203). -/
  | veSign (q : Fin 32)
  /-- VE_CVT (R201). -/
  | veCvt (q : Fin 32)
  /-- VE_CMP (R204). -/
  | veCmp (q : Fin 32)
  /-- VE_CLASS (R205). -/
  | veClass (q : Fin 32)
  /-- VE_TOTORD (R203). -/
  | veTotord (q : Fin 32)
  /-- VE_TOSTR (R206). -/
  | veTostr (q : Fin 32)
  /-- VE_FROMSTR (R206). -/
  | veFromstr (q : Fin 32)
  /-- VE_MINMAX (R207). -/
  | veMinmax (q : Fin 32)
  /-- VE_ACT (R207). -/
  | veAct (q : Fin 32)
  /-- VE_EXP2 (R207). -/
  | veExp2 (q : Fin 32)
  /-- VE_LOG2 (R207). -/
  | veLog2 (q : Fin 32)
  /-- VE_RSUM (R208). -/
  | veRsum (q : Fin 32)
  /-- VE_RMAX (R208). -/
  | veRmax (q : Fin 32)
  /-- VE_RSTAT (R209). -/
  | veRstat (q : Fin 32)
  /-- VE_PSUM (R210). -/
  | vePsum (q : Fin 32)
  /-- VE_WSUM (R211). -/
  | veWsum (q : Fin 32)
  /-- VE_PRUNE (R212). -/
  | vePrune (q : Fin 32)
  /-- VE_MASKZ (R212). -/
  | veMaskz (q : Fin 32)
  /-- VE_CRC (R213). -/
  | veCrc (q : Fin 32)
  /-- VE_CRCCHK (R214). -/
  | veCrcchk (q : Fin 32)
  /-- VE_PQ (R215). -/
  | vePq (q : Fin 32)
  /-- VE_PQREC (R216). -/
  | vePqrec (q : Fin 32)
  /-- VE_FINISH (R219). -/
  | veFinish (q : Fin 32)
  /-- VE_PARITY_REPLAY (R403). -/
  | veParityReplay (q : Fin 32) (slice : Fin 8) (elem : Word)
  /-- VE_SLICE_LEAVE (R217). -/
  | veSliceLeave (slice : Fin 8)
  /-- MOVE_COPY (R220). -/
  | moveCopy (q : Fin 32)
  /-- MOVE_BYTES (R220). -/
  | moveBytes (q : Fin 32)
  /-- MOVE_FILL (R220). -/
  | moveFill (q : Fin 32)
  /-- MOVE_FINISH (R222). -/
  | moveFinish (q : Fin 32)
  /-- RME_PUT (R223). -/
  | rmePut (q : Fin 32)
  /-- RME_GET (R223). -/
  | rmeGet (q : Fin 32)
  /-- RME_PUT_FLAG (R223). -/
  | rmePutFlag (q : Fin 32)
  /-- RME_FLAG_ADD (R223). -/
  | rmeFlagAdd (q : Fin 32)
  /-- RME_FLAG_SET (R223). -/
  | rmeFlagSet (q : Fin 32)
  /-- RME_AADD (R223). -/
  | rmeAadd (q : Fin 32)
  /-- RME_FADD (R223). -/
  | rmeFadd (q : Fin 32)
  /-- RME_CAS (R223). -/
  | rmeCas (q : Fin 32)
  /-- RME_TIMEOUT (R253). -/
  | rmeTimeout (q : Fin 32)
  /-- REMOTE_SIGNAL_TIMEOUT (R252). -/
  | remoteSignalTimeout (txid : BitVec 32)
  /-- CCM_POST (R227). -/
  | ccmPost (q : Fin 32)
  /-- MAILBOX_DONE (R333). -/
  | mailboxDone (who : CrWho) (m : Fin 16) (v : Word)
  /-- PACKET_ACK (R428). -/
  | packetAck (txid : BitVec 32)
  /-- PACKET_DATA (R428). -/
  | packetData (txid : BitVec 32) (data : List Byte)
  /-- PACKET_REFUSE (R428). -/
  | packetRefuse (txid : BitVec 32) (reason : BitVec 16)
  /-- INBOUND_PUT (R247). -/
  | inboundPut (p : Packet)
  /-- INBOUND_GET (R247). -/
  | inboundGet (p : Packet)
  /-- INBOUND_FLAG_ADD (R247). -/
  | inboundFlagAdd (p : Packet)
  /-- INBOUND_FLAG_SET (R247). -/
  | inboundFlagSet (p : Packet)
  /-- INBOUND_AADD (R225). -/
  | inboundAadd (p : Packet)
  /-- INBOUND_FADD (R225). -/
  | inboundFadd (p : Packet)
  /-- INBOUND_CAS (R225). -/
  | inboundCas (p : Packet)
  /-- REMOTE_CREDIT (R427). -/
  | remoteCredit
  /-- MEMORY_CREDIT (R425). -/
  | memoryCredit (n : Fin 16)
  /-- MEMORY_READ_RESPONSE (R233). -/
  | memoryReadResponse (n : Fin 16) (tag : BitVec 10) (stat : BitVec 16)
  /-- MEMORY_WRITE_ACK (R235). -/
  | memoryWriteAck (n : Fin 16) (tag : BitVec 10) (err : Bool)
  /-- MEMORY_REQUEST_TIMEOUT (R426). -/
  | memoryRequestTimeout (n : Fin 16) (tag : BitVec 10)
  /-- MEMP_CFG_WRITE (R231). -/
  | mempCfgWrite (src : Src) (v : Word)
  /-- SCRUB_READ (R236). -/
  | scrubRead (word : BitVec 23) (found : ReadStat)
  /-- SPARE_COPY_COMPLETE (R238). -/
  | spareCopyComplete (spare : Fin 4)
  /-- PAGE_WALK (R340). -/
  | pageWalk (root : WalkRoot) (va : Word) (access : Access)
  /-- XLAT_CTXBASE_WRITE (R348). -/
  | xlatCtxbaseWrite (src : Src) (v : Word)
  /-- XLAT_INV_ADDRESS (R348). -/
  | xlatInvAddress (src : Src) (ctx : BitVec 16) (va : BitVec 48)
  /-- XLAT_INV_ADDRESS_WALKER (R348). -/
  | xlatInvAddressWalker (src : Src) (ctx : BitVec 16) (va : BitVec 48)
  /-- XLAT_INV_CONTEXT (R348). -/
  | xlatInvContext (src : Src) (ctx : BitVec 16)
  /-- XLAT_INV_BLOCK (R348). -/
  | xlatInvBlock (src : Src)
  /-- XLAT_INV_COMPLETE (R347). -/
  | xlatInvComplete
  /-- PRELOAD_START (R355). -/
  | preloadStart (src : Src) (v : Word)
  /-- PRELOAD_COMPLETE (R355). -/
  | preloadComplete
  /-- WAY_POWER_DOWN (R356). -/
  | wayPowerDown (src : Src) (way : Fin 16)
  /-- WAY_CLEAN_COMPLETE (R356). -/
  | wayCleanComplete (way : Fin 16)
  /-- WAY_POWER_UP (R356). -/
  | wayPowerUp (src : Src) (way : Fin 16)
  /-- WAY_POWER_UP_READY (R356). -/
  | wayPowerUpReady (way : Fin 16)
  /-- FAULT_RECORD_WRITE (R399). -/
  | faultRecordWrite
  /-- FAULT_ACK_WRITE (R399). -/
  | faultAckWrite (src : Src) (v : Word)
  /-- PARITY_SCAN (R388). -/
  | parityScan (off : BitVec 26) (mismatch : Bool)
  /-- MBOX_RESPONSE_READY (R381). -/
  | mboxResponseReady
  /-- OD_READ (R367). -/
  | odRead (p : Path) (payload : List Byte)
  /-- OD_WRITE (R367). -/
  | odWrite (p : Path) (payload : List Byte)
  /-- OD_AWRITE (R373). -/
  | odAwrite (p : Path) (payload : List Byte)
  /-- SERVICE_ENTER (R370). -/
  | serviceEnter (p : Path) (au : Auth)
  /-- SERVICE_END (R370). -/
  | serviceEnd (p : Path) (au : Auth)
  /-- REG_VALUE_READ (R364). -/
  | regValueRead (p : Path)
  /-- REG_VALUE_WRITE (R364). -/
  | regValueWrite (p : Path) (v : Word)
  /-- NODE_ADDR_WRITE (R377). -/
  | nodeAddrWrite (p : Path) (v : BitVec 16)
  /-- UNIT_SERVICE_ENTER (R365). -/
  | unitServiceEnter (p : Path) (au : Auth) (unit : BitVec 16)
  /-- UNIT_SERVICE_LEAVE (R412). -/
  | unitServiceLeave (p : Path) (au : Auth) (unit : BitVec 16)
  /-- UNIT_RETIRE (R405). -/
  | unitRetire (p : Path) (au : Auth) (unit : BitVec 16)
  /-- UNIT_SERVICE_ENTRY (R411). -/
  | unitServiceEntry (unit : BitVec 16)
  /-- UNIT_TEST_COMPLETE (R412). -/
  | unitTestComplete (unit : BitVec 16) (pass : Bool) (detail : BitVec 32)
  /-- IMG_BLOCK (R363). -/
  | imgBlock (p : Path) (data : List Byte)
  /-- IMG_COMMIT (R363). -/
  | imgCommit (p : Path) (au : Auth) (data : List Byte)
  /-- KEY_WRITE (R372). -/
  | keyWrite (p : Path) (au : Auth) (slot : Fin 4) (data : List Byte)
  /-- SPARE_MAP_WRITE (R436). -/
  | spareMapWrite (p : Path) (au : Auth) (data : List Byte)
  /-- TESTMODE_WRITE (R363). -/
  | testmodeWrite (p : Path) (au : Auth) (v : BitVec 32)
  /-- CRESET (R379). -/
  | creset (src : BitVec 12) (seq : Byte)
  /-- ENUM (R379). -/
  | enum (src : BitVec 12) (seq : Byte) (crc : BitVec 32) (pos : BitVec 16)
  /-- ASSIGN (R379). -/
  | assign (src : BitVec 12) (seq : Byte) (crc : BitVec 32) (pos addr : BitVec 16)
  /-- SENSOR_SAMPLE (R413). -/
  | sensorSample (x : Sample)
  /-- MARGIN_REPLAN (R414). -/
  | marginReplan (x : Monitors)
  /-- VOLTAGE_STEP (R415). -/
  | voltageStep
  /-- VACK_INPUT (R424). -/
  | vackInput (v : Bool)
  /-- VACK_TIMEOUT (R424). -/
  | vackTimeout
  /-- ACLK_PIPELINE_EMPTY (R421). -/
  | aclkPipelineEmpty
  /-- ACLK_CUR_CHANGE (R421). -/
  | aclkCurChange (code : BitVec 2)
  /-- ACLK_RESUME (R421). -/
  | aclkResume
  /-- ACLK_SWITCH_LATE (R421). -/
  | aclkSwitchLate
  /-- HW_COMPARATOR_TRIP (R446). -/
  | hwComparatorTrip (thermal : Bool) (site : Fin 16) (value : BitVec 32)
  /-- RECOVERY_TIMER (R416). -/
  | recoveryTimer
  /-- SNOWDROP_RESTART (R390). -/
  | snowdropRestart
  /-- TAP_RESET (R438). -/
  | tapReset
  /-- IDCODE (R438). -/
  | idcode
  /-- IJTAG (R438). -/
  | ijtag
  /-- BYPASS (R438). -/
  | bypass
  /-- SCHEDULER_SELECT (R321). -/
  | schedulerSelect (c : Fin 8)
  /-- TASK_SWITCH (R322). -/
  | taskSwitch (c : Fin 8)
  /-- TRANSFER_UNIT (R326). -/
  | transferUnit (c : Fin 8) (err : Bool)
  /-- TASK_ENTRY_WRITE (R316). -/
  | taskEntryWrite (who : CrWho) (w : Fin 4) (v : Word)
  /-- WAKE (R318). -/
  | wake (who : CrWho) (task : Byte)
  /-- ARM_BINDING (R320). -/
  | armBinding (c : Fin 8) (a : BitVec 5)
  /-- READ_CAUSE (R320). -/
  | readCause (c : Fin 8) (d : BitVec 5)
  /-- TASK_RESUME (R320). -/
  | taskResume (who : CrWho) (task : Byte)
  /-- TASK_KILL (R320). -/
  | taskKill (who : CrWho) (task : Byte)
  /-- TRANSFER_RETRY (R328). -/
  | transferRetry (who : CrWho) (task : Byte)
  /-- CLEAR_PEND (R320). -/
  | clearPend (who : CrWho) (task : Byte)
  /-- STORE_BUFFER_DRAIN (R275). -/
  | storeBufferDrain (c : Fin 8)
  /-- ADD (R263). -/
  | add (c : Fin 8) (d a b : BitVec 5) (res : Residue)
  /-- SUB (R263). -/
  | sub (c : Fin 8) (d a b : BitVec 5) (res : Residue)
  /-- AND (R263). -/
  | and (c : Fin 8) (d a b : BitVec 5)
  /-- OR (R263). -/
  | or (c : Fin 8) (d a b : BitVec 5)
  /-- XOR (R263). -/
  | xor (c : Fin 8) (d a b : BitVec 5)
  /-- SHL (R263). -/
  | shl (c : Fin 8) (d a b : BitVec 5)
  /-- SHR (R263). -/
  | shr (c : Fin 8) (d a b : BitVec 5)
  /-- SHRA (R263). -/
  | shra (c : Fin 8) (d a b : BitVec 5)
  /-- STL (R263). -/
  | stl (c : Fin 8) (d a b : BitVec 5)
  /-- STLU (R263). -/
  | stlu (c : Fin 8) (d a b : BitVec 5)
  /-- MUL (R263). -/
  | mul (c : Fin 8) (d a b : BitVec 5) (res : Residue)
  /-- MHI (R263). -/
  | mhi (c : Fin 8) (d a b : BitVec 5) (res : Residue)
  /-- MHIU (R263). -/
  | mhiu (c : Fin 8) (d a b : BitVec 5) (res : Residue)
  /-- DIV (R263). -/
  | div (c : Fin 8) (d a b : BitVec 5) (res : Residue)
  /-- DIVU (R263). -/
  | divu (c : Fin 8) (d a b : BitVec 5) (res : Residue)
  /-- REM (R263). -/
  | rem (c : Fin 8) (d a b : BitVec 5) (res : Residue)
  /-- REMU (R263). -/
  | remu (c : Fin 8) (d a b : BitVec 5) (res : Residue)
  /-- ADDF (R263). -/
  | addf (c : Fin 8) (d a b : BitVec 5) (res : Residue)
  /-- SUBF (R263). -/
  | subf (c : Fin 8) (d a b : BitVec 5) (res : Residue)
  /-- ANDF (R263). -/
  | andf (c : Fin 8) (d a b : BitVec 5)
  /-- CLZ (R263). -/
  | clz (c : Fin 8) (d a : BitVec 5)
  /-- CTZ (R263). -/
  | ctz (c : Fin 8) (d a : BitVec 5)
  /-- POPC (R263). -/
  | popc (c : Fin 8) (d a : BitVec 5)
  /-- MIN (R263). -/
  | min (c : Fin 8) (d a b : BitVec 5)
  /-- MAX (R263). -/
  | max (c : Fin 8) (d a b : BitVec 5)
  /-- MINU (R263). -/
  | minu (c : Fin 8) (d a b : BitVec 5)
  /-- MAXU (R263). -/
  | maxu (c : Fin 8) (d a b : BitVec 5)
  /-- SXB (R263). -/
  | sxb (c : Fin 8) (d a : BitVec 5)
  /-- SXH (R263). -/
  | sxh (c : Fin 8) (d a : BitVec 5)
  /-- SXW (R263). -/
  | sxw (c : Fin 8) (d a : BitVec 5)
  /-- ZXW (R263). -/
  | zxw (c : Fin 8) (d a : BitVec 5)
  /-- PICK (R264). -/
  | pick (c : Fin 8) (cond : BitVec 4) (d a b : BitVec 5)
  /-- ADDI (R262). -/
  | addi (c : Fin 8) (d a : BitVec 5) (imm : BitVec 16) (res : Residue)
  /-- ANDI (R262). -/
  | andi (c : Fin 8) (d a : BitVec 5) (imm : BitVec 16)
  /-- ORI (R262). -/
  | ori (c : Fin 8) (d a : BitVec 5) (imm : BitVec 16)
  /-- XORI (R262). -/
  | xori (c : Fin 8) (d a : BitVec 5) (imm : BitVec 16)
  /-- SHLI (R262). -/
  | shli (c : Fin 8) (d a : BitVec 5) (imm : BitVec 6)
  /-- SHRI (R262). -/
  | shri (c : Fin 8) (d a : BitVec 5) (imm : BitVec 6)
  /-- SHRAI (R262). -/
  | shrai (c : Fin 8) (d a : BitVec 5) (imm : BitVec 6)
  /-- STLI (R262). -/
  | stli (c : Fin 8) (d a : BitVec 5) (imm : BitVec 16)
  /-- STLUI (R262). -/
  | stlui (c : Fin 8) (d a : BitVec 5) (imm : BitVec 16)
  /-- CMPI (R262). -/
  | cmpi (c : Fin 8) (a : BitVec 5) (imm : Checked (BitVec 16))
  /-- IMZ (R262). -/
  | imz (c : Fin 8) (d hw : BitVec 5) (imm : BitVec 16)
  /-- IMI (R262). -/
  | imi (c : Fin 8) (d hw : BitVec 5) (imm : BitVec 16)
  /-- LD1S (R262). -/
  | ld1s (c : Fin 8) (d a : BitVec 5) (imm : BitVec 16)
  /-- LD1Z (R262). -/
  | ld1z (c : Fin 8) (d a : BitVec 5) (imm : BitVec 16)
  /-- LD2S (R262). -/
  | ld2s (c : Fin 8) (d a : BitVec 5) (imm : BitVec 16)
  /-- LD2Z (R262). -/
  | ld2z (c : Fin 8) (d a : BitVec 5) (imm : BitVec 16)
  /-- LD4S (R262). -/
  | ld4s (c : Fin 8) (d a : BitVec 5) (imm : BitVec 16)
  /-- LD4Z (R262). -/
  | ld4z (c : Fin 8) (d a : BitVec 5) (imm : BitVec 16)
  /-- LD8 (R262). -/
  | ld8 (c : Fin 8) (d a : BitVec 5) (imm : BitVec 16)
  /-- ST1 (R262). -/
  | st1 (c : Fin 8) (d a : BitVec 5) (imm : BitVec 16)
  /-- ST2 (R262). -/
  | st2 (c : Fin 8) (d a : BitVec 5) (imm : BitVec 16)
  /-- ST4 (R262). -/
  | st4 (c : Fin 8) (d a : BitVec 5) (imm : BitVec 16)
  /-- ST8 (R262). -/
  | st8 (c : Fin 8) (d a : BitVec 5) (imm : BitVec 16)
  /-- AADD (R266). -/
  | aadd (c : Fin 8) (wide : Bool) (d a b : BitVec 5)
  /-- ASWAP (R266). -/
  | aswap (c : Fin 8) (wide : Bool) (d a b : BitVec 5)
  /-- ACAS (R266). -/
  | acas (c : Fin 8) (wide : Bool) (d a b : BitVec 5)
  /-- AAND (R266). -/
  | aand (c : Fin 8) (wide : Bool) (d a b : BitVec 5)
  /-- AOR (R266). -/
  | aor (c : Fin 8) (wide : Bool) (d a b : BitVec 5)
  /-- AMAX (R266). -/
  | amax (c : Fin 8) (wide : Bool) (d a b : BitVec 5)
  /-- AMIN (R266). -/
  | amin (c : Fin 8) (wide : Bool) (d a b : BitVec 5)
  /-- BREQ (R262). -/
  | breq (c : Fin 8) (a b : BitVec 5) (off : BitVec 16)
  /-- BRNE (R262). -/
  | brne (c : Fin 8) (a b : BitVec 5) (off : BitVec 16)
  /-- BRLT (R262). -/
  | brlt (c : Fin 8) (a b : BitVec 5) (off : BitVec 16)
  /-- BRLE (R262). -/
  | brle (c : Fin 8) (a b : BitVec 5) (off : BitVec 16)
  /-- BRLTU (R262). -/
  | brltu (c : Fin 8) (a b : BitVec 5) (off : BitVec 16)
  /-- BRLEU (R262). -/
  | brleu (c : Fin 8) (a b : BitVec 5) (off : BitVec 16)
  /-- BRC (R264). -/
  | brc (c : Fin 8) (cond : BitVec 4) (off : BitVec 22)
  /-- GO (R262). -/
  | go (c : Fin 8) (off : BitVec 26)
  /-- CALL (R262). -/
  | call (c : Fin 8) (off : BitVec 26)
  /-- GOR (R262). -/
  | gor (c : Fin 8) (d a : BitVec 5) (imm : BitVec 16)
  /-- FADD (R265). -/
  | fadd (c : Fin 8) (dbl : Bool) (d a b : BitVec 5) (res : Residue)
  /-- FSUB (R265). -/
  | fsub (c : Fin 8) (dbl : Bool) (d a b : BitVec 5) (res : Residue)
  /-- FMUL (R265). -/
  | fmul (c : Fin 8) (dbl : Bool) (d a b : BitVec 5) (res : Residue)
  /-- FDIV (R265). -/
  | fdiv (c : Fin 8) (dbl : Bool) (d a b : BitVec 5) (res : Residue)
  /-- FSQRT (R265). -/
  | fsqrt (c : Fin 8) (dbl : Bool) (d a : BitVec 5) (res : Residue)
  /-- FMIN (R265). -/
  | fmin (c : Fin 8) (dbl : Checked Bool) (d a b : BitVec 5)
  /-- FMAX (R265). -/
  | fmax (c : Fin 8) (dbl : Checked Bool) (d a b : BitVec 5)
  /-- FCMP (R265). -/
  | fcmp (c : Fin 8) (dbl : Checked Bool) (d a b : BitVec 5)
  /-- FCVT (R265). -/
  | fcvt (c : Fin 8) (dbl : Checked Bool) (d a : BitVec 5)
  /-- FTOI (R265). -/
  | ftoi (c : Fin 8) (dbl : Checked Bool) (d a : BitVec 5)
  /-- ITOF (R265). -/
  | itof (c : Fin 8) (dbl : Checked Bool) (d a : BitVec 5)
  /-- FNEG (R265). -/
  | fneg (c : Fin 8) (dbl : Bool) (d a : BitVec 5)
  /-- FABS (R265). -/
  | fabs (c : Fin 8) (dbl : Bool) (d a : BitVec 5)
  /-- FMA (R265). -/
  | fma (c : Fin 8) (dbl : Bool) (d a b : BitVec 5) (res : Residue)
  /-- CRR (R281). -/
  | crr (c : Fin 8) (d : BitVec 5) (cr : BitVec 12)
  /-- CRW (R282). -/
  | crw (c : Fin 8) (a : BitVec 5) (cr : BitVec 12)
  /-- CSYNC (R282). -/
  | csync (c : Fin 8)
  /-- FENCE (R277). -/
  | fence (c : Fin 8)
  /-- BRD (R332). -/
  | brd (c : Fin 8) (d : BitVec 5) (cr : BitVec 12)
  /-- BWR (R332). -/
  | bwr (c : Fin 8) (a : BitVec 5) (cr : BitVec 12)
  /-- TEND (R319). -/
  | tend (c : Fin 8)
  /-- TWAIT (R319). -/
  | twait (c : Fin 8)
  /-- TRAP (R317). -/
  | trap (c : Fin 8) (code : Byte)
  /-- TLBI_ADDRESS (R346). -/
  | tlbiAddress (c : Fin 8) (a : BitVec 5)
  /-- TLBI_ADDRESS_WALKER (R346). -/
  | tlbiAddressWalker (c : Fin 8) (a : BitVec 5)
  /-- TLBI_CONTEXT (R346). -/
  | tlbiContext (c : Fin 8) (a : BitVec 5)
  /-- TLBI_BLOCK (R346). -/
  | tlbiBlock (c : Fin 8) (a : BitVec 5)
  /-- ZLINE (R358). -/
  | zline (c : Fin 8) (a : BitVec 5)
  /-- TZERO (R292). -/
  | tzero (c : Fin 8) (td : BitVec 4) (rows : BitVec 5) (rb : BitVec 6) (fmt : BitVec 4)
  /-- TLD (R298). -/
  | tld (c : Fin 8) (td : BitVec 4) (ga gb : BitVec 5) (conv : Bool) (rows : BitVec 5) (rb : BitVec 6) (fmt : BitVec 4)
  /-- TST (R298). -/
  | tst (c : Fin 8) (ts : BitVec 4) (ga gb : BitVec 5) (x : Bool) (rows : BitVec 5) (rb : BitVec 6) (fmt : BitVec 4)
  /-- TMOV (R292). -/
  | tmov (c : Fin 8) (td ts : BitVec 4) (x : Bool) (rows : BitVec 5) (rb : BitVec 6) (fmt : BitVec 4)
  /-- TCVT (R310). -/
  | tcvt (c : Fin 8) (td ts : BitVec 4) (ga : BitVec 5) (rows : BitVec 5) (rb : BitVec 6) (fmt : BitVec 4)
    (fmt2 : Checked (BitVec 4))
  /-- TMM (R304). -/
  | tmm (c : Fin 8) (td ts tt : BitVec 4) (z int : Bool) (rows : BitVec 5) (rb : BitVec 6) (fmt : BitVec 4) (fmt2 nm1 : BitVec 4) (res : Residue)
  /-- TRDG (R292). -/
  | trdg (c : Fin 8) (ts : BitVec 4) (ga gb : BitVec 5)
  /-- TWRG (R292). -/
  | twrg (c : Fin 8) (td : BitVec 4) (ga gb : BitVec 5) (rows : BitVec 5) (rb : BitVec 6) (fmt : BitVec 4)
  /-- TREL (R288). -/
  | trel (c : Fin 8) (td : BitVec 4)
  /-- TTAG (R293). -/
  | ttag (c : Fin 8) (ts : BitVec 4) (ga : BitVec 5)
  /-- TFSTAT (R303). -/
  | tfstat (c : Fin 8) (ga : BitVec 5)
  /-- TILE_ROW (R298). -/
  | tileRow (c : Fin 8)
  /-- TILE_FILE_RESTORE (R327). -/
  | tileFileRestore (c : Fin 8)
  /-- SNOWDROP_FIRMWARE_UP (R390). -/
  | snowdropFirmwareUp
  /-- CHAIN_INPUT_LOST (R431). -/
  | chainInputLost
  /-- CHAIN_INPUT_REGAINED (R431). -/
  | chainInputRegained
  /-- CHAIN_FRAME_DISCARDED (R377). -/
  | chainFrameDiscarded (bytes : List Byte)
  /-- INBOUND_PACKET_DISCARDED (R429). -/
  | inboundPacketDiscarded (bad : PacketFault)
  /-- UNDEFINED_ENCODING (R261). -/
  | undefinedEncoding (c : Fin 8) (word0 word1 : BitVec 32)
  /-- INSTRUCTION_FETCH_FAULT (R278). -/
  | instructionFetchFault (c : Fin 8) (second : Bool)
  deriving DecidableEq, Repr

end Sys2Proof
end

