-- ==== Sys2Proof/Decode.lean ====
section
/-! DEFINITION. The commands that words spell: no row of the opcode table gives bits. -/

namespace Sys2Proof

/-- No row of the table gives bits, so no word spells a command (log 14). -/
def decodeTableWord (_nbits _w : Nat) : Option Instr := none

end Sys2Proof
end

