-- ==== Sys2Proof/Config.lean ====
section
/-! DEFINITION. What the manual leaves open, as constants without a body, and the fixed sizes of the part. -/

namespace Sys2Proof.Config

/-- A bit the manual leaves open (log 6): a fresh one for every value of the free counter. -/
opaque freeBit : Nat → Bool
/-- A number the manual leaves open, bounded by its user (log 6). -/
opaque freeNat : Nat → Nat
/-- A 64-bit word the manual leaves open (log 6). -/
opaque freeWord : Nat → Word
/-- Whether EXP2 (false) or LOG2 (true) of a value of a source format, delivered in a format, is the upper of the
two bracketing values (07:R207, log 12). -/
opaque upper : Bool → Nat → Val → Nat → Bool
/-- Whether a fused multiply-add of zero and infinity with a quiet NaN raises invalid, which IEEE 754-2019 7.2 leaves
open (log 16). -/
opaque fmaInvalid : Bool
/-- Whether FTOI of a value that is not an integer raises inexact: IEEE 754-2019 5.8 has both operations (09:R265,
log 27). -/
opaque ftoiInexact : Bool
/-- The bytes of a decimal or hexadecimal text longer than 32 characters (07:R206, log 17). -/
opaque longText : List Byte → Nat → Byte
/-- The exponent written with the hexadecimal text of a zero of a format (07:R206, log 17). -/
opaque hexZeroExp : Nat → Int
/-- Whether a decimal text of one digit keeps its point (07:R206, log 17). -/
opaque oneDigitPoint : Bool

/-- Whether a gathered source byte is read as its descriptor has written it already (07:R202, log 24): by draw, part of
the result and physical address. -/
opaque seesNew : Nat → Nat → Nat → Bool

/-- Which of the rows mapped to one stored line a 64-byte unit of it ends with (05:R143, 07:R220, log 26): by draw,
stored line and unit. -/
opaque rowOf : Nat → Nat → Nat → Nat

/-- The control core that alone a sensor, ring-oscillator site or path-delay replica stands at, by entry and sub-index: the
manual names no site (13:R366, log 40). -/
opaque sensorCore : Nat → Nat → Option (Fin 8)

/-- The junction site whose temperature normalises a ring-oscillator site's count: the manual names none (14:R413, log 21). -/
opaque roJunction : Nat → Fin 16

end Sys2Proof.Config
end

