-- ==== Sys2Proof/Machine/State.lean ====
section
/-! DEFINITION. The state of Waxia as plain data: everything the manual gives the block, and its reset. -/

namespace Sys2Proof.Machine

/-- Why the model stops. -/
inductive Fault where
  /-- A register write that changes a bit of access type KEEP (00:R16): the manual does not define the outcome.
  Raised by the write of GEN_TESTCTL, whoever makes it. Safe: the model stops where the hardware may go on. -/
  | keepBitChanged
  /-- A write into the test range while it is enabled (01:R37): the manual gives its registers no map and no effect.
  Raised by a register write of the host window or of Snowdrop. Safe: the model stops where the hardware may go on. -/
  | testRange
  deriving DecidableEq, Repr

/-- A command without a meaning. -/
inductive Refusal where
  /-- The command has no meaning in the model yet. Raised by an arm of exec only. Safe: nothing is claimed of it. -/
  | notModelled (mnemonic : String)
  deriving DecidableEq, Repr

/-- Block states (01:R24). -/
inductive BlockState where
  | boot | config | run | hold | service | fault
  deriving DecidableEq, Repr, Inhabited

/-- BOOT phases B1 to B5, or none (16:R440). -/
inductive BootPhase where
  | none | b1 | b2 | b3 | b4 | b5
  deriving DecidableEq, Repr, Inhabited

/-- An SQC status register (00:R17): SEQ and the event bits; the stamp is the model's own: one more than the f-cycle
in which SEQ last rose, so that SEQ rises once in an f-cycle. -/
structure Sqc where
  seq    : BitVec 16
  status : BitVec 48
  stamp  : Word
  deriving DecidableEq, Repr, Inhabited

/-- Resets, power, BOOT and the block state. -/
structure Ctl where
  /-- power-on reset asserted -/
  por         : Bool
  /-- warm reset asserted -/
  wres        : Bool
  pgood       : BitVec 4
  phase       : BootPhase
  /-- this BOOT follows a warm reset -/
  warmBoot    : Bool
  /-- a BOOT since the last power-on reset has completed phase B3 (15:R422) -/
  b3Done      : Bool
  state       : BlockState
  /-- detections lost at a warm reset, counted in FAULT_LOST at its release (14:R399) -/
  lostAtReset : Nat
  fwUp        : Bool
  /-- Snowdrop's firmware restarts after an uncorrectable error (14:R390) -/
  fwRestart   : Bool
  fcycles     : Word
  /-- HOLD was quiet when last looked at (event line 3, 11:R317) -/
  quietSeen   : Bool
  /-- how far the f-cycle has gone in the order of its happenings (the model's own, log 1) -/
  place       : Nat
  /-- the model's counter of free values (log 6) -/
  free        : Nat
  deriving DecidableEq, Repr, Inhabited

/-- How a state request was made (13:R371). -/
inductive ReqPath where
  | register | chain | mailbox
  deriving DecidableEq, Repr, Inhabited

/-- The GEN region (13:R384). -/
structure Gen where
  reqStaged : BitVec 3
  reqActive : BitVec 3
  reqPath   : ReqPath
  reqResult : Byte
  applyAt   : Word
  armed     : Bool
  extEn     : Bool
  status    : Sqc
  sqmiss    : Word
  applies   : Word
  testctl   : BitVec 32
  /-- offsets with a parity mismatch, oldest first; a staged copy at its +0x8000 address (13:R388) -/
  parity    : List (BitVec 26)
  /-- offsets whose mismatch record has been written -/
  parityRec : List (BitVec 26)
  /-- offsets whose copy mismatches and has not been found yet (13:R388) -/
  latent    : List (BitVec 26)
  /-- GEN_APPLY.NOW asks for an edge in the next f-cycle; an edge has been taken in this one (13:R386, R387) -/
  now       : Bool
  edged     : Bool
  deriving DecidableEq, Repr, Inhabited

/-- A fuse programming that Snowdrop has asked for (15:R435). -/
structure FuseProg where
  word  : Nat
  bits  : BitVec 32
  tries : Nat
  deriving DecidableEq, Repr, Inhabited

/-- The fuse words as Snowdrop has read them, and its requests (15:R435). -/
structure Fuses where
  words : Vector (BitVec 32) 1024
  next  : Nat
  prog  : List FuseProg
  deriving DecidableEq, Repr, Inhabited

/-- A fault record (14:R395); PHASE is added when it is written. -/
structure FRec where
  event  : BitVec 16
  cls    : Byte
  avalid : Bool
  source : BitVec 16
  detail : BitVec 16
  beat   : Word
  info0  : Word
  info1  : Word
  deriving DecidableEq, Repr, Inhabited

/-- The fault ring and its pointers (14:R393 to R399). -/
structure FaultLog where
  /-- records detected and not yet written, with the f-cycle of detection -/
  detected : List (Word × FRec)
  ring     : Vector (Vector Word 4) 256
  wr       : BitVec 32
  ack      : BitVec 32
  total    : Word
  lost     : Word
  status   : Sqc
  evRec    : Bool
  evFatal  : Bool
  deriving DecidableEq, Repr, Inhabited

/-- The timebase unit (06:R185). -/
structure Beat where
  value  : Word
  status : Sqc
  misses : Word
  /-- a load took effect in this f-cycle, so a tick adds nothing (15:R432) -/
  loaded : Bool
  /-- event code and unit of the records already written in this beat (08:R234, 13:R374) -/
  marks  : List (BitVec 16 × Nat)
  deriving DecidableEq, Repr, Inhabited

/-- The kind of a flag update (06:R182). -/
inductive FlagOp where
  | set (v : BitVec 32)
  | cas (old new : BitVec 32)
  | add (v : BitVec 32)
  deriving DecidableEq, Repr

/-- The source order of flag updates within an f-cycle (06:R182): host window 0, CC0 to CC7 1 to 8,
descriptor signals 9 + queue, inbound 41. -/
structure FlagUpd where
  order : Nat
  flag  : Nat
  op    : FlagOp
  deriving DecidableEq, Repr

/-- The flag store (06:R181): the values at the start of the f-cycle, its updates so far, and the on-start signals
that take effect in the next f-cycle (06:R159). -/
structure Flags where
  base : Vector (BitVec 32) 4096
  upds : List FlagUpd
  next : List FlagUpd
  deriving DecidableEq, Repr, Inhabited

/-- How a descriptor has ended (06:R176). -/
structure Ended where
  event  : BitVec 16
  detail : BitVec 16
  opnd   : Byte
  info   : Word
  nonfin : Bool
  deriving DecidableEq, Repr, Inhabited

/-- One segment of an activation table (04:R122). -/
structure ActSeg where
  linear : Bool
  b      : BitVec 32
  c0     : BitVec 32
  c1     : BitVec 32
  c2     : BitVec 32
  c3     : BitVec 32
  deriving DecidableEq, Repr, Inhabited

/-- An activation table of 64 segments. -/
abbrev ActTable := Vector ActSeg 64

/-- A write of an engine that it has computed and not yet performed: the operand part and the virtual address it is
named by, whether it goes through the block cache (12:R352), and its bytes at physical addresses. -/
structure EngWrite where
  part    : Byte
  va      : BitVec 48
  through : Bool
  cells   : List Host.Cell
  deriving DecidableEq, Repr, Inhabited

/-- A started descriptor that has not completed (06:R171). -/
structure InFlight where
  idx      : BitVec 32
  desc     : Desc
  /-- rounding configuration latched at the start (02:R62) -/
  seed     : Word
  w        : BitVec 5
  fast     : Bool
  /-- writes computed and not yet performed, in order -/
  writes   : List EngWrite
  /-- the writes have been performed or posted to the ports -/
  posted   : Bool
  /-- exception flags raised by the elements so far (02:R66) -/
  exc      : BitVec 5
  /-- destination elements (or bytes) that the engine counts when it writes -/
  count    : Nat
  attempts : Nat
  replayed : Bool
  /-- VE slices in which its attempts have failed (14:R404) -/
  slices   : List Nat
  /-- its deadline miss was detected (06:R186) -/
  missed   : Bool
  /-- an RME descriptor: its latched TMO, and the beat by which it is acknowledged once it has sent (08:R253) -/
  tmo      : Nat
  limit    : Option Nat
  /-- mailbox entry of a CCM_POST -/
  entry    : Option Nat
  /-- the programmable table, with its values, that a VE_ACT descriptor uses (04:R119, 07:R207) -/
  actTab   : Option (Nat × ActTable)
  /-- the drain profile latched at the start of an OPA descriptor (04:R119) -/
  prof     : BitVec 17
  /-- the event with which its engine will finish, found in what it has read (07:R214) -/
  verdict  : Option Ended
  /-- the event or success with which its engine has finished -/
  ended    : Option Ended
  deriving DecidableEq, Repr, Inhabited

/-- The fetched head of a queue (06:R168). -/
structure Fetched where
  idx     : BitVec 32
  desc    : Desc
  /-- the fetch-time event, or the detected deadline miss, with which it completes -/
  event   : Option Ended
  /-- its predicate test has passed (05:R145) -/
  tested  : Bool
  /-- its barrier is in force (06:R174) -/
  barrier : Bool
  deriving DecidableEq, Repr, Inhabited

/-- A ring slot as the queue has read it: the descriptor's bytes, or the event with which the read failed (06:R168). -/
structure Slot where
  idx   : BitVec 32
  fail  : Option Ended
  desc  : Desc
  deriving DecidableEq, Repr, Inhabited

/-- A descriptor queue (06:R148 to R180). -/
structure Queue where
  ctx        : BitVec 16
  inst       : Byte
  cls        : BitVec 4
  log2size   : BitVec 5
  enable     : Bool
  rbase      : BitVec 48
  cbase      : BitVec 48
  tail       : BitVec 32
  head       : BitVec 32
  done       : BitVec 32
  status     : Sqc
  haltEvent  : BitVec 16
  haltDetail : BitVec 16
  haltIndex  : BitVec 32
  seed       : Word
  w          : BitVec 5
  fast       : Bool
  barmask    : BitVec 32
  halted     : Bool
  halting    : Bool
  fetched    : Option Fetched
  /-- slots read ahead of the head, at most 8 (06:R168) -/
  ahead      : List Slot
  inflight   : List InFlight
  /-- indices of rolled-back descriptors whose on-start signal was performed and stands (06:R177) -/
  signalled  : List (BitVec 32)
  /-- EV_NOTIFY of this f-cycle (15:R434), and whether the queue has set HALT in it (11:R317) -/
  evNotify   : Bool
  evHalt     : Bool
  deriving DecidableEq, Repr, Inhabited

/-- States of an accumulator set (04:R102). -/
inductive SetState where
  | free | accum | settle | held | drain
  deriving DecidableEq, Repr, Inhabited

/-- The accumulator registers of one output: row and column in the pass, sum (or value) and error register. -/
structure AccReg where
  row : Nat
  col : Nat
  hi  : BitVec 32
  lo  : BitVec 32
  deriving DecidableEq, Repr, Inhabited

/-- A set of a group: its state, its registers that are not zero, and the extent and origin of its pass. -/
structure AccSet where
  st   : SetState
  regs : List AccReg
  r0   : Nat
  c0   : Nat
  rows : Nat
  cols : Nat
  /-- the queue and index of the descriptor whose pass it holds -/
  owner : Option (Nat × BitVec 32)
  /-- the next cube row to leave the array while draining -/
  cubeRow : Nat
  /-- a parity error while the set was held: the cube's row and column, and whether it lies outside any column group
  (14:R402) -/
  bad  : Option (BitVec 8 × BitVec 8 × Bool)
  /-- number of the pass in its descriptor, its attempt, and the column group of the previous attempt's miss (14:R402,
  R404) -/
  pass : Nat
  attempt : Nat
  lastMiss : Option Nat
  /-- of its steps so far, each once: the cube rows, and the logical cube columns, that took a NaN or infinite factor and
  so did not check the step (14:R391) -/
  blind : List (List Nat × List Nat)
  deriving DecidableEq, Repr, Inhabited

/-- An open tile (04:R100). -/
structure OpenTile where
  m     : Nat
  n     : Nat
  nextK : Nat
  deriving DecidableEq, Repr, Inhabited

/-- A group: two sets, the open tile, and which set holds it (false X, true Y). -/
structure Group where
  x     : AccSet
  y     : AccSet
  tile  : Option OpenTile
  inY   : Bool
  deriving DecidableEq, Repr, Inhabited

/-- An element that has been drained and written: its logical position, value, whether it is zero or code 0, and
whether it is non-finite (04:R127). -/
structure OutElem where
  row  : Nat
  col  : Nat
  v    : Val
  zero : Bool
  nonfin : Bool
  deriving DecidableEq, Repr, Inhabited

/-- A drained value before step 4, kept for its scale block (04:R113). -/
structure ZElem where
  row : Nat
  col : Nat
  v   : Val
  deriving DecidableEq, Repr, Inhabited

/-- Element positions of a rectangle of rows [ia, ib) and columns [ja, jb). -/
structure Rect where
  ia : Nat
  ib : Nat
  ja : Nat
  jb : Nat
  deriving DecidableEq, Repr, Inhabited

/-- A step as the feeders hold it (03:R70): its position, the positions skipped before it and, behind the last one that
issues, after it, where the pass goes on, and the factors of each row of A and column of B, which a step of zeros
(05:R133) does not have. -/
structure FeedStep where
  pos  : Nat
  skip : Nat
  next : Option Nat
  zero : Bool
  a    : List (List (Option Val))
  b    : List (List (Option Val))
  deriving DecidableEq, Repr, Inhabited

/-- A started OPA descriptor and its progress through the fold (03:R87). -/
structure OpaJob where
  q       : Fin 32
  idx     : BitVec 32
  desc    : Desc
  ctx     : BitVec 16
  seed    : Word
  w       : BitVec 5
  fast    : Bool
  m       : Nat
  n       : Nat
  k       : Nat
  /-- drain-only descriptor -/
  only    : Bool
  /-- profile and table latched at the start (04:R119) -/
  prof    : BitVec 17
  tab     : ActTable
  /-- fold position: the pass being issued, its next step position, whether it has begun, the steps that it has
  issued, its column groups and its number -/
  r0      : Nat
  c0      : Nat
  s       : Nat
  begun   : Bool
  issued  : Nat
  groups  : List Nat
  passNo  : Nat
  /-- the steps of the pass that the feeders hold, oldest first, at most 64 (03:R70) -/
  feed    : List FeedStep
  /-- every pass has issued its last step -/
  done    : Bool
  /-- attempt of the pass, the column group of the previous attempt's miss, whether a restart is due -/
  attempt : Nat
  lastMiss : Option Nat
  restart : Bool
  replayed : Bool
  /-- set of the pass being issued (false X, true Y) -/
  setY    : Bool
  /-- passes that have drained, and their outputs (04:R103) -/
  drained : Nat
  passes  : List Rect
  /-- the event with which it ends once the set that it is draining has drained (04:R103) -/
  fail    : Option Ended
  /-- scale and bias vectors read at the start -/
  scale   : List (BitVec 32)
  bias    : List (BitVec 32)
  /-- index lists read at the start -/
  listA   : List (BitVec 32)
  listB   : List (BitVec 32)
  listC   : List (BitVec 32)
  zbuf    : List ZElem
  outv    : List OutElem
  exc     : BitVec 5
  deriving DecidableEq, Repr, Inhabited

/-- The activity of a partition (03:R92, R94): issuing at full rate, in a gap of at most 5,600 a-cycles, in a longer
gap, or ramping. -/
inductive Activity where
  | full | shortGap | longGap | ramp
  deriving DecidableEq, Repr, Inhabited

/-- An OPA instance. -/
structure OpaInst where
  fmt      : BitVec 2
  groups   : Vector Group 4
  jobs     : List OpaJob
  lambda   : Nat
  activity : Activity
  /-- a-cycles until the last step of another pass may issue (03:R91) -/
  interval : Nat
  lastQ    : Nat
  deriving DecidableEq, Repr, Inhabited

/-- OPA_NFPOS_n (04:R128). -/
structure NfPos where
  count : BitVec 25
  group : BitVec 2
  valid : Bool
  row   : BitVec 12
  col   : BitVec 12
  deriving DecidableEq, Repr, Inhabited

/-- The outer-product array (03, 04). -/
structure Opa where
  pmode       : BitVec 3
  pmodeStaged : BitVec 3
  fill        : BitVec 5
  fillStaged  : BitVec 5
  bandmap     : Vector (BitVec 4) 16
  /-- groups out of service that have not yet left their band (03:R76) -/
  leaving     : List (Fin 16)
  mstatus     : Sqc
  dstatus     : Sqc
  steps       : Vector Word 16
  skip        : Vector Word 16
  starve      : Vector Word 16
  drainwait   : Vector Word 16
  nfpos       : Vector NfPos 16
  dprof       : Vector (BitVec 17) 16
  dprofStaged : Vector (BitVec 17) 16
  act         : Vector ActTable 8
  actStaged   : Vector ActTable 8
  inst        : Vector OpaInst 16
  deriving DecidableEq, Repr, Inhabited

/-- Who waits for a memory-port request (08:R233, R235). -/
inductive Waiter where
  | engine (q : Fin 32) (idx : BitVec 32) (opnd : Byte) (va : BitVec 48)
  | coreStore (c : Fin 8)
  | hostWrite
  | writeBack
  /-- an accepted inbound operation, by its number -/
  | inbound (n : Nat)
  /-- a command that is sent again until its reads are answered, by the place of its requester (log 9) -/
  | command (k : Nat)
  deriving DecidableEq, Repr

/-- A request of a memory port for one 64-byte unit (15:R425): the unit is PA / 64; of a write, the enabled bytes as
they stood before it. -/
structure PortReq where
  port   : Nat
  tag    : BitVec 10
  unit   : Nat
  write  : Bool
  waiter : Waiter
  old    : List Host.Cell
  deriving DecidableEq, Repr

/-- The memory ports (08:R230 to R235, 15:R425). -/
structure Memp where
  ilv     : BitVec 3
  status  : Sqc
  ce      : Vector Word 16
  ue      : Vector Word 16
  rbytes  : Vector Word 16
  wbytes  : Vector Word 16
  credits : Vector Nat 16
  waiting : List PortReq
  out     : List PortReq
  /-- port and tag of requests that timed out and are not yet answered (15:R426) -/
  dead    : List (Nat × BitVec 10)
  /-- units whose last read was answered UNCORRECTABLE or CORRECTED (log 9) -/
  ueUnits  : List Nat
  ceUnits  : List Nat
  /-- answered reads of requesters that wait: requester, unit, status (log 9) -/
  got      : List (Nat × Nat × ReadStat)
  /-- units that the last command read at a port without an answer of theirs (log 9) -/
  asks     : List Nat
  deriving DecidableEq, Repr, Inhabited

/-- A spare-bank copy in progress (08:R238): the spare, the logical bank, whether it runs back to the bank, and whether the bank is being retired. -/
structure SpareCopy where
  spare  : Fin 4
  bank   : Fin 128
  back   : Bool
  retire : Bool
  deriving DecidableEq, Repr

/-- Stage memory (08:R236 to R239). -/
structure Stage where
  spare    : Vector (Option (Fin 128)) 4
  spareBad : Vector Bool 4
  copy     : Option SpareCopy
  /-- banks whose copy to their spare has ended and whose sub-state is still to take effect (14:R411) -/
  copied   : List Nat
  ceLast   : Byte
  ceCount  : BitVec 56
  ueLast   : Byte
  ueCount  : BitVec 56
  /-- 32-byte words whose code finds an error that it corrects, and those whose code is uncorrectable (08:R234, R236) -/
  ceWords  : List Nat
  ueWords  : List Nat
  /-- corrected words per logical bank in the current window (14:R404) -/
  ceWindow : List (Nat × Nat)
  deriving DecidableEq, Repr, Inhabited

/-- A held translation (12:R343): context, virtual base and level of the page, physical base, and the leaf's bits. -/
structure TlbEntry where
  ctx   : BitVec 16
  vbase : Nat
  level : Nat
  pbase : Nat
  leaf  : Word
  deriving DecidableEq, Repr, Inhabited

/-- A held table pointer (12:R343): context, the level of the table it points to, the virtual prefix, the entry. -/
structure WalkEntry where
  ctx    : BitVec 16
  level  : Nat
  prefix_ : Nat
  entry  : Word
  deriving DecidableEq, Repr, Inhabited

/-- An invalidation that XLAT_INV has started (12:R348). -/
structure Inval where
  ctx     : BitVec 16
  va      : BitVec 48
  variant : BitVec 3
  deriving DecidableEq, Repr, Inhabited

/-- Translation shared by the block (12). -/
structure Xlat where
  basePA   : BitVec 40
  baseAttr : BitVec 3
  baseV    : Bool
  inv      : Option Inval
  status   : Sqc
  walks    : Word
  tlb      : List TlbEntry
  walker   : List WalkEntry
  ctxCache : List (BitVec 16 × Word)
  deriving DecidableEq, Repr, Inhabited

/-- A line of the block cache (12:R351): its number PA / 128, its way, dirty and bad marks, and, of a dirty line,
the bytes that memory behind it holds. -/
structure BcLine where
  line  : Nat
  way   : Fin 16
  dirty : Bool
  bad   : Bool
  under : List Byte
  deriving DecidableEq, Repr, Inhabited

/-- The block cache (12:R351 to R358). -/
structure Bc where
  lock     : BitVec 16
  fillmask : BitVec 16
  off      : BitVec 16
  busy     : BitVec 16
  down     : BitVec 16
  disabled : BitVec 16
  lines    : List BcLine
  victim   : List Nat
  window   : BitVec 32
  limit    : BitVec 16
  ce       : Vector Word 16
  ceWin    : Vector Nat 16
  winBeat  : Word
  status   : Sqc
  plBase   : BitVec 45
  /-- PA / 128 from which the preload in progress runs -/
  plFrom   : BitVec 45
  plLen    : BitVec 32
  plBusy   : Bool
  hits     : Word
  misses   : Word
  deriving DecidableEq, Repr, Inhabited

/-- What an outbound request asks, and the local bytes that its answer fills (15:R428, 08:R252). -/
inductive OutKind where
  | put
  | get (dest : List EngWrite)
  | flag
  | aadd
  | old (dest : List EngWrite)
  | signal (flag : Nat)
  deriving DecidableEq, Repr

/-- An outbound request that is unanswered: its queue and descriptor, and the virtual address it fails with. -/
structure OutReq where
  txid  : BitVec 32
  node  : BitVec 16
  q     : Fin 32
  idx   : BitVec 32
  kind  : OutKind
  va    : Nat
  /-- beat by which a remote signal is acknowledged -/
  limit : Nat
  deriving DecidableEq, Repr

/-- A packet of the outbound stream, with its REASON (15:R427). -/
structure TxPacket where
  op     : Byte
  hdr    : Packet
  reason : BitVec 16
  deriving DecidableEq, Repr

/-- A remote flag update held back by 08:R251: the requests of earlier writes it waits for. -/
structure HeldUpdate where
  pkt   : TxPacket
  req   : OutReq
  after : List (BitVec 32)
  deriving DecidableEq, Repr

/-- An inbound operation that waits for a memory port: its number, requester and transaction, and its answer
(08:R247, 15:R428). -/
structure Inbound where
  n     : Nat
  src   : BitVec 16
  txid  : BitVec 32
  op    : Byte
  data  : List Byte
  /-- payload bytes that it has brought -/
  bytes : Nat
  deriving DecidableEq, Repr

/-- An inbound aperture (08:R248). -/
structure Aperture where
  w        : Bool
  rd       : Bool
  log2size : BitVec 6
  base     : BitVec 20
  deriving DecidableEq, Repr, Inhabited

/-- A window-table entry (08:R246). -/
structure Window where
  valid : Bool
  node  : BitVec 16
  deriving DecidableEq, Repr, Inhabited

/-- The remote memory engine (08:R245 to R254, 15:R427 to R429). -/
structure Rme where
  flagin   : Bool
  self     : BitVec 16
  tmo      : BitVec 16
  status   : Sqc
  outbytes : Word
  inbytes  : Word
  refusals : Word
  inb      : Vector Aperture 8
  win      : Vector Window 2048
  txid     : BitVec 32
  out      : List OutReq
  held     : List HeldUpdate
  /-- writes that have left for their target, of descriptors whose engine has ended: they hold later flag updates back
  (08:R251) -/
  linger   : List OutReq
  /-- packets of requests whose local bytes are still being read -/
  unsent   : List TxPacket
  /-- inbound atomics, and their operations, that wait for the answer of a read at a port -/
  inHeld   : List (Byte × Packet)
  /-- inbound operations that wait for a memory port, and the next one's number -/
  inq      : List Inbound
  inNext   : Nat
  /-- requests whose descriptor or signal has ended; their answers are discarded (08:R253) -/
  stale    : List (BitVec 32)
  /-- the stream's packets, the bytes of the first that have left, the bytes that the credits cover, and the bytes that
  have left in this f-cycle (15:R427) -/
  txq      : List TxPacket
  txOff    : Nat
  txRoom   : Nat
  tx       : List Byte
  /-- bytes taken of the inbound stream's beat in progress, and the beats taken whole in this f-cycle (15:R427) -/
  rxOff    : Nat
  rxCred   : Nat
  deriving DecidableEq, Repr, Inhabited

/-- A unit transition in progress (13:R365). -/
inductive Trans where
  | entering | leaving | retiring
  deriving DecidableEq, Repr

/-- SERVICE sub-states, retirement and unit tests (01:R31, 14:R404 to R412). -/
structure Svc where
  cg   : BitVec 16
  cc   : BitVec 8
  ve   : BitVec 8
  way  : BitVec 16
  bank : BitVec 128
  retCG   : BitVec 16
  retCC   : BitVec 8
  retVE   : BitVec 8
  retBank : BitVec 128
  /-- ways retired by UNIT_CMD; the retirement map has no place for them (15:R437) -/
  retWay  : BitVec 16
  trans   : List (BitVec 16 × Trans)
  /-- units whose test has ended, and whether it passed -/
  tested  : List (BitVec 16 × Bool)
  testUnit   : BitVec 16
  testResult : Byte
  testDetail : BitVec 32
  unitCmd    : BitVec 32
  auto     : Byte
  cgLimit  : BitVec 16
  cgWindow : BitVec 32
  veLimit  : BitVec 16
  smLimit  : BitVec 32
  cgCount  : Vector (BitVec 16) 16
  veCount  : Vector Nat 8
  deriving DecidableEq, Repr, Inhabited

/-- Task states (11:R314). -/
inductive TaskState where
  | invalid | dormant | ready | running | preempted | waiting | runnable | faulted
  deriving DecidableEq, Repr, Inhabited

/-- A task-table entry (11:R316) with its cause word and, for a task that is not in its bank, where its registers are. -/
structure Task where
  st     : TaskState
  armed  : Bool
  pend   : Bool
  src    : BitVec 4
  level  : Fin 8
  sparam : BitVec 12
  smode  : BitVec 4
  value  : Word
  entry  : BitVec 46
  save   : BitVec 39
  cause  : BitVec 4
  /-- its registers are in its save area -/
  spilled : Bool
  /-- its save area holds its tile state -/
  tilesSaved : Bool
  /-- the address of the first failed row whose fault it has not taken (10:R302) -/
  rowFault : Option (BitVec 48)
  deriving DecidableEq, Repr, Inhabited

/-- Condition state (09:R257). -/
abbrev CS := BitVec 13

/-- A register bank (11:R313). -/
structure Bank where
  g      : Vector Word 32
  pc     : BitVec 48
  cs     : CS
  occ    : Option Byte
  dirty  : BitVec 4
  /-- registers, by number, whose parity is bad (14:R390) -/
  bad    : BitVec 32
  deriving DecidableEq, Repr, Inhabited

/-- A fault record of a level (09:R280). -/
structure CoreFault where
  valid : Bool
  ovf   : Bool
  task  : Byte
  half  : BitVec 2
  event : BitVec 16
  addr  : BitVec 48
  pc    : BitVec 48
  deriving DecidableEq, Repr, Inhabited

/-- CTL_TCFG (10:R309). -/
structure Tcfg where
  seed : BitVec 32
  cvtl : Byte
  w    : BitVec 5
  rnd  : BitVec 3
  deriving DecidableEq, Repr, Inhabited

/-- A store-buffer entry (09:R275): virtual and physical address, its bytes, and the page's attribute. -/
structure SbEntry where
  va    : Nat
  pa    : Nat
  bytes : List Byte
  attr  : BitVec 3
  /-- its parity is bad (14:R390) -/
  bad   : Bool
  deriving DecidableEq, Repr, Inhabited

/-- The shape and format of a tile register (10:R287): rows, bytes per row, element format code. -/
structure Tag where
  rows : Nat
  rb   : Nat
  fmt  : BitVec 4
  deriving DecidableEq, Repr, Inhabited

/-- A tile register: tag, in-use flag, and its bytes that are not zero (offset 64 × row + byte). -/
structure Tile where
  tag   : Option Tag
  inUse : Bool
  bytes : List Host.Cell
  /-- rows whose parity is bad (14:R390) -/
  bad   : BitVec 32
  deriving DecidableEq, Repr, Inhabited

/-- A reuse latch (10:R307). -/
structure Latch where
  reg   : Nat
  tag   : Tag
  bytes : List Host.Cell
  /-- its parity is bad (14:R390) -/
  bad   : Bool
  deriving DecidableEq, Repr, Inhabited

/-- The deferred row-fault status (10:R302). -/
structure RowFault where
  valid   : Bool
  more    : Bool
  store   : Bool
  tile    : BitVec 4
  row     : BitVec 5
  pc      : BitVec 48
  deriving DecidableEq, Repr, Inhabited

/-- The part of a row in one line: physical address, length, page attribute. -/
structure RowPiece where
  pa   : Nat
  len  : Nat
  attr : BitVec 3
  deriving DecidableEq, Repr, Inhabited

/-- A row of a tile load or store that is still to be performed (10:R298): its parts by line, and, for a store, the
bytes. -/
structure RowOp where
  store : Bool
  tile  : BitVec 4
  row   : Nat
  va    : Nat
  pieces : List RowPiece
  bytes : List Byte
  /-- the load converts: memory format code, element format code, salt and configuration -/
  conv  : Option (Byte × BitVec 4 × Word × Tcfg)
  rb    : Nat
  task  : Byte
  pc    : BitVec 48
  deriving DecidableEq, Repr, Inhabited

/-- What a transfer unit moves (11:R326). -/
inductive UnitKind where
  | spillH | spillGroup (g : Fin 4) | fillH | fillGroup (g : Fin 4)
  | saveHead (second : Bool) | saveTile (t : Fin 12) (u : Fin 32)
  | restoreHead (second : Bool) | restoreTile (t : Fin 12) (u : Fin 32)
  deriving DecidableEq, Repr

/-- A pending transfer unit: what it moves, for which task, and for a spill the 64 bytes as they stood. -/
structure XferUnit where
  kind : UnitKind
  task : Byte
  level : Fin 8
  bytes : List Byte
  deriving DecidableEq, Repr

/-- CTL_SPILLF0 and CTL_SPILLF1 (11:R330). -/
structure SpillFault where
  valid : Bool
  kind  : BitVec 2
  task  : Byte
  unit  : BitVec 9
  event : BitVec 16
  va    : BitVec 48
  deriving DecidableEq, Repr, Inhabited

/-- A mailbox entry (11:R333). -/
structure MbxEntry where
  valid : Bool
  queue : Fin 32
  task  : Byte
  index : BitVec 32
  tag   : BitVec 32
  arg   : Word
  deriving DecidableEq, Repr, Inhabited

/-- A control core (09, 10, 11). -/
structure Core where
  halted   : Bool
  banks    : Vector Bank 8
  tasks    : Vector Task 256
  running  : Option Byte
  /-- the task of a switch that is delivered and not taken yet, and the task that it stops -/
  switchTo : Option Byte
  outgoing : Option Byte
  /-- the running task has committed nothing since it was switched in (10:R302) -/
  resumed  : Bool
  tsel     : Vector Byte 8
  winsel   : Byte
  bankwin  : Fin 8
  alchk    : Bool
  ctx      : BitVec 16
  ttb      : Word
  tcfg     : Tcfg
  /-- CRWs to sync-required registers that wait for a CSYNC, oldest first (09:R282) -/
  held     : List (BitVec 12 × Word)
  cycle    : Word
  instret  : Word
  frec     : Vector CoreFault 7
  schstat  : Sqc
  spillf   : SpillFault
  switches : BitVec 63
  mbx      : Vector MbxEntry 16
  sb       : List SbEntry
  /-- the address of a store that has left the store buffer with bad parity, unwritten: the next instruction takes
  CC_PARITY (14:R390, log 60) -/
  lost     : Option (BitVec 48)
  /-- lines that the L1 data cache holds: PA / 128 -/
  l1d      : List Nat
  /-- lines that have left it with a dirty word that could not be corrected, and whose consuming load is still to come
  (14:R390, log 60) -/
  l1bad    : List Nat
  l1tlb    : List TlbEntry
  tiles    : Vector Tile 12
  latchS   : Option Latch
  latchT   : Option Latch
  rowFault : RowFault
  rows     : List RowOp
  tileOwner : Option Byte
  xq       : List XferUnit
  /-- the unit that stopped the transfer engine, and the unit with which RETRY resumed it (11:R328) -/
  xstop    : Option XferUnit
  xfirst   : Option XferUnit
  /-- levels and parts (0 unit H, 1 + g group g, 5 tile state) for which an issued instruction waits (11:R326) -/
  wants    : List (Nat × Nat)
  deriving DecidableEq, Repr, Inhabited

/-- A management request in progress in the mailbox (13:R381). -/
structure MboxReq where
  ty  : Byte
  seq : Byte
  payload : List Byte
  deriving DecidableEq, Repr, Inhabited

/-- The host mailbox (13:R380). -/
structure Mbox where
  req    : Vector Word 130
  resp   : Vector Word 129
  status : Sqc
  rlen   : BitVec 16
  rseq   : Byte
  busy   : Bool
  cmd    : Option MboxReq
  /-- the response that Snowdrop has computed for it -/
  ready  : Option (List Byte)
  evMbox : Bool
  deriving DecidableEq, Repr, Inhabited

/-- A frame of the chain (13:R375). -/
structure Frame where
  ty   : Byte
  dest : BitVec 12
  src  : BitVec 12
  seq  : Byte
  payload : List Byte
  crc  : BitVec 32
  deriving DecidableEq, Repr

/-- The last chain response and the request that produced it (13:R378). -/
structure LastResp where
  src  : BitVec 12
  seq  : Byte
  ty   : Byte
  crc  : BitVec 32
  /-- the frame bytes of the response -/
  frame : List Byte
  deriving DecidableEq, Repr

/-- The object dictionary's own entries, keys and the chain (13). -/
structure Mg where
  nodeAddr  : BitVec 16
  chainPos  : BitVec 16
  regOffset : BitVec 32
  testmode  : BitVec 32
  imgOffset : BitVec 32
  img       : List Host.Cell
  imgLen    : Nat
  /-- the digest of the committed image -/
  imgDigest : List Byte
  imgState  : Byte
  /-- bytes 0 to 3 of the committed image, and the version of the firmware that runs (13:R363) -/
  imgVersion : BitVec 32
  fwVersion : BitVec 32
  fwSource  : Byte
  keys      : Vector (Option (BitVec 128)) 4
  counters  : Vector (BitVec 32) 4
  exhausted : Vector Bool 4
  nonce     : Word
  mgAuth    : BitVec 32
  mgReplay  : BitVec 32
  mgState   : BitVec 32
  crcErr    : BitVec 32
  discard   : BitVec 32
  suppressed : BitVec 32
  lastResp  : Option LastResp
  /-- the chain request that Snowdrop holds behind an earlier mailbox request (13:R359) -/
  chainReq  : Option Frame
  /-- the frame bytes that the chain output has carried in this f-cycle, by frame (13:R375) -/
  chainOut  : List (List Byte)
  avail     : Word
  unavail   : Word
  excluded  : Word
  window    : Byte
  recovery  : Byte
  deriving DecidableEq, Repr, Inhabited

/-- The hold of an array clock step (14:R415, 15:R421). -/
inductive ClockHold where
  | none
  /-- issue is held and the pipelines empty; the code to be driven -/
  | emptying (code : BitVec 2)
  /-- ACLK_SEL is driven and ACLK_CUR does not match yet -/
  | waiting
  /-- ACLK_CUR matches; 16 f-cycles run -/
  | resuming
  /-- ACLK_CUR changed while ACLK_SEL did not -/
  | mismatch
  deriving DecidableEq, Repr, Inhabited

/-- Sensors, ageing monitors and margins (14:R413 to R415). -/
structure Sens where
  tj      : Vector (BitVec 32) 16
  vdd     : Vector (BitVec 32) 2
  iblk    : BitVec 32
  pblk    : BitVec 32
  ro      : Vector (BitVec 32) 96
  pd      : Vector (BitVec 32) 48
  flagged : BitVec 16
  replan  : BitVec 32
  sample  : BitVec 32
  /-- REPLAN and SAMPLE in effect: a write takes effect at the next beat (13:R364) -/
  replanOn : BitVec 32
  sampleOn : BitVec 32
  vlimit  : BitVec 16
  /-- the clock planned (code of ACLK_SEL) and the voltage target in mV -/
  plan    : BitVec 2
  target  : Nat
  /-- the clocks (bit: code) that had the headroom of a step up at the previous re-plan (14:R414) -/
  headroom : BitVec 3
  /-- a fatal junction temperature has been recorded and has not ended (16:R446) -/
  tripped : Bool
  /-- VREQ has moved in this beat (14:R415) -/
  stepped : Bool
  hold    : ClockHold
  deriving DecidableEq, Repr, Inhabited

/-- A host-window request that waits (15:R430). -/
inductive HostReq where
  | read (tag : BitVec 6) (addr : BitVec 44) (be : BitVec 256)
  | write (addr : BitVec 44) (be : BitVec 256) (data : BitVec 2048)
  deriving DecidableEq, Repr

/-- The boundary (15). -/
structure Bnd where
  aclkSel  : BitVec 2
  aclkCur  : BitVec 2
  vreq     : BitVec 7
  vreqStb  : Bool
  vack     : Bool
  vackHold : Bool
  mgAlive  : Bool
  mgRisen  : Bool
  /-- the chain input carries valid code -/
  chainIn  : Bool
  /-- BOUNDARY, entry 0x3006 (15:R420) -/
  flags    : BitVec 14
  wrstReq  : Bool
  /-- host-window responses: tag and data -/
  hostOut  : List (BitVec 6 × BitVec 2048)
  /-- host-window requests that wait, oldest first: the first for its reads at the ports (13:R388, 15:R430) -/
  hostHeld : List HostReq
  /-- pulses of HW_CRED in this f-cycle: requests taken (15:R430) -/
  hwCred   : Nat
  deriving DecidableEq, Repr, Inhabited

/-- The instruction of the test access port, and the gate segment-insertion bit (15:R438). -/
structure Tap where
  ir   : Byte
  gate : Bool
  deriving DecidableEq, Repr, Inhabited

/-- The round-robin positions of the engines other than OPA (06:R173): the queue each instance took last; and the
instances, by class and number, that have taken a descriptor in this f-cycle. -/
structure Arb where
  null : Nat
  ve   : Nat
  move : Vector Nat 4
  rme  : Nat
  cc   : Vector Nat 8
  taken : List (Nat × Nat)
  deriving DecidableEq, Repr, Inhabited

/-- The state of Waxia. -/
structure State where
  /-- the commands that wait, first in, first out -/
  pending : List Instr
  ctl   : Ctl
  gen   : Gen
  fuses : Fuses
  flt   : FaultLog
  beat  : Beat
  flags : Flags
  dq    : Vector Queue 32
  opa   : Opa
  veElems   : Word
  moveBytes : Vector Word 4
  arb   : Arb
  rme   : Rme
  memp  : Memp
  sm    : Stage
  mem   : List Host.Cell
  xlat  : Xlat
  bc    : Bc
  svc   : Svc
  cores : Vector Core 8
  mbox  : Mbox
  mg    : Mg
  sens  : Sens
  bnd   : Bnd
  tap   : Tap
  deriving DecidableEq, Repr

/-! Reset values: the Reset columns of the register maps, and the values of log 5. -/

/-- An SQC register at reset (00:R17). -/
def Sqc.reset : Sqc := ⟨0, 0, 0⟩

def Ctl.reset : Ctl :=
  { por := false, wres := false, pgood := 0xF, phase := .b1, warmBoot := false, b3Done := false, state := .boot,
    lostAtReset := 0, fwUp := false, fwRestart := false, fcycles := 0, quietSeen := false, place := 0, free := 0 }

def Gen.reset : Gen :=
  { reqStaged := 0, reqActive := 0, reqPath := .register, reqResult := 0, applyAt := 0, armed := false, extEn := true,
    status := .reset, sqmiss := 0, applies := 0, testctl := 0, parity := [], parityRec := [],
    latent := [], now := false, edged := false }

def Fuses.reset : Fuses := { words := .replicate 1024 0, next := 0, prog := [] }

def FaultLog.reset : FaultLog :=
  { detected := [], ring := .replicate 256 (.replicate 4 0), wr := 0, ack := 0, total := 0, lost := 0,
    status := .reset, evRec := false, evFatal := false }

def Beat.reset : Beat := { value := 0, status := .reset, misses := 0, loaded := false, marks := [] }

def Flags.reset : Flags := { base := .replicate 4096 0, upds := [], next := [] }

/-- A queue at reset (06:R149 to R180). -/
def Queue.reset : Queue :=
  { ctx := 0, inst := 0, cls := 0, log2size := 0, enable := false, rbase := 0, cbase := 0, tail := 0, head := 0,
    done := 0, status := .reset, haltEvent := 0, haltDetail := 0, haltIndex := 0, seed := 0, w := 12, fast := false,
    barmask := 0xFFFFFFFF, halted := false, halting := false, fetched := none, ahead := [], inflight := [],
    signalled := [], evNotify := false, evHalt := false }

/-- The reset segment: the identity (04:R122). -/
def ActSeg.reset : ActSeg := { linear := true, b := 0, c0 := 0, c1 := 0x3F800000, c2 := 0, c3 := 0 }

def AccSet.reset : AccSet :=
  { st := .free, regs := [], r0 := 0, c0 := 0, rows := 0, cols := 0, owner := none, cubeRow := 0, bad := none, pass := 0, attempt := 1,
    lastMiss := none, blind := [] }

def Group.reset : Group := { x := .reset, y := .reset, tile := none, inY := false }

/-- An instance at reset: FP32 format (04:R99), level 0 as at the end of a long gap (03:R94), and queue 31 taken
last (06:R173). -/
def OpaInst.reset : OpaInst :=
  { fmt := 0, groups := .replicate 4 .reset, jobs := [], lambda := 0, activity := .longGap, interval := 0, lastQ := 31 }

def NfPos.reset : NfPos := { count := 0, group := 0, valid := false, row := 0, col := 0 }

def Opa.reset : Opa :=
  { pmode := 0, pmodeStaged := 0, fill := 0b01000, fillStaged := 0b01000, bandmap := .replicate 16 0xF, leaving := [],
    mstatus := .reset, dstatus := .reset, steps := .replicate 16 0, skip := .replicate 16 0, starve := .replicate 16 0,
    drainwait := .replicate 16 0, nfpos := .replicate 16 .reset, dprof := .replicate 16 0,
    dprofStaged := .replicate 16 0, act := .replicate 8 (.replicate 64 .reset),
    actStaged := .replicate 8 (.replicate 64 .reset), inst := .replicate 16 .reset }

def Memp.reset : Memp :=
  { ilv := 0b001, status := .reset, ce := .replicate 16 0, ue := .replicate 16 0, rbytes := .replicate 16 0,
    wbytes := .replicate 16 0, credits := .replicate 16 0, waiting := [], out := [], dead := [], ueUnits := [],
    ceUnits := [], got := [], asks := [] }

def Stage.reset : Stage :=
  { spare := .replicate 4 none, spareBad := .replicate 4 false, copy := none, copied := [], ceLast := 0, ceCount := 0, ueLast := 0,
    ueCount := 0, ceWords := [], ueWords := [], ceWindow := [] }

def Xlat.reset : Xlat :=
  { basePA := 0, baseAttr := 0, baseV := false, inv := none, status := .reset, walks := 0, tlb := [], walker := [],
    ctxCache := [] }

def Bc.reset : Bc :=
  { lock := 0, fillmask := 0xFFFF, off := 0, busy := 0, down := 0, disabled := 0, lines := [], victim := [],
    window := 0x000F4240, limit := 0x0010, ce := .replicate 16 0, ceWin := .replicate 16 0, winBeat := 0,
    status := .reset, plBase := 0, plFrom := 0, plLen := 0, plBusy := false, hits := 0, misses := 0 }

def Rme.reset : Rme :=
  { flagin := false, self := 0xFFFF, tmo := 0x03E8, status := .reset, outbytes := 0, inbytes := 0, refusals := 0,
    inb := .replicate 8 ⟨false, false, 0, 0⟩, win := .replicate 2048 ⟨false, 0⟩, txid := 0, out := [], held := [], unsent := [],
    inq := [], inNext := 0, stale := [], linger := [], inHeld := [], txq := [], txOff := 0, txRoom := 0, tx := [], rxOff := 0, rxCred := 0 }

def Svc.reset : Svc :=
  { cg := 0, cc := 0, ve := 0, way := 0, bank := 0, retCG := 0, retCC := 0, retVE := 0, retBank := 0, retWay := 0, trans := [],
    tested := [], testUnit := 0, testResult := 0, testDetail := 0, unitCmd := 0, auto := 1, cgLimit := 4,
    cgWindow := 16777216, veLimit := 4, smLimit := 64, cgCount := .replicate 16 0, veCount := .replicate 8 0 }

def Task.reset : Task :=
  { st := .invalid, armed := false, pend := false, src := 0, level := 0, sparam := 0, smode := 0, value := 0, entry := 0,
    save := 0, cause := 0, spilled := false, tilesSaved := false, rowFault := none }

def Bank.reset : Bank := { g := .replicate 32 0, pc := 0, cs := 0, occ := none, dirty := 0, bad := 0 }

def CoreFault.reset : CoreFault :=
  { valid := false, ovf := false, task := 0, half := 0, event := 0, addr := 0, pc := 0 }

def Tcfg.reset : Tcfg := { seed := 0, cvtl := 0, w := 12, rnd := 0 }

def Tile.reset : Tile := { tag := none, inUse := false, bytes := [], bad := 0 }

def RowFault.reset : RowFault :=
  { valid := false, more := false, store := false, tile := 0, row := 0, pc := 0 }

def SpillFault.reset : SpillFault := { valid := false, kind := 0, task := 0, unit := 0, event := 0, va := 0 }

def MbxEntry.reset : MbxEntry := { valid := false, queue := 0, task := 0, index := 0, tag := 0, arg := 0 }

/-- A core at reset (09:R281, 10:R288, 11:R331). -/
def Core.reset : Core :=
  { halted := false, banks := .replicate 8 .reset, tasks := .replicate 256 .reset, running := none, switchTo := none, outgoing := none,
    resumed := false, tsel := .replicate 8 0, winsel := 0, bankwin := 0, alchk := false, ctx := 0, ttb := 0, tcfg := .reset, held := [],
    cycle := 0, instret := 0, frec := .replicate 7 .reset, schstat := .reset, spillf := .reset, switches := 0,
    mbx := .replicate 16 .reset, sb := [], lost := none, l1d := [], l1bad := [], l1tlb := [], tiles := .replicate 12 .reset, latchS := none,
    latchT := none, rowFault := .reset, rows := [], tileOwner := none, xq := [], xstop := none,
    xfirst := none, wants := [] }

def Mbox.reset : Mbox :=
  { req := .replicate 130 0, resp := .replicate 129 0, status := .reset, rlen := 0, rseq := 0, busy := false,
    cmd := none, ready := none, evMbox := false }

/-- The object dictionary's defaults (13:R363). The nonce is a free value that is not 0 (13:R372, log 6). -/
def Mg.reset : Mg :=
  { nodeAddr := 0, chainPos := 0xFFFF, regOffset := 0, testmode := 0, imgOffset := 0, img := [],
    imgLen := 0, imgDigest := [], imgState := 0, imgVersion := 0, fwVersion := 0x01000000, fwSource := 0, keys := .replicate 4 none, counters := .replicate 4 0,
    exhausted := .replicate 4 false, nonce := 0, mgAuth := 0, mgReplay := 0, mgState := 0, crcErr := 0, discard := 0,
    suppressed := 0, lastResp := none, chainReq := none, chainOut := [], avail := 0, unavail := 0, excluded := 0, window := 0,
    recovery := 1 }

def Sens.reset : Sens :=
  { tj := .replicate 16 0, vdd := .replicate 2 0, iblk := 0, pblk := 0, ro := .replicate 96 0, pd := .replicate 48 0,
    flagged := 0, replan := 0x00100000, sample := 1000, replanOn := 0x00100000, sampleOn := 1000, vlimit := 850, plan := 0, target := 850, headroom := 0, tripped := false,
    stepped := false, hold := .none }

def Bnd.reset : Bnd :=
  { aclkSel := 0, aclkCur := 0, vreq := 0x32, vreqStb := false, vack := true, vackHold := false, mgAlive := false,
    mgRisen := false, chainIn := true, flags := 0, wrstReq := false, hostOut := [], hostHeld := [], hwCred := 0 }

/-- The test access port after its reset: IDCODE is selected (log 11). -/
def Tap.reset : Tap := { ir := 0x01, gate := false }

def Arb.reset : Arb := { null := 31, ve := 31, move := .replicate 4 31, rme := 31, cc := .replicate 8 31, taken := [] }

/-- The machine at the release of power-on reset: BOOT phase B1 begins (15:R422, 16:R440). -/
def State.reset : State :=
  { pending := [], ctl := .reset, gen := .reset, fuses := .reset, flt := .reset, beat := .reset, flags := .reset,
    dq := .replicate 32 .reset, opa := .reset, veElems := 0, moveBytes := .replicate 4 0, arb := .reset, rme := .reset,
    memp := .reset, sm := .reset, mem := [], xlat := .reset, bc := .reset, svc := .reset, cores := .replicate 8 .reset,
    mbox := .reset, mg := .reset, sens := .reset, bnd := .reset, tap := .reset }

end Sys2Proof.Machine
end

