-- ==== Sys2Proof/Machine/Ops.lean ====
section
/-! DEFINITION. The operations every command uses: bit fields, vectors, bytes, memory, SQC registers, free values,
fault records and entry into FAULT, the fuses, the units in service, the physical address map. -/

namespace Sys2Proof.Machine

/-! Bit fields and vectors. -/

/-- The n bits of w from bit lo on, as a number. -/
def fld {k : Nat} (w : BitVec k) (lo n : Nat) : Nat := (w.toNat >>> lo) % 2 ^ n

/-- The bits [n-1:0] of w. -/
def keep (n : Nat) (w : Nat) : Nat := w % 2 ^ n

def w64 (n : Nat) : Word := BitVec.ofNat 64 n

/-- The i-th element, or a default outside. -/
def vget {α : Type} {n : Nat} (v : Vector α n) (i : Nat) (d : α) : α := v.getD i d

/-- The vector with its i-th element changed; unchanged outside. -/
def vmod {α : Type} {n : Nat} (v : Vector α n) (i : Nat) (f : α → α) : Vector α n :=
  if h : i < n then v.set i (f v[i]) else v

/-- Every element changed. -/
def vmap {α β : Type} {n : Nat} (f : α → β) (v : Vector α n) : Vector β n := ⟨⟨v.toList.map f⟩, by simp⟩

/-- Every element changed, with its index. -/
def vmapIdx {α β : Type} {n : Nat} (f : Nat → α → β) (v : Vector α n) : Vector β n :=
  ⟨⟨v.toList.zipIdx.map fun x => f x.2 x.1⟩, by simp⟩

/-! Bytes. -/

/-- The little-endian number of bytes (00:R11). -/
def leNat : List Byte → Nat
  | [] => 0
  | b :: bs => b.toNat + 256 * leNat bs

/-- The n bytes of a number, little-endian. -/
def natLe (v : Nat) : Nat → List Byte
  | 0 => []
  | n + 1 => BitVec.ofNat 8 v :: natLe (v / 256) n

/-- How far an address lies past a base; 0 before it. -/
def past (base a : Nat) : Nat := ((a : Int) - base).toNat

/-! Memory: a list of cells in canonical form; an unlisted byte reads 0 (log 4). -/

/-- What an unlisted address reads as (log 4). -/
def Memory.blank : Byte := 0

/-- One byte. -/
def Memory.get : List Host.Cell → Nat → Byte
  | [], _ => Memory.blank
  | (k, b) :: r, a => if k = a then b else Memory.get r a

/-- A cell put in its place among cells of other addresses. -/
def Memory.insert (a : Nat) (b : Byte) : List Host.Cell → List Host.Cell
  | [] => [(a, b)]
  | (k, c) :: r => if a < k then (a, b) :: (k, c) :: r else (k, c) :: Memory.insert a b r

/-- One byte written; the canonical form is kept. -/
def Memory.put (m : List Host.Cell) (a : Nat) (b : Byte) : List Host.Cell :=
  let rest := m.filter fun c => c.1 != a
  if b = Memory.blank then rest else Memory.insert a b rest

/-- The canonical form: addresses strictly rising, above a bound, and no entry equal to an unlisted byte. -/
def Memory.wfFrom : Option Nat → List Host.Cell → Bool
  | _, [] => true
  | lo, (k, b) :: r =>
    (match lo with | none => true | some l => l < k) && b != Memory.blank && Memory.wfFrom (some k) r

/-- The canonical form of memory. -/
def Memory.wf (m : List Host.Cell) : Bool := Memory.wfFrom none m

def Memory.puts (m : List Host.Cell) : List Host.Cell → List Host.Cell
  | [] => m
  | (a, b) :: r => Memory.puts (Memory.put m a b) r

/-- n bytes from an address on. -/
def Memory.gets (m : List Host.Cell) (a : Nat) : Nat → List Byte
  | 0 => []
  | n + 1 => Memory.get m a :: Memory.gets m (a + 1) n

/-- Consecutive bytes as cells. -/
def cellsAt (a : Nat) : List Byte → List Host.Cell
  | [] => []
  | b :: bs => (a, b) :: cellsAt (a + 1) bs

/-! Free values (log 6). -/

/-- A free bit, and the state with the counter of free values advanced. -/
def drawBit (s : State) : Bool × State :=
  (Config.freeBit s.ctl.free, { s with ctl := { s.ctl with free := s.ctl.free + 1 } })

/-- A free number below n (0 where n is 0). -/
def drawNat (n : Nat) (s : State) : Nat × State :=
  (Config.freeNat s.ctl.free % n, { s with ctl := { s.ctl with free := s.ctl.free + 1 } })

/-- A free word. -/
def drawWord (s : State) : Word × State :=
  (Config.freeWord s.ctl.free, { s with ctl := { s.ctl with free := s.ctl.free + 1 } })

/-- The cells that a free bit each lets land (01:R30). -/
def landSome : Nat → List Host.Cell → List Host.Cell
  | _, [] => []
  | k, c :: r => if Config.freeBit k then c :: landSome (k + 1) r else landSome (k + 1) r

/-- Pending writes of a descriptor that ends early: each byte lands or does not (01:R30). -/
def landPending (ws : List Host.Cell) (s : State) : State :=
  { s with
    mem := Memory.puts s.mem (landSome s.ctl.free ws),
    ctl := { s.ctl with free := s.ctl.free + ws.length } }

/-! SQC registers (00:R17 to R19). -/

/-- Hardware events in f-cycle t: the bits are set, and SEQ rises once in an f-cycle. -/
def Sqc.event (r : Sqc) (t : Word) (bits : BitVec 48) : Sqc :=
  if bits == 0 then r
  else if r.stamp == t + 1 then { r with status := r.status ||| bits }
  else { seq := r.seq + 1, status := r.status ||| bits, stamp := t + 1 }

/-- A write: the cleared register, and whether its SEQ matched (00:R18); an event after it is one of a later f-cycle, so
SEQ rises again (00:R19). -/
def Sqc.write (r : Sqc) (v : Word) : Sqc × Bool :=
  if v.extractLsb' 48 16 == r.seq then ({ r with status := r.status &&& ~~~(v.extractLsb' 0 48), stamp := 0 }, true)
  else (r, false)

/-- The register as read. -/
def Sqc.read (r : Sqc) : Word := r.seq ++ r.status

def sqcBit (i : Nat) : BitVec 48 := BitVec.ofNat 48 (2 ^ i)

/-- What has just happened is no earlier than a place of the f-cycle: a command of an earlier place begins a new one
(log 1). -/
def notBefore (p : Nat) (s : State) : State := { s with ctl := { s.ctl with place := max s.ctl.place p } }

/-- The places of the writes that take effect after the starts of an f-cycle (02:R62), and of register reads (13:R383). -/
def lateWrite : Nat := 17
def readPlace : Nat := 18

/-- GEN_SQMISS counts a write whose SEQ did not match (00:R18); events of its f-cycle have come before it (00:R19). -/
def sqMiss (ok : Bool) (s : State) : State :=
  notBefore lateWrite (if ok then s else { s with gen := { s.gen with sqmiss := s.gen.sqmiss + 1 } })

def genEvent (i : Nat) (s : State) : State :=
  { s with gen := { s.gen with status := s.gen.status.event s.ctl.fcycles (sqcBit i) } }

def dqEvent (q : Nat) (i : Nat) (s : State) : State :=
  { s with dq := vmod s.dq q fun d => { d with status := d.status.event s.ctl.fcycles (sqcBit i) } }

def mempEvent (i : Nat) (s : State) : State :=
  { s with memp := { s.memp with status := s.memp.status.event s.ctl.fcycles (sqcBit i) } }

def rmeEvent (i : Nat) (s : State) : State :=
  { s with rme := { s.rme with status := s.rme.status.event s.ctl.fcycles (sqcBit i) } }

def xlatEvent (i : Nat) (s : State) : State :=
  { s with xlat := { s.xlat with status := s.xlat.status.event s.ctl.fcycles (sqcBit i) } }

def bcEvent (i : Nat) (s : State) : State :=
  { s with bc := { s.bc with status := s.bc.status.event s.ctl.fcycles (sqcBit i) } }

def fltEvent (i : Nat) (s : State) : State :=
  { s with flt := { s.flt with status := s.flt.status.event s.ctl.fcycles (sqcBit i) } }

def mboxEvent (i : Nat) (s : State) : State :=
  { s with mbox := { s.mbox with status := s.mbox.status.event s.ctl.fcycles (sqcBit i) } }

def opaMEvent (i : Nat) (s : State) : State :=
  { s with opa := { s.opa with mstatus := s.opa.mstatus.event s.ctl.fcycles (sqcBit i) } }

def opaDEvent (i : Nat) (s : State) : State :=
  { s with opa := { s.opa with dstatus := s.opa.dstatus.event s.ctl.fcycles (sqcBit i) } }

def modCore (c : Nat) (f : Core → Core) (s : State) : State := { s with cores := vmod s.cores c f }

def modQ (q : Nat) (f : Queue → Queue) (s : State) : State := { s with dq := vmod s.dq q f }

def modInst (n : Nat) (f : OpaInst → OpaInst) (s : State) : State :=
  { s with opa := { s.opa with inst := vmod s.opa.inst n f } }

def getQ (s : State) (q : Nat) : Queue := vget s.dq q .reset
def getCore (s : State) (c : Nat) : Core := vget s.cores c .reset
def getInst (s : State) (n : Nat) : OpaInst := vget s.opa.inst n .reset

def setBnd (i : Nat) (s : State) : State :=
  { s with bnd := { s.bnd with flags := s.bnd.flags ||| BitVec.ofNat 14 (2 ^ i) } }

/-! Event codes (14:R396). -/

def dqOpcode : BitVec 16 := 0x0101
def dqOperand : BitVec 16 := 0x0102
def dqAlign : BitVec 16 := 0x0103
def dqEngineAbsent : BitVec 16 := 0x0104
def dqState : BitVec 16 := 0x0105
def dqXlat : BitVec 16 := 0x0106
def dqMemerr : BitVec 16 := 0x0107
def dqBinding : BitVec 16 := 0x0108
def dqDeadlock : BitVec 16 := 0x0110
def dqDeadline : BitVec 16 := 0x0111
def opaChecksum : BitVec 16 := 0x0201
def opaAccParity : BitVec 16 := 0x0202
def opaGroup : BitVec 16 := 0x0204
def veParity : BitVec 16 := 0x0301
def veDigestMismatch : BitVec 16 := 0x0302
def rmeNode : BitVec 16 := 0x0401
def rmeTimeoutEv : BitVec 16 := 0x0402
def rmeRemoteFault : BitVec 16 := 0x0403
def memCe : BitVec 16 := 0x0501
def memUe : BitVec 16 := 0x0502
def smCe : BitVec 16 := 0x0503
def smUe : BitVec 16 := 0x0504
def bcWayDisabled : BitVec 16 := 0x0505
def ccIllegal : BitVec 16 := 0x0601
def ccPriv : BitVec 16 := 0x0602
def ccSpillFault : BitVec 16 := 0x0603
def ccDoubleFault : BitVec 16 := 0x0604
def ccParity : BitVec 16 := 0x0605
def tileShape : BitVec 16 := 0x0701
def tileFormat : BitVec 16 := 0x0702
def tileRowFault : BitVec 16 := 0x0703
def xlNotPresent : BitVec 16 := 0x0801
def xlPermission : BitVec 16 := 0x0802
def xlWalkDevice : BitVec 16 := 0x0803
def xlWalkMemerr : BitVec 16 := 0x0804
def xlMarkA : BitVec 16 := 0x0805
def xlMarkD : BitVec 16 := 0x0806
def mgAuthEv : BitVec 16 := 0x0901
def mgReplayEv : BitVec 16 := 0x0902
def mgStateEv : BitVec 16 := 0x0903
def mgCfgParity : BitVec 16 := 0x0904
def mgApplyLate : BitVec 16 := 0x0905
def hwMargin : BitVec 16 := 0x0A01
def hwThermal : BitVec 16 := 0x0A02
def hwRetired : BitVec 16 := 0x0A03
def hwCurrent : BitVec 16 := 0x0A04
def hwBoot : BitVec 16 := 0x0A05

/-- Record classes (14:R393). -/
def clsInfo : Byte := 0
def clsCorrected : Byte := 1
def clsQueue : Byte := 2
def clsUnit : Byte := 3
def clsFatal : Byte := 4

/-! Fault records (14:R395 to R399) and entry into FAULT (14:R400). -/

/-- Insertion of a detection among those not yet written: by f-cycle of detection, then SOURCE, then EVENT. -/
def insertDetected (t : Word) (r : FRec) : List (Word × FRec) → List (Word × FRec)
  | [] => [(t, r)]
  | (u, x) :: l =>
    if u == t && (r.source.toNat < x.source.toNat || (r.source == x.source && r.event.toNat < x.event.toNat))
    then (t, r) :: (u, x) :: l
    else (u, x) :: insertDetected t r l

/-- A detection: its record waits to be written (14:R399). -/
def detect (event : BitVec 16) (cls : Byte) (source detail : BitVec 16) (info0 info1 : Word) (s : State)
    (avalid : Bool := false) : State :=
  { s with flt := { s.flt with
      detected := insertDetected s.ctl.fcycles ⟨event, cls, avalid, source, detail, s.beat.value, info0, info1⟩
        s.flt.detected } }

/-- One of the records limited to one a beat (08:R234, 13:R374): whether it is the first, and the mark. -/
def firstInBeat (event : BitVec 16) (unit : Nat) (s : State) : Bool × State :=
  if s.beat.marks.contains (event, unit) then (false, s)
  else (true, { s with beat := { s.beat with marks := (event, unit) :: s.beat.marks } })

/-- An OPA instance without work: every set discarded. -/
def OpaInst.cleared (i : OpaInst) : OpaInst :=
  { i with groups := .replicate 4 .reset, jobs := [] }

/-! Cyclic redundancy checks. -/

/-- CRC-32 of 13:R376, a bit of the reflected register at a time. -/
def crc32Bits (r : BitVec 32) : Nat → BitVec 32
  | 0 => r
  | n + 1 => crc32Bits (if r.getLsbD 0 then (r >>> 1) ^^^ 0xEDB88320 else r >>> 1) n

def crc32 (bs : List Byte) : BitVec 32 :=
  ~~~ bs.foldl (fun r b => crc32Bits (r ^^^ b.setWidth 32) 8) 0xFFFFFFFF

/-! The outbound stream (15:R427, R428). -/

def pkPut : Byte := 0x01
def pkGet : Byte := 0x02
def pkFlagAdd : Byte := 0x03
def pkFlagSet : Byte := 0x04
def pkAadd : Byte := 0x05
def pkFadd : Byte := 0x06
def pkCas : Byte := 0x07
def pkAck : Byte := 0x81
def pkData : Byte := 0x82
def pkRefuse : Byte := 0x83

/-- The 32 bytes of a packet's header (15:R427). -/
def headerBytes (p : TxPacket) : List Byte :=
  let h := p.hdr
  [p.op, h.attr] ++ natLe h.dest.toNat 2 ++ natLe h.src.toNat 2 ++ natLe h.len.toNat 2 ++ natLe h.addr.toNat 8 ++
    natLe h.txid.toNat 4 ++ natLe p.reason.toNat 2 ++ natLe 0 2 ++ natLe h.arg.toNat 8

/-- The bytes of a packet in the stream: header, payload, CRC-32, and zeros up to a multiple of 4 (15:R427). -/
def packetBytes (p : TxPacket) : List Byte :=
  let b := headerBytes p ++ p.hdr.payload
  b ++ natLe (crc32 b).toNat 4 ++ List.replicate ((4 - p.hdr.payload.length % 4) % 4) 0

/-- A packet of the inbound stream with n payload bytes has come: whole beats return their credits (15:R427). -/
def takeStream (n : Nat) (s : State) : State :=
  let total := s.rme.rxOff + 36 + n + (4 - n % 4) % 4
  { s with rme := { s.rme with rxOff := total % 1152, rxCred := s.rme.rxCred + total / 1152 } }

/-- A packet that asks: its TXID is this block's. -/
def isRequest (op : Byte) : Bool := op.toNat < 0x80

def isSignal (k : OutKind) : Bool :=
  match k with
  | .signal _ => true
  | _ => false

/-- The first request of a descriptor, its signals aside, starts its limit (08:R253). -/
def startLimit (txid : BitVec 32) (s : State) : State :=
  match s.rme.out.find? fun r => r.txid == txid && !isSignal r.kind with
  | some r => modQ r.q.val (fun q => { q with inflight := q.inflight.map fun f =>
      if f.idx == r.idx && f.limit.isNone then { f with limit := some (s.beat.value.toNat + f.tmo) } else f }) s
  | none => s

/-- What the credits cover of the packet at the front of the stream leaves (15:R427). -/
def sendFront (s : State) : State :=
  match s.rme.txq with
  | [] => s
  | p :: rest =>
    let bs := (packetBytes p).drop s.rme.txOff
    if s.rme.txRoom == 0 then s
    else
      let s := if s.rme.txOff == 0 && isRequest p.op then startLimit p.hdr.txid s else s
      let tx := s.rme.tx ++ bs.take s.rme.txRoom
      if s.rme.txRoom < bs.length then
        { s with rme := { s.rme with tx := tx, txOff := s.rme.txOff + s.rme.txRoom, txRoom := 0 } }
      else
        { s with rme := { s.rme with
          tx := tx, txq := rest, txOff := 0, txRoom := s.rme.txRoom - bs.length,
          outbytes := s.rme.outbytes + w64 p.hdr.payload.length } }

/-- Packets leave while they can; at most n. -/
def sendAll : Nat → State → State
  | 0, s => s
  | n + 1, s => sendAll n (sendFront s)

/-- A packet joins the stream. -/
def sendPacket (p : TxPacket) (s : State) : State :=
  let s := { s with rme := { s.rme with txq := s.rme.txq ++ [p] } }
  sendAll s.rme.txq.length s

/-- The bytes that the descriptors in flight have not written yet. -/
def allPending (s : State) : List Host.Cell :=
  s.dq.toList.flatMap fun q => q.inflight.flatMap fun f => f.writes.flatMap (·.cells)

/-- Every descriptor in flight is abandoned (01:R30): no signal, no record, each destination byte old or new; their
remote requests are answered no more. The signals that they and completed descriptors have handed over stay with the
remote engine, which waits for abandoned writes no longer (08:R251, R252). -/
def abandonAll (s : State) : State :=
  let s := landPending (allPending s) s
  let gone := (s.rme.out.filter fun r => !isSignal r.kind).map (·.txid)
  let go := s.rme.held.filter fun h => isSignal h.req.kind
  let begun (k : TxPacket) : Bool := s.rme.txOff != 0 && s.rme.txq.head? == some k
  let s := { s with
    dq := vmap (fun q => { q with inflight := [] }) s.dq,
    opa := { s.opa with inst := vmap OpaInst.cleared s.opa.inst },
    rme := { s.rme with
      out := s.rme.out.filter (fun r => isSignal r.kind) ++ go.map (·.req), linger := [], held := [], unsent := [],
      txq := s.rme.txq.filter (fun k => begun k || !(isRequest k.op && gone.contains k.hdr.txid)) ++ go.map (·.pkt),
      stale := s.rme.stale ++ gone } }
  sendAll s.rme.txq.length s

/-- Entry into FAULT (01:R26, R27, R30; 14:R400; 13:R387): the staged request is discarded, a scheduled APPLY is
disarmed, the descriptors in flight are abandoned. -/
def enterFault (s : State) : State :=
  let s := abandonAll s
  { s with
    ctl := { s.ctl with state := .fault, phase := .none },
    gen := { s.gen with reqStaged := 0, armed := false },
    flt := { s.flt with evFatal := true } }

/-- A block-fatal cause: its record, and FAULT (14:R400). -/
def fatal (event source detail : BitVec 16) (info0 info1 : Word) (s : State) (avalid : Bool := false) : State :=
  enterFault (detect event clsFatal source detail info0 info1 s avalid)

/-! The fuses (15:R435 to R437). -/

/-- Byte k of the fuse array as read. -/
def fuseByte (s : State) (k : Nat) : Byte := BitVec.ofNat 8 ((vget s.fuses.words (k / 4) 0).toNat >>> (8 * (k % 4)))

def fuseBytes (s : State) (k : Nat) : Nat → List Byte
  | 0 => []
  | n + 1 => fuseByte s k :: fuseBytes s (k + 1) n

/-- A little-endian field of n bytes. -/
def fuseNat (s : State) (k n : Nat) : Nat := leNat (fuseBytes s k n)

/-- Fuse load has ended: B1 is over (16:R440). -/
def fuseLoaded (s : State) : Bool := 1024 ≤ s.fuses.next && s.ctl.phase != .b1

/-- The part is a V4-B; every other grade byte acts as V4-A (log 5). -/
def gradeB (s : State) : Bool := fuseByte s 0 == 0x42

/-! Units (00:R2 to R5). -/

def cgBuilt (s : State) : BitVec 16 := if gradeB s then 0x3FFF else 0xFFFF
def ccBuilt (s : State) : BitVec 8 := if gradeB s then 0x3F else 0xFF
def mpBuilt (s : State) : BitVec 16 := if gradeB s then 0x0FFF else 0xFFFF
/-- Number of memory ports NP (08:R231). -/
def portCount (s : State) : Nat := if gradeB s then 12 else 16

def cgInService (s : State) : BitVec 16 := cgBuilt s &&& ~~~s.svc.cg &&& ~~~s.svc.retCG
def ccInService (s : State) : BitVec 8 := ccBuilt s &&& ~~~s.svc.cc &&& ~~~s.svc.retCC
def veInService (s : State) : BitVec 8 := ~~~s.svc.ve &&& ~~~s.svc.retVE

/-- The set bits of a mask, in increasing order. -/
def maskBits {n : Nat} (m : BitVec n) : List Nat := (List.range n).filter fun i => m.getLsbD i

def popCount {n : Nat} (m : BitVec n) : Nat := (maskBits m).length

def smBytes (s : State) : Nat := if gradeB s then 0x8000000 else 0xA000000
def memGib (s : State) : Nat := if gradeB s then 480 else 640
/-- Bytes of external memory (01:R32). -/
def memBytes (s : State) : Nat := if gradeB s then 0x7800000000 else 0xA000000000

/-! The physical address map (01:R32). -/

inductive Region where
  | ext | stage | ctl | remote | none
  deriving DecidableEq, Repr

def stageBase : Nat := 0xF000000000
def ctlBase : Nat := 0xF800000000

/-- The region of a physical address (01:R32). -/
def region (s : State) (pa : Nat) : Region :=
  if pa < memBytes s then .ext
  else if stageBase ≤ pa && pa < stageBase + smBytes s then .stage
  else if ctlBase ≤ pa && pa < ctlBase + 0x4000000 then .ctl
  else if 0x8000000000000 ≤ pa && pa < 0x10000000000000 then .remote
  else .none

/-- Flags and requests of the block state (01:R27). -/
def stateCode (b : BlockState) : Nat :=
  match b with
  | .boot => 0 | .config => 1 | .run => 2 | .hold => 3 | .service => 4 | .fault => 5

/-- No descriptor in flight and no outbound remote operation outstanding (01:R28). -/
def quiet (s : State) : Bool :=
  s.dq.toList.all (fun q => q.inflight.isEmpty) && s.rme.out.isEmpty && s.rme.held.isEmpty

/-! Configuration parity (13:R388, R389). -/

/-- The region bit of an offset: HELD [r]. -/
def parityRegion (off : BitVec 26) : Nat := off.toNat / 0x100000

/-- A region holds a mismatch. -/
def parityHeld (s : State) (r : Nat) : Bool := s.gen.parity.any fun o => parityRegion o == r

/-- The register at an offset (or its staged copy) holds a mismatch. -/
def parityAt (s : State) (off : Nat) : Bool := s.gen.parity.any fun o => o.toNat == off

/-- The OPA region, the VE region, the RME and MOVE region hold a mismatch. -/
def opaHeld (s : State) : Bool := parityHeld s 3
def veHeld (s : State) : Bool := parityHeld s 4
def rmeHeld (s : State) : Bool := parityHeld s 5
def xlatHeld (s : State) : Bool := parityHeld s 7
def bcHeld (s : State) : Bool := parityHeld s 8
def mempHeld (s : State) : Bool := parityHeld s 9
def mboxHeld (s : State) : Bool := parityHeld s 12
/-- Queue n is held (13:R388). -/
def queueHeld (s : State) (q : Nat) : Bool :=
  s.gen.parity.any fun o => 0x100000 ≤ o.toNat && o.toNat < 0x120000 && past 0x100000 o.toNat / 0x1000 == q
/-- Flag n is held (13:R388). -/
def flagHeld (s : State) (f : Nat) : Bool := parityAt s (0x200000 + 8 * f)

end Sys2Proof.Machine
end

