-- ==== Sys2Proof/Machine/Num.lean ====
section
/-! DEFINITION. Number formats, exact decoding, scale bytes, rounding and conversion (02:R38 to R66). -/

namespace Sys2Proof.Machine

/-! Format codes (02:R38). -/

/-- Bits per element of a format code; 0 for a code that is absent from the table (02:R38). -/
def fmtBits (f : Nat) : Nat :=
  match f with
  | 0x01 => 8 | 0x02 => 8 | 0x03 => 6 | 0x04 => 4 | 0x05 => 8 | 0x06 => 4
  | 0x10 => 16 | 0x11 => 16 | 0x12 => 32 | 0x13 => 64 | 0x14 => 32 | 0x20 => 32 | 0x21 => 64
  | _ => 0

/-- The six narrow formats (02:R39). -/
def fmtNarrow (f : Nat) : Bool := 1 ≤ f && f ≤ 6

/-- The formats that can be OPA operands A and B (02:R38). -/
def fmtOpaIn (f : Nat) : Bool := fmtNarrow f || f == 0x10 || f == 0x11

/-- The formats that can be drain destinations (02:R38). -/
def fmtDrain (f : Nat) : Bool := fmtBits f != 0 && f != 0x13

/-- The IEEE formats and VA32 (02:R51, R52). -/
def fmtIeee (f : Nat) : Bool := f == 0x10 || f == 0x11 || f == 0x12 || f == 0x13 || f == 0x20

/-- The formats for which clause 5 of IEEE 754-2019 is followed, and VA32 as FP32 (02:R64, R52). -/
def fmtFloat (f : Nat) : Bool := fmtBits f != 0 && f != 0x05 && f != 0x06 && f != 0x14

/-- Rate class of a multiplicand format: bits of 8, 4 or 16 (02:R38). -/
def fmtRate (f : Nat) : Nat :=
  if f == 4 || f == 6 then 4 else if fmtNarrow f then 8 else 16

/-- Run-length unit of a packed format (02:R41). -/
def fmtPack (f : Nat) : Nat := if f == 3 then 4 else if f == 4 || f == 6 then 2 else 1

/-- Bytes of a run of n elements (02:R40, R41). -/
def runBytes (f n : Nat) : Nat := (n * fmtBits f + 7) / 8

/-- A floating-point layout: exponent width, trailing significand width, bias, and whether it is an IEEE format. -/
structure Flt where
  k    : Nat
  p    : Nat
  bias : Int
  ieee : Bool
  deriving DecidableEq, Repr

/-- The floating-point layouts (02:R43, R51, R52). -/
def fltOf (f : Nat) : Option Flt :=
  match f with
  | 0x01 => some ⟨4, 3, 9, false⟩
  | 0x02 => some ⟨5, 2, 17, false⟩
  | 0x03 => some ⟨3, 2, 3, false⟩
  | 0x04 => some ⟨2, 1, 2, false⟩
  | 0x10 => some ⟨8, 7, 127, true⟩
  | 0x11 => some ⟨5, 10, 15, true⟩
  | 0x12 => some ⟨8, 23, 127, true⟩
  | 0x13 => some ⟨11, 52, 1023, true⟩
  | 0x20 => some ⟨8, 23, 127, true⟩
  | _ => none

/-- The layout of FP32. -/
def flt32 : Flt := ⟨8, 23, 127, true⟩
/-- The layout of FP64. -/
def flt64 : Flt := ⟨11, 52, 1023, true⟩

def Flt.emin (f : Flt) : Int := 1 - f.bias
/-- Every exponent code of a narrow format is an ordinary one (02:R42); an IEEE format reserves its last. -/
def Flt.emax (f : Flt) : Int := (2 ^ f.k : Nat) - (if f.ieee then 2 else 1) - f.bias
/-- The canonical quiet NaN, or the one NaN code of a narrow format (02:R43, R51). -/
def Flt.nanCode (f : Flt) : Nat :=
  if f.ieee then ((2 ^ f.k - 1) <<< f.p) ||| (1 <<< (f.p - 1)) else 1 <<< (f.k + f.p)

/-- Emax of the scale choice (02:R43, R46). -/
def fmtEmax (f : Nat) : Int :=
  match f with
  | 1 => 6 | 2 => 14 | 3 => 4 | 4 => 1 | 5 => 6 | 6 => 2 | _ => 0

/-! Exact numbers. -/

/-- An exact real number (−1)^neg × num / den × 2^exp, den ≥ 1; a zero keeps its sign. -/
structure Ex where
  neg : Bool
  num : Nat
  den : Nat
  exp : Int
  deriving DecidableEq, Repr, Inhabited

/-- The source of a conversion: a NaN, an infinity or an exact real number (02:R55). -/
inductive XVal where
  | nan (neg sig : Bool) (pay : BitVec 51)
  | inf (neg : Bool)
  | real (x : Ex)
  deriving DecidableEq, Repr, Inhabited

def valX : Val → XVal
  | .nan n s p => .nan n s p
  | .inf n => .inf n
  | .fin n m e => .real ⟨n, m, 1, e⟩

/-- m × 2^e scaled to a multiple of 2^q. -/
def shiftTo (m : Nat) (e q : Int) : Nat := m <<< (e - q).toNat

/-- Exact sum of two finite values; `dn` is the sign of an exact zero sum of values of opposite sign. -/
def finAdd (dn : Bool) (n1 : Bool) (m1 : Nat) (e1 : Int) (n2 : Bool) (m2 : Nat) (e2 : Int) : Val :=
  let q := min e1 e2
  let a := shiftTo m1 e1 q
  let b := shiftTo m2 e2 q
  if n1 == n2 then .fin n1 (a + b) q
  else if a == b then .fin dn 0 0
  else if b < a then .fin n1 (a - b) q else .fin n2 (b - a) q

/-- floor(log2) of a positive exact number. -/
def Ex.ilog (x : Ex) : Int :=
  let b : Int := (x.num.log2 : Int) - (x.den.log2 : Int)
  let le := if 0 ≤ b then x.den <<< b.toNat ≤ x.num else x.den ≤ x.num <<< (-b).toNat
  (if le then b else b - 1) + x.exp

/-- An exact magnitude in units of 2^q, as a fraction. -/
def Ex.units (x : Ex) (q : Int) : Nat × Nat :=
  if q ≤ x.exp then (x.num <<< (x.exp - q).toNat, x.den) else (x.num, x.den <<< (q - x.exp).toNat)

/-- How a rounding is made: its mode (02:R54), the random bits and their number (02:R59), and FAST (02:R65). -/
structure Rnd where
  mode : Nat
  r    : Nat
  w    : Nat
  fast : Bool
  deriving DecidableEq, Repr, Inhabited

def rne : Rnd := ⟨0, 0, 12, false⟩

/-- The rounded quotient num / den of a magnitude of the given sign (02:R54, R59). -/
def roundQ (c : Rnd) (neg : Bool) (num den : Nat) : Nat :=
  let t := num / den
  let m := num % den
  if m == 0 then t else
  match c.mode with
  | 0 => if den < 2 * m || (2 * m == den && t % 2 == 1) then t + 1 else t
  | 1 => t
  | 2 => if neg then t else t + 1
  | 3 => if neg then t + 1 else t
  | _ => if 2 ^ c.w ≤ (m <<< c.w) / den + c.r then t + 1 else t

/-- The exception flags (02:R66). -/
abbrev Exc := BitVec 5
def excInvalid : Exc := 1
def excDivZero : Exc := 2
def excOverflow : Exc := 4
def excUnderflow : Exc := 8
def excInexact : Exc := 16

/-- The code of the magnitude t × 2^q in a layout; t × 2^q is representable. -/
def Flt.encMag (f : Flt) (t : Nat) (q : Int) : Nat :=
  if t == 0 then 0 else
  let e : Int := (t.log2 : Int) + q
  if e < f.emin then shiftTo t q (f.emin - f.p)
  else ((e + f.bias).toNat <<< f.p) + ((t <<< f.p) / 2 ^ t.log2 - 2 ^ f.p)

def Flt.signBit (f : Flt) (neg : Bool) : Nat := if neg then 1 <<< (f.k + f.p) else 0

/-- The magnitude t × 2^q lies above the largest finite value. -/
def Flt.above (f : Flt) (t : Nat) (q : Int) : Bool := t != 0 && f.emax < (t.log2 : Int) + q

/-- Rounding of a nonzero finite magnitude to a layout: the rounded multiple, its quantum's exponent, whether it is
exact, and whether it is tiny after rounding (02:R57: with the exponent range unbounded, but under SR as delivered). -/
def Flt.roundMag (f : Flt) (c : Rnd) (x : Ex) : Nat × Int × Bool × Bool :=
  let e := x.ilog
  let q := max e f.emin - f.p
  let (n, d) := x.units q
  let t := roundQ c x.neg n d
  let small (t : Nat) (q : Int) : Bool := t == 0 || (t.log2 : Int) + q < f.emin
  let tiny :=
    if c.mode == 4 then small t q
    else
      let (n', d') := x.units (e - f.p)
      small (roundQ c x.neg n' d') (e - f.p)
  (t, q, n % d == 0, tiny)

/-- A NaN delivered in an IEEE layout (02:R64, R65 D3): quiet, with its sign and the high-order bits of its payload.
DESIGN CHOICE (log 61): a NaN whose payload is zero before it narrows keeps its sign; only a payload that the narrowing
makes zero gives the canonical quiet NaN. -/
def Flt.nanTo (f : Flt) (fast neg : Bool) (pay : BitVec 51) : Nat :=
  let pl := pay.toNat >>> (51 - (f.p - 1))
  if fast || (pl == 0 && pay != 0) then f.nanCode
  else f.signBit neg ||| f.nanCode ||| pl

def sigExc (sig : Bool) : Exc := if sig then excInvalid else 0

/-- Conversion to BF16, FP16, FP32, VA32 or FP64 (02:R56, R57, R64, R65); `flush`: FAST flushes this format's subnormals. -/
def convIeee (f : Flt) (flush : Bool) (c : Rnd) : XVal → Nat × Exc
  | .nan n s p => (f.nanTo c.fast n p, sigExc s)
  | .inf n => (f.signBit n ||| ((2 ^ f.k - 1) <<< f.p), 0)
  | .real x =>
    if x.num == 0 then (f.signBit x.neg, 0) else
    let (t, q, ex, tiny) := f.roundMag c x
    if f.above t q then
      let toInf := c.mode == 0 || c.mode == 4 || (c.mode == 2 && !x.neg) || (c.mode == 3 && x.neg)
      (f.signBit x.neg ||| (if toInf then (2 ^ f.k - 1) <<< f.p else ((2 ^ f.k - 1) <<< f.p) - 1),
        excOverflow ||| excInexact)
    else if c.fast && flush && (t == 0 || (t.log2 : Int) + q < f.emin) then
      (f.signBit x.neg, excUnderflow ||| excInexact)
    else
      (f.signBit x.neg ||| f.encMag t q, if ex then 0 else if tiny then excUnderflow ||| excInexact else excInexact)

/-- Conversion to VF8A, VF8B, VF6 or VF4 (02:R56, R57). -/
def convNarrow (f : Flt) (c : Rnd) : XVal → Nat × Exc
  | .nan _ s _ => (f.nanCode, sigExc s)
  | .inf _ => (f.nanCode, excInvalid)
  | .real x =>
    if x.num == 0 then (0, 0) else
    let (t, q, ex, tiny) := f.roundMag c x
    if f.above t q then (f.signBit x.neg ||| (2 ^ (f.k + f.p) - 1), excOverflow ||| excInexact)
    else if t == 0 then (0, excUnderflow ||| excInexact)
    else (f.signBit x.neg ||| f.encMag t q, if ex then 0 else if tiny then excUnderflow ||| excInexact else excInexact)

/-- The two's-complement code of a signed magnitude in n bits. -/
def twos (n : Nat) (neg : Bool) (t : Nat) : Nat := if neg then (2 ^ n - t % 2 ^ n) % 2 ^ n else t % 2 ^ n

/-- Conversion to VI8 or VI4 (02:R46, R56, R57; log 13: a nonzero value that rounds to zero raises underflow). -/
def convNarrowInt (bits : Nat) (c : Rnd) : XVal → Nat × Exc
  | .nan _ s _ => (2 ^ (bits - 1), sigExc s)
  | .inf _ => (2 ^ (bits - 1), excInvalid)
  | .real x =>
    let (n, d) := x.units 0
    let t := roundQ c x.neg n d
    let mx := 2 ^ (bits - 1) - 1
    if mx < t then (twos bits x.neg mx, excOverflow ||| excInexact)
    else if n % d == 0 then (twos bits x.neg t, 0)
    else if t == 0 then (0, excUnderflow ||| excInexact)
    else (twos bits x.neg t, excInexact)

/-- Conversion to INT32 (02:R56, R57). -/
def convInt32 (c : Rnd) : XVal → Nat × Exc
  | .nan _ _ _ => (0x80000000, excInvalid)
  | .inf n => (if n then 0x80000000 else 0x7FFFFFFF, excInvalid)
  | .real x =>
    let (n, d) := x.units 0
    let t := roundQ c x.neg n d
    if (if x.neg then 2 ^ 31 else 2 ^ 31 - 1) < t then (if x.neg then 0x80000000 else 0x7FFFFFFF, excInvalid)
    else (twos 32 x.neg t, if n % d == 0 then 0 else excInexact)

/-- Decoding of a floating-point layout (02:R42, R51). -/
def Flt.decode (f : Flt) (b : Nat) : Val :=
  let neg := b.testBit (f.k + f.p)
  let e := (b >>> f.p) % 2 ^ f.k
  let m := b % 2 ^ f.p
  if !f.ieee && neg && e == 0 && m == 0 then .nan false false 0
  else if f.ieee && e == 2 ^ f.k - 1 then
    if m == 0 then .inf neg
    else .nan neg (!m.testBit (f.p - 1)) (BitVec.ofNat 51 ((m % 2 ^ (f.p - 1)) <<< (52 - f.p)))
  else if e == 0 then .fin neg m (f.emin - f.p)
  else .fin neg (m + 2 ^ f.p) ((e : Int) - f.bias - f.p)

/-- FP32 bits of an exact value rounded to nearest even (RNE32 of 02:R53). -/
def rne32 (x : XVal) : Nat × Exc := convIeee flt32 false rne x

/-- x − y for a finite exact x and a finite value y. -/
def Ex.minus (x : Ex) (neg : Bool) (m : Nat) (e : Int) : Ex :=
  let q := min x.exp e
  let a := x.num <<< (x.exp - q).toNat
  let b := (m * x.den) <<< (e - q).toNat
  if x.neg != neg then ⟨x.neg, a + b, x.den, q⟩
  else if b ≤ a then ⟨if a == b then false else x.neg, a - b, x.den, q⟩
  else ⟨!x.neg, b - a, x.den, q⟩

/-- Conversion to VA64c (02:R53, R56, R57); the mode is RNE. DESIGN CHOICE (log 61): where lo rounds up to half a quantum
of an odd hi, the pair is the one that R56 names, hi = RNE32(x) and lo = RNE32(x − hi), though RNE32(hi + lo) is then not
hi. -/
def convVa64c (fast : Bool) : XVal → Nat × Exc
  | .nan n s p => (flt32.nanTo fast n p, sigExc s)
  | .inf n => (flt32.signBit n ||| 0x7F800000, 0)
  | .real x =>
    if x.num == 0 then (flt32.signBit x.neg, 0) else
    let hi := (rne32 (.real x)).1
    match flt32.decode hi with
    | .fin n m e =>
      let d := x.minus n m e
      -- the result is zero: lo is +0
      let lo := if m == 0 then 0 else (rne32 (.real d)).1
      let exact := match flt32.decode lo with
        | .fin n' m' e' => (d.minus n' m' e').num == 0
        | _ => false
      let tiny := m == 0 || hi % 2 ^ 31 < 2 ^ 23
      (hi ||| (lo <<< 32), if exact then 0 else if tiny then excUnderflow ||| excInexact else excInexact)
    | _ => (hi, excOverflow ||| excInexact)

/-- Conversion of an exact source to a destination format (02:R55 to R57). -/
def convert (f : Nat) (c : Rnd) (x : XVal) : Nat × Exc :=
  match f with
  | 0x05 => convNarrowInt 8 c x
  | 0x06 => convNarrowInt 4 c x
  | 0x14 => convInt32 c x
  | 0x21 => convVa64c c.fast x
  | _ => match fltOf f with
    | some l => if l.ieee then convIeee l (f != 0x13 && f != 0x20) c x else convNarrow l c x
    | none => (0, 0)

/-- The NaN code of a format (02:R43, R46, R51, R53, R56). -/
def nanCode (f : Nat) : Nat := (convert f ⟨0, 0, 12, true⟩ (.nan false false 0)).1

/-- A VA64c element (02:R53). -/
def va64cVal (hi lo : Val) : Val :=
  match hi, lo with
  | .nan _ _ _, _ => .nan false false 0
  | _, .nan _ _ _ => .nan false false 0
  | .inf n, _ => .inf n
  | .fin _ _ _, .inf _ => .nan false false 0
  | .fin n m e, .fin n' m' e' =>
    match finAdd false n m e n' m' e' with
    | .fin s 0 e'' => .fin (s && n && n') 0 e''
    | v => v

/-- A two's-complement integer of n bits. -/
def intVal (n b : Nat) : Val :=
  if b.testBit (n - 1) then .fin true (2 ^ n - b % 2 ^ n) 0 else .fin false (b % 2 ^ n) 0

/-- Exact decoding of an element (02:R42, R46, R51 to R53, R55). -/
def decode (f b : Nat) : Val :=
  match f with
  | 0x05 => if b == 0x80 then .nan false false 0 else intVal 8 b
  | 0x06 => if b == 0x8 then .nan false false 0 else intVal 4 b
  | 0x14 => intVal 32 b
  | 0x21 => va64cVal (flt32.decode (b % 2 ^ 32)) (flt32.decode (b >>> 32))
  | _ => match fltOf f with
    | some l => l.decode b
    | none => .fin false 0 0

def decode32 (b : Nat) : Val := flt32.decode b
def decode64 (b : Nat) : Val := flt64.decode b

/-- v × 2^k. -/
def valScale (v : Val) (k : Int) : Val :=
  match v with
  | .fin n m e => .fin n m (e + k)
  | v => v

def XVal.scale (v : XVal) (k : Int) : XVal :=
  match v with
  | .real x => .real { x with exp := x.exp + k }
  | v => v

/-- An element of a block with its scale byte (02:R48, R49). -/
def decodeScaled (f b vs8 : Nat) : Val :=
  if 0x80 ≤ vs8 then .fin false 0 0
  else if vs8 == 0x7F then .nan false false 0
  else valScale (decode f b) ((vs8 : Int) - 63)

/-- The exact value is a zero. -/
def XVal.isZero : XVal → Bool
  | .real x => x.num == 0
  | _ => false

def valIsZero : Val → Bool
  | .fin _ m _ => m == 0
  | _ => false

def valIsNan : Val → Bool
  | .nan _ _ _ => true
  | _ => false

def valIsFinite : Val → Bool
  | .fin _ _ _ => true
  | _ => false

def valNeg : Val → Bool
  | .nan n _ _ => n
  | .inf n => n
  | .fin n _ _ => n

/-- The scale exponent that a block of exact values chooses (02:R58). -/
def chooseSe (f : Nat) (xs : List XVal) : Nat :=
  let top := xs.foldl (fun (m : Option Int) x => match x with
    | .real x => if x.num == 0 then m else some (match m with | none => x.ilog | some l => max l x.ilog)
    | _ => m) none
  match top with
  | none => 63
  | some l => (min (max (l - fmtEmax f + 63) 0) 126).toNat

/-- Conversion of one element of a scaled block with the chosen exponent (02:R58). -/
def convertScaled (f : Nat) (se : Nat) (c : Rnd) (x : XVal) : Nat × Exc := convert f c (x.scale (63 - (se : Int)))

/-- The scale byte written with a block's codes (02:R58). -/
def scaleByte (se : Nat) (codes : List Nat) : Nat := if codes.all (· == 0) then 0x80 else se

/-! Stochastic rounding (02:R60, R61). -/

/-- The state of lane j before its first draw. -/
def srSeed (q : Word) (j : Nat) : Word :=
  let s := q ^^^ (BitVec.ofNat 64 j * 0x9E3779B97F4A7C15)
  if s == 0 then 0x5741584941313132 else s

def srAdvance (s : Word) : Word :=
  let s := s ^^^ (s <<< 13)
  let s := s ^^^ (s >>> 7)
  s ^^^ (s <<< 17)

/-- The state of lane j after n advances. -/
def srState (q : Word) (j : Nat) : Nat → Word
  | 0 => srSeed q j
  | n + 1 => srAdvance (srState q j n)

/-- The top w bits of the state after the n-th advance. -/
def srBits (q : Word) (j n w : Nat) : Nat := (srState q j n).toNat >>> (64 - w)

end Sys2Proof.Machine
end

