-- ==== Sys2Proof/Machine/Banks.lean ====
section
/-! DEFINITION. Unit codes and sub-states, the spare banks of stage memory, and what a retirement programs (08:R238;
13:R365; 14:R404, R405; 15:R435, R437). -/

namespace Sys2Proof.Machine

/-! Unit codes (13:R365). -/

def unitOf (cls idx : Nat) : BitVec 16 := BitVec.ofNat 16 (cls * 256 + idx)
def uClass (u : BitVec 16) : Nat := u.toNat / 256
def uIdx (u : BitVec 16) : Nat := u.toNat % 256

/-- Units of a class, whether built or not. -/
def classSize (cls : Nat) : Nat :=
  match cls with
  | 1 => 16 | 2 => 8 | 3 => 16 | 4 => 8 | 5 => 16 | 6 => 128 | _ => 0

/-- The code names a unit of the table. -/
def unitExists (u : BitVec 16) : Bool := uIdx u < classSize (uClass u)

def unitBuilt (s : State) (u : BitVec 16) : Bool :=
  match uClass u with
  | 1 => (cgBuilt s).getLsbD (uIdx u)
  | 2 => (ccBuilt s).getLsbD (uIdx u)
  | 3 => (mpBuilt s).getLsbD (uIdx u)
  | _ => unitExists u

def unitRetired (s : State) (u : BitVec 16) : Bool :=
  match uClass u with
  | 1 => s.svc.retCG.getLsbD (uIdx u)
  | 2 => s.svc.retCC.getLsbD (uIdx u)
  | 4 => s.svc.retVE.getLsbD (uIdx u)
  | 5 => s.svc.retWay.getLsbD (uIdx u)
  | 6 => s.svc.retBank.getLsbD (uIdx u)
  | _ => false

/-- The unit is in its SERVICE sub-state. -/
def inSub (s : State) (u : BitVec 16) : Bool :=
  match uClass u with
  | 1 => s.svc.cg.getLsbD (uIdx u)
  | 2 => s.svc.cc.getLsbD (uIdx u)
  | 4 => s.svc.ve.getLsbD (uIdx u)
  | 5 => s.svc.way.getLsbD (uIdx u)
  | 6 => s.svc.bank.getLsbD (uIdx u)
  | _ => false

/-- A mask with a bit set or cleared. -/
def putBit {n : Nat} (m : BitVec n) (i : Nat) (b : Bool) : BitVec n :=
  if b then m ||| BitVec.ofNat n (2 ^ i) else m &&& ~~~(BitVec.ofNat n (2 ^ i))

def setSub (u : BitVec 16) (b : Bool) (s : State) : State :=
  let v := s.svc
  let i := uIdx u
  { s with svc := match uClass u with
    | 1 => { v with cg := putBit v.cg i b }
    | 2 => { v with cc := putBit v.cc i b }
    | 4 => { v with ve := putBit v.ve i b }
    | 5 => { v with way := putBit v.way i b }
    | 6 => { v with bank := putBit v.bank i b }
    | _ => v }

def setRetired (u : BitVec 16) (s : State) : State :=
  let v := s.svc
  let i := uIdx u
  { s with svc := match uClass u with
    | 1 => { v with retCG := putBit v.retCG i true }
    | 2 => { v with retCC := putBit v.retCC i true }
    | 4 => { v with retVE := putBit v.retVE i true }
    | 5 => { v with retWay := putBit v.retWay i true }
    | 6 => { v with retBank := putBit v.retBank i true }
    | _ => v }

def transOf (s : State) (u : BitVec 16) : Option Trans := (s.svc.trans.find? (·.1 == u)).map (·.2)

def addTrans (u : BitVec 16) (t : Trans) (s : State) : State :=
  { s with svc := { s.svc with trans := s.svc.trans ++ [(u, t)] } }

def endTrans (u : BitVec 16) (s : State) : State :=
  { s with svc := { s.svc with trans := s.svc.trans.filter (·.1 != u) } }

/-! Spare banks (08:R238). -/

/-- The spare that serves a bank. -/
def spareOf (s : State) (b : Nat) : Option (Fin 4) :=
  (List.finRange 4).find? fun i => match vget s.sm.spare i.val none with | some x => x.val == b | none => false

/-- A free spare that may be used. -/
def freeSpare (s : State) : Option (Fin 4) :=
  (List.finRange 4).find? fun i => (vget s.sm.spare i.val none).isNone && !vget s.sm.spareBad i.val false

def bankFin (b : Nat) : Fin 128 := Fin.ofNat 128 b

/-- A spare is taken for a bank. -/
def takeSpare (i : Fin 4) (b : Nat) (s : State) : State :=
  { s with sm := { s.sm with spare := vmod s.sm.spare i.val fun _ => some (bankFin b) } }

/-- The next copy that a transition of a bank waits for begins, if none runs. -/
def nextCopy (s : State) : State :=
  match s.sm.copy with
  | some _ => s
  | none =>
    match s.svc.trans.find? (fun t => uClass t.1 == 6 && (spareOf s (uIdx t.1)).isSome &&
        !(t.2 == .entering && s.sm.copied.contains (uIdx t.1))) with
    | some (u, t) => match spareOf s (uIdx u) with
      | some i => { s with sm := { s.sm with copy := some ⟨i, bankFin (uIdx u), t == .leaving, t == .retiring⟩ } }
      | none => s
    | none => s

/-- A copy ends (08:R238): the spare serves the bank, or, copied back, is free. -/
def endCopy (spare : Nat) (s : State) : State :=
  match s.sm.copy with
  | none => s
  | some c =>
    if c.spare.val != spare then s else
    let u := unitOf 6 c.bank.val
    let s := { s with sm := { s.sm with copy := none } }
    let s :=
      if c.back then
        endTrans u (setSub u false { s with sm := { s.sm with spare := vmod s.sm.spare spare fun _ => none } })
      else if c.retire then endTrans u s
      else { s with sm := { s.sm with copied := c.bank.val :: s.sm.copied } }
    nextCopy s

/-! Retirement (14:R405). -/

/-- A fuse programming is asked for: bits of a word (15:R435). -/
def programFuse (word : Nat) (bits : BitVec 32) (s : State) : State :=
  if bits == 0 then s else { s with fuses := { s.fuses with prog := s.fuses.prog ++ [⟨word, bits, 0⟩] } }

/-- The bits of the retirement map that a retirement programs (15:R437). -/
def programRetire (u : BitVec 16) (s : State) : State :=
  let i := uIdx u
  match uClass u with
  | 1 => programFuse 196 (BitVec.ofNat 32 (2 ^ i)) s
  | 2 => programFuse 196 (BitVec.ofNat 32 (2 ^ (16 + i))) s
  | 4 => programFuse 196 (BitVec.ofNat 32 (2 ^ (24 + i))) s
  | 6 =>
    let s := programFuse (197 + i / 32) (BitVec.ofNat 32 (2 ^ (i % 32))) s
    match spareOf s i with
    | some k => programFuse 201 (BitVec.ofNat 32 ((i + 1) * 256 ^ k.val)) s
    | none => s
  | _ => s

/-- A retired bank is copied to a spare, unless one serves it already (14:R404, R405). -/
def bankToSpare (b : Nat) (s : State) : State :=
  if (spareOf s b).isSome then s
  else match freeSpare s with
    | some i => nextCopy (addTrans (unitOf 6 b) .retiring (takeSpare i b s))
    | none => s

/-- The retirement of a bank takes effect (14:R405). -/
def retireBank (b : Nat) (cause : BitVec 16) (count : Nat) (s : State) : State :=
  let u := unitOf 6 b
  programRetire u (detect hwRetired clsUnit u cause (w64 count) 0
    (bankToSpare b (setRetired u (setSub u false (endTrans u s)))))

/-- A corrected word of a bank is counted for 14:R404; at the limit the bank is retired while a spare is free. -/
def smWindow (b : Nat) (s : State) : State :=
  let n := ((s.sm.ceWindow.find? (·.1 == b)).map (·.2)).getD 0 + 1
  let s := { s with sm := { s.sm with ceWindow := (b, n) :: s.sm.ceWindow.filter (·.1 != b) } }
  if s.svc.smLimit.toNat ≤ n && s.svc.auto == 1 && !s.svc.retBank.getLsbD b && (spareOf s b).isNone &&
      (freeSpare s).isSome && (transOf s (unitOf 6 b)).isNone then
    retireBank b 0x0004 n s
  else s

end Sys2Proof.Machine
end

