-- ==== Sys2Proof/Machine/Mem.lean ====
section
/-! DEFINITION. Memory ports, stage memory and the block cache: what an access does (08:R231 to R240, 12:R351 to R358). -/

namespace Sys2Proof.Machine

/-! Memory ports. -/

/-- The granule of ILV (08:R232). -/
def granule (s : State) : Nat :=
  match s.memp.ilv.toNat with
  | 0 => 256 | 1 => 2048 | 2 => 16384 | _ => 65536

/-- The port of a physical address (08:R231). -/
def portOf (s : State) (pa : Nat) : Nat := (pa / granule s) % portCount s

/-- The address presented on the port (08:R231). -/
def padr (s : State) (pa : Nat) : Nat :=
  pa / granule s / portCount s * granule s + pa % granule s

/-- Tags of a port that are in use: outstanding, or timed out and not answered (15:R425, R426). -/
def tagsUsed (s : State) (port : Nat) : List Nat :=
  (s.memp.out.filter (·.port == port)).map (·.tag.toNat) ++ (s.memp.dead.filter (·.1 == port)).map (·.2.toNat)

/-- The lowest tag of a port that is free (log 9). -/
def freeTag (s : State) (port : Nat) : Option Nat := (List.range 1024).find? fun t => !(tagsUsed s port).contains t

/-- A request is presented on its port: a credit is spent, and the port counts its bytes (15:R425, 08:R232). -/
def presentReq (r : PortReq) (tag : Nat) (s : State) : State :=
  { s with memp := { s.memp with
      out := s.memp.out ++ [{ r with tag := BitVec.ofNat 10 tag }],
      credits := vmod s.memp.credits r.port (· - 1),
      rbytes := if r.write then s.memp.rbytes else vmod s.memp.rbytes r.port (· + 64),
      wbytes := if r.write then vmod s.memp.wbytes r.port (· + w64 r.old.length) else s.memp.wbytes } }

/-- A request can be presented: credit, a free tag, and no parity hold of the ports (15:R425, 13:R388). -/
def canPresent (s : State) (port : Nat) : Option Nat :=
  if mempHeld s || vget s.memp.credits port 0 == 0 then none else freeTag s port

/-- A request for one unit: presented at once, or waiting behind the port's earlier ones. -/
def postReq (unit : Nat) (write : Bool) (w : Waiter) (old : List Host.Cell) (s : State) : State :=
  let port := portOf s (unit * 64)
  let r : PortReq := ⟨port, 0, unit, write, w, old⟩
  match if s.memp.waiting.any (·.port == port) then none else canPresent s port with
  | some t => presentReq r t s
  | none => { s with memp := { s.memp with waiting := s.memp.waiting ++ [r] } }

/-- The oldest waiting request of a port is presented if it can be. -/
def presentWaiting (port : Nat) (s : State) : State :=
  match s.memp.waiting.find? (·.port == port), canPresent s port with
  | some r, some t => presentReq r t { s with memp := { s.memp with waiting := s.memp.waiting.erase r } }
  | _, _ => s

/-- Requests of a port that wait are presented while they can be; at most n of them. -/
def presentAll (port : Nat) : Nat → State → State
  | 0, s => s
  | n + 1, s => presentAll port n (presentWaiting port s)

/-! Read status (08:R233, R234). -/

def worse (a b : ReadStat) : ReadStat :=
  match a, b with
  | .uncorrectable, _ => .uncorrectable
  | _, .uncorrectable => .uncorrectable
  | .corrected, _ => .corrected
  | _, .corrected => .corrected
  | _, _ => .clean

/-- Adds an element that is not there yet. -/
def addOnce {α : Type} [BEq α] (x : α) (l : List α) : List α := if l.contains x then l else x :: l

/-- A port read returned CORRECTED: the count, and the first record of the port in the beat (08:R234). -/
def countMemCe (pa : Nat) (s : State) : State :=
  let p := portOf s pa
  let s := { s with memp := { s.memp with ce := vmod s.memp.ce p (· + 1) } }
  let (first, s) := firstInBeat memCe p s
  if first then detect memCe clsCorrected (BitVec.ofNat 16 (0x0300 + p)) 0 (w64 pa) 0 s true else s

/-- A port read returned UNCORRECTABLE: the count and UE (08:R233). -/
def countMemUe (pa : Nat) (s : State) : State :=
  mempEvent 0 { s with memp := { s.memp with ue := vmod s.memp.ue (portOf s pa) (· + 1) } }

/-- The logical bank of a stage-memory address (08:R236). -/
def bankOf (pa : Nat) : Nat :=
  let o := past stageBase pa
  ((o >>> 7) % 128) ^^^ ((o >>> 14) % 128)

/-- A corrected stage-memory word: SM_CE_COUNT, the count of 14:R404, and the first record of the bank in the beat
(08:R234, R239). -/
def countSmCe (pa : Nat) (s : State) : State :=
  let b := bankOf pa
  smWindow b <|
  let s := { s with sm := { s.sm with ceLast := BitVec.ofNat 8 b, ceCount := s.sm.ceCount + 1 } }
  let (first, s) := firstInBeat smCe b s
  if first then detect smCe clsCorrected (BitVec.ofNat 16 (0x0600 + b)) 0 (w64 pa) 0 s true else s

/-- An uncorrectable stage-memory word: SM_UE_COUNT (08:R233, R239). -/
def countSmUe (pa : Nat) (s : State) : State :=
  { s with sm := { s.sm with ueLast := BitVec.ofNat 8 (bankOf pa), ueCount := s.sm.ueCount + 1 } }

/-- A stage-memory word is read: its status as the code finds it (08:R233, R234). -/
def readSmWord (word : Nat) (s : State) : ReadStat × State :=
  if s.sm.ueWords.contains word then (.uncorrectable, countSmUe (word * 32) s)
  else if s.sm.ceWords.contains word then (.corrected, countSmCe (word * 32) s)
  else (.clean, s)

/-- A 64-byte unit of external memory is read at its port: the answer that its requester has; else the unit is asked for,
and a requester that is not sent again takes the status that the controller last gave (log 9). -/
def readPortUnit (unit : Nat) (s : State) : ReadStat × State :=
  match s.memp.got.find? (·.2.1 == unit) with
  | some (_, _, st) => (st, s)
  | none =>
  let p := portOf s (unit * 64)
  let s := { s with memp := { s.memp with
    asks := addOnce unit s.memp.asks, rbytes := vmod s.memp.rbytes p (· + 64) } }
  if s.memp.ueUnits.contains unit then (.uncorrectable, countMemUe (unit * 64) s)
  else if s.memp.ceUnits.contains unit then (.corrected, countMemCe (unit * 64) s)
  else (.clean, s)

/-! Requesters that wait for their reads (15:R425, R426; log 9). -/

/-- The state as requester k finds it: the answers are its own. -/
def portView (k : Nat) (s : State) : State :=
  { s with memp := { s.memp with got := s.memp.got.filter (·.1 == k), asks := [] } }

/-- What requester k has done stands: its answers are used up. -/
def portDone (k : Nat) (s t : State) : State :=
  { t with memp := { t.memp with got := s.memp.got.filter (·.1 != k) } }

/-- The reads that requester k lacks are posted, those that are not posted already. -/
def askPorts (k : Nat) : List Nat → State → State
  | [], s => s
  | u :: us, s =>
    askPorts k us (if (s.memp.out ++ s.memp.waiting).any fun r => r.waiter == .command k && r.unit == u then s
      else postReq u false (.command k) [] s)

/-- A command of requester k: it takes effect once every unit that it reads at a port has been answered; till then the
reads that are missing are posted, and nothing else happens. -/
def atPorts (k : Nat) (f : State → Host.Outcome State Fault Refusal) (s : State) : Host.Outcome State Fault Refusal :=
  match f (portView k s) with
  | .next t => if t.memp.asks.isEmpty then .next (portDone k s t) else .next (askPorts k t.memp.asks s)
  | o => o

/-- The same of what is no command of its own; nothing where an answer is missing. -/
def tryPorts (k : Nat) (f : State → State) (s : State) : State × Bool :=
  let t := f (portView k s)
  if t.memp.asks.isEmpty then (portDone k s t, true) else (askPorts k t.memp.asks s, false)

/-- The blocks of size k that n bytes from an address touch. -/
def blocksOf (k a n : Nat) : List Nat :=
  if n == 0 then [] else (List.range ((a + n - 1) / k - a / k + 1)).map (· + a / k)

/-! The block cache. -/

/-- The set of a line (12:R351). -/
def bcSet (line : Nat) : Nat := (line % 16384) ^^^ ((line / 16384) % 16384)

def bcFind (s : State) (line : Nat) : Option BcLine := s.bc.lines.find? (·.line == line)

/-- BC_WAYS.ACTIVE: not down, disabled or in service; 0 until the end of BOOT (12:R356). -/
def bcActive (s : State) : BitVec 16 :=
  if s.ctl.state == .boot then 0 else ~~~(s.bc.down ||| s.bc.disabled ||| s.svc.way ||| s.svc.retWay)

/-- Ways into which lines are allocated: FILLMASK, not LOCK, active, not being cleaned or powered up (12:R354, R356). -/
def bcFillable (s : State) : List Nat :=
  maskBits (s.bc.fillmask &&& ~~~s.bc.lock &&& bcActive s &&& ~~~s.bc.off &&& ~~~s.bc.busy)

/-- The 128 bytes of a line as cells. -/
def lineCells (line : Nat) (bs : List Byte) : List Host.Cell := cellsAt (line * 128) bs

/-- A dirty line is written back to its port, and is clean (12:R352). -/
def writeBack (l : BcLine) (s : State) : State :=
  let s := postReq (l.line * 2) true .writeBack (cellsAt (l.line * 128) (l.under.take 64)) s
  let s := postReq (l.line * 2 + 1) true .writeBack (cellsAt (l.line * 128 + 64) (l.under.drop 64)) s
  { s with bc := { s.bc with lines := s.bc.lines.map fun x =>
      if x.line == l.line then { x with dirty := false, under := [] } else x } }

/-- A line leaves its way for the victim cache, written back first if it is dirty; a 65th victim line is dropped
(12:R351, R352; which one is free). -/
def evictLine (l : BcLine) (s : State) : State :=
  let s := if l.dirty then writeBack l s else s
  let s := { s with bc := { s.bc with
    lines := s.bc.lines.filter (·.line != l.line), victim := l.line :: s.bc.victim } }
  if s.bc.victim.length ≤ 64 then s
  else
    let (i, s) := drawNat s.bc.victim.length s
    { s with bc := { s.bc with victim := s.bc.victim.eraseIdx i } }

/-- Allocation of a line that is in no way: the way is free among those that qualify, an empty place of the set first;
a bad line is never replaced (12:R354, R357). The line is placed clean. -/
def bcAlloc (line : Nat) (s : State) : Bool × State :=
  if bcHeld s then (false, s) else
  let inSet := s.bc.lines.filter fun l => bcSet l.line == bcSet line
  let ways := bcFillable s
  let empty := ways.filter fun w => !inSet.any (·.way.val == w)
  let usable := if empty.isEmpty then ways.filter fun w => !inSet.any (fun l => l.way.val == w && l.bad) else empty
  if usable.isEmpty then (false, s) else
  let (i, s) := drawNat usable.length s
  let w := usable.getD i 0
  let s := match inSet.find? (·.way.val == w) with
    | some l => evictLine l s
    | none => s
  (true, { s with bc := { s.bc with
    lines := ⟨line, Fin.ofNat 16 w, false, false, []⟩ :: s.bc.lines, victim := s.bc.victim.erase line } })

def bcCount (hit : Bool) (s : State) : State :=
  if hit then { s with bc := { s.bc with hits := s.bc.hits + 1 } }
  else { s with bc := { s.bc with misses := s.bc.misses + 1 } }

/-- A read of a bad line: the outcome of 08:R233, and its record (12:R357). -/
def readBad (l : BcLine) (s : State) : State :=
  detect memUe clsInfo (BitVec.ofNat 16 (0x0500 + l.way.val)) 3 (w64 (l.line * 128)) 0 s true

/-- Reads of units at their ports, one after another. -/
def readPortUnits : List Nat → State → ReadStat × State
  | [], s => (.clean, s)
  | u :: us, s =>
    let (a, s) := readPortUnit u s
    let (b, s) := readPortUnits us s
    (worse a b, s)

/-- The part of a line that an access touches is read through the block cache; `alloc`: the line is allocated on a
miss, unless it is uncorrectable (12:R352, 08:R233). `units`: the units read where it misses without allocation. -/
def readLine (alloc : Bool) (line : Nat) (units : List Nat) (s : State) : ReadStat × State :=
  match bcFind s line with
  | some l => if l.bad then (.uncorrectable, readBad l (bcCount true s)) else (.clean, bcCount true s)
  | none =>
    if s.bc.victim.contains line then (.clean, (bcAlloc line (bcCount true s)).2)
    else
      let (r, s) := readPortUnits units (bcCount false s)
      if !alloc then (r, s)
      else
        let (r', s) := readPortUnits ([line * 2, line * 2 + 1].filter fun u => !units.contains u) s
        (r, if worse r r' == .uncorrectable then s else (bcAlloc line s).2)

def readLines (alloc : Bool) (a n : Nat) : List Nat → State → ReadStat × State
  | [], s => (.clean, s)
  | l :: ls, s =>
    let (r, s) := readLine alloc l ((blocksOf 64 a n).filter fun u => u / 2 == l) s
    let (r', s) := readLines alloc a n ls s
    (worse r r', s)

def readSmWords : List Nat → State → ReadStat × State
  | [], s => (.clean, s)
  | w :: ws, s =>
    let (a, s) := readSmWord w s
    let (b, s) := readSmWords ws s
    (worse a b, s)

/-- The status of a read of n bytes of external or stage memory that is answered at once (08:R233, R234). -/
def readAccess (alloc : Bool) (pa n : Nat) (s : State) : ReadStat × State :=
  match region s pa with
  | .ext => readLines alloc pa n (blocksOf 128 pa n) s
  | .stage => readSmWords (blocksOf 32 pa n) s
  | _ => (.clean, s)

/-- An engine's read of the units of n bytes: block-cache hits are served, misses go to the ports and answer later
(12:R352); the status of what is known at once. -/
def engReadUnits (w : Waiter) : List Nat → State → ReadStat × State
  | [], s => (.clean, s)
  | u :: us, s =>
    let (r, s) : ReadStat × State := match bcFind s (u / 2) with
      | some l => if l.bad then (.uncorrectable, readBad l (bcCount true s)) else (.clean, bcCount true s)
      | none =>
        if s.bc.victim.contains (u / 2) then (.clean, (bcAlloc (u / 2) (bcCount true s)).2)
        else (.clean, postReq u false w [] (bcCount false s))
    let (r', s) := engReadUnits w us s
    (worse r r', s)

def engRead (w : Waiter) (pa n : Nat) (s : State) : ReadStat × State :=
  match region s pa with
  | .ext => engReadUnits w (blocksOf 64 pa n) s
  | .stage => readSmWords (blocksOf 32 pa n) s
  | _ => (.clean, s)

/-! Writes. -/

/-- Cells in groups of one block of size k each, in order. -/
def groupCells (k : Nat) (cs : List Host.Cell) : List (List Host.Cell) := cs.splitBy fun a b => a.1 / k == b.1 / k

/-- The cells of memory at the addresses of the given cells. -/
def oldCells (m : List Host.Cell) (cs : List Host.Cell) : List Host.Cell := cs.map fun c => (c.1, Memory.get m c.1)

/-- A line becomes dirty: what memory behind it holds is kept from then on. -/
def markDirty (line : Nat) (s : State) : State :=
  { s with bc := { s.bc with lines := s.bc.lines.map fun l =>
      if l.line == line && !l.dirty then { l with dirty := true, under := Memory.gets s.mem (line * 128) 128 } else l } }

/-- Bytes written to memory behind a line that is dirty. -/
def updateUnder (cs : List Host.Cell) (s : State) : State :=
  { s with bc := { s.bc with lines := s.bc.lines.map fun l =>
      if l.dirty then { l with under := (List.range 128).zipWith (fun i b =>
        match cs.find? (·.1 == l.line * 128 + i) with | some c => c.2 | none => b) l.under } else l } }

/-- The bytes of one unit go to its port. -/
def portWrite (w : Waiter) (unit : Nat) (cs : List Host.Cell) (s : State) : State :=
  updateUnder cs (postReq unit true w (oldCells s.mem cs) s)

/-- The bytes take their place in memory; a whole unit clears the unit's read status (log 9). -/
def storeUnit (unit : Nat) (cs : List Host.Cell) (s : State) : State :=
  let s := { s with mem := Memory.puts s.mem cs }
  if cs.length < 64 then s
  else { s with memp := { s.memp with ueUnits := s.memp.ueUnits.erase unit, ceUnits := s.memp.ceUnits.erase unit } }

/-- A write of bytes within one unit of external memory (12:R352): `alloc` allocates on a miss, `through` writes
memory also on a hit; a line in the victim cache moves back into a way that allocation permits. -/
def writeUnit (alloc through : Bool) (w : Waiter) (unit : Nat) (cs : List Host.Cell) (s : State) : State :=
  let line := unit / 2
  let inWay := (bcFind s line).isSome
  let inVic := s.bc.victim.contains line
  let s := bcCount (inWay || inVic) s
  if through then
    let s := if (alloc && !inWay) || inVic then (bcAlloc line s).2 else s
    storeUnit unit cs (portWrite w unit cs s)
  else if inWay then storeUnit unit cs (markDirty line s)
  else if inVic || alloc then
    let (r, s) := if inVic then (ReadStat.clean, s) else readPortUnits [line * 2, line * 2 + 1] s
    let (ok, s) := if r == .uncorrectable then (false, s) else bcAlloc line s
    if ok then storeUnit unit cs (markDirty line s)
    else
      let s := { s with bc := { s.bc with victim := s.bc.victim.erase line } }
      storeUnit unit cs (portWrite w unit cs s)
  else storeUnit unit cs (portWrite w unit cs s)

/-- Bytes take their place in a stage-memory word, whose code is then right. -/
def storeSmWord (word : Nat) (cs : List Host.Cell) (s : State) : State :=
  { s with
    mem := Memory.puts s.mem cs,
    sm := { s.sm with ueWords := s.sm.ueWords.erase word, ceWords := s.sm.ceWords.erase word } }

/-- A write of bytes within one stage-memory word (08:R236): a write of part of it reads the word, and writes nothing
where that is uncorrectable; whether it was written. -/
def writeSmWord (word : Nat) (cs : List Host.Cell) (s : State) : Bool × State :=
  if 32 ≤ cs.length then (true, storeSmWord word cs s)
  else match readSmWord word s with
    | (.uncorrectable, s) => (false, s)
    | (_, s) => (true, storeSmWord word cs s)

def writeSmGroups : List (List Host.Cell) → State → Option Nat × State
  | [], s => (none, s)
  | g :: gs, s =>
    let a := (g.headD (0, 0)).1
    let (ok, s) := writeSmWord (a / 32) g s
    let (r, s) := writeSmGroups gs s
    (if ok then r else some a, s)

def writeUnits (alloc through : Bool) (w : Waiter) : List (List Host.Cell) → State → State
  | [], s => s
  | g :: gs, s => writeUnits alloc through w gs (writeUnit alloc through w ((g.headD (0, 0)).1 / 64) g s)

/-- Bad lines all of whose bytes are written become ordinary dirty lines (12:R357). -/
def mendLines (cs : List Host.Cell) (s : State) : State :=
  let whole := ((groupCells 128 cs).filter fun g => 128 ≤ g.length).map fun g => (g.headD (0, 0)).1 / 128
  { s with bc := { s.bc with lines := s.bc.lines.map fun l => if whole.contains l.line then { l with bad := false } else l } }

/-- A write of bytes in external or stage memory; the first address that could not be written (08:R235, R236). -/
def writeAccess (alloc through : Bool) (w : Waiter) (cs : List Host.Cell) (s : State) : Option Nat × State :=
  let ext := cs.filter fun c => region s c.1 == .ext
  let sm := cs.filter fun c => region s c.1 == .stage
  let s := writeUnits alloc through w (groupCells 64 ext) (mendLines ext s)
  writeSmGroups (groupCells 32 sm) s

/-- ZLINE on a line of external memory under WB: allocated without a read, zeroed and dirty; on no free way the
zeros go to the port (12:R358). -/
def zeroLine (wb : Bool) (w : Waiter) (line : Nat) (s : State) : State :=
  let cs := cellsAt (line * 128) (List.replicate 128 (0 : Byte))
  if wb then
    let (ok, s) := if (bcFind s line).isSome then (true, s) else bcAlloc line s
    if ok then
      let s := mendLines cs (markDirty line s)
      storeUnit (line * 2 + 1) (cs.drop 64) (storeUnit (line * 2) (cs.take 64) s)
    else (writeAccess false true w cs s).2
  else (writeAccess false true w cs s).2

/-- A way with no line left to clean is clean: its remaining lines are bad ones (12:R356, R357). -/
def cleanWay (way : Nat) (s : State) : State :=
  let s := (s.bc.lines.filter fun l => l.way.val == way && l.dirty && !l.bad).foldl (fun s l => writeBack l s) s
  { s with bc := { s.bc with
    lines := s.bc.lines.filter fun l => l.way.val != way || l.bad,
    lock := s.bc.lock &&& ~~~(BitVec.ofNat 16 (2 ^ way)) } }

end Sys2Proof.Machine
end

