-- ==== Sys2Proof/Machine/Xlat.lean ====
section
/-! DEFINITION. Translation: walks, permission, marks, the TLBs and invalidation (12:R334 to R350). -/

namespace Sys2Proof.Machine

/-- The answer of a translation; `wait`: a walk is needed and translation is held (13:R388). -/
inductive XRes where
  | ok (pa : Nat) (attr : BitVec 3)
  | fault (ev : BitVec 16)
  | wait
  deriving DecidableEq, Repr

/-! Table entries (12:R338, R339). -/

def eV (e : Word) : Bool := e.getLsbD 0
def eLeaf (e : Word) : Bool := e.getLsbD 1
def eAttr (e : Word) : BitVec 3 := e.extractLsb' 2 3
def eA (e : Word) : Bool := e.getLsbD 5
def eD (e : Word) : Bool := e.getLsbD 6
def eRD (e : Word) : Bool := e.getLsbD 7
def eW (e : Word) : Bool := e.getLsbD 8
def eX (e : Word) : Bool := e.getLsbD 9
def eE (e : Word) : Bool := e.getLsbD 10
def eBase (e : Word) : Nat := fld e 12 40 * 4096
def ePL (e : Word) : Nat := fld e 52 3

def attrWB : BitVec 3 := 0
def attrWT : BitVec 3 := 1
def attrWC : BitVec 3 := 2
def attrUC : BitVec 3 := 3
def attrDevice : BitVec 3 := 4

def attrReserved (a : BitVec 3) : Bool := 4 < a.toNat

/-- A table pointer that a walk can follow (12:R338, R340). -/
def pointerOk (p : Word) : Bool := eV p && !eLeaf p && !p.getLsbD 11 && !attrReserved (eAttr p)

/-- An entry with a reserved bit or code (12:R338): bit 55 is reserved in a leaf and ignored in a pointer. -/
def entryReserved (e : Word) : Bool := e.getLsbD 11 || attrReserved (eAttr e) || (eLeaf e && e.getLsbD 55)

/-- log2 of the page that a leaf of a level maps (12:R337). -/
def pageBits (level : Nat) : Nat := 39 - 9 * level

def vaIndex (va level : Nat) : Nat := (va >>> pageBits level) % 512

def inMemory (s : State) (pa : Nat) : Bool := region s pa == .ext || region s pa == .stage

/-- Walk reads of WB and WT tables allocate in the block cache (12:R340). -/
def walkRead (attr : BitVec 3) (pa : Nat) (s : State) : Option Word × State :=
  let (r, s) := readAccess (attr == attrWB || attr == attrWT) pa 8 s
  if r == .uncorrectable then (none, s) else (some (w64 (leNat (Memory.gets s.mem pa 8))), s)

/-- An access is permitted by a leaf at a physical address (12:R341, 01:R34); k: the level of the core. -/
def permitted (s : State) (acc : Access) (k : Nat) (leaf : Word) (pa : Nat) : Bool :=
  let dev := eAttr leaf == attrDevice
  let reg := region s pa
  let coreReach := reg == .ext || reg == .stage || (reg == .ctl && dev)
  match acc with
  | .load => ePL leaf ≤ k && eRD leaf && coreReach
  | .store => ePL leaf ≤ k && eW leaf && coreReach
  | .rowLoad => ePL leaf ≤ k && eRD leaf && !dev && inMemory s pa
  | .rowStore => ePL leaf ≤ k && eW leaf && !dev && inMemory s pa
  | .fetch => ePL leaf ≤ k && eX leaf && !dev && coreReach
  | .atomic => ePL leaf ≤ k && eRD leaf && eW leaf && !dev && coreReach
  | .unitRead => eRD leaf && eW leaf && inMemory s pa
  | .unitWrite => eRD leaf && eW leaf && inMemory s pa
  | .engRead => eE leaf && eRD leaf && !dev && inMemory s pa
  | .stageRead => eE leaf && eRD leaf && (!dev || !inMemory s pa)
  | .engWrite => eE leaf && eW leaf && !dev && inMemory s pa
  | .remRead => eE leaf && eRD leaf && reg == .remote
  | .remWrite => eE leaf && eW leaf && reg == .remote

/-- Accesses that need the dirty mark (12:R342). -/
def accWrites (acc : Access) : Bool :=
  match acc with
  | .store | .rowStore | .atomic | .unitWrite | .engWrite | .remWrite => true
  | _ => false

/-- Permission and marks of a leaf (12:R341, R342). -/
def checkLeaf (s : State) (acc : Access) (k : Nat) (leaf : Word) (pa : Nat) : XRes :=
  if region s pa == .none then .fault xlNotPresent
  else if !permitted s acc k leaf pa then .fault xlPermission
  else if accWrites acc && !eD leaf then .fault xlMarkD
  else if !accWrites acc && !eA leaf then .fault xlMarkA
  else .ok pa (eAttr leaf)

/-! The structures of 12:R343. -/

def tlbMatch (ctx : BitVec 16) (va : Nat) (e : TlbEntry) : Bool :=
  e.ctx == ctx && va / 2 ^ pageBits e.level == e.vbase / 2 ^ pageBits e.level

/-- The element for which a place is made when a structure of a size is full: a free one (log 10). -/
def insertAt {α : Type} (size : Nat) (x : α) (l : List α) (s : State) : List α × State :=
  if l.length < size then (x :: l, s)
  else
    let (i, s) := drawNat l.length s
    (x :: l.eraseIdx i, s)

def fillBlockTlb (e : TlbEntry) (s : State) : State :=
  let (l, s) := insertAt 8192 e (s.xlat.tlb.filter fun x => !tlbMatch e.ctx e.vbase x) s
  { s with xlat := { s.xlat with tlb := l } }

def fillL1Tlb (c : Nat) (e : TlbEntry) (s : State) : State :=
  let (l, s) := insertAt 64 e ((getCore s c).l1tlb.filter fun x => !tlbMatch e.ctx e.vbase x) s
  modCore c (fun k => { k with l1tlb := l }) s

def fillWalker (e : WalkEntry) (s : State) : State :=
  let (l, s) := insertAt 256 e (s.xlat.walker.filter fun x =>
    !(x.ctx == e.ctx && x.level == e.level && x.prefix_ == e.prefix_)) s
  { s with xlat := { s.xlat with walker := l } }

def fillCtxCache (ctx : BitVec 16) (e : Word) (s : State) : State :=
  let (l, s) := insertAt 32 (ctx, e) (s.xlat.ctxCache.filter (·.1 != ctx)) s
  { s with xlat := { s.xlat with ctxCache := l } }

/-! The walk (12:R340). -/

/-- The root of a walk: the core's, or the context-table entry through the context cache (12:R334, R336, R348). -/
def walkRootOf (root : WalkRoot) (s : State) : Except (BitVec 16) Word × State :=
  match root with
  | .core c => (.ok (getCore s c).ttb, s)
  | .engine ctx =>
    if !s.xlat.baseV then (.error xlNotPresent, s)
    else
      let base := s.xlat.basePA.toNat * 4096
      if s.xlat.baseAttr == attrDevice || !inMemory s base then (.error xlWalkDevice, s)
      else match s.xlat.ctxCache.find? (·.1 == ctx) with
        | some (_, e) => (.ok e, s)
        | none => match walkRead s.xlat.baseAttr (base + 8 * ctx.toNat) s with
          | (none, s) => (.error xlWalkMemerr, s)
          | (some e, s) => (.ok e, if pointerOk e then fillCtxCache ctx e s else s)

/-- The levels from a pointer on: the level and the leaf. -/
def walkLevels (ctx : BitVec 16) (va : Nat) : List Nat → Word → State → Except (BitVec 16) (Nat × Word) × State
  | [], _, s => (.error xlNotPresent, s)
  | lvl :: rest, p, s =>
    if !pointerOk p then (.error xlNotPresent, s)
    else if eAttr p == attrDevice || !inMemory s (eBase p) then (.error xlWalkDevice, s)
    else match walkRead (eAttr p) (eBase p + 8 * vaIndex va lvl) s with
      | (none, s) => (.error xlWalkMemerr, s)
      | (some e, s) =>
        if eV e && !eLeaf e && lvl < 3 then
          let s := if pointerOk e then fillWalker ⟨ctx, lvl + 1, va / 2 ^ pageBits lvl, e⟩ s else s
          walkLevels ctx va rest e s
        else if !eV e || entryReserved e || !eLeaf e || lvl == 0 || eBase e % 2 ^ pageBits lvl != 0 then
          (.error xlNotPresent, s)
        else (.ok (lvl, e), s)

/-- The deepest table pointer that the walker cache holds for an address (12:R343). -/
def walkerHit (s : State) (ctx : BitVec 16) (va : Nat) : Option WalkEntry :=
  [3, 2, 1].findSome? fun l =>
    s.xlat.walker.find? fun e => e.ctx == ctx && e.level == l && e.prefix_ == va / 2 ^ pageBits (l - 1)

/-- The leaf of an address and its level: from the walker cache's deepest pointer on, or from the root. -/
def walkFind (root : WalkRoot) (ctx : BitVec 16) (va : Nat) (s : State) : Except (BitVec 16) (Nat × Word) × State :=
  match walkerHit s ctx va with
  | some e => walkLevels ctx va ((List.range 4).filter (e.level ≤ ·)) e.entry s
  | none => match walkRootOf root s with
    | (.error ev, s) => (.error ev, s)
    | (.ok p, s) => walkLevels ctx va [0, 1, 2, 3] p s

/-- What a walk answers for the leaf that it has found; a permitted access fills the block TLB. -/
def walkEnd (ctx : BitVec 16) (va : Nat) (acc : Access) (k : Nat) (r : Except (BitVec 16) (Nat × Word)) (s : State) :
    XRes × Option TlbEntry × State :=
  match r with
  | .error ev => (.fault ev, none, s)
  | .ok (lvl, leaf) =>
    let size := 2 ^ pageBits lvl
    match checkLeaf s acc k leaf (eBase leaf + va % size) with
    | .ok pa attr =>
      let e : TlbEntry := ⟨ctx, va / size * size, lvl, eBase leaf, leaf⟩
      (.ok pa attr, some e, if eA leaf then fillBlockTlb e s else s)
    | x => (x, none, s)

/-- A walk is counted. -/
def countWalk (s : State) : State := { s with xlat := { s.xlat with walks := s.xlat.walks + 1 } }

/-- A walk for an access at a core level, counted when it ends. -/
def walk (root : WalkRoot) (ctx : BitVec 16) (va : Nat) (acc : Access) (k : Nat) (s : State) :
    XRes × Option TlbEntry × State :=
  if va / 2 ^ 48 != 0 then (.fault xlNotPresent, none, s)
  else walkEnd ctx va acc k (walkFind root ctx va s).1 (countWalk (walkFind root ctx va s).2)

/-- An access through a held translation; a write that hits a leaf with D clear walks again (12:R342). -/
def tlbHit (s : State) (acc : Access) (k : Nat) (va : Nat) (e : TlbEntry) : Option XRes :=
  match checkLeaf s acc k e.leaf (e.pbase + va % 2 ^ pageBits e.level) with
  | .fault ev => if ev == xlMarkD then none else some (.fault ev)
  | r => some r

/-- Translation of an engine's access in a context (12:R350). -/
def xlatEngine (ctx : BitVec 16) (va : Nat) (acc : Access) (s : State) : XRes × State :=
  if va / 2 ^ 48 != 0 then (.fault xlNotPresent, s) else
  match (s.xlat.tlb.find? (tlbMatch ctx va)).bind (tlbHit s acc 0 va) with
  | some r => (r, s)
  | none =>
    if xlatHeld s then (.wait, s)
    else
      let (r, _, s) := walk (.engine ctx) ctx va acc 0 s
      (r, s)

/-- Translation of a core's access (12:R334, R343): L1 TLB, block TLB, walk. -/
def xlatCore (c : Fin 8) (va : Nat) (acc : Access) (k : Nat) (s : State) : XRes × State :=
  if va / 2 ^ 48 != 0 then (.fault xlNotPresent, s) else
  let core := getCore s c
  match (core.l1tlb.find? (tlbMatch core.ctx va)).bind (tlbHit s acc k va) with
  | some r => (r, s)
  | none =>
    match s.xlat.tlb.find? (tlbMatch core.ctx va) with
    | some e =>
      match tlbHit s acc k va e with
      | some r => (r, fillL1Tlb c e s)
      | none =>
        if xlatHeld s then (.wait, s)
        else
          let (r, e, s) := walk (.core c) core.ctx va acc k s
          (r, match e with | some e => if eA e.leaf then fillL1Tlb c e s else s | none => s)
    | none =>
      if xlatHeld s then (.wait, s)
      else
        let (r, e, s) := walk (.core c) core.ctx va acc k s
        (r, match e with | some e => if eA e.leaf then fillL1Tlb c e s else s | none => s)

/-! Invalidation (12:R346). -/

/-- What a variant removes: 0 address, 1 address with walker cache, 2 context, 3 block. -/
def invTlb (variant : Nat) (ctx : BitVec 16) (va : Nat) (l : List TlbEntry) : List TlbEntry :=
  l.filter fun e => match variant with
    | 0 | 1 => !tlbMatch ctx va e
    | 2 => e.ctx != ctx
    | _ => false

def invWalker (variant : Nat) (ctx : BitVec 16) (va : Nat) (l : List WalkEntry) : List WalkEntry :=
  l.filter fun e => match variant with
    | 0 => true
    | 1 => !(e.ctx == ctx && e.prefix_ == va / 2 ^ pageBits (e.level - 1))
    | 2 => e.ctx != ctx
    | _ => false

def invCtx (variant : Nat) (ctx : BitVec 16) (l : List (BitVec 16 × Word)) : List (BitVec 16 × Word) :=
  l.filter fun e => match variant with
    | 0 | 1 => true
    | 2 => e.1 != ctx
    | _ => false

/-- Every entry that a variant covers leaves every structure (12:R346, R347). -/
def invalidate (variant : Nat) (ctx : BitVec 16) (va : Nat) (s : State) : State :=
  { s with
    xlat := { s.xlat with
      tlb := invTlb variant ctx va s.xlat.tlb,
      walker := invWalker variant ctx va s.xlat.walker,
      ctxCache := invCtx variant ctx s.xlat.ctxCache },
    cores := vmap (fun c => { c with l1tlb := invTlb variant ctx va c.l1tlb }) s.cores }

/-- The pages of 4 KiB that a range of n bytes touches, as virtual addresses: the first byte in each. -/
def pagesOf (va n : Nat) : List Nat :=
  (blocksOf 4096 va n).map fun p => max va (p * 4096)

/-- The mapping of the pages of a range: virtual page number to physical page number; or the first failure with its
address. -/
inductive PageRes where
  | ok (m : List (Nat × Nat × BitVec 3))
  | fault (ev : BitVec 16) (va : Nat)
  | wait
  deriving DecidableEq, Repr

/-- Translation of every page of a list of addresses. -/
def xlatPages (ctx : BitVec 16) (acc : Access) : List Nat → List (Nat × Nat × BitVec 3) → State → PageRes × State
  | [], m, s => (.ok m, s)
  | va :: vas, m, s =>
    if m.any (·.1 == va / 4096) then xlatPages ctx acc vas m s
    else match xlatEngine ctx va acc s with
      | (.ok pa attr, s) => xlatPages ctx acc vas ((va / 4096, pa / 4096, attr) :: m) s
      | (.fault ev, s) => (.fault ev va, s)
      | (.wait, s) => (.wait, s)

/-- A virtual address through translated pages. -/
def mapVa (m : List (Nat × Nat × BitVec 3)) (va : Nat) : Nat :=
  match m.find? (·.1 == va / 4096) with
  | some (_, p, _) => p * 4096 + va % 4096
  | none => va

end Sys2Proof.Machine
end

