-- ==== Sys2Proof/Machine/Operands.lean ====
section
/-! DEFINITION. Descriptor fields, operand references, element placement, scale lines, structured 2:4 chunks, gathered
lines and ranges (06:R154 to R164, R172; 05:R135, R136, R141). -/

namespace Sys2Proof.Machine

/-! Descriptor fields (06:R154 to R158). -/

def dOpcode (d : Desc) : Nat := fld d 0 8
def dClass (d : Desc) : Nat := fld d 8 4
def dVersion (d : Desc) : Nat := fld d 12 4
def dPred (d : Desc) : Bool := d.getLsbD 16
def dReplay (d : Desc) : Bool := d.getLsbD 17
def dNotify (d : Desc) : Bool := d.getLsbD 18
def dBarrier (d : Desc) : Bool := d.getLsbD 19
def dTimed (d : Desc) : Bool := d.getLsbD 20
def dInstance (d : Desc) : Nat := fld d 24 8
def dTag (d : Desc) : Nat := fld d 32 32
def dWaitFlag (d : Desc) : Nat := fld d 64 12
def dCmp (d : Desc) : Nat := fld d 76 3
def dWaitValue (d : Desc) : BitVec 32 := d.extractLsb' 96 32
def dNb (d : Desc) : Nat := fld d 192 64
def dDeadline (d : Desc) : Nat := fld d 256 64

/-- The descriptor has a deadline (06:R160). -/
def dHasDeadline (d : Desc) : Bool := dTimed d && dDeadline d != 0

/-- A signal or update word (06:R158, 07:R195). -/
structure Signal where
  flag  : Nat
  op    : Nat
  when_ : Nat
  node  : BitVec 16
  value : BitVec 32
  deriving DecidableEq, Repr

def signalOf (w : Word) : Signal :=
  ⟨fld w 0 12, fld w 12 2, fld w 14 2, w.extractLsb' 16 16, w.extractLsb' 32 32⟩

def dSignal (d : Desc) : Signal := signalOf (d.extractLsb' 128 64)

/-- The operation-specific bits [lo + n - 1 : lo] (07:R193). -/
def osf (d : Desc) (lo n : Nat) : Nat := fld d (896 + lo) n

/-! Operand references (06:R161). -/

structure Operand where
  addr   : Nat
  fmt    : Nat
  layout : Nat
  rows   : Nat
  cols   : Nat
  scale  : Nat
  sparse : Nat
  scoff  : Nat
  stride : Nat
  idxoff : Nat
  deriving DecidableEq, Repr

/-- The operand reference that begins at a bit of the descriptor. -/
def operandAt (d : Desc) (b : Nat) : Operand :=
  { addr := fld d b 48, fmt := fld d (b + 48) 8, layout := fld d (b + 56) 8, rows := fld d (b + 64) 16 + 1,
    cols := fld d (b + 80) 16 + 1, scale := fld d (b + 96) 4, sparse := fld d (b + 100) 4,
    scoff := fld d (b + 104) 24, stride := fld d (b + 128) 40, idxoff := fld d (b + 168) 24 }

def dA (d : Desc) : Operand := operandAt d 320
def dB (d : Desc) : Operand := operandAt d 512
def dC (d : Desc) : Operand := operandAt d 704

/-- The operand of a part code 1 to 3 (06:R176). -/
def dPart (d : Desc) (p : Nat) : Operand := if p == 1 then dA d else if p == 2 then dB d else dC d

def Operand.bits (o : Operand) : Nat := fmtBits o.fmt
/-- Scale block size (02:R47). -/
def Operand.bs (o : Operand) : Nat := if o.scale == 1 then 16 else 32
def Operand.scaled (o : Operand) : Bool := o.scale != 0
/-- Skips zero blocks (05:R129). -/
def Operand.skips (o : Operand) : Bool := o.sparse == 1 || o.sparse == 3

/-- How an operand is used: as OPA operand B (its layout-3 runs and scale lines are columns), with column scale
lines (07:R200), and its logical reduction length. -/
structure Role where
  isB  : Bool
  scol : Bool
  deriving DecidableEq, Repr

/-- Scale lines are columns (06:R163). -/
def Role.colLines (r : Role) : Bool := r.isB || r.scol

/-- Number and length of the scale lines (06:R163). -/
def Operand.lines (o : Operand) (r : Role) : Nat := if r.colLines then o.cols else o.rows
def Operand.lineLen (o : Operand) (r : Role) : Nat := if r.colLines then o.rows else o.cols
/-- Scale bytes of a line. -/
def Operand.sb (o : Operand) (r : Role) : Nat := (o.lineLen r + o.bs - 1) / o.bs
def Operand.scaleBase (o : Operand) : Nat := o.addr + 256 * o.scoff
def Operand.listBase (o : Operand) : Nat := o.addr + 256 * o.idxoff

/-- Bytes of a 2:4 chunk (05:R135). -/
def Operand.chunk (o : Operand) : Nat := 4 + 2 * o.bits

/-- Number of runs, and bytes of one run (06:R162, 05:R135). -/
def Operand.runs (o : Operand) (r : Role) : Nat :=
  match o.layout with
  | 1 => o.cols
  | 2 => (o.rows + 7) / 8
  | 3 => if r.isB then o.cols else o.rows
  | _ => o.rows

def Operand.runLen (o : Operand) (r : Role) : Nat :=
  match o.layout with
  | 1 => runBytes o.fmt o.rows
  | 2 => runBytes o.fmt (8 * o.cols)
  | 3 => (((if r.isB then o.rows else o.cols) + 31) / 32) * o.chunk
  | _ => runBytes o.fmt o.cols

/-- A null line of an index list (05:R141). -/
def nullLine : BitVec 32 := 0xFFFFFFFF

/-- The stored line of a logical line. -/
def lineOf (list : List (BitVec 32)) (x : Nat) : BitVec 32 := list.getD x nullLine

/-- The run address and position of element (i, j) in layouts 0, 1, 2 and 4 (06:R162). -/
def Operand.place (o : Operand) (list : List (BitVec 32)) (i j : Nat) : Nat × Nat :=
  match o.layout with
  | 1 => (o.addr + j * o.stride, i)
  | 2 => (o.addr + i / 8 * o.stride, 8 * j + i % 8)
  | 4 => (o.addr + (lineOf list i).toNat * o.stride, j)
  | _ => (o.addr + i * o.stride, j)

/-- The first byte and number of bytes that position p of a run touches, and the bit within them (02:R40). -/
def packPlace (bits run p : Nat) : Nat × Nat × Nat :=
  (run + p * bits / 8, (p * bits % 8 + bits + 7) / 8, p * bits % 8)

/-- n bytes through a reader of virtual addresses. -/
def readVa (rd : Nat → Byte) (va n : Nat) : List Byte := (List.range n).map fun i => rd (va + i)

/-- The code at position p of a run (02:R40, R41). -/
def codeAt (rd : Nat → Byte) (bits run p : Nat) : Nat :=
  let (a, n, sh) := packPlace bits run p
  (leNat (readVa rd a n) >>> sh) % 2 ^ bits

/-- The code of logical index t of a 2:4 run; none where no stored value takes part (05:R136). -/
def code24 (rd : Nat → Byte) (o : Operand) (run t : Nat) : Option Nat :=
  let c := run + t / 32 * o.chunk
  let g := t % 32 / 4
  let i := t % 4
  let meta_ := leNat (readVa rd c 4)
  let i0 := (meta_ >>> (4 * g)) % 4
  let i1 := (meta_ >>> (4 * g + 2)) % 4
  if i == i0 then some (codeAt rd o.bits (c + 4) (2 * g))
  else if i == i1 && i0 < i1 then some (codeAt rd o.bits (c + 4) (2 * g + 1)) else none

/-- Line and index of element (i, j) along the reduction. -/
def Operand.lineIdx (r : Role) (i j : Nat) : Nat × Nat := if r.colLines then (j, i) else (i, j)

/-- The element's line is null (05:R141). -/
def Operand.isNull (o : Operand) (list : List (BitVec 32)) (i : Nat) : Bool :=
  o.layout == 4 && lineOf list i == nullLine

/-- The VA of the scale byte of element (i, j) (06:R163). -/
def Operand.scaleAddr (o : Operand) (list : List (BitVec 32)) (r : Role) (i j : Nat) : Nat :=
  let (x, k) := Operand.lineIdx r i j
  let x := if o.layout == 4 && !r.colLines then (lineOf list x).toNat else x
  o.scaleBase + x * o.sb r + k / o.bs

/-- The code of element (i, j); none where the element is an exact zero without a code. -/
def Operand.code (o : Operand) (rd : Nat → Byte) (list : List (BitVec 32)) (r : Role) (i j : Nat) : Option Nat :=
  if o.isNull list i then none
  else if o.layout == 3 then
    let (x, t) := if r.isB then (j, i) else (i, j)
    code24 rd o (o.addr + x * o.stride) t
  else
    let (run, p) := o.place list i j
    some (codeAt rd o.bits run p)

/-- The VS8 byte of element (i, j); 0x80 in a null line (05:R141). -/
def Operand.vs8 (o : Operand) (rd : Nat → Byte) (list : List (BitVec 32)) (r : Role) (i j : Nat) : Nat :=
  if o.isNull list i then 0x80 else (rd (o.scaleAddr list r i j)).toNat

/-- The block of element (i, j) is a zero block (02:R50); a null line of an unscaled operand supplies exact zeros and no
zero block (05:R141). -/
def Operand.zblock (o : Operand) (rd : Nat → Byte) (list : List (BitVec 32)) (r : Role) (i j : Nat) : Bool :=
  o.scaled && 0x80 ≤ o.vs8 rd list r i j

/-- The exact value of element (i, j) (02:R49, R50, R55; 05:R136, R141). -/
def Operand.value (o : Operand) (rd : Nat → Byte) (list : List (BitVec 32)) (r : Role) (i j : Nat) : Val :=
  if o.scaled && 0x80 ≤ o.vs8 rd list r i j then .fin false 0 0
  else match o.code rd list r i j with
    | none => .fin false 0 0
    | some c => if o.scaled then decodeScaled o.fmt c (o.vs8 rd list r i j) else decode o.fmt c

/-! Byte pieces that an operand's elements occupy, as (VA, length). -/

/-- The runs of an operand, one piece a run; absent lines have none. -/
def Operand.runPieces (o : Operand) (list : List (BitVec 32)) (r : Role) : List (Nat × Nat) :=
  if o.layout == 4 then
    ((List.range o.rows).filter fun i => !o.isNull list i).map fun i =>
      (o.addr + (lineOf list i).toNat * o.stride, runBytes o.fmt o.cols)
  else if o.layout == 2 then
    (List.range (o.runs r)).map fun x =>
      -- the positions of absent rows are not read (06:R162): the last panel ends at its last present position
      let last := min 8 (o.rows - 8 * x)
      (o.addr + x * o.stride, runBytes o.fmt (8 * (o.cols - 1) + last))
  else (List.range (o.runs r)).map fun x => (o.addr + x * o.stride, o.runLen r)

/-- The scale bytes, one piece a line. -/
def Operand.scalePieces (o : Operand) (list : List (BitVec 32)) (r : Role) : List (Nat × Nat) :=
  if !o.scaled then []
  else if o.layout == 4 && !r.colLines then
    ((List.range o.rows).filter fun i => !o.isNull list i).map fun i =>
      (o.scaleBase + (lineOf list i).toNat * o.sb r, o.sb r)
  else (List.range (o.lines r)).map fun x => (o.scaleBase + x * o.sb r, o.sb r)

/-- The bytes of scale block b of a 2:4 run: a block of 32 is one chunk, a block of 16 half of one (05:R135, R136). -/
def Operand.pieces24 (o : Operand) (run b : Nat) : List (Nat × Nat) :=
  if o.bs == 32 then [(run + b * o.chunk, o.chunk)]
  else
    let c := run + b / 2 * o.chunk
    [(c + 2 * (b % 2), 2), (c + 4 + b % 2 * o.bits, o.bits)]

/-- The pieces read of a source that skips zero blocks: the elements of the other blocks (05:R134). -/
def Operand.elemPieces (o : Operand) (rd : Nat → Byte) (list : List (BitVec 32)) (r : Role) : List (Nat × Nat) :=
  if o.skips && o.layout == 3 then
    (List.range (o.lines r)).flatMap fun x =>
      ((List.range (o.sb r)).filter fun b =>
        !(if r.isB then o.zblock rd list r (b * o.bs) x else o.zblock rd list r x (b * o.bs))).flatMap fun b =>
        o.pieces24 (o.addr + x * o.stride) b
  else if o.skips then
    (List.range o.rows).flatMap fun i =>
      ((List.range o.cols).filter fun j => !o.zblock rd list r i j).map fun j =>
        let (run, p) := o.place list i j
        let (a, n, _) := packPlace o.bits run p
        (a, n)
  else o.runPieces list r

/-- The index list's entries as read. -/
def readList (rd : Nat → Byte) (base n : Nat) : List (BitVec 32) :=
  (List.range n).map fun i => BitVec.ofNat 32 (leNat (readVa rd (base + 4 * i) 4))

/-! Ranges (06:R172): intervals of virtual addresses, the end excluded. -/

def allMemory : Nat × Nat := (0, 2 ^ 48)

def Operand.dataRange (o : Operand) (r : Role) : Nat × Nat :=
  if o.layout == 4 then allMemory
  else (o.addr, o.addr + (o.runs r - 1) * o.stride + o.runLen r)

def Operand.ranges (o : Operand) (r : Role) : List (Nat × Nat) :=
  [o.dataRange r] ++
  (if o.scaled then [if o.layout == 4 then allMemory else (o.scaleBase, o.scaleBase + o.lines r * o.sb r)] else [])

def listRange (o : Operand) (n : Nat) : List (Nat × Nat) :=
  if o.layout == 4 then [(o.listBase, o.listBase + 4 * n)] else []

/-- Two lists of ranges share a byte. -/
def rangesMeet (a b : List (Nat × Nat)) : Bool := a.any fun x => b.any fun y => x.1 < x.2 && y.1 < y.2 && x.1 < y.2 && y.1 < x.2

/-! Writing. -/

/-- Cells of a run packed from its codes (02:R40): bits above the last code of its last byte are 0. -/
def packRun (bits run : Nat) (codes : List Nat) : List Host.Cell :=
  let v := codes.zipIdx.foldl (fun acc (c, p) => acc ||| (c <<< (p * bits))) 0
  cellsAt run (natLe v ((codes.length * bits + 7) / 8))

/-- The virtual cells of a destination in layouts 0, 1, 2 and 4; layout 2 writes 0 into the positions of absent rows,
a null line is not written, and of rows mapped to one line the highest is written last (06:R162, 05:R141, R143). -/
def Operand.writeElems (o : Operand) (list : List (BitVec 32)) (code : Nat → Nat → Nat) : List Host.Cell :=
  match o.layout with
  | 1 => (List.range o.cols).flatMap fun j =>
      packRun o.bits (o.addr + j * o.stride) ((List.range o.rows).map fun i => code i j)
  | 2 => (List.range ((o.rows + 7) / 8)).flatMap fun x =>
      packRun o.bits (o.addr + x * o.stride) ((List.range (8 * o.cols)).map fun p =>
        let i := 8 * x + p % 8
        if i < o.rows then code i (p / 8) else 0)
  | _ => (List.range o.rows).flatMap fun i =>
      if o.isNull list i then []
      else packRun o.bits (o.place list i 0).1 ((List.range o.cols).map fun j => code i j)

/-- The virtual cells of a scale array: byte b of line x. -/
def Operand.writeScales (o : Operand) (list : List (BitVec 32)) (r : Role) (byte : Nat → Nat → Nat) : List Host.Cell :=
  (List.range (o.lines r)).flatMap fun x =>
    if o.layout == 4 && !r.colLines && o.isNull list x then []
    else
      let y := if o.layout == 4 && !r.colLines then (lineOf list x).toNat else x
      cellsAt (o.scaleBase + y * o.sb r) ((List.range (o.sb r)).map fun b => BitVec.ofNat 8 (byte x b))

/-! Translation of pieces (01:R34, 12:R350). -/

/-- The pages, one address each, that pieces touch. -/
def piecePages (ps : List (Nat × Nat)) : List Nat := ps.flatMap fun p => pagesOf p.1 p.2

abbrev PageMap := List (Nat × Nat × BitVec 3)

/-- How parts of a descriptor are reached: each part's code, access and pieces. -/
structure PartReq where
  part   : Nat
  access : Access
  pieces : List (Nat × Nat)
  deriving DecidableEq, Repr

/-- Translation of parts in order, each kind of access in a map of its own; the first failure names its part. -/
def xlatParts (ctx : BitVec 16) : List PartReq → PageMap → State → Except (Option (BitVec 16 × Nat × Nat)) PageMap × State
  | [], m, s => (.ok m, s)
  | p :: ps, m, s =>
    match xlatPages ctx p.access (piecePages p.pieces) [] s with
    | (.ok pm, s) => xlatParts ctx ps (pm ++ m) s
    | (.fault ev va, s) => (.error (some (ev, p.part, va)), s)
    | (.wait, s) => (.error none, s)

/-- The first byte of n from an address that lies in a word or unit known to be uncorrectable. -/
def badByte (s : State) (pa n : Nat) : Nat :=
  let first (k : Nat) (bad : Nat → Bool) : Nat := match (blocksOf k pa n).find? bad with
    | some u => max pa (u * k)
    | none => pa
  match region s pa with
  | .stage => first 32 fun w => s.sm.ueWords.contains w
  | _ => first 64 fun u => match bcFind s (u / 2) with | some l => l.bad | none => false

/-- Reads of translated pieces (12:R352, 08:R233); the first piece that is uncorrectable at once. -/
def readPieces (w : Nat → Nat → Waiter) (m : PageMap) (part : Nat) : List (Nat × Nat) → State → Option (Nat × Nat × BitVec 16) × State
  | [], s => (none, s)
  | (va, n) :: ps, s =>
    -- a piece is read page by page
    let (bad, s) := (pagesOf va n).foldl (fun (acc : Option (Nat × Nat × BitVec 16) × State) v =>
      let len := min (va + n) (v / 4096 * 4096 + 4096) - v
      let pa := mapVa m v
      let at_ := v + (badByte acc.2 pa len - pa)
      let (r, s) := engRead (w part v) pa len acc.2
      (acc.1.orElse fun _ => if r == .uncorrectable then
        some (part, at_, if region s pa == .stage then smUe else memUe) else none, s)) (none, s)
    match bad with
    | some b => (some b, s)
    | none => readPieces w m part ps s

/-- The bytes of memory through translated pages. -/
def vaReader (s : State) (m : PageMap) : Nat → Byte := fun va => Memory.get s.mem (mapVa m va)

/-- Cells at virtual addresses, at their physical ones. -/
def physCells (m : PageMap) (cs : List Host.Cell) : List Host.Cell := cs.map fun c => (mapVa m c.1, c.2)

end Sys2Proof.Machine
end

