-- ==== Sys2Proof/Machine/Geometry.lean ====
section
/-! DEFINITION. Partition modes, bands and engine instances that are present (03:R72 to R78, 06:R170). -/

namespace Sys2Proof.Machine

/-- Row bands, column bands and cube rows per partition of a mode (03:R72). -/
def modeRC (m : Nat) : Nat × Nat × Nat :=
  match m with
  | 0 => (1, 1, 112) | 1 => (1, 2, 112) | 2 => (2, 2, 56) | 3 => (2, 4, 56) | 4 => (4, 4, 28) | _ => (0, 0, 0)

def modeRows (m : Nat) : Nat := (modeRC m).2.2
def modeBands (m : Nat) : Nat := (modeRC m).2.1
def modeParts (m : Nat) : Nat := (modeRC m).1 * (modeRC m).2.1

/-- The active mode. -/
def pmode (s : State) : Nat := s.opa.pmode.toNat

/-- PMODE_AVAIL: a bit for each available mode (03:R73). -/
def pmodeAvail (s : State) : Nat :=
  let g := popCount (cgInService s)
  if 4 ≤ g then 0x1F else if 2 ≤ g then 0x07 else if 1 ≤ g then 0x01 else 0

/-- The column band of an instance (03:R72). -/
def bandOf (s : State) (n : Nat) : Nat := n % modeBands (pmode s)

/-- The column groups on which an instance's next pass runs: those of its band that are not leaving it (03:R76). -/
def bandGroups (s : State) (n : Nat) : List Nat :=
  (List.range 16).filter fun g =>
    (vget s.opa.bandmap g 0xF).toNat == bandOf s n && !s.opa.leaving.any (·.val == g)

/-- Output columns and rows of a pass. -/
def passWidth (s : State) (n : Nat) : Nat := 56 * (bandGroups s n).length
def passHeight (s : State) : Nat := 8 * modeRows (pmode s)

/-- An OPA instance is not absent (03:R78). -/
def opaPresent (s : State) (n : Nat) : Bool := n < modeParts (pmode s) && !(bandGroups s n).isEmpty

/-- The engine instance of a binding is built, in service and in the mode (06:R169 check 3, R170; 07:R217, R228). -/
def instancePresent (s : State) (cls inst : Nat) : Bool :=
  match cls with
  | 0 => inst == 0
  | 1 => opaPresent s inst
  | 2 => inst == 0 && veInService s != 0
  | 3 => inst < 4
  | 4 => inst == 0
  | 5 => inst < 8 && (ccInService s).getLsbD inst && !(getCore s inst).halted
  | _ => false

/-- The band map of a mode: in-service groups dealt in increasing order (03:R74). -/
def dealMap (s : State) (mode : Nat) : Vector (BitVec 4) 16 :=
  let gs := maskBits (cgInService s)
  let c := modeBands mode
  let G := gs.length
  let bandAt (i : Nat) : BitVec 4 :=
    -- the band whose share holds the i-th group
    let shares := (List.range c).map fun cb => G / c + if cb < G % c then 1 else 0
    BitVec.ofNat 4 (((List.range c).find? fun cb => i < (shares.take (cb + 1)).sum).getD 15)
  vmapIdx (fun g _ => if gs.contains g then bandAt (gs.idxOf g) else 0xF) s.opa.bandmap

/-- Every instance is idle: no descriptor has started without completing, no group is open and no set in use (03:R74). -/
def opaIdle (s : State) : Bool :=
  (s.dq.toList.all fun d => d.inflight.all fun f => dClass f.desc != 1) &&
  s.opa.inst.toList.all fun i => i.jobs.isEmpty && i.groups.toList.all fun g =>
    g.tile.isNone && g.x.st == .free && g.y.st == .free

end Sys2Proof.Machine
end

