-- ==== Sys2Proof/Machine/Fetch.lean ====
section
/-! DEFINITION. The fetch-time checks of a descriptor, and its source and destination ranges (06:R169, R172; 07:R192 to
R228). -/

namespace Sys2Proof.Machine

/-- An outcome with an event. -/
def endWith (ev : BitVec 16) (opnd : Nat := 0xFF) (info : Nat := 0) (detail : BitVec 16 := 0) : Ended :=
  ⟨ev, detail, BitVec.ofNat 8 opnd, w64 info, false⟩

/-- Success. -/
def endOk : Ended := endWith 0

/-- The opcodes of each class (07:R192). -/
def opcodeDefined (cls op : Nat) : Bool :=
  match cls with
  | 0 => op ≤ 1
  | 1 => op == 1 || op == 2
  | 2 => (1 ≤ op && op ≤ 0x16) || (0x20 ≤ op && op ≤ 0x22) || op == 0x30 || op == 0x31 || op == 0x40 || op == 0x41 ||
      (0x50 ≤ op && op ≤ 0x53)
  | 3 => 1 ≤ op && op ≤ 3
  | 4 => 1 ≤ op && op ≤ 8
  | 5 => op == 1
  | _ => false

/-! Fields of the operation-specific bytes. -/

def opaK (d : Desc) : Nat := osf d 0 20 + 1
def opaKBase (d : Desc) : Nat := 32 * osf d 20 15
def opaKeep (d : Desc) : Bool := osf d 35 1 == 1
def opaCont (d : Desc) : Bool := osf d 36 1 == 1
def opaGroupNo (d : Desc) : Nat := osf d 37 2
def opaAccFmt (d : Desc) : Nat := osf d 39 2
def opaProfile (d : Desc) : Nat := osf d 41 4
def opaDvec (d : Desc) : Nat := osf d 46 41 * 128
def opaStatv (d : Desc) : Nat := osf d 87 41 * 128
/-- A descriptor that drains: OPA_DRAIN, or OPA_MM that does not end with KEEP. -/
def opaDrains (d : Desc) : Bool := dOpcode d == 2 || !opaKeep d

def veSub (d : Desc) : Nat := osf d 0 8
def veRnd (d : Desc) : Nat := osf d 8 3
def veLower (d : Desc) : BitVec 5 := BitVec.ofNat 5 (osf d 12 5)
def veRaise (d : Desc) : BitVec 5 := BitVec.ofNat 5 (osf d 17 5)
def veDir (d : Desc) : Bool := osf d 22 1 == 1
def veScolA (d : Desc) : Bool := osf d 23 1 == 1
def veScolB (d : Desc) : Bool := osf d 24 1 == 1
def veScolC (d : Desc) : Bool := osf d 25 1 == 1
/-- LEN of the digest and parity opcodes (07:R213, R215). -/
def veLen (d : Desc) : Nat := osf d 32 40
def veShards (d : Desc) : Nat := osf d 72 4 + 1
def veE1 (d : Desc) : Nat := osf d 80 5
def veE2 (d : Desc) : Nat := osf d 85 5
def psumN (d : Desc) : Nat := osf d 32 4 + 1
def psumStride (d : Desc) : Nat := osf d 40 40
def wsumE (d : Desc) : Nat := osf d 32 4
def crcChunks (d : Desc) : Nat := (veLen d + 65535) / 65536

/-- Elementwise VE opcodes (07:R202). -/
def veElementwise (op : Nat) : Bool := (1 ≤ op && op ≤ 0x10) || (0x13 ≤ op && op ≤ 0x16)

/-- VE opcodes with an operand B (07:R192, R203). -/
def veHasB (d : Desc) : Bool :=
  let op := dOpcode d
  (1 ≤ op && op ≤ 5) || op == 7 || op == 8 || (op == 0xC && veSub d == 3) || op == 0xE || op == 0x10 || op == 0x13 ||
    op == 0x31

/-- An operand reference that an opcode uses whole. -/
structure Use where
  part : Nat
  o    : Operand
  r    : Role
  deriving DecidableEq, Repr

/-- The operand references that an opcode uses whole; OPA operands take K from the descriptor (07:R192, R197, R209 to
R216, R220, R223). -/
def usesOf (d : Desc) : List Use :=
  let row : Role := ⟨false, false⟩
  let a := dA d
  let b := dB d
  let c := dC d
  let op := dOpcode d
  match dClass d with
  | 1 =>
    (if op == 1 then [⟨1, { a with cols := opaK d }, row⟩, ⟨2, { b with rows := opaK d }, ⟨true, false⟩⟩] else []) ++
    (if opaDrains d then [⟨3, c, row⟩] else [])
  | 2 =>
    (if op == 0x41 || op == 0x50 || op == 0x51 then [] else [⟨1, a, ⟨false, veScolA d⟩⟩]) ++
    (if veHasB d then [⟨2, b, ⟨false, veScolB d⟩⟩] else []) ++
    (if op == 0x22 || op == 0x50 || op == 0x51 then [] else [⟨3, c, ⟨false, veScolC d⟩⟩])
  | 3 => match op with
    | 1 => [⟨1, a, ⟨false, osf d 0 1 == 1⟩⟩, ⟨3, c, ⟨false, osf d 1 1 == 1⟩⟩]
    | 3 => [⟨3, c, row⟩]
    | _ => []
  | 4 => match op with
    | 1 | 2 | 3 | 6 => [⟨1, a, row⟩, ⟨3, c, row⟩]
    | 7 | 8 => [⟨3, c, row⟩]
    | _ => []
  | _ => []

/-- Every operand reference of which an opcode uses a field that names a layout, scale or sparse code: those used whole,
C of VE_RSTAT, whose FORMAT and shape alone are ignored, and B of RME_FADD and RME_CAS (07:R193, R209, R223). -/
def codedOf (d : Desc) : List (Nat × Operand) :=
  (usesOf d).map (fun u => (u.part, u.o)) ++
  (if dClass d == 2 && dOpcode d == 0x22 then [(3, dC d)] else []) ++
  (if dClass d == 4 && (dOpcode d == 7 || dOpcode d == 8) then [(2, dB d)] else [])

/-! Check 4 (06:R155 to R158, R169; 07:R193). -/

/-- The bits of OS that an opcode's field map names, as (low bit, width). -/
def osFields (cls op : Nat) : List (Nat × Nat) :=
  let ve := [(0, 11), (12, 14)]
  match cls, op with
  | 0, 1 => [(0, 128)]
  | 1, 1 => [(0, 45), (46, 82)]
  | 1, 2 => [(37, 2), (41, 4), (46, 82)]
  | 2, 0x11 => (32, 6) :: ve
  | 2, 0x30 => (32, 4) :: (40, 40) :: ve
  | 2, 0x31 => (32, 4) :: ve
  | 2, 0x50 | 2, 0x51 => (32, 40) :: ve
  | 2, 0x52 => (32, 44) :: ve
  | 2, 0x53 => (32, 44) :: (80, 10) :: ve
  | 2, _ => ve
  | 3, 1 => [(0, 2)]
  | 3, 2 => [(0, 40)]
  | 3, 3 => [(0, 72)]
  | 4, 3 => [(0, 14), (32, 32)]
  | 4, 4 | 4, 5 => [(0, 12), (16, 48)]
  | 4, 7 => [(64, 64)]
  | 4, 8 => [(0, 128)]
  | 5, 1 => [(0, 8), (64, 64)]
  | _, _ => []

/-- A bit of OS outside the named fields is set. -/
def osReservedBit (d : Desc) : Bool :=
  let named := (osFields (dClass d) (dOpcode d)).foldl (fun m f => m ||| ((2 ^ f.2 - 1) <<< f.1)) 0
  osf d 0 128 &&& (2 ^ 128 - 1 - named &&& 2 ^ 128 - 1) != 0

/-- A reserved code of the operation-specific bytes. -/
def osReservedCode (d : Desc) : Bool :=
  let op := dOpcode d
  match dClass d with
  | 0 => op == 1 && (osf d 12 2 == 3 || osf d 76 2 == 3 || 1 < osf d 14 2 || 1 < osf d 78 2)
  | 1 => op == 1 && opaAccFmt d == 3
  | 2 =>
    4 < veRnd d ||
    (op == 0xE && (32 ≤ veSub d || veSub d % 16 == 0 || veSub d % 16 == 15)) ||
    (op == 0x53 && ((18 ≤ veE1 d && veE1 d ≤ 30) || (18 ≤ veE2 d && veE2 d ≤ 30) || (veE1 d == veE2 d && veE1 d != 31)))
  | 4 =>
    (op == 3 && (osf d 12 2 == 0 || osf d 12 2 == 3)) ||
    ((op == 7 || op == 8) && (dC d).fmt == 0x14 && (osf d 96 32 != 0 || (op == 8 && osf d 32 32 != 0)))
  | _ => false

/-- Check 4 fails: the part code, 0xFF where no operand is named. -/
def check4 (d : Desc) : Option Nat :=
  let sg := dSignal d
  if fld d 21 3 != 0 || fld d 79 17 != 0 || 3 < dCmp d || sg.op == 3 || 1 < sg.when_ || (dReplay d && sg.when_ != 0) ||
      (dHasDeadline d && dDeadline d < dNb d) || osReservedBit d || osReservedCode d then some 0xFF
  else (((codedOf d).filter fun u => 4 < u.2.layout || 2 < u.2.scale || 3 < u.2.sparse).map (·.1)).min?

/-! Check 5 (06:R164, 04:R115, 05:R135, 07:R196, R209, R213, R223). -/

def elemAlign (f : Nat) : Nat := max 1 (fmtBits f / 8)

/-- An operand is misaligned. -/
def misaligned (opaAB : Bool) (u : Use) : Bool :=
  if u.o.layout == 3 then u.o.addr % 4 != 0 || u.o.stride % 4 != 0 || u.o.stride < u.o.runLen u.r
  else
    let a := if opaAB then 64 else elemAlign u.o.fmt
    u.o.addr % a != 0 || u.o.stride % a != 0

def check5 (d : Desc) : Option Ended :=
  let bad := (usesOf d).find? fun u => misaligned (dClass d == 1 && u.part != 3) u
  match bad with
  | some u => some (endWith dqAlign u.part u.o.addr)
  | none =>
    let op := dOpcode d
    match dClass d with
    | 1 =>
      if !opaDrains d then none
      else if opaDvec d % 256 != 0 then some (endWith dqAlign 0xA (opaDvec d))
      else if opaStatv d % 256 != 0 then some (endWith dqAlign 0xB (opaStatv d)) else none
    | 2 =>
      if (op == 0x22 || op == 0x50 || op == 0x51) && (dC d).addr % 8 != 0 then some (endWith dqAlign 3 (dC d).addr)
      else none
    | 4 =>
      if (op == 7 || op == 8) && (dB d).addr % elemAlign (dC d).fmt != 0 then some (endWith dqAlign 2 (dB d).addr)
      else none
    | _ => none

/-! Ranges (06:R172). -/

/-- Pieces of the shards of VE_PQ and VE_PQREC: 0 to 15 data, 16 P, 17 Q (07:R215, R216). -/
def shardPiece (d : Desc) (i : Nat) : Nat × Nat :=
  (if i == 16 then (dC d).addr else if i == 17 then (dC d).addr + (dC d).stride
   else (dA d).addr + i * (dA d).stride, veLen d)

def pqrecShards (d : Desc) (erased : Bool) : List Nat :=
  (List.range (veShards d) ++ [16, 17]).filter fun i => (i == veE1 d || i == veE2 d) == erased

def pieceRange (p : Nat × Nat) : Nat × Nat := (p.1, p.1 + p.2)

/-- Bytes of a mask row: bits in 64-bit words (05:R140). -/
def maskRow (nb : Nat) : Nat := 8 * ((nb + 63) / 64)

/-- The mask that VE_MASKZ reads, as a piece (07:R212). -/
def maskzPiece (d : Desc) : Nat × Nat :=
  let r : Role := ⟨false, veScolC d⟩
  ((dA d).addr, (dC d).lines r * maskRow ((dC d).sb r))

def crcPiece (d : Desc) : Nat × Nat := ((dC d).addr, 8 * crcChunks d + 16)

/-- Length of a drain vector under a direction code: rows or columns. -/
def vecLen (c m n : Nat) : Nat := if c == 1 then m else if c == 2 then n else 0

/-- Fields of a drain profile (04:R117). -/
def prAct (p : BitVec 17) : Nat := fld p 0 4
def prRnd (p : BitVec 17) : Nat := fld p 6 3
def prScale (p : BitVec 17) : Nat := fld p 9 2
def prBias (p : BitVec 17) : Nat := fld p 11 2
def prStats (p : BitVec 17) : Nat := fld p 13 2
def prMask (p : BitVec 17) : Bool := p.getLsbD 15
def prSblk (p : BitVec 17) : Bool := p.getLsbD 16

def up256 (n : Nat) : Nat := 256 * ((n + 255) / 256)

/-- Pieces of the scale and bias vectors (04:R115). -/
def scaleVec (d : Desc) (p : BitVec 17) : Nat × Nat :=
  (opaDvec d, 4 * vecLen (prScale p) (dC d).rows (dC d).cols)
def biasVec (d : Desc) (p : BitVec 17) : Nat × Nat :=
  (opaDvec d + up256 (4 * vecLen (prScale p) (dC d).rows (dC d).cols), 4 * vecLen (prBias p) (dC d).rows (dC d).cols)

/-- Pieces of the statistics records and of the mask (04:R125, 05:R139, R140). -/
def statPiece (d : Desc) (p : BitVec 17) : Nat × Nat :=
  (opaStatv d, 48 * vecLen (prStats p) (dC d).rows (dC d).cols)
/-- Mask block size. -/
def maskBm (c : Operand) : Nat := if c.scaled then c.bs else 32
def maskPiece (d : Desc) (p : BitVec 17) : Nat × Nat :=
  let c := dC d
  let base := opaStatv d + up256 (48 * vecLen (prStats p) c.rows c.cols)
  let (lines, len) := if prSblk p then (c.cols, c.rows) else (c.rows, c.cols)
  (base, if prMask p then lines * maskRow ((len + maskBm c - 1) / maskBm c) else 0)

def useRanges (d : Desc) (part : Nat) : List (Nat × Nat) :=
  ((usesOf d).filter (·.part == part)).flatMap fun u =>
    u.o.ranges u.r ++ listRange u.o u.o.rows

/-- The role of C's scale lines in a drain (04:R113). -/
def drainRole (p : BitVec 17) : Role := ⟨false, prSblk p⟩

/-- Source ranges; `prof`: the active profile of an OPA descriptor. Remote operands count too (08:R250). -/
def srcRanges (d : Desc) (prof : BitVec 17) : List (Nat × Nat) :=
  let op := dOpcode d
  match dClass d with
  | 1 => useRanges d 1 ++ useRanges d 2 ++
      (if opaDrains d then [pieceRange (scaleVec d prof), pieceRange (biasVec d prof)] ++ listRange (dC d) (dC d).rows
       else [])
  | 2 =>
    if op == 0x41 then [pieceRange (maskzPiece d)]
    else if op == 0x50 then [((dA d).addr, (dA d).addr + veLen d)]
    else if op == 0x51 then [((dA d).addr, (dA d).addr + veLen d), pieceRange (crcPiece d)]
    else if op == 0x52 then (List.range (veShards d)).map fun i => pieceRange (shardPiece d i)
    else if op == 0x53 then (pqrecShards d false).map fun i => pieceRange (shardPiece d i)
    else if op == 0x30 then (List.range (psumN d)).flatMap fun p =>
      ({ dA d with addr := (dA d).addr + p * psumStride d } : Operand).ranges ⟨false, veScolA d⟩
    else if op == 0x31 then allMemory :: useRanges d 2
    else useRanges d 1 ++ useRanges d 2 ++ (if op == 5 then useRanges d 3 else [])
  | 3 => if op == 2 then [((dA d).addr, (dA d).addr + osf d 0 40)] else useRanges d 1 ++
      (if op == 1 then listRange (dC d) (dC d).rows else [])
  | 4 => if op == 4 || op == 5 || op == 7 || op == 8 then [] else useRanges d 1 ++ (if op == 2 then [] else listRange (dC d) (dC d).rows)
  | _ => []

def dstRanges (d : Desc) (prof : BitVec 17) : List (Nat × Nat) :=
  let op := dOpcode d
  match dClass d with
  | 1 =>
    if opaDrains d then (dC d).ranges (drainRole prof) ++ [pieceRange (statPiece d prof), pieceRange (maskPiece d prof)]
    else []
  | 2 =>
    if op == 0x22 then [((dC d).addr, (dC d).addr + 48 * (if veDir d then (dA d).cols else (dA d).rows))]
    else if op == 0x50 then [pieceRange (crcPiece d)]
    else if op == 0x51 then []
    else if op == 0x52 then [pieceRange (shardPiece d 16), pieceRange (shardPiece d 17)]
    else if op == 0x53 then (pqrecShards d true).map fun i => pieceRange (shardPiece d i)
    else (dC d).ranges ⟨false, veScolC d⟩
  | 3 => if op == 2 then [((dC d).addr, (dC d).addr + osf d 0 40)]
    else (dC d).ranges ⟨false, if op == 1 then osf d 1 1 == 1 else false⟩
  | 4 =>
    -- the remote side counts by its virtual addresses (08:R250)
    if op == 4 || op == 5 then []
    else (dC d).ranges ⟨false, false⟩ ++
      (if op == 7 || op == 8 then [((dB d).addr, (dB d).addr + elemAlign (dC d).fmt)] else [])
  | _ => []

/-! Check 6. -/

/-- Conditions of one operand alone: formats, sparse modes, run lengths and strides (02:R39, R41; 05:R129; 06:R164). -/
def operandBad (u : Use) : Bool :=
  let o := u.o
  let n := match o.layout with | 1 => o.rows | 2 => 8 * o.cols | _ => o.cols
  o.bits == 0 || (o.scaled && !fmtNarrow o.fmt) || ((o.layout == 3) != (o.sparse == 2 || o.sparse == 3)) ||
    (o.skips && !o.scaled) || (o.layout == 3 && !fmtOpaIn o.fmt) ||
    (o.layout != 3 && (n % fmtPack o.fmt != 0 || o.stride < o.runLen u.r))

def operandsBad (d : Desc) : Option Nat := ((usesOf d).find? operandBad).map (·.part)

/-- The part code of the conditions that fail. DEDUCED (log 51): of several it is the lowest one. -/
def firstBad (l : List (Bool × Nat)) : Option Nat := ((l.filter (·.1)).map (·.2)).min?

/-- OPA legality at fetch (03:R86, 04:R98, R100, 05:R130, 07:R197). -/
def opaLegal (d : Desc) : Option Nat :=
  let a := dA d
  let b := dB d
  let c := dC d
  let mm := dOpcode d == 1
  let m := if mm then a.rows else c.rows
  let n := if mm then b.cols else c.cols
  let dim (x : Nat) : Bool := x % 8 != 0 || x < 8 || 4096 < x
  firstBad [
    (mm && !fmtOpaIn a.fmt, 1),
    (mm && (!fmtOpaIn b.fmt || (b.layout == 4 && b.scaled)), 2),
    (opaDrains d && (!fmtDrain c.fmt || c.layout == 3 || c.sparse != 0), 3),
    (mm && opaDrains d && (c.rows != m || c.cols != n), 3),
    (dim m || dim n, 0xFF),
    (mm && a.layout == 3 && b.layout == 3, 0xFF),
    (mm && (if opaAccFmt d == 2 then 2 else 4) ≤ opaGroupNo d, 0xFF),
    (mm && opaAccFmt d == 1 && !((a.fmt == 5 || a.fmt == 6) && (b.fmt == 5 || b.fmt == 6) && !a.scaled && !b.scaled), 0xFF),
    (mm && !opaCont d && opaKBase d != 0, 0xFF),
    (mm && opaCont d && 2 ^ 20 < opaKBase d + opaK d, 0xFF),
    (mm && opaKeep d && opaK d % 32 != 0, 0xFF)]

/-- Highest SUB of a VE opcode (07:R203 to R208). -/
def veSubMax (op : Nat) : Nat :=
  match op with
  | 0x0A => 5 | 0x0B => 1 | 0x0C => 3 | 0x0D => 1 | 0x0E => 31 | 0x10 => 1 | 0x11 => 1 | 0x13 => 1 | 0x14 => 15 | 0x21 => 1
  | _ => 0

/-- VE opcodes that round a result to C under RND. -/
def veRounds (op sub : Nat) : Bool :=
  !(op == 9 || op == 0xB || op == 0xC || op == 0xE || op == 0xF || op == 0x10 || op == 0x15 || op == 0x16 || op == 0x22 ||
    0x41 ≤ op || (op == 0x0D && sub == 1) || (op == 0x11 && sub == 1))

/-- Overlap of a source with the destination (07:R202). -/
def veOverlap (d : Desc) : Bool :=
  let c := dC d
  let dst := dstRanges d 0
  let same (o : Operand) : Bool :=
    o.addr == c.addr && o.stride == c.stride && o.layout == c.layout && o.fmt == c.fmt && o.scale == c.scale &&
      o.scoff == c.scoff && o.rows == c.rows && o.cols == c.cols
  let op := dOpcode d
  if dClass d == 2 && (op == 0x30 || op == 0x41 || 0x50 ≤ op) || (dClass d == 3 && op == 2) then
    rangesMeet (srcRanges d 0) dst
  else
    (usesOf d).any fun u =>
      u.part != 3 && u.o.layout != 4 && !(dClass d == 2 && veElementwise op && same u.o) &&
        -- a gathered destination is not covered
        !(c.layout == 4) && rangesMeet (u.o.ranges u.r) dst

/-- VE legality at fetch (07:R200 to R216); `w`: the queue's rounding width (02:R62). -/
def veLegal (d : Desc) (w : Nat) : Option Nat :=
  let a := dA d
  let b := dB d
  let c := dC d
  let op := dOpcode d
  let sub := veSub d
  let hasA := !(op == 0x41 || op == 0x50 || op == 0x51)
  let hasC := !(op == 0x50 || op == 0x51)
  let m := c.rows
  let n := c.cols
  firstBad [
    (hasA && ((a.layout == 4) != (op == 0x31) || (a.layout == 3 && veScolA d)), 1),
    (veHasB d && (b.layout == 4 || (b.layout == 3 && veScolB d)), 2),
    (hasC && (c.layout == 4 || (c.layout == 3) != (op == 0x40) || (op != 0x40 && c.sparse != 0) ||
      (c.layout == 3 && veScolC d)), 3),
    (veSubMax op < sub || (op == 0x14 && (sub == 0 || (5 ≤ sub && sub ≤ 7))), 0xFF),
    -- formats
    ((op == 0xB || op == 0xC || (op == 0xA && sub < 5)) && c.fmt != a.fmt, 0xFF),
    ((op == 9 || op == 0xF || (op == 0xD && sub == 1)) && c.fmt != 0x14, 0xFF),
    ((op == 0xE || op == 0x10) && c.fmt != 0x14 && c.fmt != 0x05, 0xFF),
    (op == 8 && b.fmt != 0x14, 0xFF),
    (op == 0xB && (a.scaled || c.scaled || c.fmt == 0x21), 0xFF),
    (hasC && op != 0x22 && c.fmt == 0x21 && veRounds op sub && veRnd d != 0, 0xFF),
    (veRnd d == 4 && veRounds op sub && (w < 4 || 16 < w), 0xFF),
    -- shapes
    ((veElementwise op || op == 0x30) && (a.rows != m || a.cols != n), 0xFF),
    (veElementwise op && veHasB d && ((b.rows != 1 && b.rows != m) || (b.cols != 1 && b.cols != n)), 0xFF),
    ((op == 0x20 || op == 0x21) && (if veDir d then m != 1 || n != a.cols else m != a.rows || n != 1), 0xFF),
    (op == 0x11 && (c.fmt != 5 || c.layout != 0 || c.scaled || m != a.rows || n != 32 * a.cols ||
      (sub == 0 && a.fmt != 0x14 && (osf d 32 6 < 1 || 40 < osf d 32 6))), 0xFF),
    (op == 0x12 && (a.fmt != 5 || a.layout != 0 || a.scaled || a.rows != m || a.cols != 32 * n), 0xFF),
    (op == 0x30 && (!(a.fmt == 0x12 || a.fmt == 0x20 || a.fmt == 0x21 || a.fmt == 0x13) || psumN d < 2), 0xFF),
    (op == 0x31 && (wsumE d < 1 || 8 < wsumE d || a.cols != n || b.rows != m || b.cols != wsumE d), 0xFF),
    (op == 0x40 && (a.layout != 0 || a.sparse != 0 || a.rows != m || a.cols != n), 0xFF),
    (op == 0x41 && !c.scaled, 0xFF),
    ((op == 0x50 || op == 0x51) && veLen d < 1, 0xFF),
    ((op == 0x52 || op == 0x53) && veShards d < 2, 0xFF),
    (op == 0x53 && ((veShards d ≤ veE1 d && veE1 d ≤ 15) || (veShards d ≤ veE2 d && veE2 d ≤ 15)), 0xFF),
    (veOverlap d, 0xFF)]

/-- MOVE legality at fetch (07:R220, R202). -/
def moveLegal (d : Desc) : Option Nat :=
  let a := dA d
  let c := dC d
  match dOpcode d with
  | 1 => firstBad [
      ((a.layout != 3 && a.sparse != 0) || (a.layout == 3 && osf d 0 1 == 1), 1),
      ((c.layout != 3 && c.sparse != 0) || (c.layout == 3 && osf d 1 1 == 1), 3),
      (a.rows != c.rows || a.cols != c.cols || a.fmt != c.fmt || a.scale != c.scale || a.sparse != c.sparse ||
        (a.scaled && osf d 0 1 != osf d 1 1) || (a.layout == 3) != (c.layout == 3), 0xFF),
      (veOverlap d, 0xFF)]
  | 2 => firstBad [(osf d 0 40 < 1, 0xFF), (veOverlap d, 0xFF)]
  | _ => firstBad [(2 < c.layout || c.sparse != 0, 3)]

/-- RME legality at fetch (07:R223, 05:R130). -/
def rmeLegal (d : Desc) : Option Nat :=
  let a := dA d
  let c := dC d
  let op := dOpcode d
  let plain (o : Operand) : Bool := o.scale == 0 && o.sparse == 0
  let intFmt := c.fmt == 0x13 || c.fmt == 0x14
  match op with
  | 4 | 5 => firstBad [(osf d 16 16 == 0xFFFF, 0xFF)]
  | 7 | 8 => firstBad [
      (!(plain (dB d)) || (dB d).layout == 3 || (dB d).layout == 4, 2),
      (!(plain c && intFmt && c.layout == 0 && c.rows == 1 && c.cols == 1), 3)]
  | _ =>
    let lay (o : Operand) : Bool := o.layout == 0 || (o.layout == 4 && (op == 1 || op == 3))
    firstBad [
      (!(plain a && lay a), 1), (!(plain c && lay c), 3),
      (a.rows != c.rows || a.cols != c.cols || a.fmt != c.fmt, 0xFF),
      (op == 6 && !intFmt, 0xFF)]

/-- NULL_FLAGS: NODE 0xFFFF and WHEN 0 in an update word that does something (07:R195).
DEDUCED (log 51): a word with OP = 0 does nothing, whatever its NODE and WHEN. -/
def nullLegal (d : Desc) : Option Nat :=
  let bad (i : Nat) : Bool := osf d (i + 12) 2 != 0 && (osf d (i + 14) 2 != 0 || osf d (i + 16) 16 != 0xFFFF)
  if dOpcode d != 1 then none else firstBad [(bad 0 || bad 64, 0xFF)]

/-- The conditions of a class. -/
def classLegal (d : Desc) (w : Nat) : Option Nat :=
  match dClass d with
  | 0 => nullLegal d
  | 1 => opaLegal d
  | 2 => veLegal d w
  | 3 => moveLegal d
  | 4 => rmeLegal d
  | _ => none

/-- Check 6 fails: the lowest part code of an operand or of the class's conditions. -/
def check6 (d : Desc) (w : Nat) : Option Nat := ((operandsBad d).toList ++ (classLegal d w).toList).min?

/-- Checks 1 to 6 in order (06:R169). -/
def fetchChecks (s : State) (q : Queue) (d : Desc) : Option Ended :=
  if dVersion d != 1 || !opcodeDefined (dClass d) (dOpcode d) then some (endWith dqOpcode)
  else if dClass d != q.cls.toNat || dInstance d != q.inst.toNat then some (endWith dqBinding)
  else if !instancePresent s q.cls.toNat q.inst.toNat then some (endWith dqEngineAbsent)
  else match check4 d with
    | some p => some (endWith dqOperand p)
    | none => match check5 d with
      | some e => some e
      | none => (check6 d q.w.toNat).map (endWith dqOperand ·)

/-- The active profile that a descriptor names. -/
def profileOf (s : State) (d : Desc) : BitVec 17 := vget s.opa.dprof (opaProfile d) 0

/-- The hazard condition against a descriptor in flight, which runs with its own profile (06:R172). -/
def hazardFree (s : State) (d e : Desc) (prof : BitVec 17) : Bool :=
  let src := srcRanges d (profileOf s d)
  let dst := dstRanges d (profileOf s d)
  let src' := srcRanges e prof
  let dst' := dstRanges e prof
  !rangesMeet (src ++ dst) dst' && !rangesMeet dst src'

end Sys2Proof.Machine
end

