-- ==== Sys2Proof/Machine/Flags.lean ====
section
/-! DEFINITION. The flag store (06:R156, R157, R181, R182), and the condition state of a control core (09:R257, R264). -/

namespace Sys2Proof.Machine

/-! Flags. -/

/-- Phase 1 of 06:R182: sets and compare-and-sets. -/
def flagPhase1 (v : BitVec 32) : List FlagUpd → BitVec 32
  | [] => v
  | u :: us => match u.op with
    | .set x => flagPhase1 x us
    | .cas o n => flagPhase1 (if v == o then n else v) us
    | .add _ => flagPhase1 v us

/-- Phase 2 of 06:R182: adds. -/
def flagPhase2 (v : BitVec 32) : List FlagUpd → BitVec 32
  | [] => v
  | u :: us => match u.op with
    | .add x => flagPhase2 (v + x) us
    | _ => flagPhase2 v us

/-- A flag's value with a list of updates of the f-cycle. -/
def flagResolve (v : BitVec 32) (us : List FlagUpd) : BitVec 32 := flagPhase2 (flagPhase1 v us) us

def updsOf (f : Nat) (us : List FlagUpd) : List FlagUpd := us.filter (·.flag == f)

/-- The value of flag Fn in this f-cycle. -/
def flagVal (s : State) (f : Nat) : BitVec 32 := flagResolve (vget s.flags.base f 0) (updsOf f s.flags.upds)

/-- An update takes its place by source order, after those of the same source (06:R182). -/
def insertUpd (u : FlagUpd) : List FlagUpd → List FlagUpd
  | [] => [u]
  | x :: l => if u.order < x.order then u :: x :: l else x :: insertUpd u l

/-- Flag writes have effect in CONFIG, RUN and HOLD (01:R27). -/
def flagsOpen (s : State) : Bool := s.ctl.state == .config || s.ctl.state == .run || s.ctl.state == .hold

/-- The mismatch of a rewritten register ends (13:R389). -/
def endMismatch (off : Nat) (s : State) : State :=
  { s with gen := { s.gen with
      parity := s.gen.parity.filter (·.toNat != off), parityRec := s.gen.parityRec.filter (·.toNat != off)
      latent := s.gen.latent.filter (·.toNat != off) } }

/-- An update of a flag in this f-cycle: none where the state ignores it; a flag with a parity mismatch discards adds,
and a set rewrites it (13:R388, R389). -/
def flagPost (order f : Nat) (op : FlagOp) (s : State) : State :=
  if !flagsOpen s then s else
  match op with
  | .set _ => endMismatch (0x200000 + 8 * f) { s with flags := { s.flags with upds := insertUpd ⟨order, f, op⟩ s.flags.upds } }
  | _ =>
    if flagHeld s f then s
    else { s with flags := { s.flags with upds := insertUpd ⟨order, f, op⟩ s.flags.upds } }

/-- The value that an update of a source would act on, in its phase (06:R182). -/
def flagBefore (s : State) (order f : Nat) (add : Bool) : BitVec 32 :=
  let us := updsOf f s.flags.upds
  let earlier := us.filter (·.order ≤ order)
  let base := vget s.flags.base f 0
  if add then flagPhase2 (flagPhase1 base us) earlier else flagPhase1 base earlier

/-- A wait condition on a value (06:R157). -/
def compareHolds (cmp : Nat) (v f : BitVec 32) : Bool :=
  match cmp with
  | 0 => true
  | 1 => (f - v).toNat < 2 ^ 31
  | 2 => f == v
  | 3 => f != v
  | _ => false

/-- A wait condition on a flag; none holds on a flag with a parity mismatch (13:R388). -/
def waitHolds (s : State) (cmp f : Nat) (v : BitVec 32) : Bool :=
  cmp == 0 || (!flagHeld s f && compareHolds cmp v (flagVal s f))

/-- The f-cycle ends: the values become the start values of the next, whose first updates are the on-start signals
(06:R159, R182). -/
def flagsTick (fl : Flags) : Flags :=
  { base := fl.upds.foldl (fun b u => vmod b u.flag fun _ => flagResolve (vget fl.base u.flag 0) (updsOf u.flag fl.upds)) fl.base,
    upds := fl.next, next := [] }

/-! Condition state of a core (09:R257). -/

def csO (c : CS) : Bool := c.getLsbD 0
def csK (c : CS) : Bool := c.getLsbD 1
def csZ (c : CS) : Bool := c.getLsbD 2
def csS (c : CS) : Bool := c.getLsbD 3
/-- RM, which carries the code of 02:R54. -/
def csRM (c : CS) : Nat := fld c 4 2

/-- CS with S, Z, K and O replaced. -/
def csFlags (c : CS) (sg z k o : Bool) : CS :=
  (c &&& 0x1FF0) ||| BitVec.ofNat 13 ((if sg then 8 else 0) + (if z then 4 else 0) + (if k then 2 else 0) + (if o then 1 else 0))

/-- CS with O replaced. -/
def csSetO (c : CS) (o : Bool) : CS := (c &&& 0x1FFE) ||| (if o then 1 else 0)

/-- CS with exception flags ORed into FI to FX: invalid, divide-by-zero, overflow, underflow, inexact. -/
def csRaise (c : CS) (e : BitVec 5) : CS := c ||| (e.setWidth 13 <<< 8)

/-- The flags of an addition: S, Z, carry out, signed overflow (09:R263). -/
def addFlags (a b : Word) : Bool × Bool × Bool × Bool :=
  let d := a + b
  (d.msb, d == 0, 2 ^ 64 ≤ a.toNat + b.toNat, a.msb == b.msb && d.msb != a.msb)

/-- The flags of a subtraction: S, Z, borrow, signed overflow (09:R263). -/
def subFlags (a b : Word) : Bool × Bool × Bool × Bool :=
  let d := a - b
  (d.msb, d == 0, a.toNat < b.toNat, a.msb != b.msb && d.msb != a.msb)

/-- A condition code on CS; none for the undefined code 0xF (09:R264). -/
def condHolds (code : BitVec 4) (c : CS) : Option Bool :=
  match code.toNat with
  | 0x0 => some (csZ c)
  | 0x1 => some (csS c)
  | 0x2 => some (csK c)
  | 0x3 => some (csO c)
  | 0x4 => some (csK c || csZ c)
  | 0x5 => some (csS c != csO c)
  | 0x6 => some (csZ c || csS c != csO c)
  | 0x7 => some true
  | 0x8 => some (!csZ c)
  | 0x9 => some (!csS c)
  | 0xA => some (!csK c)
  | 0xB => some (!csO c)
  | 0xC => some (!csK c && !csZ c)
  | 0xD => some (csS c == csO c)
  | 0xE => some (!csZ c && csS c == csO c)
  | _ => none

end Sys2Proof.Machine
end

