-- ==== Sys2Proof/Machine/Remote.lean ====
section
/-! DEFINITION. The outbound requests of the remote memory engine: held updates, remote signals (08:R250 to R252,
15:R428). -/

namespace Sys2Proof.Machine

/-- A request: its packet takes the next transaction identifier, and waits for its answer. -/
def postRequest (op : Byte) (p : Packet) (r : OutReq) (s : State) : State :=
  let t := s.rme.txid
  let s := { s with rme := { s.rme with txid := t + 1, out := s.rme.out ++ [{ r with txid := t }] } }
  sendPacket ⟨op, { p with src := s.rme.self, txid := t }, 0⟩ s

/-- A request that writes at its target (08:R251). -/
def writesRemote (k : OutKind) : Bool :=
  match k with
  | .put | .aadd | .old _ => true
  | _ => false

/-- A remote flag update: it is sent once the earlier writes of its queue to its node are answered or have ended
(08:R251, 15:R428). -/
def postUpdate (op : Byte) (p : Packet) (r : OutReq) (s : State) : State :=
  let after := ((s.rme.out ++ s.rme.linger).filter fun o => o.q == r.q && o.node == r.node && writesRemote o.kind).map (·.txid)
  if after.isEmpty then postRequest op p r s
  else
    let t := s.rme.txid
    let pk : TxPacket := ⟨op, { p with src := s.rme.self, txid := t }, 0⟩
    { s with rme := { s.rme with txid := t + 1, held := s.rme.held ++ [⟨pk, { r with txid := t }, after⟩] } }

/-- Held updates that no earlier write holds back any more are sent, oldest first. -/
def releaseHeld (s : State) : State :=
  let live := (s.rme.out ++ s.rme.linger).map (·.txid)
  let ready := s.rme.held.filter fun h => !h.after.any fun t => live.contains t
  let s := { s with rme := { s.rme with held := s.rme.held.filter fun h => h.after.any fun t => live.contains t } }
  ready.foldl (fun s h =>
    sendPacket h.pkt { s with rme := { s.rme with out := s.rme.out ++ [h.req] } }) s

/-- A packet of the stream that may still be taken back: of a request that has ended, and not begun to leave. -/
def takesBack (gone : List (BitVec 32)) (s : State) (k : TxPacket) : Bool :=
  isRequest k.op && gone.contains k.hdr.txid && !(s.rme.txOff != 0 && s.rme.txq.head? == some k)

/-- The requests with a property end: their answers are discarded from now on (08:R253). `lasts`: those writes that have
left for their target go on holding flag updates back, until they are answered or their descriptor completes (08:R251). -/
def dropRequests (lasts : Bool) (p : OutReq → Bool) (s : State) : State :=
  let gone := (s.rme.out.filter p).map (·.txid)
  let left := s.rme.txq.filter fun k => !takesBack gone s k
  let sent (r : OutReq) : Bool := !((s.rme.txq ++ s.rme.unsent).any fun k => k.hdr.txid == r.txid && !left.contains k)
  releaseHeld { s with rme := { s.rme with
    out := s.rme.out.filter fun r => !p r,
    linger := if lasts then s.rme.linger ++ s.rme.out.filter (fun r => p r && writesRemote r.kind && sent r)
      else s.rme.linger.filter fun r => !p r,
    held := s.rme.held.filter fun h => !p h.req,
    txq := left,
    unsent := s.rme.unsent.filter fun k => !gone.contains k.hdr.txid,
    stale := s.rme.stale ++ gone } }

/-- The requests of a descriptor, its remote signals aside. -/
def ofDescriptor (q : Nat) (idx : BitVec 32) (r : OutReq) : Bool := r.q.val == q && r.idx == idx && !isSignal r.kind

/-- The writes of a descriptor that has completed hold no update back, where it ended for want of its node or of an
answer (08:R251). -/
def forgetWrites (q : Nat) (idx : BitVec 32) (ev : BitVec 16) (s : State) : State :=
  if ev == rmeTimeoutEv || ev == rmeRemoteFault || ev == rmeNode then
    releaseHeld { s with rme := { s.rme with linger := s.rme.linger.filter fun r => !ofDescriptor q idx r } }
  else s

/-- The record of a remote signal that failed (08:R252, 14:R397). -/
def signalRecord (ev : BitVec 16) (q : Nat) (idx : BitVec 32) (node : BitVec 16) (flag : Nat) (detail : BitVec 16)
    (s : State) : State :=
  detect ev clsQueue (BitVec.ofNat 16 (0x0700 + q)) detail (idx.setWidth 64)
    (node.setWidth 64 ||| (w64 flag <<< (16 : Nat))) s

def emptyPacket : Packet :=
  { attr := 0, dest := 0, src := 0, len := 0, addr := 0, txid := 0, arg := 0, payload := [] }

/-- The limit in beats of TMO: 0 acts as 1 (08:R246). -/
def tmoBeats (s : State) : Nat := max 1 s.rme.tmo.toNat

/-- A remote signal is handed to Lupin (08:R252). -/
def remoteSignal (q : Fin 32) (idx : BitVec 32) (sg : Signal) (s : State) : State :=
  if s.rme.self == 0xFFFF then
    signalRecord rmeRemoteFault q.val idx sg.node sg.flag 0xFFFF (rmeEvent 4 s)
  else
    postUpdate (if sg.op == 1 then pkFlagAdd else pkFlagSet)
      { emptyPacket with dest := sg.node, addr := w64 sg.flag, arg := sg.value.setWidth 64 }
      ⟨0, sg.node, q, idx, .signal sg.flag, 0, s.beat.value.toNat + tmoBeats s⟩ s

/-- The update of a signal or update word on a local flag, of queue q (06:R182). -/
def localSignal (q : Nat) (sg : Signal) (s : State) : State :=
  if sg.op == 1 then flagPost (9 + q) sg.flag (.add sg.value) s
  else if sg.op == 2 then flagPost (9 + q) sg.flag (.set sg.value) s else s

/-- A descriptor performs its signal: an update of this f-cycle, or a remote one (06:R158, R159). -/
def performSignal (q : Fin 32) (idx : BitVec 32) (sg : Signal) (s : State) : State :=
  if sg.op == 0 then s
  else if sg.node == 0xFFFF then localSignal q.val sg s else remoteSignal q idx sg s

/-- An on-start signal: a local one takes effect in the next f-cycle (06:R159). -/
def startSignal (q : Fin 32) (idx : BitVec 32) (sg : Signal) (s : State) : State :=
  if sg.op == 0 || sg.when_ != 1 then s
  else if sg.node == 0xFFFF then
    let op := if sg.op == 1 then FlagOp.add sg.value else FlagOp.set sg.value
    { s with flags := { s.flags with next := insertUpd ⟨9 + q.val, sg.flag, op⟩ s.flags.next } }
  else remoteSignal q idx sg s

end Sys2Proof.Machine
end

