-- ==== Sys2Proof/Machine/Sched.lean ====
section
/-! DEFINITION. Tasks, bindings, events and faults of a control core (09:R278 to R280, 11:R313 to R332), and what every
command that changes flags, beats, statuses or the block state brings about at the schedulers. -/

namespace Sys2Proof.Machine

/-! Tasks. -/

def getTask (c : Core) (t : Byte) : Task := vget c.tasks t.toNat .reset

def modTask (t : Byte) (f : Task → Task) (c : Core) : Core := { c with tasks := vmod c.tasks t.toNat f }

def getBank (c : Core) (k : Nat) : Bank := vget c.banks k .reset

def modBank (k : Nat) (f : Bank → Bank) (c : Core) : Core := { c with banks := vmod c.banks k f }

/-- An activation cause: bit 0 binding, 1 wake, 2 mailbox; MULTI when the bit was set (11:R318). -/
def causeTask (bit : Nat) (t : Task) : Task :=
  if t.st == .invalid then t else
  let t := { t with cause := (t.cause ||| BitVec.ofNat 4 (2 ^ bit)) ||| (if t.cause.getLsbD bit then 8 else 0) }
  match t.st with
  | .dormant => { t with st := .ready }
  | .waiting => { t with st := .runnable }
  | _ => { t with pend := true }

/-- A binding fires: FLAG and BEAT bindings disarm (11:R317). -/
def fireTask (t : Task) : Task :=
  causeTask 0 { t with armed := if t.src == 1 || t.src == 2 then false else t.armed }

/-- Every valid task of a core with a property fires. -/
def fireWhere (p : Task → Bool) (c : Core) : Core :=
  { c with tasks := vmap (fun t => if t.st != .invalid && p t then fireTask t else t) c.tasks }

/-- A core is built, not in service, not halted, and the block state lets cores run (01:R27, 11:R329). -/
def coreRuns (s : State) (c : Nat) : Bool :=
  flagsOpen s && (ccInService s).getLsbD c && !(getCore s c).halted

/-- The bindings that a change of state makes fire: FLAG and BEAT conditions that hold, queue events, lines (11:R317). -/
def bindingFires (s : State) (notify halt lines : List Nat) (t : Task) : Bool :=
  match t.src.toNat with
  | 1 => t.armed && waitHolds s t.smode.toNat t.sparam.toNat (t.value.setWidth 32)
  | 2 => t.armed && t.value.toNat ≤ s.beat.value.toNat
  | 3 => (t.smode.getLsbD 0 && notify.contains (fld t.sparam 0 5)) ||
         (t.smode.getLsbD 1 && halt.contains (fld t.sparam 0 5))
  | 4 => lines.contains (fld t.sparam 0 4)
  | _ => false

/-- A refusal of a task-table write or command: REFUSED (11:R316, R320). -/
def schRefuse (c : Nat) (s : State) : State :=
  modCore c (fun k => { k with schstat := k.schstat.event s.ctl.fcycles (sqcBit 0) }) s

/-- The block event lines that pulse between two states (11:R317). -/
def linesPulsed (old new : State) : List Nat :=
  (if old.flt.wr != new.flt.wr then [0] else []) ++
  (if old.gen.applies != new.gen.applies then [1] else []) ++
  (if old.ctl.state != new.ctl.state then [2] else []) ++
  (if !old.ctl.quietSeen && new.ctl.state == .hold && quiet new then [3] else []) ++
  (if old.rme.status.seq != new.rme.status.seq then [4] else []) ++
  (if old.memp.status.seq != new.memp.status.seq then [5] else []) ++
  (if old.beat.status.seq != new.beat.status.seq then [6] else []) ++
  (if old.opa.dstatus.seq != new.opa.dstatus.seq then [7] else []) ++
  (if old.opa.mstatus.seq != new.opa.mstatus.seq then [8] else [])

/-- Queues whose NOTIFY or HALT event fell between two states. -/
def queuesNotified (old new : State) : List Nat :=
  (List.range 32).filter fun q => (getQ new q).evNotify && !(getQ old q).evNotify

def queuesHalted (old new : State) : List Nat :=
  (List.range 32).filter fun q => (getQ new q).evHalt && !(getQ old q).evHalt

/-- What a command's changes bring about at the schedulers: bindings fire, and HOLD's quietness is noted (11:R317). -/
def settle (old new : State) : State :=
  let notify := queuesNotified old new
  let halt := queuesHalted old new
  let lines := linesPulsed old new
  { new with
    ctl := { new.ctl with quietSeen := new.ctl.state == .hold && quiet new },
    cores := vmapIdx (fun i c =>
      if coreRuns new i then fireWhere (bindingFires new notify halt lines) c else c) new.cores }

/-- A command's outcome: its stop, or the next state, settled. -/
def finish (old : State) (stop : Option Fault) (new : State) : Host.Outcome State Fault Refusal :=
  match stop with
  | some f => .fault f
  | none => .next (settle old new)

/-! Faults of a core. -/

/-- The CCM_POSTs in flight of a queue on core c end with DQ_ENGINE_ABSENT. -/
def Queue.endPosts (c : Nat) (q : Queue) : Queue :=
  let ended : Ended := ⟨dqEngineAbsent, 0, 0xFF, 0, false⟩
  let one (f : InFlight) : InFlight := if f.ended.isSome then f else { f with ended := some ended }
  if q.cls == 5 && q.inst.toNat == c then { q with inflight := q.inflight.map one } else q

/-- Every CCM_POST in flight on a core that halts or enters its SERVICE sub-state ends, and the mailbox holds it no
more (07:R228). -/
def endPosts (c : Nat) (s : State) : State :=
  let s := { s with dq := vmap (Queue.endPosts c) s.dq }
  modCore c (fun k => { k with mbx := vmap (fun e => { e with valid := false }) k.mbx }) s

/-- The core halts (11:R329): a CC_DOUBLE_FAULT record naming the level, the event and the PC. -/
def doubleFault (c : Nat) (level : Nat) (ev : BitVec 16) (pc : BitVec 48) (s : State) : State :=
  endPosts c (detect ccDoubleFault clsUnit (BitVec.ofNat 16 (0x0200 + c)) (BitVec.ofNat 16 level) (ev.setWidth 64)
    (pc.setWidth 64) (modCore c (fun k => { k with halted := true, switchTo := none, outgoing := none }) s))

/-- The fault record of a level is written, or OVF set (09:R279, R280). -/
def recordFault (k : Nat) (task : Byte) (half : Nat) (ev : BitVec 16) (addr pc : BitVec 48) (c : Core) : Core :=
  { c with frec := vmod c.frec k fun r =>
      if r.valid then { r with ovf := true }
      else { valid := true, ovf := false, task := task, half := BitVec.ofNat 2 half, event := ev, addr := addr, pc := pc } }

/-- The running task of a core and its level. -/
def runningTask (c : Core) : Option (Byte × Nat) := c.running.map fun t => (t, (getTask c t).level.val)

/-- TAKING A PRECISE FAULT (09:R278, R279; 11:R319, R329): the running task is suspended at the faulting instruction
as FAULTED, the record of its level is written, FAULT bindings of the level fire; at L7, or with no valid task bound
to the level's fault, the core halts. CC_PARITY also writes a fault record (14:R397). -/
def takeFault (c : Fin 8) (ev : BitVec 16) (addr : BitVec 48) (half : Nat) (s : State) : State :=
  let core := getCore s c
  match runningTask core with
  | none => s
  | some (t, k) =>
    let pc := (getBank core k).pc
    let s := if ev == ccParity then
        detect ccParity clsQueue (BitVec.ofNat 16 (0x0200 + c.val)) (BitVec.ofNat 16 k) (pc.setWidth 64) (addr.setWidth 64) s
      else s
    let s := modCore c (modTask t fun x => { x with st := .faulted }) s
    let s := modCore c (fun x => { x with running := none, outgoing := some t, resumed := false }) s
    if k == 7 then doubleFault c 7 ev pc s
    else
      let s := modCore c (recordFault k t half ev addr pc) s
      let bound := (getCore s c).tasks.toList.any fun x => x.st != .invalid && x.src == 5 && fld x.sparam 0 3 == k
      if bound then modCore c (fireWhere fun x => x.src == 5 && fld x.sparam 0 3 == k) s
      else doubleFault c k ev pc s

/-! Selection and switching. -/

/-- The occupant of a bank. -/
def occupant (c : Core) (k : Nat) : Option Byte := (getBank c k).occ

def isResident (c : Core) (t : Byte) : Bool := occupant c (getTask c t).level.val == some t

/-- A candidate of the scheduler (11:R321, R323). -/
def candidate (c : Core) (t : Byte) : Bool :=
  let x := getTask c t
  match x.st with
  | .running | .preempted => true
  | .ready | .runnable =>
    x.level.val != 7 || (match occupant c 7 with | some o => o == t | none => true)
  | _ => false

def allTasks : List Byte := (List.range 256).map (BitVec.ofNat 8)

/-- The task that the scheduler selects (11:R321). -/
def selectTask (c : Core) : Option Byte :=
  [7, 6, 5, 4, 3, 2, 1, 0].findSome? fun k =>
    let cands := allTasks.filter fun t => (getTask c t).level.val == k && candidate c t
    match occupant c k with
    | some o => if cands.contains o then some o
                else cands.find? fun t => (getTask c t).st == .ready || (getTask c t).st == .runnable
    | none => cands.find? fun t => (getTask c t).st == .ready || (getTask c t).st == .runnable

/-! Register groups. -/

/-- The group of a general register (11:R313). -/
def groupOf (r : Nat) : Nat := r / 8

/-- The bytes of a register group in the save area: the slot of G0 is 0 (11:R325). -/
def groupBytes (b : Bank) (g : Nat) : List Byte :=
  (List.range 8).flatMap fun i => natLe (if 8 * g + i == 0 then 0 else (vget b.g (8 * g + i) 0).toNat) 8

/-- Unit H: PC, CS, and zeros. -/
def headBytes (b : Bank) : List Byte :=
  natLe b.pc.toNat 8 ++ natLe b.cs.toNat 8 ++ List.replicate 48 (0 : Byte)

/-- A register group filled from its 64 bytes. -/
def fillGroupReg (g : Nat) (bs : List Byte) (b : Bank) : Bank :=
  { b with
    g := (List.range 8).foldl (fun v i => if 8 * g + i == 0 then v
      else vmod v (8 * g + i) fun _ => w64 (leNat ((bs.drop (8 * i)).take 8))) b.g,
    dirty := b.dirty &&& ~~~(BitVec.ofNat 4 (2 ^ g)), bad := b.bad &&& ~~~(BitVec.ofNat 32 (0xFF * 2 ^ (8 * g))) }

/-- PC and CS filled from unit H; reserved bits are dropped. -/
def fillHeadReg (bs : List Byte) (b : Bank) : Bank :=
  { b with
    pc := BitVec.ofNat 48 (leNat (bs.take 8)) &&& 0xFFFFFFFFFFFC,
    cs := BitVec.ofNat 13 (leNat ((bs.drop 8).take 8)) &&& 0x1F3F }

/-- The offset of a unit in the save area, in units of 64 bytes (11:R325, R330). -/
def unitOffset (k : UnitKind) : Nat :=
  match k with
  | .spillH | .fillH => 0
  | .spillGroup g | .fillGroup g => 1 + g.val
  | .saveHead b | .restoreHead b => if b then 6 else 5
  | .saveTile t u | .restoreTile t u => 8 + 32 * t.val + u.val

/-- The part of a bank or of the tile state that a unit moves: 0 unit H, 1 + g group g, 5 tile state. -/
def unitPart (k : UnitKind) : Nat := min (unitOffset k) 5

/-- The order of 11:R326. -/
def unitClass (k : UnitKind) : Nat :=
  match k with
  | .fillH => 1
  | .spillH | .spillGroup _ => 3
  | .saveHead _ | .saveTile _ _ => 4
  | .fillGroup _ => 5
  | .restoreHead _ | .restoreTile _ _ => 6

def unitWrites (k : UnitKind) : Bool :=
  match k with
  | .spillH | .spillGroup _ | .saveHead _ | .saveTile _ _ => true
  | _ => false

/-- KIND of CTL_SPILLF0 (11:R330). -/
def unitKindCode (k : UnitKind) : BitVec 2 :=
  match k with
  | .spillH | .spillGroup _ => 0
  | .fillH | .fillGroup _ => 1
  | .saveHead _ | .saveTile _ _ => 2
  | .restoreHead _ | .restoreTile _ _ => 3

/-- A unit is pending for a task that fills the part of a bank (0 unit H, 1 + g group g). -/
def fillPending (c : Core) (t : Byte) (part : Nat) : Bool :=
  c.xq.any fun u => u.task == t && !unitWrites u.kind && unitClass u.kind != 6 && unitOffset u.kind == part

/-- XPEND of a bank: groups with a transfer pending (11:R332). -/
def groupPending (c : Core) (k g : Nat) : Bool :=
  c.xq.any fun u => u.level.val == k && unitOffset u.kind == 1 + g

/-- The running task has an issued instruction that waits for a unit, or for what the unit moves out of its place. -/
def wantedUnit (c : Core) (u : XferUnit) : Bool := c.running.isSome && c.wants.contains (u.level.val, unitPart u.kind)

/-- The next unit that the transfer engine issues: the one with which RETRY resumed it (11:R328), else the first in the
order of 11:R326: unit H of an incoming task; a unit that the running task waits for, a spill of its group first; the
other classes. No fill of a task is issued before its own spills. -/
def nextUnit (c : Core) : Option XferUnit :=
  let ok := c.xq.filter fun u => unitWrites u.kind || !c.xq.any fun v => v.task == u.task && unitWrites v.kind
  let class_ (k : Nat) : Option XferUnit := ok.find? fun u => unitClass u.kind == k
  let wanted := ok.filter (wantedUnit c)
  [c.xfirst.filter c.xq.contains, class_ 1, wanted.find? fun u => unitWrites u.kind, wanted.head?, class_ 3, class_ 4,
    class_ 5, class_ 6].findSome? id

/-- The spill of a displaced occupant: unit H, then its dirty groups (11:R326); parts that were still to be filled are
in its save area already. -/
def spillUnits (c : Core) (k : Nat) (o : Byte) : List XferUnit :=
  let b := getBank c k
  let lvl := Fin.ofNat 8 k
  (if fillPending c o 0 then [] else [⟨.spillH, o, lvl, headBytes b⟩]) ++
    (maskBits b.dirty).map fun g => ⟨.spillGroup (Fin.ofNat 4 g), o, lvl, groupBytes b g⟩

/-- A unit fills a part of a task's bank. -/
def fillsBank (t : Byte) (u : XferUnit) : Bool := u.task == t && !unitWrites u.kind && unitClass u.kind != 6

/-- A displaced occupant is spilled, and its pending fills are dropped. -/
def displace (k : Nat) (o : Byte) (c : Core) : Core :=
  modTask o (fun y => { y with spilled := true })
    { c with xq := c.xq.filter (fun u => !fillsBank o u) ++ spillUnits c k o }

/-- The incoming task takes its bank: an occupant is displaced; a fresh activation starts at ENTRY with registers 0
(which counts as a write of every group, log 15); a spilled task is filled (11:R319, R321, R326). -/
def occupyBank (t : Byte) (c : Core) : Core :=
  let x := getTask c t
  let k := x.level.val
  let c := match occupant c k with
    | some o => if o == t then c else displace k o c
    | none => c
  let fresh := x.st == .ready
  if fresh then
    modTask t (fun y => { y with st := .running, spilled := false, tilesSaved := false })
      (modBank k (fun _ => { g := .replicate 32 0, pc := (x.entry.setWidth 48) <<< 2, cs := 0, occ := some t, dirty := 0xF, bad := 0 }) c)
  else
    let fills := if x.spilled then
        ⟨.fillH, t, x.level, []⟩ :: (List.range 4).map fun g => ⟨.fillGroup (Fin.ofNat 4 g), t, x.level, []⟩
      else []
    modTask t (fun y => { y with st := .running, spilled := false })
      (modBank k (fun b => { (if x.spilled then .reset else b) with occ := some t }) { c with xq := c.xq ++ fills })

/-- A task leaves the bank it occupies. -/
def freeBank (t : Byte) (c : Core) : Core :=
  { c with banks := vmap (fun b => if b.occ == some t then Bank.reset else b) c.banks }

/-- A core as 11:R331 starts it: every task INVALID, banks, mailbox and cause words cleared, every CTL_TSEL 0; what it
holds otherwise stays, a halt too (11:R329). -/
def startEmpty (c : Core) : Core :=
  { c with
    banks := .replicate 8 .reset, tasks := .replicate 256 .reset, running := none, switchTo := none,
    outgoing := none, resumed := false, tsel := .replicate 8 0, winsel := 0, mbx := .replicate 16 .reset, tiles := .replicate 12 .reset,
    latchS := none, latchT := none, rows := [], tileOwner := none, xq := [],
    xstop := none, xfirst := none, wants := [] }

end Sys2Proof.Machine
end

