-- ==== Sys2Proof/Machine/Queue.lean ====
section
/-! DEFINITION. Queues: fetching, starting, completing, halting, barriers, deadlines and deadlock
(06:R165 to R189, 05:R145 to R147). -/

namespace Sys2Proof.Machine

/-- Work of descriptors runs to completion in RUN and HOLD (01:R27). -/
def running (s : State) : Bool := s.ctl.state == .run || s.ctl.state == .hold

/-- The index of an indexed queue. -/
def qFin (q : Nat) : Fin 32 := Fin.ofNat 32 q

def Queue.size (q : Queue) : Nat := 2 ^ q.log2size.toNat

/-! Rolling back (06:R177). -/

/-- A set owned by a descriptor is discarded (04:R103). -/
def AccSet.discardOf (q : Nat) (idx : BitVec 32) (a : AccSet) : AccSet :=
  if a.owner == some (q, idx) then .reset else a

/-- The sets of a descriptor are discarded; a group whose tile's set went is not open. -/
def Group.discardOf (q : Nat) (idx : BitVec 32) (g : Group) : Group :=
  let x := g.x.discardOf q idx
  let y := g.y.discardOf q idx
  { g with
    x := x, y := y,
    tile := if (if g.inY then g.y else g.x).owner == some (q, idx) then none else g.tile }

/-- A job of a descriptor. -/
def OpaJob.isOf (q : Nat) (idx : BitVec 32) (j : OpaJob) : Bool := j.q.val == q && j.idx == idx

/-- An instance without a descriptor's job and sets. -/
def OpaInst.dropOf (q : Nat) (idx : BitVec 32) (i : OpaInst) : OpaInst :=
  { i with
    jobs := i.jobs.filter fun j => !j.isOf q idx,
    groups := vmap (Group.discardOf q idx) i.groups }

/-- An OPA descriptor leaves its instance: its job and its sets go, the held set of a KEEP that has finished and waits
for earlier descriptors too. -/
def dropJob (q : Nat) (idx : BitVec 32) (s : State) : State :=
  { s with opa := { s.opa with inst := vmap (OpaInst.dropOf q idx) s.opa.inst } }

/-- A mailbox entry is withdrawn (07:R228). -/
def withdrawEntry (c m : Nat) (s : State) : State :=
  modCore c (fun k => { k with mbx := vmod k.mbx m fun e => { e with valid := false } }) s

/-- The engine's work on a descriptor in flight stops: its pending writes land or not (01:R30). `lasts`: it has still to
complete. -/
def stopFlight (lasts : Bool) (q : Nat) (f : InFlight) (s : State) : State :=
  let s := if f.posted then s else landPending (f.writes.flatMap (·.cells)) s
  let s := dropRequests lasts (ofDescriptor q f.idx) s
  let s := dropJob q f.idx s
  match f.entry with
  | some m => withdrawEntry (getQ s q).inst.toNat m s
  | none => s

def stopFlights (q : Nat) : List InFlight → State → State
  | [], s => s
  | f :: fs, s => stopFlights q fs (stopFlight false q f s)

/-- The fetched head that a halt leaves: one whose barrier is in force, when no earlier descriptor is rolled back, since
a barrier ends only when its descriptor completes (06:R174). DEDUCED (log 62): where HEAD returns to an earlier
descriptor the barrier ends, and is entered again. -/
def barrierHead (d : Queue) : Option Fetched :=
  if d.inflight.isEmpty then d.fetched.filter (·.barrier) else none

/-- A queue halts: HALT, DQ_HALTINFO, and later descriptors in flight are rolled back (06:R177). -/
def haltQueue (q : Nat) (ev detail : BitVec 16) (idx : BitVec 32) (s : State) : State :=
  let fl := (getQ s q).inflight
  let s := stopFlights q fl s
  let s := modQ q (fun d => { d with
    halted := true, halting := false, evHalt := true, haltEvent := ev, haltDetail := detail, haltIndex := idx, inflight := [],
    signalled := fl.map (·.idx) ++ d.signalled, fetched := barrierHead d, ahead := [], head := match fl with | f :: _ => f.idx | [] => d.head }) s
  dqEvent q 0 s

/-- A queue that is to halt, and has no descriptor in flight, halts (06:R178, 13:R388). -/
def settleHalt (q : Nat) (s : State) : State :=
  let d := getQ s q
  if d.halting && d.inflight.isEmpty then
    haltQueue q (if queueHeld s q then mgCfgParity else 0) 0 d.head s
  else s

/-! Completion (06:R175 to R177). -/

/-- What completes. -/
structure Outcome where
  idx      : BitVec 32
  desc     : Desc
  ended    : Ended
  exc      : BitVec 5
  skipped  : Bool
  replayed : Bool
  started  : Bool
  missed   : Bool
  deriving DecidableEq, Repr

/-- The bytes of a completion record (06:R176). -/
def recordBytes (d : Queue) (o : Outcome) (halts : Bool) (beat : Word) : List Byte :=
  let b (x : Bool) (v : Nat) : Nat := if x then v else 0
  let phase := b (o.idx.toNat / d.size % 2 == 0) 1
  let flags := phase + b o.skipped 2 + b (o.ended.nonfin && o.ended.event == 0) 4 +
    b (o.replayed && o.ended.event == 0) 8 + b halts 16
  natLe (dTag o.desc) 4 ++ natLe o.ended.event.toNat 2 ++ natLe flags 1 ++ natLe (if o.skipped then 0 else o.exc.toNat) 1 ++
    natLe o.ended.info.toNat 8 ++ natLe o.ended.detail.toNat 2 ++ natLe o.ended.opnd.toNat 1 ++ natLe 0 1 ++
    natLe o.idx.toNat 4 ++ natLe beat.toNat 8

/-- Events whose detection record names the descriptor (14:R397). -/
def selfRecorded (ev : BitVec 16) : Bool := ev == opaChecksum || ev == opaAccParity || ev == veParity || ev == opaGroup

/-- INFO is an address (06:R176, 07:R226). -/
def infoIsAddress (ev : BitVec 16) : Bool :=
  ev == dqXlat || ev == dqMemerr || ev == dqAlign || ev == rmeNode || ev == rmeTimeoutEv || ev == rmeRemoteFault

/-- The fault record of a descriptor that ends with an event (14:R397, first row). -/
def descRecord (q : Nat) (o : Outcome) (ev : BitVec 16) (e : Ended) (s : State) : State :=
  detect ev clsQueue (BitVec.ofNat 16 (0x0700 + q)) e.detail
    ((if infoIsAddress ev then e.info &&& 0xFFFFFFFFFFFF else 0) ||| (e.opnd.setWidth 64 <<< (48 : Nat)))
    (o.idx.setWidth 64 ||| (w64 (dTag o.desc) <<< (32 : Nat))) s

/-- The completion record is written to its slot; none: it cannot be, with the cause (06:R177). A translation that is
held (13:R388) gives `wait`. -/
inductive RecRes where
  | ok
  | fail (e : Ended)
  | wait
  deriving DecidableEq, Repr

def writeRecord (q : Nat) (o : Outcome) (halts : Bool) (s : State) : RecRes × State :=
  let d := getQ s q
  let va := d.cbase.toNat + o.idx.toNat % d.size * 32
  match xlatEngine d.ctx va .engWrite s with
  | (.wait, s) => (.wait, s)
  | (.fault ev, s) => (.fail (endWith dqXlat 0xFF va ev), s)
  | (.ok pa attr, s) =>
    match writeAccess false (attr != attrWB) (.engine (qFin q) o.idx 0xFF (BitVec.ofNat 48 va))
        (cellsAt pa (recordBytes d o halts s.beat.value)) s with
    | (none, s) => (.ok, s)
    | (some _, s) => (.fail (endWith dqMemerr 0xFF va smUe), s)

/-- The signal, the update words of NULL_FLAGS and NOTIFY (06:R175, R186; 05:R146; 07:R195); a skipped descriptor that
performed its on-start signal before a roll-back does not perform it again (06:R159). -/
def completionSignals (q : Nat) (o : Outcome) (s : State) : State :=
  let sg := dSignal o.desc
  let good := o.ended.event == 0 || (o.ended.event == dqDeadline && o.started)
  let stands := sg.when_ == 1 && (getQ s q).signalled.contains o.idx
  let s := if (o.skipped && !stands) || (good && sg.when_ == 0 && !o.skipped) then performSignal (qFin q) o.idx sg s else s
  if good && !o.skipped && dClass o.desc == 0 && dOpcode o.desc == 1 then
    localSignal q (signalOf (o.desc.extractLsb' 960 64)) (localSignal q (signalOf (o.desc.extractLsb' 896 64)) s)
  else s

def notify (q : Nat) (d : Desc) (s : State) : State :=
  if dNotify d then dqEvent q 1 (modQ q (fun x => { x with evNotify := true }) s) else s

/-- OPA_NFPOS_n and NF, when an OPA descriptor completes with NONFINITE (04:R128). -/
def noteNonfinite (o : Outcome) (s : State) : State :=
  if dClass o.desc == 1 && o.ended.nonfin && o.ended.event == 0 then
    let n := dInstance o.desc
    let i := o.ended.info
    opaDEvent n { s with opa := { s.opa with
      nfpos := vmod s.opa.nfpos n fun _ => ⟨i.extractLsb' 39 25, i.extractLsb' 37 2, i.getLsbD 36, i.extractLsb' 24 12, i.extractLsb' 12 12⟩ } }
  else s

/-- What the remote engine notes of a descriptor that completes with an event (08:R251, R254). -/
def noteRemote (q : Nat) (o : Outcome) (s : State) : State :=
  let ev := o.ended.event
  forgetWrites q o.idx ev <|
    if ev == rmeNode then rmeEvent 0 s else if ev == rmeTimeoutEv then rmeEvent 1 s else s

/-- A descriptor completes: record, signal, DONE, NOTIFY, and the halt that its event brings (06:R175, R177). The
completed descriptor leaves the queue's lists. -/
def completeDesc (q : Nat) (o : Outcome) (s : State) : State :=
  let d := getQ s q
  let rest := d.inflight.filter fun f => f.idx != o.idx
  let halts := o.ended.event != 0 || (d.halting && rest.isEmpty)
  match writeRecord q o halts s with
  | (.wait, _) => s
  | (r, s) =>
    let s := noteRemote q o s
    let s := modQ q (fun d => { d with
      inflight := rest, done := o.idx + 1,
      head := if d.head == o.idx then o.idx + 1 else d.head,
      fetched := match d.fetched with | some f => if f.idx == o.idx then none else d.fetched | none => none }) s
    match r with
    | .fail e =>
      haltQueue q e.event e.detail o.idx (descRecord q o e.event e (notify q o.desc s))
    | _ =>
      let s := notify q o.desc (completionSignals q o (noteNonfinite o s))
      let ev := o.ended.event
      if ev == 0 then settleHalt q s
      else
        let s := if selfRecorded ev || (o.missed && ev == dqDeadline) then s else descRecord q o ev o.ended s
        haltQueue q ev o.ended.detail o.idx s

/-! Fetching (06:R168, R169). -/

/-- A deadline miss is detected: its record, DEADLINE and BEAT_MISSES (06:R186). -/
def detectMiss (q : Nat) (idx : BitVec 32) (d : Desc) (s : State) : State :=
  let o : Outcome := ⟨idx, d, endOk, 0, false, false, false, false⟩
  let s := descRecord q o dqDeadline (endWith dqDeadline) s
  dqEvent q 2 { s with beat := { s.beat with misses := s.beat.misses + 1 } }

/-- The queue may fetch: RUN, enabled, not halted, work before TAIL, no head fetched yet. -/
def canFetch (s : State) (q : Nat) : Bool :=
  let d := getQ s q
  s.ctl.state == .run && d.enable && !d.halted && !queueHeld s q && d.head != d.tail && d.fetched.isNone

/-- The 128 bytes at a ring address as a descriptor. -/
def descOf (bs : List Byte) : Desc := BitVec.ofNat 1024 (leNat bs)

def setFetched (q : Nat) (f : Fetched) (s : State) : State := modQ q (fun d => { d with fetched := some f }) s

/-- A ring slot is read: none while its translation or its memory waits. DESIGN CHOICE (log 62): of a slot whose read
fails nothing is known, so its TAG is 0 and it raises no NOTIFY. -/
def readSlot (q : Nat) (i : BitVec 32) (s : State) : Option Slot × State :=
  let d := getQ s q
  let va := d.rbase.toNat + i.toNat % d.size * 128
  match xlatEngine d.ctx va .engRead s with
  | (.wait, s) => (none, s)
  | (.fault ev, s) => (some ⟨i, some (endWith dqXlat 0 va ev), 0⟩, s)
  | (.ok pa _, s) =>
    match readAccess false pa 128 s with
    | (.uncorrectable, s) =>
      (some ⟨i, some (endWith dqMemerr 0 va (if region s pa == .stage then smUe else memUe)), 0⟩, s)
    | (_, s) => (some ⟨i, none, descOf (Memory.gets s.mem pa 128)⟩, s)

/-- The slots behind the head that may be read ahead: up to 8, none beyond TAIL (06:R168). -/
def aheadIndices (d : Queue) : List (BitVec 32) :=
  ((List.range 8).filter fun k => k + 1 < (d.tail - d.head).toNat).map fun k => d.head + BitVec.ofNat 32 (k + 1)

/-- Slots behind the head are read ahead, each now or later as a free bit says (06:R168, log 62). -/
def readAhead (q : Nat) : List (BitVec 32) → State → State
  | [], s => s
  | i :: is, s =>
    if (getQ s q).ahead.any (·.idx == i) then readAhead q is s
    else
      let (now, s) := drawBit s
      if !now then readAhead q is s
      else match readSlot q i s with
        | (some x, s) => readAhead q is (modQ q (fun d => { d with ahead := d.ahead ++ [x] }) s)
        | (none, s) => readAhead q is s

/-- The head's slot: the bytes read ahead, which stand whatever was written to the slot since (06:R167, R168), or the
slot as it is read now. -/
def headSlot (q : Nat) (s : State) : Option Slot × State :=
  let d := getQ s q
  match d.ahead.find? (·.idx == d.head) with
  | some x => (some x, s)
  | none => readSlot q d.head s

/-- The fetched head of a slot: its checks, and the deadline miss that check 7 detects (06:R169, R186). -/
def fetchSlot (q : Nat) (x : Slot) (s : State) : State :=
  match x.fail with
  | some e => setFetched q ⟨x.idx, 0, some e, false, false⟩ s
  | none => match fetchChecks s (getQ s q) x.desc with
    | some e => setFetched q ⟨x.idx, x.desc, some e, false, false⟩ s
    | none =>
      if dHasDeadline x.desc && dDeadline x.desc < s.beat.value.toNat then
        setFetched q ⟨x.idx, x.desc, some (endWith dqDeadline 0xFF (dDeadline x.desc)), false, false⟩
          (detectMiss q x.idx x.desc s)
      else setFetched q ⟨x.idx, x.desc, none, false, false⟩ s

/-- The head is read and checked, and slots behind it are read ahead (06:R168, R169). -/
def fetchHead (q : Nat) (s : State) : State :=
  if !canFetch s q then s else
  match headSlot q s with
  | (none, s) => s
  | (some x, s) =>
    let s := fetchSlot q x (modQ q (fun d => { d with ahead := d.ahead.filter (·.idx ≠ x.idx) }) s)
    readAhead q (aheadIndices (getQ s q)) s

/-- The head completes with its fetch-time event once every earlier descriptor has completed (06:R169). DESIGN CHOICE
(log 62): it does so in HOLD too, since it starts nothing; 01:R28 speaks of descriptors that start after the RUN edge. -/
def completeFetchEvent (q : Nat) (s : State) : State :=
  let d := getQ s q
  match d.fetched with
  | some f => match f.event with
    | some e =>
      if running s && d.inflight.isEmpty && !d.halted then
        completeDesc q ⟨f.idx, f.desc, e, 0, false, false, false, e.event == dqDeadline⟩ s
      else s
    | none => s
  | none => s

/-! Barriers (06:R174). -/

/-- The scope of a queue's barriers. -/
def barScope (s : State) (q : Nat) : BitVec 32 := (getQ s q).barmask ||| BitVec.ofNat 32 (2 ^ q)

/-- A barrier of a queue is in force. -/
def barrierOn (s : State) (q : Nat) : Bool :=
  let d := getQ s q
  (match d.fetched with | some f => f.barrier | none => false) || d.inflight.any fun f => dBarrier f.desc

/-- A barrier of another queue holds a queue. -/
def barred (s : State) (q : Nat) : Bool :=
  (List.range 32).any fun p => p != q && barrierOn s p && (barScope s p).getLsbD q

/-- A barrier of the queue's own descriptor in flight holds its head. -/
def ownBarrier (s : State) (q : Nat) : Bool := (getQ s q).inflight.any fun f => dBarrier f.desc

/-- No descriptor of the scope is in flight. -/
def scopeQuiet (s : State) (q : Nat) : Bool :=
  (List.range 32).all fun p => !(barScope s q).getLsbD p || (getQ s p).inflight.isEmpty

/-! Starting (06:R171 to R173). -/

/-- The fetched head of a queue that may proceed: RUN, enabled, not halted or halting, no event. -/
def readyHead (s : State) (q : Nat) : Option Fetched :=
  let d := getQ s q
  if s.ctl.state == .run && d.enable && !d.halted && !d.halting && !queueHeld s q then
    match d.fetched with
    | some f => if f.event.isNone && f.idx == d.head then some f else none
    | none => none
  else none

/-- The wait word holds, or the predicate has been tested. -/
def waitMet (s : State) (f : Fetched) : Bool :=
  if dPred f.desc then f.tested else waitHolds s (dCmp f.desc) (dWaitFlag f.desc) (dWaitValue f.desc)

/-- The not-before beat is reached, and the deadline has not passed. -/
def beatMet (s : State) (d : Desc) : Bool :=
  (!dTimed d || dNb d ≤ s.beat.value.toNat) && !(dHasDeadline d && dDeadline d < s.beat.value.toNat)

def hazardMet (s : State) (q : Nat) (d : Desc) : Bool :=
  (getQ s q).inflight.all fun f => hazardFree s d f.desc f.prof

/-- Another barrier in force whose scope meets that of a queue's. -/
def barrierMeets (s : State) (q : Nat) : Bool :=
  (List.range 32).any fun p => p != q && barrierOn s p && barScope s p &&& barScope s q != 0

/-- The barrier conditions of a head: none in force over it and, of a barrier descriptor, entered and its scope quiet. -/
def barrierMet (s : State) (q : Nat) (f : Fetched) : Bool :=
  !barred s q && !ownBarrier s q && (!dBarrier f.desc || (f.barrier && scopeQuiet s q))

/-- Descriptors in flight on an engine instance. -/
def onInstance (s : State) (cls inst : Nat) : List InFlight :=
  s.dq.toList.flatMap fun d => d.inflight.filter fun f => dClass f.desc == cls && dInstance f.desc == inst

/-- Requests of a descriptor at the memory ports: its reads, and all (07:R219, 08:R235). -/
def portReqs (s : State) (q : Nat) (idx : BitVec 32) : List PortReq :=
  (s.memp.out ++ s.memp.waiting).filter fun r => match r.waiter with
    | .engine p i _ _ => p.val == q && i == idx
    | _ => false

def readsOut (s : State) (q : Nat) (idx : BitVec 32) : Bool := (portReqs s q idx).any fun r => !r.write

/-- The descriptors in progress on an instance, which are fewer than two, have read their last source byte (07:R219). -/
def hasReadAll (s : State) (cls inst : Nat) : Bool :=
  (onInstance s cls inst).length < 2 &&
    (List.range 32).all fun q => (getQ s q).inflight.all fun f =>
      !(dClass f.desc == cls && dInstance f.desc == inst) || !readsOut s q f.idx

/-- A mailbox holds a free entry (07:R227). -/
def freeEntry (c : Core) : Option Nat := (List.range 16).find? fun m => !(vget c.mbx m .reset).valid

/-- The engine instance accepts a descriptor: VE and MOVE hold at most two; a mailbox needs a free entry; a held engine
takes none (07:R219, R222, R227; 13:R388). -/
def engineAccepts (s : State) (d : Desc) : Bool :=
  match dClass d with
  | 1 => !opaHeld s
  | 2 => !veHeld s && hasReadAll s 2 0
  | 3 => hasReadAll s 3 (dInstance d)
  | 4 => !rmeHeld s
  | 5 => (freeEntry (getCore s (dInstance d))).isSome
  | _ => true

/-- The conditions of 06:R171 but arbitration. -/
def startable (s : State) (q : Nat) : Option Fetched :=
  (readyHead s q).bind fun f =>
    if waitMet s f && beatMet s f.desc && barrierMet s q f && hazardMet s q f.desc &&
        (getQ s q).inflight.length < 8 && engineAccepts s f.desc then some f else none

/-- The queue that an instance took last. -/
def lastTaken (s : State) (cls inst : Nat) : Nat :=
  match cls with
  | 0 => s.arb.null
  | 1 => (getInst s inst).lastQ
  | 2 => s.arb.ve
  | 3 => vget s.arb.move inst 31
  | 4 => s.arb.rme
  | _ => vget s.arb.cc inst 31

def setTaken (cls inst q : Nat) (s : State) : State :=
  let s := { s with arb := { s.arb with taken := (cls, inst) :: s.arb.taken } }
  match cls with
  | 0 => { s with arb := { s.arb with null := q } }
  | 1 => modInst inst (fun i => { i with lastQ := q }) s
  | 2 => { s with arb := { s.arb with ve := q } }
  | 3 => { s with arb := { s.arb with move := vmod s.arb.move inst fun _ => q } }
  | 4 => { s with arb := { s.arb with rme := q } }
  | _ => { s with arb := { s.arb with cc := vmod s.arb.cc inst fun _ => q } }

/-- Arbitration: the instance has taken none in this f-cycle, and the queue is the lowest-numbered startable one that
follows, cyclically, the one taken last (06:R173). -/
def arbitrated (s : State) (q : Nat) : Bool :=
  let d := getQ s q
  let cls := d.cls.toNat
  let inst := d.inst.toNat
  !s.arb.taken.contains (cls, inst) &&
    (((List.range 32).map fun k => (lastTaken s cls inst + 1 + k) % 32).find? fun p =>
      let e := getQ s p
      e.cls.toNat == cls && e.inst.toNat == inst && (startable s p).isSome) == some q

/-- The head that the command of an opcode starts, if its conditions hold. -/
def startHead (s : State) (q cls op : Nat) : Option Fetched :=
  match startable s q with
  | some f => if dClass f.desc == cls && dOpcode f.desc == op && arbitrated s q then some f else none
  | none => none

/-- The new descriptor in flight, with the configuration latched (02:R62). -/
def newFlight (s : State) (q : Nat) (f : Fetched) : InFlight :=
  let d := getQ s q
  { idx := f.idx, desc := f.desc, seed := d.seed, w := d.w, fast := d.fast, writes := [], posted := false, exc := 0,
    count := 0, attempts := 1, replayed := false, slices := [], missed := false, tmo := tmoBeats s, limit := none, entry := none, actTab := none,
    prof := profileOf s f.desc, verdict := none, ended := none }

/-- A descriptor starts: HEAD moves on, its engine has taken it, its on-start signal is performed (06:R159, R171); one
that performed it before a roll-back does not perform it again (06:R177). -/
def beginFlight (q : Nat) (f : Fetched) (fl : InFlight) (s : State) : State :=
  let d := getQ s q
  let s := setTaken d.cls.toNat d.inst.toNat q s
  let s := modQ q (fun d => { d with head := f.idx + 1, fetched := none, inflight := d.inflight ++ [fl], signalled := d.signalled.filter (· ≠ f.idx) }) s
  if d.signalled.contains f.idx then s else startSignal (qFin q) f.idx (dSignal f.desc) s

/-- A change of a descriptor in flight. -/
def modFlight (q : Nat) (idx : BitVec 32) (g : InFlight → InFlight) (s : State) : State :=
  modQ q (fun d => { d with inflight := d.inflight.map fun f => if f.idx == idx then g f else f }) s

def getFlight (s : State) (q : Nat) (idx : BitVec 32) : Option InFlight := (getQ s q).inflight.find? (·.idx == idx)

/-- A descriptor's engine has finished, with an outcome; the first outcome stands. -/
def endFlight (q : Nat) (idx : BitVec 32) (e : Ended) (s : State) : State :=
  modFlight q idx (fun f => { f with ended := match f.ended with | some x => some x | none => some e }) s

/-- EXC of a descriptor that ends with an event: of OPA what has drained; of VE the flags of the elements that it has
reached, which are open, with RAISE and LOWER (07:R200); else none. -/
def failedExc (f : InFlight) (s : State) : BitVec 5 × State :=
  match dClass f.desc with
  | 1 => (f.exc, s)
  | 2 =>
    let (w, s) := drawWord s
    ((f.exc &&& w.extractLsb' 0 5) ||| (veRaise f.desc &&& ~~~(veLower f.desc)), s)
  | _ => (0, s)

/-- A descriptor in flight ends with an event: its pending writes land or not, its engine work goes (01:R30). -/
def failFlight (q : Nat) (idx : BitVec 32) (e : Ended) (s : State) : State :=
  match getFlight s q idx with
  | some f =>
    if f.ended.isSome then s else
    let (exc, s) := failedExc f s
    let s := stopFlight true q { f with entry := none } s
    modFlight q idx (fun f => { f with ended := some e, writes := [], exc := exc }) s
  | none => s

/-- A deadline miss of a descriptor in flight is detected, whether or not its engine has finished (06:R186). -/
def missFlight (q : Nat) (f : InFlight) (s : State) : State :=
  modFlight q f.idx (fun f => { f with missed := true }) (detectMiss q f.idx f.desc s)

/-- The beat value has passed the deadline of a descriptor (06:R160). -/
def isLate (s : State) (d : Desc) : Bool := dHasDeadline d && dDeadline d < s.beat.value.toNat

/-- The oldest descriptor in flight whose engine has finished completes (06:R175); a started descriptor whose deadline
was missed, at the latest now (06:R160), carries DQ_DEADLINE if it ends without an event (06:R186). -/
def completeOldest (q : Nat) (s : State) : State :=
  match (getQ s q).inflight with
  | f :: _ => match f.ended with
    | some e =>
      if !running s then s else
      let miss := isLate s f.desc && !f.missed
      let s := if miss then missFlight q f s else s
      let e' := if e.event == 0 && (f.missed || miss) then
        { e with event := dqDeadline, info := w64 (dDeadline f.desc), nonfin := false } else e
      completeDesc q ⟨f.idx, f.desc, e', f.exc, false, f.replayed, true, f.missed || miss⟩ s
    | none => s
  | [] => s

/-! Predicates (05:R145, R146). -/

/-- The predicate test of a head. -/
def predicateTest (q : Nat) (s : State) : State :=
  match readyHead s q with
  | some f =>
    if dPred f.desc && !f.tested && (getQ s q).inflight.isEmpty && beatMet s f.desc && barrierMet s q f then
      if waitHolds s (dCmp f.desc) (dWaitFlag f.desc) (dWaitValue f.desc) then setFetched q { f with tested := true } s
      else completeDesc q ⟨f.idx, f.desc, endOk, 0, true, false, false, false⟩ s
    else s
  | none => s

/-- A barrier head can enter: every condition but those on barriers, the in-flight limit and acceptance, and no other
barrier in force with an overlapping scope (06:R174). -/
def canEnter (s : State) (q : Nat) : Bool :=
  match readyHead s q with
  | some f =>
    dBarrier f.desc && !f.barrier && (if dPred f.desc then (getQ s q).inflight.isEmpty else waitMet s f) &&
      beatMet s f.desc && hazardMet s q f.desc && !ownBarrier s q && !barrierMeets s q
  | none => false

def barrierEnter (q : Nat) (s : State) : State :=
  if canEnter s q && !((List.range q).any fun p => canEnter s p && barScope s p &&& barScope s q != 0) then
    modQ q (fun d => { d with fetched := d.fetched.map fun f => { f with barrier := true } }) s
  else s

/-! Deadlines and deadlock (06:R186 to R189). -/

def deadlineMiss (q : Nat) (idx : BitVec 32) (s : State) : State :=
  let d := getQ s q
  match d.inflight.find? fun f => f.idx == idx with
  | some f => if running s && isLate s f.desc && !f.missed then missFlight q f s else s
  | none => match d.fetched with
    | some f =>
      if s.ctl.state == .run && f.idx == idx && f.event.isNone && isLate s f.desc then
        setFetched q { f with event := some (endWith dqDeadline 0xFF (dDeadline f.desc)) } (detectMiss q idx f.desc s)
      else s
    | none => s

/-- A head is not held by a barrier; a barrier descriptor that would enter if its wait word held is not either. -/
def barrierWould (s : State) (q : Nat) (f : Fetched) : Bool :=
  !barred s q && !ownBarrier s q && (!dBarrier f.desc || (scopeQuiet s q && (f.barrier || !barrierMeets s q)))

/-- The flag on which a queue is blocked: its head would start except that its wait word does not hold (06:R188). -/
def blockedOn (s : State) (q : Nat) : Option Nat :=
  match readyHead s q with
  | some f =>
    if !dPred f.desc && (getQ s q).inflight.isEmpty && !waitMet s f && beatMet s f.desc && barrierWould s q f &&
        hazardMet s q f.desc && engineAccepts s f.desc then some (dWaitFlag f.desc) else none
  | none => none

/-- Queues with work that could run. -/
def hasWork (d : Queue) : Bool := d.enable && !d.halted && d.tail != d.head

/-- The edges of the wait graph: from a blocked queue to those whose head signals its flag (06:R188). -/
def waitEdges (s : State) (blocked : List (Nat × Nat)) (q : Nat) : List Nat :=
  match blocked.find? (·.1 == q) with
  | some (_, f) => (blocked.filter fun r => match (getQ s r.1).fetched with
      | some h => let sg := dSignal h.desc; sg.op != 0 && sg.node == 0xFFFF && sg.flag == f
      | none => false).map (·.1)
  | none => []

/-- The queues reachable from a list in n steps. -/
def reachIn (edges : Nat → List Nat) : Nat → List Nat → List Nat
  | 0, l => l
  | n + 1, l => reachIn edges n (l ++ (l.flatMap edges).eraseDups.filter fun x => !l.contains x)

/-- The queues in cycles of the wait graph, when the conditions of 06:R188 hold. -/
def deadlocked (s : State) : List (Nat × Nat) :=
  let work := (List.range 32).filter fun q => hasWork (getQ s q)
  let blocked := work.filterMap fun q => (blockedOn s q).map fun f => (q, f)
  if s.ctl.state == .run && quiet s && blocked.length == work.length then
    let edges := waitEdges s blocked
    blocked.filter fun b => (reachIn edges 32 (edges b.1)).contains b.1
  else []

/-- The declared deadlock (06:R189). -/
def declareDeadlock (s : State) : State :=
  let dead := deadlocked s
  match dead with
  | [] => s
  | (q0, f0) :: _ =>
    let mask := dead.foldl (fun m b => m + 2 ^ b.1) 0
    let s := detect dqDeadlock clsQueue (BitVec.ofNat 16 (0x0700 + q0)) (BitVec.ofNat 16 f0) (w64 mask)
      ((getQ s q0).head.setWidth 64) s
    dead.foldl (fun s b =>
      dqEvent b.1 5 (haltQueue b.1 dqDeadlock (BitVec.ofNat 16 b.2) (getQ s b.1).head s)) s

/-! Doorbell, control and configuration (06:R151, R165, R178). -/

/-- A doorbell write (06:R165, 01:R27). -/
def doorbell (q : Nat) (t : BitVec 32) (s : State) : State :=
  if !flagsOpen s then s else
  let d := getQ s q
  if d.enable && (d.tail - d.done).toNat ≤ (t - d.done).toNat && (t - d.done).toNat ≤ d.size then
    modQ q (fun d => { d with tail := t }) s
  else dqEvent q 3 s

/-- FLUSH on a halted queue (06:R178); it ends the halt of a declared deadlock (06:R189). -/
def flushQueue (q : Nat) (s : State) : State :=
  if (getQ s q).halted then modQ q (fun d => { d with
    tail := d.head, fetched := none, ahead := [], signalled := [], halted := d.haltEvent != dqDeadlock }) s
  else s

/-- RESUME on a halted queue; ignored while the queue is held (13:R388). -/
def resumeQueue (q : Nat) (s : State) : State :=
  if (getQ s q).halted && !queueHeld s q then modQ q (fun d => { d with halted := false }) s else s

/-- HALT: the queue starts nothing further and halts when nothing is in flight. -/
def haltCommand (q : Nat) (s : State) : State :=
  if (getQ s q).halted then s else settleHalt q (modQ q (fun d => { d with halting := true }) s)

/-- A queue is quiet (06:R151). -/
def queueQuiet (s : State) (q : Nat) : Bool :=
  let d := getQ s q
  !d.enable || s.ctl.state == .config || (d.halted && d.inflight.isEmpty)

/-- A write of DQ_CFG, DQ_RBASE or DQ_CBASE (06:R149 to R151). -/
def dqConfig (q reg : Nat) (v : Word) (s : State) : State :=
  if !queueQuiet s q then dqEvent q 4 s else
  match reg with
  | 0 =>
    if 5 < fld v 24 4 || 16 < fld v 16 5 then dqEvent q 4 s
    else
      let en := v.getLsbD 0
      let d := getQ s q
      let s := if d.enable && !en then stopFlights q d.inflight s else s
      endMismatch (0x100000 + q * 0x1000) <| modQ q (fun d =>
        let d := { d with ctx := v.extractLsb' 48 16, inst := v.extractLsb' 32 8, cls := v.extractLsb' 24 4,
                          log2size := v.extractLsb' 16 5, enable := en }
        if en && !(getQ s q).enable then
          { d with tail := 0, head := 0, done := 0, halted := false, halting := false, fetched := none, ahead := [],
                   inflight := [], signalled := [] }
        else if !en then { d with fetched := none, ahead := [], inflight := [], signalled := [], tail := d.head }
        else { d with fetched := none, ahead := [] }) s
  | 1 => endMismatch (0x100008 + q * 0x1000) <| modQ q (fun d => { d with rbase := v.extractLsb' 0 48 &&& 0xFFFFFFFFF000, fetched := none, ahead := [] }) s
  | _ => endMismatch (0x100010 + q * 0x1000) <|
    modQ q (fun d => { d with cbase := v.extractLsb' 0 48 &&& 0xFFFFFFFFF000 }) s

end Sys2Proof.Machine
end

