-- ==== Sys2Proof/Machine/Apply.lean ====
section
/-! DEFINITION. State requests, staging and the APPLY edge (01:R25; 03:R74, R75; 04:R119; 13:R371, R386 to R389). -/

namespace Sys2Proof.Machine

/-- The offset is that of an OPA register with an RWS field, at its normal address. -/
def opaRws (off : Nat) : Bool :=
  off == 0x300008 || off == 0x300010 || (0x300400 ≤ off && off < 0x300480 && off % 8 == 0) ||
    (0x302000 ≤ off && off < 0x306000 && off % 8 == 0)

/-! Configuration parity (13:R388). -/

/-- The offset is that of a register with an RW or RWS field in a region that carries parity, or of its staged copy. -/
def parityCovered (off : Nat) : Bool :=
  off == 0x10 || off == 0x8010 || off == 0x20 || off == 0x28 ||
  (0x100000 ≤ off && off < 0x120000 && [0x00, 0x08, 0x10, 0x48, 0x50, 0x58].contains (off % 0x1000)) ||
  (0x200000 ≤ off && off < 0x208000 && off % 8 == 0) ||
  opaRws off || (0x308000 ≤ off && off < 0x310000 && opaRws (past 0x8000 off)) ||
  off == 0x580000 || (0x580100 ≤ off && off < 0x580140 && off % 8 == 0) ||
  (0x5A0000 ≤ off && off < 0x5A4000 && off % 8 == 0) ||
  off == 0x700000 || off == 0x800000 || off == 0x800008 || off == 0x800018 || off == 0x800028 || off == 0x800030 ||
  off == 0x900000

/-- The queue of a DQ register halts as under HALT, with MG_CFG_PARITY (13:R388). -/
def holdQueue (off : Nat) (s : State) : State :=
  if 0x100000 ≤ off && off < 0x120000 then
    let q := (past 0x100000 off) / 0x1000
    if (getQ s q).halted then s else settleHalt q (modQ q (fun d => { d with halting := true }) s)
  else s

/-- A mismatch is found: PARITY, GEN_PARITY, one record for the register, and the owning unit is held (13:R388). -/
def parityMismatch (off : BitVec 26) (s : State) : State :=
  if s.gen.parity.contains off then s
  else
    let s := genEvent 4 { s with gen := { s.gen with parity := s.gen.parity ++ [off] } }
    let s :=
      if s.gen.parityRec.contains off then s
      else
        detect mgCfgParity clsUnit (BitVec.ofNat 16 (0x0C00 + parityRegion off)) 0 (off.setWidth 64) 0
          { s with gen := { s.gen with parityRec := off :: s.gen.parityRec } }
    holdQueue off.toNat s

/-- A register is read or visited: a mismatch of its copy that nothing has found yet is found (13:R388). -/
def parityRead (off : BitVec 26) (s : State) : State :=
  if s.gen.latent.contains off then
    parityMismatch off { s with gen := { s.gen with latent := s.gen.latent.erase off } }
  else s

/-! State requests (13:R371). -/

/-- The transition table of 01:R25 holds a request from a state; code 0 withdraws. -/
def legalRequest (st : BlockState) (code : Nat) : Bool :=
  match code, st with
  | 0, _ => true
  | 1, .hold => true
  | 2, .config => true
  | 2, .hold => true
  | 3, .run => true
  | _, _ => false

/-- The record of a failed state request (13:R371). -/
def requestRecord (p : ReqPath) (s : State) : State :=
  let abort := 0x04000000 + stateCode s.ctl.state
  match p with
  | .register => detect mgStateEv clsInfo 0x0C00 0 (w64 abort) 0 s
  | .chain => detect mgStateEv clsInfo 0x0800 0 (w64 (abort + 0x022000 * 2 ^ 32)) 0 s
  | .mailbox => detect mgStateEv clsInfo 0x0801 0 (w64 (abort + 0x022000 * 2 ^ 32)) 0 s

/-- RWS writes and edges are taken in the state (01:R27). -/
def applyOpen (s : State) : Bool := flagsOpen s || s.ctl.state == .service

/-- The copy at an offset mismatches, found or not (13:R388). -/
def mismatched (s : State) (off : Nat) : Bool := parityAt s off || s.gen.latent.any fun o => o.toNat == off

/-- A request is staged; while the active copy of GEN_STATEREQ mismatches, it takes the value too (13:R371, R389). -/
def stageRequest (path : ReqPath) (code : Nat) (s : State) : State :=
  let v := BitVec.ofNat 3 code
  let active := if mismatched s 0x10 then v else s.gen.reqActive
  endMismatch 0x8010 (endMismatch 0x10 { s with gen := { s.gen with reqStaged := v, reqActive := active, reqPath := path } })

/-- A write to the staged copy of GEN_STATEREQ (13:R371). -/
def requestByRegister (v : Word) (s : State) : State :=
  if !applyOpen s then s else
  let code := fld v 0 3
  if 3 < code then genEvent 2 s
  else if !legalRequest s.ctl.state code then requestRecord .register (genEvent 3 s)
  else stageRequest .register code s

/-- The state of a request's code. -/
def requestedState (code : Nat) : BlockState :=
  match code with
  | 1 => .config
  | 2 => .run
  | _ => .hold

/-- The staged request is checked and consumed at an edge (01:R25, 13:R371). -/
def checkRequest (s : State) : State :=
  let code := s.gen.reqStaged.toNat
  if code == 0 then s else
  let ok := legalRequest s.ctl.state code && (code != 1 || quiet s)
  let s' := { s with gen := { s.gen with
    reqStaged := 0, reqActive := s.gen.reqStaged, reqResult := if ok then 1 else 2 } }
  if ok then { s' with ctl := { s'.ctl with state := requestedState code } }
  else requestRecord s.gen.reqPath (genEvent 3 s')

/-! Activation of staged copies (13:R386). -/

/-- The staged copy of a register holds a mismatch. -/
def stagedBad (s : State) (off : Nat) : Bool := parityAt s (off + 0x8000)

/-- The mode and the band map at an edge (03:R74, R75). -/
def applyMode (s : State) : State :=
  let differs := s.opa.pmodeStaged != s.opa.pmode && !stagedBad s 0x300008
  if !opaIdle s then (if differs then opaMEvent 1 s else s)
  else
    let avail := s.opa.pmodeStaged.toNat < 5 && (pmodeAvail s).testBit s.opa.pmodeStaged.toNat
    let s := if differs && !avail then opaMEvent 0 s else s
    let s := if differs && avail then { s with opa := { s.opa with pmode := s.opa.pmodeStaged } } else s
    let m := dealMap s (pmode s)
    -- a group in service that enters its sub-state is dealt, and still leaves its band (03:R76)
    let left := s.opa.leaving.filter fun g => vget m g.val 0xF != 0xF
    if m == s.opa.bandmap then { s with opa := { s.opa with leaving := left } }
    else opaMEvent 2 { s with opa := { s.opa with bandmap := m, leaving := left } }

/-- A profile's values used by started descriptors (04:R119). -/
def profUses (s : State) (d : Nat) : List (BitVec 17) :=
  (s.opa.inst.toList.flatMap (·.jobs)).filterMap fun j =>
    if opaDrains j.desc && opaProfile j.desc == d then some j.prof else none

/-- A table's values used by started descriptors, VE_ACT among them (04:R119, 07:R207). -/
def tableUses (s : State) (t : Nat) : List ActTable :=
  ((s.opa.inst.toList.flatMap (·.jobs)).filterMap fun j =>
    if opaDrains j.desc && prAct j.prof == 8 + t then some j.tab else none) ++
  (s.dq.toList.flatMap (·.inflight)).filterMap fun f =>
    match f.actTab with
    | some (u, tab) => if u == t then some tab else none
    | none => none

/-- A new value would be a third generation while a started descriptor uses one older than the active value; it waits
until none does (04:R119; DEDUCED, log 63). -/
def thirdGen {α : Type} [DecidableEq α] (uses : List α) (active staged : α) : Bool :=
  active != staged && uses.any (· != active)

/-- One segment takes the staged words whose copies hold no mismatch. -/
def mixSeg (old new : ActSeg) (bad : Nat → Bool) : ActSeg :=
  let w0 := if bad 0 then old else new
  let w1 := if bad 1 then old else new
  let w2 := if bad 2 then old else new
  { linear := w0.linear, b := w0.b, c0 := w1.c0, c1 := w1.c1, c2 := w2.c2, c3 := w2.c3 }

def actOff (t i w : Nat) : Nat := 0x302000 + t * 0x800 + i * 0x20 + w * 8

/-- The table that an edge would make active. -/
def nextTable (s : State) (t : Nat) : ActTable :=
  let old := vget s.opa.act t (.replicate 64 .reset)
  let new := vget s.opa.actStaged t (.replicate 64 .reset)
  if (s.gen.parity.any fun o => 0x30A000 ≤ o.toNat && o.toNat < 0x30E000) then
    vmapIdx (fun i g => mixSeg g (vget new i .reset) fun w => stagedBad s (actOff t i w)) old
  else new

def nextProf (s : State) (d : Nat) : BitVec 17 :=
  if stagedBad s (0x300400 + 8 * d) then vget s.opa.dprof d 0 else vget s.opa.dprofStaged d 0

/-- Profiles and tables at an edge; DP_DEFER where a third generation would come into being (04:R119). -/
def applyProfiles (s : State) : State :=
  let defP (d : Nat) : Bool := thirdGen (profUses s d) (vget s.opa.dprof d 0) (nextProf s d)
  let defT (t : Nat) : Bool := thirdGen (tableUses s t) (vget s.opa.act t (.replicate 64 .reset)) (nextTable s t)
  let some_ := (List.range 16).any defP || (List.range 8).any defT
  let s' := { s with opa := { s.opa with
    dprof := vmapIdx (fun d p => if defP d then p else nextProf s d) s.opa.dprof,
    act := vmapIdx (fun t a => if defT t then a else nextTable s t) s.opa.act } }
  if some_ then opaDEvent 17 s' else s'

def applyFill (s : State) : State :=
  if stagedBad s 0x300010 then s else { s with opa := { s.opa with fill := s.opa.fillStaged } }

/-- The staged copies that an edge would activate are checked (13:R388). -/
def checkStaged (s : State) : State :=
  (s.gen.latent.filter fun o => o == 0x8010 || (0x308000 ≤ o.toNat && o.toNat < 0x310000)).foldl (fun s o => parityRead o s) s

/-- An APPLY edge, one in an f-cycle (13:R386, R388); a mismatch that this edge finds in the staged GEN_STATEREQ keeps that
copy alone from taking effect (log 54). -/
def applyEdge (s : State) : State :=
  if !applyOpen s || s.gen.edged then s
  else
    let s := { s with gen := { s.gen with edged := true } }
    if parityHeld s 0 then genEvent 5 s
    else
      let s := checkStaged s
      let s := applyProfiles (applyFill (applyMode (if stagedBad s 0x10 then s else checkRequest s)))
      genEvent 0 { s with gen := { s.gen with applies := s.gen.applies + 1 } }

/-- AT = 1: a scheduled APPLY is armed, or is too late (13:R387). -/
def armApply (s : State) : State :=
  if s.beat.value.toNat < s.gen.applyAt.toNat then { s with gen := { s.gen with armed := true } }
  else genEvent 1 (detect mgApplyLate clsInfo 0x0A00 0 s.gen.applyAt s.beat.value s)

/-- A write of GEN_APPLY_AT disarms (13:R387). -/
def writeApplyAt (v : Word) (s : State) : State :=
  endMismatch 0x20 { s with gen := { s.gen with applyAt := v, armed := false } }

/-- NOW = 1: an edge in the next f-cycle (13:R384, R387). -/
def applyNext (s : State) : State := { s with gen := { s.gen with now := true } }

/-- A write of GEN_APPLY. -/
def writeApply (v : Word) (s : State) : State :=
  let s := if v.getLsbD 0 then applyNext s else s
  if v.getLsbD 1 then armApply s else s

/-! Staged writes: the staged copy, and the active one too while it holds a mismatch (13:R389). -/

def writeStaged (off : Nat) (staged active : State → State) (s : State) : State :=
  if !applyOpen s then s
  else
    let bad := mismatched s off
    let s := endMismatch off (endMismatch (off + 0x8000) (staged s))
    if bad then active s else s

def segWord (w : Nat) (v : Word) (g : ActSeg) : ActSeg :=
  match w with
  | 0 => { g with linear := v.getLsbD 32, b := v.extractLsb' 0 32 }
  | 1 => { g with c1 := v.extractLsb' 32 32, c0 := v.extractLsb' 0 32 }
  | 2 => { g with c3 := v.extractLsb' 32 32, c2 := v.extractLsb' 0 32 }
  | _ => g

def segRead (g : ActSeg) (w : Nat) : Word :=
  match w with
  | 0 => w64 (bitAt' g.linear 32 + g.b.toNat)
  | 1 => w64 (g.c1.toNat * 2 ^ 32 + g.c0.toNat)
  | 2 => w64 (g.c3.toNat * 2 ^ 32 + g.c2.toNat)
  | _ => 0
where bitAt' (b : Bool) (i : Nat) : Nat := if b then 2 ^ i else 0

/-- The bits of OPA_DPROF_d that are not reserved. -/
def dprofOf (v : Word) : BitVec 17 := v.extractLsb' 0 17 &&& 0x1FFCF

/-- A write of a register of the OPA region that holds an RWS field; `off` is its normal address. -/
def writeOpa (off : Nat) (v : Word) (s : State) : State :=
  if off == 0x300008 then
    writeStaged off (fun s => { s with opa := { s.opa with pmodeStaged := v.extractLsb' 0 3 } })
      (fun s => { s with opa := { s.opa with pmode := v.extractLsb' 0 3 } }) s
  else if off == 0x300010 then
    writeStaged off (fun s => { s with opa := { s.opa with fillStaged := v.extractLsb' 0 5 } })
      (fun s => { s with opa := { s.opa with fill := v.extractLsb' 0 5 } }) s
  else if 0x300400 ≤ off && off < 0x300480 then
    let d := (past 0x300400 off) / 8
    writeStaged off (fun s => { s with opa := { s.opa with dprofStaged := vmod s.opa.dprofStaged d fun _ => dprofOf v } })
      (fun s => { s with opa := { s.opa with dprof := vmod s.opa.dprof d fun _ => dprofOf v } }) s
  else
    let t := (past 0x302000 off) / 0x800
    let i := (past 0x302000 off) / 0x20 % 64
    let w := off / 8 % 4
    writeStaged off
      (fun s => { s with opa := { s.opa with actStaged := vmod s.opa.actStaged t fun a => vmod a i (segWord w v) } })
      (fun s => { s with opa := { s.opa with act := vmod s.opa.act t fun a => vmod a i (segWord w v) } }) s

end Sys2Proof.Machine
end

