-- ==== Sys2Proof/Machine/BlockCache.lean ====
section
/-! DEFINITION. Configuration, preload and power of the block cache (12:R353 to R357). -/

namespace Sys2Proof.Machine

def wayBit (w : Nat) : BitVec 16 := BitVec.ofNat 16 (2 ^ w)

/-- A write of BC_CFG. -/
def writeBcCfg (v : Word) (s : State) : State :=
  endMismatch 0x800000 { s with bc := { s.bc with lock := v.extractLsb' 16 16, fillmask := v.extractLsb' 0 16 } }

/-- OFF := 1 for a way: no allocation, and cleaning begins (12:R356). -/
def wayOff (w : Nat) (s : State) : State :=
  if s.bc.off.getLsbD w then s
  else { s with bc := { s.bc with off := s.bc.off ||| wayBit w, busy := s.bc.busy ||| wayBit w } }

/-- A way is also cleaned because it is disabled, or enters its SERVICE sub-state (12:R356, R357). -/
def cleansAnyway (s : State) (w : Nat) : Bool :=
  s.bc.disabled.getLsbD w || transOf s (unitOf 5 w) == some .entering || s.svc.retWay.getLsbD w

/-- OFF := 0 for a way: it powers up empty, BUSY until its allocations are accepted. A way that was still cleaning has
not been powered down, and is BUSY only while another reason cleans it. -/
def wayOn (w : Nat) (s : State) : State :=
  if !s.bc.off.getLsbD w then s
  else if s.bc.down.getLsbD w then
    { s with bc := { s.bc with off := s.bc.off &&& ~~~wayBit w, busy := s.bc.busy ||| wayBit w } }
  else { s with bc := { s.bc with
    off := s.bc.off &&& ~~~wayBit w, busy := if cleansAnyway s w then s.bc.busy else s.bc.busy &&& ~~~wayBit w } }

/-- A write of BC_PWR. -/
def writeBcPwr (v : Word) (s : State) : State :=
  (List.range 16).foldl (fun s w => if v.getLsbD w then wayOff w s else wayOn w s) (endMismatch 0x800008 s)

/-- Cleaning of a way has ended: the way is down, disabled, or ready for its SERVICE sub-state (12:R356, R357). A way that
keeps a bad line stays BUSY in power-down and on its way into SERVICE. -/
def wayClean (w : Nat) (s : State) : State :=
  let s := cleanWay w s
  let bad := s.bc.lines.any fun l => l.way.val == w
  if s.bc.off.getLsbD w && !bad then
    { s with bc := { s.bc with down := s.bc.down ||| wayBit w, busy := s.bc.busy &&& ~~~wayBit w } }
  else if bad && (s.bc.off.getLsbD w || transOf s (unitOf 5 w) == some .entering) then s
  else { s with bc := { s.bc with busy := s.bc.busy &&& ~~~wayBit w } }

/-- A way accepts allocations again (12:R356). -/
def wayReady (w : Nat) (s : State) : State :=
  if !s.bc.off.getLsbD w && s.bc.down.getLsbD w then
    { s with bc := { s.bc with down := s.bc.down &&& ~~~wayBit w, busy := s.bc.busy &&& ~~~wayBit w } }
  else s

/-- The range of a preload lies in external memory. -/
def preloadLegal (s : State) (len : Nat) : Bool :=
  len != 0 && len % 128 == 0 && s.bc.plBase.toNat * 128 + len ≤ memBytes s

/-- A write of BC_PLLEN (12:R355). -/
def startPreload (v : Word) (s : State) : State :=
  if s.bc.plBusy || !preloadLegal s (fld v 0 32) then bcEvent 1 s
  else endMismatch 0x800030 { s with bc := { s.bc with plLen := v.extractLsb' 0 32, plFrom := s.bc.plBase, plBusy := true } }

/-- One line of a preload: a line elsewhere moves into a permitted way, an absent one is read (12:R355). -/
def preloadLine (line : Nat) (s : State) : State :=
  match bcFind s line with
  | some l =>
    if (bcFillable s).contains l.way.val || l.bad then s
    else
      let s' := { s with bc := { s.bc with lines := s.bc.lines.filter (·.line != line) } }
      let (ok, t) := bcAlloc line s'
      if ok then { t with bc := { t.bc with lines := t.bc.lines.map fun x =>
          if x.line == line then { x with dirty := l.dirty, under := l.under } else x } }
      else s
  | none =>
    if s.bc.victim.contains line then (bcAlloc line s).2
    else
      let (r, s) := readPortUnits [line * 2, line * 2 + 1] s
      if r == .uncorrectable then s else (bcAlloc line s).2

/-- A preload completes (12:R355): its lines have been read in increasing order; a held block cache does none
(13:R388). -/
def finishPreload (s : State) : State :=
  if !s.bc.plBusy || bcHeld s then s else
  let s := (List.range (s.bc.plLen.toNat / 128)).foldl (fun s i => preloadLine (s.bc.plFrom.toNat + i) s) s
  bcEvent 0 { s with bc := { s.bc with plBusy := false } }

end Sys2Proof.Machine
end

