-- ==== Sys2Proof/Machine/Rows.lean ====
section
/-! DEFINITION. Rows of tile registers, their conversion, and the row phase of tile loads and stores (10:R287 to R310). -/

namespace Sys2Proof.Machine

/-! Formats and rows. -/

/-- The format code of an element format code; 0 where undefined (10:R291). -/
def tileFmt (c : BitVec 4) : Nat :=
  match c.toNat with
  | 0x1 => 0x01 | 0x2 => 0x02 | 0x3 => 0x03 | 0x4 => 0x04 | 0x5 => 0x05 | 0x6 => 0x06 | 0x8 => 0x10 | 0x9 => 0x11
  | 0xA => 0x12 | 0xC => 0x14
  | _ => 0

/-- Elements of a row of b bytes (10:R291). -/
def rowElems (fmt b : Nat) : Nat := if fmtBits fmt == 0 then 0 else 8 * b / fmtBits fmt

/-- The codes of the first n elements of a row's bytes (02:R40). -/
def unpackRow (bits n : Nat) (bs : List Byte) : List Nat :=
  let v := leNat bs
  (List.range n).map fun j => (v >>> (j * bits)) % 2 ^ bits

/-- The n bytes of a row of codes. -/
def packCodes (bits n : Nat) (codes : List Nat) : List Byte :=
  natLe (codes.zipIdx.foldl (fun acc x => acc ||| (x.1 <<< (x.2 * bits))) 0) n

def tileAt (c : Core) (t : Nat) : Tile := vget c.tiles t .reset

def modTile (t : Nat) (f : Tile → Tile) (c : Core) : Core := { c with tiles := vmod c.tiles t f }

/-- The first n bytes of row r of a tile register. -/
def Tile.row (t : Tile) (r n : Nat) : List Byte := Memory.gets t.bytes (64 * r) n

/-- The bytes of row r replaced. -/
def Tile.putRow (r : Nat) (bs : List Byte) (t : Tile) : Tile :=
  { t with bytes := Memory.puts t.bytes (cellsAt (64 * r) bs), bad := t.bad &&& ~~~(BitVec.ofNat 32 (2 ^ r)) }

/-- Rows of a shape, zeroed. -/
def Tile.zeroRows (rows rb : Nat) (t : Tile) : Tile :=
  (List.range rows).foldl (fun t r => t.putRow r (List.replicate rb 0)) t

/-! Conversion (10:R310). -/

/-- The queue seed of CTL_TCFG (10:R309). -/
def tcfgSeed (t : Tcfg) : Word := w64 (t.seed.toNat * 0x100000001)

/-- One element converted: row i, position j, salt x. -/
def tileElem (t : Tcfg) (x : Word) (src dst i j code : Nat) : Nat × Exc :=
  let r := if t.rnd.toNat == 4 then srBits (tcfgSeed t ^^^ x) j (i + 1) t.w.toNat else 0
  convert dst ⟨t.rnd.toNat, r, t.w.toNat, false⟩ (valX (decode src code))

/-- A row of b bytes in format dst from the bytes of its source row in format src. -/
def tileConv (t : Tcfg) (x : Word) (src dst i b : Nat) (bs : List Byte) : List Byte × Exc :=
  let n := rowElems dst b
  let es := (unpackRow (fmtBits src) n bs).zipIdx.map fun e => tileElem t x src dst i e.2 e.1
  (packCodes (fmtBits dst) b (es.map (·.1)), es.foldl (fun e r => e ||| r.2) 0)

/-! The row phase (10:R298 to R302). -/

/-- Units of an access that would go to a port while the ports are held (13:R388). -/
def portWaits (s : State) (pa n : Nat) : Bool :=
  mempHeld s && region s pa == .ext && (blocksOf 128 pa n).any fun l => (bcFind s l).isNone && !s.bc.victim.contains l

/-- A cached page attribute: its lines are allocated (09 Memory accesses, 12:R352). -/
def attrCached (a : BitVec 3) : Bool := a == attrWB || a == attrWT

/-- The lines of an access enter the L1 data cache; which line leaves a full one is free (log 10). -/
def l1Fill (c : Nat) (pa : Nat) (s : State) : State :=
  let (l, s) := insertAt 512 (pa / 128) ((getCore s c).l1d.filter (· != pa / 128)) s
  modCore c (fun k => { k with l1d := l }) s

/-- A core's read within one line: from the L1 data cache, or from the memory path (09:R284, 12:R352, 08:R233). -/
def coreRead (c : Nat) (attr : BitVec 3) (pa n : Nat) (s : State) : ReadStat × State :=
  if attrCached attr && (getCore s c).l1d.contains (pa / 128) then (.clean, s)
  else
    let (r, s) := readAccess (attrCached attr) pa n s
    if attrCached attr && r != .uncorrectable && !((blocksOf 32 (pa / 128 * 128) 128).any fun w => s.sm.ueWords.contains w)
    then (r, l1Fill c pa s) else (r, s)

/-- The write of one line's part of a row: nothing is written where its line fill, or the merge of a stage-memory word, is
uncorrectable (10:R302). -/
def rowWrite (c : Fin 8) (p : RowPiece) (bs : List Byte) (s : State) : Bool × State :=
  let cells := cellsAt p.pa bs
  let (r, s) := if p.attr == attrWB && !(getCore s c).l1d.contains (p.pa / 128)
    then readAccess true (p.pa / 128 * 128) 128 s else (.clean, s)
  if r == .uncorrectable then (false, s)
  else if region s p.pa == .stage &&
      ((groupCells 32 cells).any fun g => g.length < 32 && s.sm.ueWords.contains ((g.headD (0, 0)).1 / 32))
  then (false, countSmUe p.pa s)
  else (true, (writeAccess (p.attr == attrWB) (p.attr != attrWB) (.coreStore c) cells s).2)

/-- The parts of a stored row, in order; whether all were written. -/
def rowWrites (c : Fin 8) : List RowPiece → List Byte → State → Bool × State
  | [], _, s => (true, s)
  | p :: ps, bs, s =>
    let (a, s) := rowWrite c p (bs.take p.len) s
    let (b, s) := rowWrites c ps (bs.drop p.len) s
    (a && b, s)

/-- The parts of a loaded row: its bytes, and whether all could be read. -/
def rowReads (c : Nat) : List RowPiece → State → Bool × List Byte × State
  | [], s => (true, [], s)
  | p :: ps, s =>
    let (r, s) := coreRead c p.attr p.pa p.len s
    let bs := Memory.gets s.mem p.pa p.len
    let (ok, rest, s) := rowReads c ps s
    (r != .uncorrectable && ok, bs ++ rest, s)

/-- A row fault is recorded (10:R302). -/
def noteRowFault (r : RowOp) (c : Core) : Core :=
  let f := c.rowFault
  modTask r.task (fun t => { t with rowFault := match t.rowFault with
      | some a => some a
      | none => if f.valid then none else some (BitVec.ofNat 48 r.va) })
    { c with rowFault :=
        if f.valid then { f with more := true }
        else { valid := true, more := f.more, store := r.store, tile := r.tile, row := BitVec.ofNat 5 r.row, pc := r.pc } }

/-- The bytes that a loaded row puts into its tile register, and the flags of its conversion. -/
def rowValue (r : RowOp) (bs : List Byte) : List Byte × Exc :=
  match r.conv with
  | some (src, fmt, x, t) => tileConv t x src.toNat (tileFmt fmt) r.row r.rb bs
  | none => (bs.take r.rb, 0)

/-- A row is performed. -/
def performRow (c : Fin 8) (r : RowOp) (s : State) : State :=
  if r.store then
    let (ok, s) := rowWrites c r.pieces r.bytes s
    if ok then s else modCore c (noteRowFault r) s
  else
    let (ok, bs, s) := rowReads c r.pieces s
    if !ok then
      modCore c (fun k => noteRowFault r (modTile r.tile.toNat (Tile.putRow r.row (List.replicate r.rb 0)) k)) s
    else
      let (out, e) := rowValue r bs
      modCore c (fun k =>
        let k := modTile r.tile.toNat (Tile.putRow r.row out) k
        let lvl := (getTask k r.task).level.val
        if occupant k lvl == some r.task then modBank lvl (fun b => { b with cs := csRaise b.cs e }) k else k) s

/-- The oldest row of a core is performed, unless the memory ports are held and it needs one. -/
def nextRow (c : Fin 8) (s : State) : State :=
  match (getCore s c).rows with
  | [] => s
  | r :: rs =>
    if r.pieces.any fun p => portWaits s p.pa p.len then s
    else performRow c r (modCore c (fun k => { k with rows := rs }) s)

def rowsFrom (c : Fin 8) : Nat → State → State
  | 0, s => s
  | n + 1, s => rowsFrom c n (nextRow c s)

/-- Rows are performed, in order, through the last with a property. -/
def rowsThrough (c : Fin 8) (p : RowOp → Bool) (s : State) : State :=
  rowsFrom c ((getCore s c).rows.length - ((getCore s c).rows.reverse.takeWhile fun r => !p r).length) s

/-- Row phases in progress: each begins with row 0 (10:R298). -/
def phases (rows : List RowOp) : Nat := if rows.isEmpty then 0 else 1 + ((rows.drop 1).filter (·.row == 0)).length

/-- The rows of the oldest phase are performed. -/
def firstPhase (c : Fin 8) (s : State) : State :=
  rowsFrom c (1 + (((getCore s c).rows.drop 1).takeWhile fun r => r.row != 0).length) s

/-- Every row of a core is performed (those that can be). -/
def allRows (c : Fin 8) (s : State) : State := rowsFrom c (getCore s c).rows.length s

end Sys2Proof.Machine
end

