-- ==== Sys2Proof/Machine/Ctl.lean ====
section
/-! DEFINITION. The control registers of a core, its task table, commands and mailbox (09:R257, R280 to R283; 10:R309;
11:R313 to R333; 12:R335). -/

namespace Sys2Proof.Machine

/-- Who reaches a control register: the running task at its level, or the CC window (11:R315). -/
inductive CrPort where
  | level (k : Nat)
  | window
  deriving DecidableEq, Repr

/-- The task that the caller's CTL_TSEL selects. -/
def selOf (c : Core) (p : CrPort) : Byte :=
  match p with
  | .level k => vget c.tsel k 0
  | .window => c.winsel

/-! Legality by level (09:R281, 11:R315): 0 never, 1 any level, 2 L6 and L7. -/

/-- Read and write legality of a control register; none for an unassigned number. -/
def crRules (r : Nat) : Option (Nat × Nat) :=
  if r ≤ 3 then some (1, 0)
  else if r == 4 then some (1, 1)
  else if r == 8 then some (2, 2)
  else if 0x20 ≤ r && r < 0x3C then
    match r % 4 with | 0 => some (2, 2) | 1 => some (2, 0) | 2 => some (2, 0) | _ => none
  else if 0x80 ≤ r && r < 0xC0 then
    if r % 4 == 3 then some (0, 1) else some (1, 0)
  else match r with
    | 0x40 | 0x41 => some (2, 2)
    | 0x48 => some (1, 1)
    | 0x60 => some (2, 2)
    | 0x62 => some (1, 1)
    | 0x63 | 0x64 | 0x65 | 0x66 => some (2, 2)
    | 0x67 => some (0, 2)
    | 0x68 => some (0, 1)
    | 0x69 => some (1, 1)
    | 0x6A => some (1, 0)
    | 0x6B | 0x6C => some (2, 2)
    | 0x6D => some (2, 0)
    | 0x6E => some (1, 0)
    | 0x70 => some (1, 0)
    | _ => none

def crLegal (rule level : Nat) : Bool := rule == 1 || (rule == 2 && 6 ≤ level)

/-- Sync-required registers (09:R282). -/
def crSync (r : Nat) : Bool := r == 0x08 || r == 0x40 || r == 0x41 || r == 0x48

/-! Values. -/

def taskCode (t : TaskState) : Nat :=
  match t with
  | .invalid => 0 | .dormant => 1 | .ready => 2 | .running => 3 | .preempted => 4 | .waiting => 5 | .runnable => 6
  | .faulted => 7

/-- A bit at a place. -/
def bitAt (b : Bool) (i : Nat) : Nat := if b then 2 ^ i else 0

def tent0 (t : Task) : Word :=
  w64 (bitAt (t.st != .invalid) 63 + taskCode t.st * 2 ^ 52 + bitAt (t.armed && (t.src == 1 || t.src == 2)) 49 +
    bitAt t.pend 48 + t.src.toNat * 2 ^ 28 + t.level.val * 2 ^ 24 + t.sparam.toNat * 2 ^ 12 + t.smode.toNat * 2 ^ 8)

def tentWord (t : Task) (w : Nat) : Word :=
  match w with
  | 0 => tent0 t
  | 1 => t.value
  | 2 => t.entry.setWidth 64 <<< (2 : Nat)
  | _ => t.save.setWidth 64 <<< (9 : Nat)

def tcfgWord (t : Tcfg) : Word :=
  w64 (t.seed.toNat * 2 ^ 32 + t.cvtl.toNat * 2 ^ 16 + t.w.toNat * 2 ^ 8 + t.rnd.toNat)

def tcfgOf (v : Word) : Tcfg := ⟨v.extractLsb' 32 32, v.extractLsb' 16 8, v.extractLsb' 8 5, v.extractLsb' 0 3⟩

def fcodeWord (r : CoreFault) : Word :=
  w64 (bitAt r.valid 63 + bitAt r.ovf 62 + r.task.toNat * 2 ^ 32 + r.half.toNat * 2 ^ 16 + r.event.toNat)

def spillf0 (r : SpillFault) : Word :=
  w64 (bitAt r.valid 63 + r.kind.toNat * 2 ^ 56 + r.task.toNat * 2 ^ 40 + r.unit.toNat * 2 ^ 16 + r.event.toNat)

/-- CTL_BANKWIN (11:R332). -/
def bankwinWord (c : Core) : Word :=
  let k := c.bankwin.val
  let b := getBank c k
  w64 (b.dirty.toNat * 2 ^ 24 + ((List.range 4).filter (groupPending c k)).foldl (fun n g => n + 2 ^ (20 + g)) 0 +
    bitAt b.occ.isSome 16 + (b.occ.getD 0).toNat * 2 ^ 8 + k)

def mbxWord (e : MbxEntry) (w : Nat) : Word :=
  match w with
  | 0 => w64 (bitAt e.valid 63 + e.queue.val * 2 ^ 48 + e.task.toNat * 2 ^ 40 + e.index.toNat)
  | 1 => e.tag.setWidth 64
  | 2 => e.arg
  | _ => 0

/-- CS of the running task; 0 on an idle core. -/
def runningCs (c : Core) : CS :=
  match runningTask c with
  | some (_, k) => (getBank c k).cs
  | none => 0

/-- The bits of CTL_CS and CTL_TTB that are not reserved. -/
def csMask : CS := 0x1F3F
def ttbMask : Word := 0x000FFFFFFFFFF01D

/-- The value of a control register of core n (0 for one that is write-only or unassigned). -/
def crValue (s : State) (n : Nat) (p : CrPort) (r : Nat) : Word :=
  let c := getCore s n
  if 0x20 ≤ r && r < 0x3C then
    let f := vget c.frec ((r - 0x20) / 4) .reset
    match r % 4 with
    | 0 => fcodeWord f
    | 1 => f.addr.setWidth 64
    | 2 => f.pc.setWidth 64
    | _ => 0
  else if 0x80 ≤ r && r < 0xC0 then mbxWord (vget c.mbx ((r - 0x80) / 4) .reset) (r % 4)
  else match r with
    | 0x00 => w64 ((if gradeB s then 0x42 else 0x41) * 256 + n)
    | 0x01 => match runningTask c with | some (t, k) => w64 (t.toNat * 256 + k) | none => 0
    | 0x02 => c.cycle
    | 0x03 => c.instret
    | 0x04 => (runningCs c).setWidth 64
    | 0x08 => w64 (bitAt c.alchk 0)
    | 0x40 => c.ctx.setWidth 64
    | 0x41 => c.ttb
    | 0x48 => tcfgWord c.tcfg
    | 0x60 => bankwinWord c
    | 0x62 => (selOf c p).setWidth 64
    | 0x63 | 0x64 | 0x65 | 0x66 => tentWord (getTask c (selOf c p)) (r - 0x63)
    | 0x69 => match c.running with | some t => (getTask c t).value | none => 0
    | 0x6A => match c.running with | some t => (getTask c t).cause.setWidth 64 | none => 0
    | 0x6B => c.schstat.read
    | 0x6C => spillf0 c.spillf
    | 0x6D => c.spillf.va.setWidth 64
    | 0x6E => w64 (bitAt (!c.tasks.toList.any (·.st == .running)) 63 + c.switches.toNat)
    | 0x70 => w64 (((List.range 16).filter fun m => (vget c.mbx m .reset).valid).foldl (fun n m => n + 2 ^ m) 0)
    | _ => 0

/-- What a read changes: CTL_MYCAUSE is cleared (11:R320). -/
def crReadEffect (n r : Nat) (s : State) : State :=
  if r == 0x6A then
    match (getCore s n).running with
    | some t => modCore n (modTask t fun x => { x with cause := 0 }) s
    | none => s
  else s

/-! The task table and its commands (11:R316, R318, R320). -/

/-- The binding is refused (11:R317). -/
def bindingRefused (src level sparam smode : Nat) : Bool :=
  match src with
  | 0 => false
  | 1 => !(smode == 1 || smode == 2 || smode == 3)
  | 2 => false
  | 3 => smode % 4 == 0
  | 4 => 9 ≤ sparam % 16
  | 5 => sparam % 8 == 7
  | 6 => level != 7
  | 7 => false
  | _ => true

/-- A write of CTL_TENTw. -/
def writeTent (n : Nat) (t : Byte) (w : Nat) (v : Word) (s : State) : State :=
  let x := getTask (getCore s n) t
  let free := x.st == .invalid || x.st == .dormant
  let put (f : Task → Task) : State := modCore n (modTask t f) s
  match w with
  | 0 =>
    let valid := v.getLsbD 63
    if !free || (valid && bindingRefused (fld v 28 4) (fld v 24 3) (fld v 12 12) (fld v 8 4)) then schRefuse n s
    else put fun y => { y with
      src := v.extractLsb' 28 4, level := Fin.ofNat 8 (fld v 24 3), sparam := v.extractLsb' 12 12,
      smode := v.extractLsb' 8 4, st := if valid then .dormant else .invalid,
      armed := if valid && y.st == .invalid then true else y.armed }
  | 1 => put fun y => { y with value := v, armed := true }
  | 2 => if free then put fun y => { y with entry := v.extractLsb' 2 46 } else schRefuse n s
  | _ => if free then put fun y => { y with save := v.extractLsb' 9 39 } else schRefuse n s

/-- The tile state of a task is discarded: an owned file is cleared, rows that it has left to load stop (10:R289;
11:R319, R320). -/
def dropTiles (t : Byte) (c : Core) : Core :=
  let c := modTask t (fun y => { y with tilesSaved := false, rowFault := none })
    { c with rows := c.rows.filter fun r => r.task != t || r.store }
  if c.tileOwner == some t then
    { c with tiles := .replicate 12 .reset, latchS := none, latchT := none, rowFault := .reset, tileOwner := none }
  else c

/-- The units of a task are cancelled; an engine that stopped on one of them restarts (11:R320, R328). -/
def cancelUnits (t : Byte) (c : Core) : Core :=
  { c with
    xq := c.xq.filter (·.task != t),
    xstop := c.xstop.filter (·.task != t),
    xfirst := c.xfirst.filter (·.task != t) }

def killTask (n : Nat) (t : Byte) (s : State) : State :=
  let st := (getTask (getCore s n) t).st
  if st == .invalid || st == .running then schRefuse n s
  else modCore n (fun c =>
    let c := dropTiles t (freeBank t (cancelUnits t c))
    modTask t (fun y => { y with st := .dormant, spilled := false })
      { c with
        switchTo := if c.switchTo == some t then none else c.switchTo,
        outgoing := if c.outgoing == some t then none else c.outgoing,
        running := if c.running == some t then none else c.running }) (allRows (Fin.ofNat 8 n) s)

def resumeTask (n : Nat) (t : Byte) (s : State) : State :=
  if (getTask (getCore s n) t).st == .faulted then modCore n (modTask t fun y => { y with st := .runnable }) s
  else schRefuse n s

def retryUnits (n : Nat) (s : State) : State :=
  if (getCore s n).xstop.isSome then modCore n (fun c => { c with xstop := none, xfirst := c.xstop }) s else schRefuse n s

def clearPendOf (n : Nat) (t : Byte) (s : State) : State :=
  if (getTask (getCore s n) t).st == .invalid then schRefuse n s
  else modCore n (modTask t fun y => { y with pend := false }) s

/-- A write of CTL_TCMD (11:R320). -/
def taskCommand (n : Nat) (v : Word) (s : State) : State :=
  let t : Byte := v.extractLsb' 8 8
  match fld v 0 3 with
  | 1 => resumeTask n t s
  | 2 => killTask n t s
  | 3 => retryUnits n s
  | 4 => clearPendOf n t s
  | _ => schRefuse n s

/-- A write of CTL_WAKE (11:R318). -/
def wakeTask (n : Nat) (t : Byte) (s : State) : State := modCore n (modTask t (causeTask 1)) s

/-- A write of MBX_DONE_m (11:R333): the post completes with the value as INFO, and the entry is free. -/
def mailboxWrite (n m : Nat) (v : Word) (s : State) : State :=
  let e := vget (getCore s n).mbx m .reset
  if !e.valid then s
  else
    let s := endFlight e.queue.val e.index ⟨0, 0, 0xFF, v, false⟩ s
    withdrawEntry n m s

/-! Writes by number. -/

/-- A held write takes effect (09:R282). -/
def applyHeldOne (c : Core) (h : BitVec 12 × Word) : Core :=
  match h.1.toNat with
  | 0x08 => { c with alchk := h.2.getLsbD 0 }
  | 0x40 => { c with ctx := h.2.extractLsb' 0 16 }
  | 0x41 => { c with ttb := h.2 &&& ttbMask }
  | 0x48 => { c with tcfg := tcfgOf h.2 }
  | _ => c

/-- Every held write takes effect, in program order. -/
def applyHeld (c : Core) : Core := { c.held.foldl applyHeldOne c with held := [] }

/-- A write of VALID in CTL_FCODE_k: 0 clears OVF with it (09:R280). -/
def CoreFault.writeValid (v : Bool) (f : CoreFault) : CoreFault := { f with valid := v, ovf := v && f.ovf }

/-- A write of VALID in CTL_SPILLF0: 0 clears the register, whose address CTL_SPILLF1 keeps (11:R330). -/
def SpillFault.writeValid (v : Bool) (f : SpillFault) : SpillFault :=
  if v then { f with valid := true } else { SpillFault.reset with va := f.va }

/-- A write of a control register that is legal for its writer; the running task is at level k. -/
def crWriteTask (n k : Nat) (r : Nat) (v : Word) (s : State) : State :=
  if crSync r then modCore n (fun c => { c with held := c.held ++ [(BitVec.ofNat 12 r, v)] }) s
  else if 0x20 ≤ r && r < 0x3C then
    if r % 4 == 0 then modCore n (fun c => { c with frec := vmod c.frec ((r - 0x20) / 4) (CoreFault.writeValid (v.getLsbD 63)) }) s
    else s
  else if 0x80 ≤ r && r < 0xC0 then mailboxWrite n ((r - 0x80) / 4) v s
  else
    let c := getCore s n
    match r with
    | 0x04 => modCore n (modBank k fun b => { b with cs := v.extractLsb' 0 13 &&& csMask }) s
    | 0x60 => modCore n (fun c => { c with bankwin := Fin.ofNat 8 (fld v 0 3) }) s
    | 0x62 => modCore n (fun c => { c with tsel := vmod c.tsel k fun _ => v.extractLsb' 0 8 }) s
    | 0x63 | 0x64 | 0x65 | 0x66 => writeTent n (selOf c (.level k)) (r - 0x63) v s
    | 0x67 => taskCommand n v s
    | 0x68 => wakeTask n (v.extractLsb' 0 8) s
    | 0x69 => match c.running with
      | some t => modCore n (modTask t fun y => { y with value := v, armed := true }) s
      | none => s
    | 0x6B =>
      let (q, ok) := c.schstat.write v
      sqMiss ok (modCore n (fun c => { c with schstat := q }) s)
    | 0x6C => modCore n (fun c => { c with spillf := c.spillf.writeValid (v.getLsbD 63) }) s
    | _ => s

/-- A write through the CC window (11:R315). -/
def crWriteWindow (n : Nat) (r : Nat) (v : Word) (s : State) : State :=
  match r with
  | 0x62 => modCore n (fun c => { c with winsel := v.extractLsb' 0 8 }) s
  | 0x63 | 0x64 | 0x65 | 0x66 => writeTent n (selOf (getCore s n) .window) (r - 0x63) v s
  | 0x67 => taskCommand n v s
  | 0x68 => wakeTask n (v.extractLsb' 0 8) s
  | _ => s

end Sys2Proof.Machine
end

