-- ==== Sys2Proof/Machine/Regs.lean ====
section
/-! DEFINITION. The block control space: what a read of a register returns and what a write of it does
(01:R35 to R37, 13:R382 to R385, and the register maps of each chapter). -/

namespace Sys2Proof.Machine

/-! Values that are computed. -/

/-- GEN_STATE (13:R384). -/
def genState (s : State) : Word :=
  let svc := s.svc.cg != 0 || s.svc.cc != 0 || s.svc.ve != 0 || s.svc.way != 0 || s.svc.bank != 0
  w64 (bitAt s.gen.armed 11 + bitAt (!s.gen.parity.isEmpty) 10 + bitAt s.ctl.fwUp 9 + bitAt svc 8 +
    bitAt (s.ctl.state == .hold && quiet s) 3 + stateCode s.ctl.state)

/-- GEN_PARITY: the first mismatch and the regions held. -/
def genParity (s : State) : Word :=
  match s.gen.parity with
  | [] => 0
  | o :: _ => w64 (2 ^ 63 + ((List.range 16).filter (parityHeld s)).foldl (fun n r => n + 2 ^ (32 + r)) 0 + o.toNat)

def veLanes (s : State) : Nat := 64 * popCount (veInService s)

def genCap (s : State) (i : Nat) : Word :=
  if !fuseLoaded s then 0 else
  match i with
  | 0 => w64 ((fuseByte s 0).toNat * 2 ^ 56 + (ccInService s).toNat * 2 ^ 48 + (cgInService s).toNat * 2 ^ 32 +
      (cgBuilt s).toNat * 2 ^ 16 + (mpBuilt s).toNat)
  | 1 => w64 (veLanes s * 2 ^ 48 + memGib s * 2 ^ 32 + pmodeAvail s)
  | _ => w64 (smBytes s)

/-- STEPPING: the fuse byte once the fuses are loaded (15:R435; DEDUCED, log 64), 1 before. -/
def stepping (s : State) : Nat := if fuseLoaded s then (fuseByte s 1).toNat else 1

def genRead (s : State) (off : Nat) : Word :=
  match off with
  | 0x00 => w64 (0x0E1A * 2 ^ 48 + 0x5704 * 2 ^ 32 + (if fuseLoaded s then (fuseByte s 0).toNat else 0) * 2 ^ 24 +
      stepping s * 2 ^ 16)
  | 0x08 => genState s
  | 0x10 => s.gen.reqActive.setWidth 64
  | 0x8010 => s.gen.reqStaged.setWidth 64
  | 0x20 => s.gen.applyAt
  | 0x28 => w64 (bitAt s.gen.extEn 0)
  | 0x30 => s.gen.status.read
  | 0x38 => s.gen.sqmiss
  | 0x40 => s.gen.applies
  | 0x48 => genParity s
  | 0x50 => s.gen.testctl.setWidth 64
  | 0x58 => genCap s 0
  | 0x60 => genCap s 1
  | 0x68 => genCap s 2
  | _ => 0

/-- The code of DQ_HEADSTATE (06:R180); a fetched head that only waits to complete with its event, or only for its
turn at the engine, reads 0x6 (log 18). -/
def headCode (s : State) (q : Nat) : Nat :=
  let d := getQ s q
  if !d.enable then 0x0
  else if d.halted then 0x8
  else if s.ctl.state != .run then 0x9
  else if d.head == d.tail then 0x1
  else match d.fetched with
    | none => 0xA
    | some f =>
      if f.event.isSome then 0x6
      else if dPred f.desc && !d.inflight.isEmpty && !f.tested then 0x7
      else if !waitMet s f then 0x2
      else if dTimed f.desc && s.beat.value.toNat < dNb f.desc then 0x3
      else if !barrierMet s q f then 0x4
      else if !hazardMet s q f.desc then 0x5
      else 0x6

def headState (s : State) (q : Nat) : Word :=
  let d := getQ s q
  let c := headCode s q
  let flag := if c == 2 then (match d.fetched with | some f => dWaitFlag f.desc | none => 0) else 0
  w64 (d.inflight.length * 2 ^ 32 + flag * 2 ^ 16 + c)

def dqRead (s : State) (q r : Nat) : Word :=
  let d := getQ s q
  match r with
  | 0x00 => w64 (d.ctx.toNat * 2 ^ 48 + d.inst.toNat * 2 ^ 32 + d.cls.toNat * 2 ^ 24 + d.log2size.toNat * 2 ^ 16 + bitAt d.enable 0)
  | 0x08 => d.rbase.setWidth 64
  | 0x10 => d.cbase.setWidth 64
  | 0x20 => d.tail.setWidth 64
  | 0x28 => w64 (d.head.toNat * 2 ^ 32 + d.done.toNat)
  | 0x30 => d.status.read
  | 0x38 => w64 (d.haltEvent.toNat * 2 ^ 48 + d.haltDetail.toNat * 2 ^ 32 + d.haltIndex.toNat)
  | 0x48 => d.seed
  | 0x50 => w64 (bitAt d.fast 8 + d.w.toNat)
  | 0x58 => d.barmask.setWidth 64
  | 0x60 => headState s q
  | _ => 0

/-- A group's byte of OPA_GSTATE_n (04:R120). DESIGN CHOICE (log 63): an open group that a started descriptor ending
with DRAIN uses reads 0b10, not 0b01. -/
def groupByte (s : State) (n g : Nat) : Nat :=
  if modeParts (pmode s) ≤ n then 0xC0 else
  let i := getInst s n
  let grp := vget i.groups g .reset
  let count := if i.fmt == 2 then 2 else 4
  let draining := i.jobs.any fun j => opaDrains j.desc && opaGroupNo j.desc == g
  let st := if count ≤ g then 3 else if draining then 2 else if grp.tile.isSome then 1 else 0
  st * 64 + i.fmt.toNat * 16 + bitAt (grp.x.st != .free) 3 + bitAt (grp.y.st != .free) 2

def nfposWord (n : NfPos) : Word :=
  w64 (n.count.toNat * 2 ^ 39 + n.group.toNat * 2 ^ 37 + bitAt n.valid 36 + n.row.toNat * 2 ^ 24 + n.col.toNat * 2 ^ 12)

def opaGeom (s : State) : Word :=
  let dealt := (s.opa.bandmap.toList.filter (· != 0xF)).length
  w64 (dealt * 2 ^ 16 + (if fuseLoaded s then popCount (cgBuilt s) * 256 + 0x70 else 0))

/-- The OPA region; `o` is the offset within it (03:R79 to R85, 04:R116 to R128). -/
def opaRead (s : State) (o : Nat) : Word :=
  let a := o % 0x8000
  let stg := 0x8000 ≤ o
  if 0x10000 ≤ o || o % 8 != 0 then 0
  else if stg && !(opaRws (0x300000 + a)) then 0
  else if a == 0x08 then (if stg then s.opa.pmodeStaged else s.opa.pmode).setWidth 64
  else if a == 0x10 then (if stg then s.opa.fillStaged else s.opa.fill).setWidth 64
  else if 0x400 ≤ a && a < 0x480 then
    (vget (if stg then s.opa.dprofStaged else s.opa.dprof) ((past 0x400 a) / 8) 0).setWidth 64
  else if 0x2000 ≤ a && a < 0x6000 then
    segRead (vget (vget (if stg then s.opa.actStaged else s.opa.act) ((past 0x2000 a) / 0x800) (.replicate 64 .reset))
      ((past 0x2000 a) / 0x20 % 64) .reset) (a / 8 % 4)
  else if a == 0x00 then opaGeom s
  else if a == 0x18 then w64 (s.opa.bandmap.toList.zipIdx.foldl (fun n b => n + b.1.toNat * 2 ^ (4 * b.2)) 0)
  else if a == 0x20 then s.opa.mstatus.read
  else if a == 0x28 then s.opa.dstatus.read
  else if 0x100 ≤ a && a < 0x300 then
    let n := (past 0x100 a) / 0x20
    match a / 8 % 4 with
    | 0 => vget s.opa.steps n 0
    | 1 => vget s.opa.skip n 0
    | 2 => vget s.opa.starve n 0
    | _ => vget s.opa.drainwait n 0
  else if 0x300 ≤ a && a < 0x380 then nfposWord (vget s.opa.nfpos ((past 0x300 a) / 8) .reset)
  else if 0x380 ≤ a && a < 0x400 then
    let n := (past 0x380 a) / 8
    w64 ((List.range 4).foldl (fun m g => m + groupByte s n g * 256 ^ g) 0)
  else 0

def rmeCfg (s : State) : Word :=
  w64 (bitAt s.rme.flagin 48 + s.rme.self.toNat * 2 ^ 32 + s.rme.tmo.toNat)

def rmeRead (s : State) (o : Nat) : Word :=
  if o % 8 != 0 then 0
  else if o < 0x20 then vget s.moveBytes (o / 8) 0
  else if o == 0x80000 then rmeCfg s
  else if o == 0x80008 then s.rme.status.read
  else if o == 0x80010 then s.rme.outbytes
  else if o == 0x80018 then s.rme.inbytes
  else if o == 0x80020 then s.rme.refusals
  else if 0x80100 ≤ o && o < 0x80140 then
    let a := vget s.rme.inb ((past 0x80100 o) / 8) ⟨false, false, 0, 0⟩
    w64 (bitAt a.w 63 + bitAt a.rd 62 + a.log2size.toNat * 2 ^ 56 + a.base.toNat * 2 ^ 20)
  else if 0xA0000 ≤ o && o < 0xA4000 then
    let w := vget s.rme.win ((past 0xA0000 o) / 8) ⟨false, 0⟩
    w64 (bitAt w.valid 16 + w.node.toNat)
  else 0

def xlatRead (s : State) (o : Nat) : Word :=
  match o with
  | 0x00 => w64 (s.xlat.basePA.toNat * 2 ^ 12 + s.xlat.baseAttr.toNat * 4 + bitAt s.xlat.baseV 0)
  | 0x08 => w64 (bitAt s.xlat.inv.isSome 3)
  | 0x10 => s.xlat.status.read
  | 0x18 => s.xlat.walks
  | _ => 0

def bcRead (s : State) (o : Nat) : Word :=
  let b := s.bc
  if 0x100 ≤ o && o < 0x180 && o % 8 == 0 then vget b.ce ((past 0x100 o) / 8) 0
  else match o with
  | 0x00 => w64 (b.lock.toNat * 2 ^ 16 + b.fillmask.toNat)
  | 0x08 => w64 (b.busy.toNat * 2 ^ 32 + b.down.toNat * 2 ^ 16 + b.off.toNat)
  | 0x10 => w64 (s.svc.way.toNat * 2 ^ 32 + b.disabled.toNat * 2 ^ 16 + (bcActive s).toNat)
  | 0x18 => w64 (b.window.toNat * 2 ^ 32 + b.limit.toNat)
  | 0x20 => b.status.read
  | 0x28 => b.plBase.setWidth 64 <<< (7 : Nat)
  | 0x30 => w64 (bitAt b.plBusy 63 + b.plLen.toNat)
  | 0x38 => b.hits
  | 0x40 => b.misses
  | _ => 0

/-- SM_SPARE (08:R239). -/
def smSpare (s : State) : Word :=
  let copy := match s.sm.copy with | some c => (4 + c.spare.val) * 2 ^ 32 | none => 0
  w64 (copy + (List.range 4).foldl (fun n i =>
    n + (match vget s.sm.spare i none with | some b => b.val | none => 0xFF) * 256 ^ i) 0)

def mempRead (s : State) (o : Nat) : Word :=
  if 0x100 ≤ o && o < 0x300 && o % 8 == 0 then
    let n := (past 0x100 o) / 0x20
    if portCount s ≤ n then 0
    else match o / 8 % 4 with
      | 0 => vget s.memp.ce n 0
      | 1 => vget s.memp.ue n 0
      | 2 => vget s.memp.rbytes n 0
      | _ => vget s.memp.wbytes n 0
  else match o with
    | 0x00 => s.memp.ilv.setWidth 64
    | 0x08 => s.memp.status.read
    | 0x80000 => smSpare s
    | 0x80008 => w64 (s.sm.ceLast.toNat * 2 ^ 56 + s.sm.ceCount.toNat)
    | 0x80010 => w64 (s.sm.ueLast.toNat * 2 ^ 56 + s.sm.ueCount.toNat)
    | _ => 0

def fltRead (s : State) (o : Nat) : Word :=
  if 0x2000 ≤ o && o < 0x4000 && o % 8 == 0 then
    vget (vget s.flt.ring ((past 0x2000 o) / 32) (.replicate 4 0)) (o / 8 % 4) 0
  else match o with
    | 0x00 => s.flt.wr.setWidth 64
    | 0x08 => s.flt.ack.setWidth 64
    | 0x10 => s.flt.total
    | 0x18 => s.flt.lost
    | 0x20 => s.flt.status.read
    | _ => 0

def mboxRead (s : State) (o : Nat) : Word :=
  if 0x2000 ≤ o && o < 0x2000 + 8 * 129 && o % 8 == 0 then vget s.mbox.resp ((past 0x2000 o) / 8) 0
  else match o with
    | 0x08 => s.mbox.status.read
    | 0x10 => w64 (s.mbox.rlen.toNat * 2 ^ 16 + s.mbox.rseq.toNat * 2 ^ 8 + bitAt s.mbox.busy 0)
    | _ => 0

/-- VE_SLICES and VE_ELEMS (07:R218); the slices read 0 until the end of BOOT. -/
def veRead (s : State) (o : Nat) : Word :=
  match o with
  | 0x00 => if s.ctl.state == .boot then 0 else w64 (popCount (veInService s) * 256 + (veInService s).toNat)
  | 0x08 => s.veElems
  | _ => 0

/-- A register of a CC window (09:R281, R283; 11:R315). -/
def ccRead (s : State) (o : Nat) : Word :=
  let n := o / 0x10000
  let w := o % 0x10000
  if !(ccBuilt s).getLsbD n || 0x1000 ≤ w then 0 else crValue s n .window (w / 8)

/-- The test range answers (01:R37). -/
def testOpen (s : State) (off : Nat) : Bool :=
  0x1000000 ≤ off && s.ctl.state == .service && s.mg.testmode.getLsbD 0

/-- Where a write of a register stops the model: in the enabled test range (01:R37), or with a changed bit of type KEEP
(00:R16), which only GEN_TESTCTL has. -/
def regStop (s : State) (off : Nat) (v : Word) : Option Fault :=
  if testOpen s off then some .testRange
  else if off == 0x50 && v.extractLsb' 0 32 != s.gen.testctl then some .keepBitChanged
  else none

/-- The value of the register at an offset; 0 where no register stands (01:R37). DESIGN CHOICE (log 64): so too at offsets
that lie in no region of 01:R35 (0x012_0000 to 0x01F_FFFF, 0x020_8000 to 0x02F_FFFF, 0x068_0000 to 0x06F_FFFF). -/
def regValue (s : State) (off : Nat) : Word :=
  match off / 0x100000 with
  | 0x0 => genRead s off
  | 0x1 => if off < 0x120000 then dqRead s ((past 0x100000 off) / 0x1000) (off % 0x1000) else 0
  | 0x2 => if off < 0x208000 then (flagVal s ((past 0x200000 off) / 8)).setWidth 64 else 0
  | 0x3 => opaRead s (past 0x300000 off)
  | 0x4 => veRead s (past 0x400000 off)
  | 0x5 => rmeRead s (past 0x500000 off)
  | 0x6 => if off < 0x680000 then ccRead s (past 0x600000 off) else 0
  | 0x7 => xlatRead s (past 0x700000 off)
  | 0x8 => bcRead s (past 0x800000 off)
  | 0x9 => mempRead s (past 0x900000 off)
  | 0xA => match past 0xA00000 off with
    | 0x00 => s.beat.value
    | 0x08 => s.beat.status.read
    | 0x10 => s.beat.misses
    | _ => 0
  | 0xB => fltRead s (past 0xB00000 off)
  | 0xC => mboxRead s (past 0xC00000 off)
  | _ => 0

/-- A read of the register at an aligned offset: its value, and what the read changes, a mismatch found among it
(13:R388), as every write and event of its f-cycle leave it (13:R383); the enabled test range has a value that the manual leaves open (log 6). -/
def regRead (off : Nat) (s : State) : Word × State :=
  if testOpen s off then drawWord s
  else
    let s := notBefore readPlace (parityRead (BitVec.ofNat 26 off) s)
    let v := regValue s off
    if 0x600000 ≤ off && off < 0x680000 && (ccBuilt s).getLsbD ((past 0x600000 off) / 0x10000) && off % 0x10000 < 0x1000 then
      (v, crReadEffect ((past 0x600000 off) / 0x10000) (off % 0x10000 / 8) s)
    else (v, s)

/-! Writes. -/

/-- The place of a writer in the order of 06:R182. -/
def srcOrder (src : Src) : Nat :=
  match src with
  | .host => 0
  | .core c => 1 + c.val
  | .snowdrop => 8

def genWrite (off : Nat) (v : Word) (s : State) : State :=
  match off with
  | 0x10 | 0x8010 => requestByRegister v s
  | 0x18 => writeApply v s
  | 0x20 => writeApplyAt v s
  | 0x28 => endMismatch 0x28 { s with gen := { s.gen with extEn := v.getLsbD 0 } }
  | 0x30 =>
    let (r, ok) := s.gen.status.write v
    sqMiss ok { s with gen := { s.gen with status := r } }
  | _ => s

/-- A write of DQ_CTRL (06:R178). -/
def dqControl (q : Nat) (v : Word) (s : State) : State :=
  let s := if v.getLsbD 2 then flushQueue q s else s
  let s := if v.getLsbD 0 then resumeQueue q s else s
  if v.getLsbD 1 then haltCommand q s else s

/-- A write of a DQ register: a doorbell of its f-cycle has come before a write of DQ_CTRL, and a start before a write of the
rounding configuration (02:R62, 06:R178). -/
def dqWrite (q r : Nat) (v : Word) (s : State) : State :=
  match r with
  | 0x00 | 0x08 | 0x10 => dqConfig q (r / 8) v s
  | 0x18 => doorbell q (v.extractLsb' 0 32) s
  | 0x30 =>
    let (x, ok) := (getQ s q).status.write v
    sqMiss ok (modQ q (fun d => { d with status := x }) s)
  | 0x40 => notBefore lateWrite (dqControl q v s)
  | 0x48 => notBefore lateWrite (endMismatch (0x100000 + q * 0x1000 + r) (modQ q (fun d => { d with seed := v }) s))
  | 0x50 => notBefore lateWrite <| endMismatch (0x100000 + q * 0x1000 + r)
      (modQ q (fun d => { d with w := v.extractLsb' 0 5, fast := v.getLsbD 8 }) s)
  | 0x58 => endMismatch (0x100000 + q * 0x1000 + r) (modQ q (fun d => { d with barmask := v.extractLsb' 0 32 }) s)
  | _ => s

/-- A write of a flag register (06:R181). -/
def flagWrite (src : Src) (f : Nat) (v : Word) (s : State) : State :=
  flagPost (srcOrder src) f (if v.getLsbD 63 then .add (v.extractLsb' 0 32) else .set (v.extractLsb' 0 32)) s

def opaWrite (off : Nat) (v : Word) (s : State) : State :=
  let norm := if 0x308000 ≤ off && off < 0x310000 then past 0x8000 off else off
  if opaRws norm then writeOpa norm v s
  else match off with
    | 0x300020 =>
      let (r, ok) := s.opa.mstatus.write v
      sqMiss ok { s with opa := { s.opa with mstatus := r } }
    | 0x300028 =>
      let (r, ok) := s.opa.dstatus.write v
      sqMiss ok { s with opa := { s.opa with dstatus := r } }
    | _ => s

def rmeWrite (off : Nat) (v : Word) (s : State) : State :=
  let o := past 0x500000 off
  if o % 8 != 0 then s
  else if o == 0x80000 then
    endMismatch off { s with rme := { s.rme with
      flagin := v.getLsbD 48, self := v.extractLsb' 32 16, tmo := v.extractLsb' 0 16 } }
  else if o == 0x80008 then
    let (r, ok) := s.rme.status.write v
    sqMiss ok { s with rme := { s.rme with status := r } }
  else if 0x80100 ≤ o && o < 0x80140 then
    endMismatch off { s with rme := { s.rme with inb := vmod s.rme.inb ((past 0x80100 o) / 8) fun _ =>
      ⟨v.getLsbD 63, v.getLsbD 62, v.extractLsb' 56 6, v.extractLsb' 20 20⟩ } }
  else if 0xA0000 ≤ o && o < 0xA4000 then
    endMismatch off { s with rme := { s.rme with win := vmod s.rme.win ((past 0xA0000 o) / 8) fun _ =>
      ⟨v.getLsbD 16, v.extractLsb' 0 16⟩ } }
  else s

/-- A write of XLAT_CTXBASE (12:R348). -/
def writeCtxbase (v : Word) (s : State) : State :=
  if s.ctl.state == .config && fld v 12 7 == 0 && fld v 2 3 ≤ 4 then
    endMismatch 0x700000 { s with xlat := { s.xlat with
      basePA := v.extractLsb' 12 40, baseAttr := v.extractLsb' 2 3, baseV := v.getLsbD 0, ctxCache := [] } }
  else xlatEvent 2 s

/-- A write of XLAT_INV: the entries leave at once (no use of a removed entry follows), and XLAT_INV_COMPLETE ends it. -/
def startInv (variant : Nat) (ctx : BitVec 16) (va : BitVec 48) (s : State) : State :=
  if s.xlat.inv.isSome || 3 < variant then xlatEvent 1 s
  else
    let s := invalidate variant ctx va.toNat s
    { s with xlat := { s.xlat with inv := some ⟨ctx, va, BitVec.ofNat 3 variant⟩ } }

def xlatWrite (o : Nat) (v : Word) (s : State) : State :=
  match o with
  | 0x00 => writeCtxbase v s
  | 0x08 => startInv (fld v 0 3) (v.extractLsb' 48 16) (v.extractLsb' 0 48 &&& 0xFFFFFFFFF000) s
  | 0x10 =>
    let (r, ok) := s.xlat.status.write v
    sqMiss ok { s with xlat := { s.xlat with status := r } }
  | _ => s

def bcWrite (o : Nat) (v : Word) (s : State) : State :=
  match o with
  | 0x00 => writeBcCfg v s
  | 0x08 => writeBcPwr v s
  | 0x18 => endMismatch 0x800018 { s with bc := { s.bc with window := v.extractLsb' 32 32, limit := v.extractLsb' 0 16 } }
  | 0x20 =>
    let (r, ok) := s.bc.status.write v
    sqMiss ok { s with bc := { s.bc with status := r } }
  | 0x28 => endMismatch 0x800028 { s with bc := { s.bc with plBase := v.extractLsb' 7 45 } }
  | 0x30 => startPreload v s
  | _ => s

/-- Where a byte at a place of the ports stands under another granule (08:R231). -/
def remapPA (np g g' pa : Nat) : Nat :=
  let port := pa / g % np
  let at_ := pa / g / np * g + pa % g
  (at_ / g' * np + port) * g' + at_ % g'

/-- The granule changes: every byte of external memory behind the block cache stays in its port, so it takes another
address; dirty lines keep their addresses, clean copies are no longer held (log 19). -/
def changeIlv (ilv : BitVec 3) (s : State) : State :=
  let g := granule s
  let s' := { s with memp := { s.memp with ilv := ilv } }
  let g' := granule s'
  if g == g' then s' else
  let np := portCount s
  let dirty := s.bc.lines.filter (·.dirty)
  let under := dirty.flatMap fun l => lineCells l.line l.under
  let behind := Memory.puts s.mem under
  let moved := Memory.puts [] (behind.map fun c => if region s c.1 == .ext then (remapPA np g g' c.1, c.2) else c)
  let kept := dirty.flatMap fun l => lineCells l.line (Memory.gets s.mem (l.line * 128) 128)
  let lines := dirty.map fun l => { l with under := Memory.gets moved (l.line * 128) 128 }
  { s' with
    mem := Memory.puts moved kept,
    bc := { s'.bc with lines := lines, victim := [] },
    cores := vmap (fun c => { c with l1d := [] }) s'.cores,
    memp := { s'.memp with ueUnits := [], ceUnits := [] } }

/-! Host-window reads of memory (08:R233, R243). -/

/-- The enabled bytes of a granule of k bytes of a host-window request, by their place in the 256-byte block. -/
def enabledIn (be : BitVec 256) (k g : Nat) : List Nat := ((List.range k).map (· + g * k)).filter be.getLsbD

/-- One granule of a host-window read of memory: its enabled bytes, all ones where it is uncorrectable, with the record
of 08:R233. -/
def hostGranule (be : BitVec 256) (pa k g : Nat) (s : State) : List Host.Cell × State :=
  match enabledIn be k g with
  | [] => ([], s)
  | i :: is =>
    let a := pa + g * k
    let (r, s) := readAccess false a k s
    if r == .uncorrectable then
      let ev := if region s pa == .stage then smUe else memUe
      ((i :: is).map fun j => (j, 0xFF), detect ev clsInfo 0x0900 0 (w64 (pa + i)) 0 s true)
    else ((i :: is).map fun j => (j, Memory.get s.mem (pa + j)), s)

def hostGranules (be : BitVec 256) (pa k : Nat) : List Nat → State → List Host.Cell × State
  | [], s => ([], s)
  | g :: gs, s =>
    let (a, s) := hostGranule be pa k g s
    let (b, s) := hostGranules be pa k gs s
    (a ++ b, s)

/-- The enabled bytes of a block of external or stage memory. -/
def hostMemRead (be : BitVec 256) (pa : Nat) (s : State) : List Host.Cell × State :=
  if region s pa == .stage then hostGranules be pa 32 (List.range 8) s else hostGranules be pa 64 (List.range 4) s

/-- HW_RSP_DATA of the bytes answered; the places of bytes not enabled carry 0, which is no part of the answer. -/
def hostData (cs : List Host.Cell) : BitVec 2048 :=
  cs.foldl (fun v c => v ||| BitVec.ofNat 2048 (c.2.toNat <<< (8 * c.1))) 0

/-- An answer of the host window. -/
def hostAnswer (tag : BitVec 6) (cs : List Host.Cell) (s : State) : State :=
  { s with bnd := { s.bnd with hostOut := s.bnd.hostOut ++ [(tag, hostData cs)] } }

/-- Requests that waited behind the hold of the memory ports are presented (13:R388, R389). -/
def portsReleased (s : State) : State :=
  if mempHeld s then s else (List.range 16).foldl (fun s n => presentAll n s.memp.waiting.length s) s

/-- A write of MEMP_CFG (08:R231). -/
def writeMempCfg (v : Word) (s : State) : State :=
  if s.ctl.state == .config && fld v 0 3 ≤ 3 then
    portsReleased (endMismatch 0x900000 (changeIlv (v.extractLsb' 0 3) s))
  else mempEvent 1 s

def mempWrite (o : Nat) (v : Word) (s : State) : State :=
  match o with
  | 0x00 => writeMempCfg v s
  | 0x08 =>
    let (r, ok) := s.memp.status.write v
    sqMiss ok { s with memp := { s.memp with status := r } }
  | _ => s

/-- A write of FAULT_ACK (14:R399). -/
def writeFaultAck (v : BitVec 32) (s : State) : State :=
  if (v - s.flt.ack).toNat ≤ (s.flt.wr - s.flt.ack).toNat then { s with flt := { s.flt with ack := v } }
  else fltEvent 1 s

def fltWrite (o : Nat) (v : Word) (s : State) : State :=
  match o with
  | 0x08 => writeFaultAck (v.extractLsb' 0 32) s
  | 0x20 =>
    let (r, ok) := s.flt.status.write v
    sqMiss ok { s with flt := { s.flt with status := r } }
  | _ => s

/-- A write of MBOX_CMD (13:R381). -/
def mboxCommand (v : Word) (s : State) : State :=
  let len := fld v 16 16
  let ty := fld v 0 8
  if s.mbox.busy || !s.ctl.fwUp || mboxHeld s || !(1 ≤ ty && ty ≤ 3) || 1040 < len then mboxEvent 1 s
  else
    let bytes := (s.mbox.req.toList.flatMap fun w => natLe w.toNat 8).take len
    { s with mbox := { s.mbox with
      busy := true, cmd := some ⟨BitVec.ofNat 8 ty, v.extractLsb' 8 8, bytes⟩, ready := none } }

def mboxWrite (o : Nat) (v : Word) (s : State) : State :=
  if 0x1000 ≤ o && o < 0x1000 + 8 * 130 && o % 8 == 0 then
    { s with mbox := { s.mbox with req := vmod s.mbox.req ((past 0x1000 o) / 8) fun _ => v } }
  else match o with
    | 0x00 => mboxCommand v s
    | 0x08 =>
      let (r, ok) := s.mbox.status.write v
      sqMiss ok { s with mbox := { s.mbox with status := r } }
    | _ => s

def ccWrite (o : Nat) (v : Word) (s : State) : State :=
  let n := o / 0x10000
  let w := o % 0x10000
  if !(ccBuilt s).getLsbD n || 0x1000 ≤ w || w % 8 != 0 then s else crWriteWindow n (w / 8) v s

/-- A write of the register at an aligned offset (00:R14, 13:R383). -/
def regWrite (src : Src) (off : Nat) (v : Word) (s : State) : State :=
  match off / 0x100000 with
  | 0x0 => genWrite off v s
  | 0x1 => if off < 0x120000 then dqWrite ((past 0x100000 off) / 0x1000) (off % 0x1000) v s else s
  | 0x2 => if off < 0x208000 && off % 8 == 0 then flagWrite src ((past 0x200000 off) / 8) v s else s
  | 0x3 => opaWrite off v s
  | 0x5 => rmeWrite off v s
  | 0x6 => if off < 0x680000 then ccWrite (past 0x600000 off) v s else s
  | 0x7 => xlatWrite (past 0x700000 off) v s
  | 0x8 => bcWrite (past 0x800000 off) v s
  | 0x9 => mempWrite (past 0x900000 off) v s
  | 0xA => if off == 0xA00008 then
      let (r, ok) := s.beat.status.write v
      sqMiss ok { s with beat := { s.beat with status := r } }
    else s
  | 0xB => fltWrite (past 0xB00000 off) v s
  | 0xC => mboxWrite (past 0xC00000 off) v s
  | _ => s

/-! The kinds of registers, for the commands that name one (00:R14). -/

/-- Offsets of SQC registers outside the cores. -/
def isSqc (off : Nat) : Bool :=
  off == 0x30 || (0x100000 ≤ off && off < 0x120000 && off % 0x1000 == 0x30) || off == 0x300020 || off == 0x300028 ||
    off == 0x580008 || off == 0x700010 || off == 0x800020 || off == 0x900008 || off == 0xA00008 || off == 0xB00020 ||
    off == 0xC00008

/-- Offsets of registers that hold an RWS field, at the normal address or at +0x8000. -/
def isStaged (off : Nat) : Bool :=
  off == 0x10 || off == 0x8010 || opaRws off || (0x308000 ≤ off && off < 0x310000 && opaRws (past 0x8000 off))

end Sys2Proof.Machine
end

