-- ==== Sys2Proof/Machine/Units.lean ====
section
/-! DEFINITION. Units: retirement and SERVICE sub-states (13:R365, R366; 14:R404, R405, R411, R412). -/

namespace Sys2Proof.Machine

/-- A column group that is in a band leaves it at a pass boundary (03:R76). -/
def startLeaving (g : Nat) (s : State) : State :=
  if vget s.opa.bandmap g 0xF == 0xF || s.opa.leaving.any (·.val == g) then s
  else { s with opa := { s.opa with leaving := s.opa.leaving ++ [Fin.ofNat 16 g] } }

/-- A core stops with its tasks and posts (14:R411). -/
def stopCore (c : Nat) (s : State) : State := modCore c (fun k => { startEmpty k with halted := false }) (endPosts c s)

/-- A way is to be cleaned. -/
def startCleaning (w : Nat) (s : State) : State := { s with bc := { s.bc with busy := s.bc.busy ||| wayBit w } }

/-- A retirement takes effect: the unit, its record, its fuses (14:R405). -/
def retireUnit (u : BitVec 16) (cause : BitVec 16) (count : Nat) (s : State) : State :=
  let served := inSub s u
  let s := setRetired u (setSub u false (endTrans u s))
  let s := match uClass u with
    | 1 => startLeaving (uIdx u) s
    | 2 => stopCore (uIdx u) s
    | 5 => if served then s else startCleaning (uIdx u) s
    | 6 => bankToSpare (uIdx u) s
    | _ => s
  programRetire u (detect hwRetired clsUnit u cause (w64 count) 0 s)

/-! Counts of detections (14:R404). -/

/-- A detection in a column group is counted; whether the limit is reached. -/
def countCg (g : Nat) (s : State) : Bool × State :=
  let s := { s with svc := { s.svc with cgCount := vmod s.svc.cgCount g (· + 1) } }
  (s.svc.cgLimit.toNat ≤ (vget s.svc.cgCount g 0).toNat, s)

/-- A detection in a column group, counted; the group is retired at the limit. -/
def cgDetection (g : Nat) (s : State) : State :=
  let (hit, s) := countCg g s
  if hit && s.svc.auto == 1 && !s.svc.retCG.getLsbD g then
    retireUnit (unitOf 1 g) 0x0003 (vget s.svc.cgCount g 0).toNat s
  else s

/-! UNIT_CMD (13:R365, 14:R411, R412). -/

/-- A stage-memory bank that no spare serves, while no spare is free. -/
def noSpare (s : State) (u : BitVec 16) : Bool :=
  uClass u == 6 && (spareOf s (uIdx u)).isNone && (freeSpare s).isNone

/-- An accepted enter command: the transition begins. -/
def enterUnit (u : BitVec 16) (s : State) : State :=
  let s := addTrans u .entering s
  match uClass u with
  | 1 => startLeaving (uIdx u) s
  | 5 => startCleaning (uIdx u) s
  | 6 => match freeSpare s with
    | some i => nextCopy (takeSpare i (uIdx u) s)
    | none => s
  | _ => s

/-- An entering unit has reached the point at which its sub-state takes effect (14:R411). -/
def canEnterSub (s : State) (u : BitVec 16) : Bool :=
  transOf s u == some .entering &&
    match uClass u with
    | 1 => vget s.opa.bandmap (uIdx u) 0xF == 0xF
    | 5 => !s.bc.busy.getLsbD (uIdx u)
    | 6 => s.sm.copied.contains (uIdx u)
    | _ => true

/-- No VE slice is left: VE descriptors in flight end with DQ_ENGINE_ABSENT (07:R217). -/
def veAbsent (s : State) : State :=
  if veInService s != 0 then s else
  let fl := (List.range 32).flatMap fun q => (getQ s q).inflight.filterMap fun f =>
    if dClass f.desc == 2 then some (q, f.idx) else none
  fl.foldl (fun s x => failFlight x.1 x.2 (endWith dqEngineAbsent) s) s

/-- The sub-state takes effect, and its test begins (14:R411, R412). -/
def enterSub (u : BitVec 16) (s : State) : State :=
  if !canEnterSub s u then s else
  let s := setSub u true (endTrans u s)
  let s := { s with
    svc := { s.svc with
      testUnit := u, testResult := 1, testDetail := 0, tested := s.svc.tested.filter (·.1 != u) },
    sm := { s.sm with copied := if uClass u == 6 then s.sm.copied.filter (· != uIdx u) else s.sm.copied } }
  match uClass u with
  | 2 => stopCore (uIdx u) s
  | 4 => veAbsent s
  | _ => s

/-- An accepted leave command (14:R411): a bank waits for the copy back. -/
def leaveUnit (u : BitVec 16) (s : State) : State :=
  let s := { s with svc := { s.svc with tested := s.svc.tested.filter (·.1 != u) } }
  match uClass u with
  | 2 => modCore (uIdx u) startEmpty (setSub u false s)
  | 5 => setSub u false { s with bc := { s.bc with disabled := s.bc.disabled &&& ~~~wayBit (uIdx u) } }
  | 6 => nextCopy (addTrans u .leaving s)
  | _ => setSub u false s

/-- The test of a unit ends (14:R412). -/
def endTest (u : BitVec 16) (pass : Bool) (detail : BitVec 32) (s : State) : State :=
  if !inSub s u || s.svc.tested.any (·.1 == u) then s else
  let s := { s with svc := { s.svc with tested := s.svc.tested ++ [(u, pass)] } }
  if s.svc.testUnit == u then
    { s with svc := { s.svc with testResult := if pass then 2 else 3, testDetail := if pass then 0 else detail } }
  else s

end Sys2Proof.Machine
end

