-- ==== Sys2Proof/Machine/Mgmt.lean ====
section
/-! DEFINITION. The object dictionary and the checks, effects and answers of its commands (13:R359 to R381; 00:R4;
14:R404, R412, R416; 15:R420, R436). -/

namespace Sys2Proof.Machine

/-! Entries. -/

/-- Access types of entries (13:R361). -/
inductive OdAcc where
  | ro | rw | wo | rwa
  deriving DecidableEq, Repr

/-- An entry: its access type and the least and greatest length of the data of a write (13:R362). -/
structure OdEntry where
  acc : OdAcc
  lo  : Nat
  hi  : Nat
  deriving DecidableEq, Repr

def odRo : Option OdEntry := some ⟨.ro, 0, 0⟩
def odRw (n : Nat) : Option OdEntry := some ⟨.rw, n, n⟩
def odRwa (n : Nat) : Option OdEntry := some ⟨.rwa, n, n⟩

/-- The read-only entry stands where the sub-index lies in a range. -/
def odRoIn (sub lo hi : Nat) : Option OdEntry := if lo ≤ sub && sub ≤ hi then odRo else none

/-- The entry of an index and sub-index (13:R363 and the tables of the other chapters). -/
def odEntry (idx sub : Nat) : Option OdEntry :=
  match idx with
  | 0x1001 => odRoIn sub 1 7
  | 0x1002 => odRoIn sub 1 2
  | 0x1010 => if sub == 0 then odRw 2 else none
  | 0x1011 => odRoIn sub 0 0
  | 0x2000 => match sub with
    | 2 => odRw 1
    | 4 => odRwa 1
    | 5 => some ⟨.wo, 1, 1⟩
    | 6 => odRw 8
    | _ => odRoIn sub 1 7
  | 0x2001 => odRoIn sub 1 9
  | 0x2002 => if sub == 1 then odRw 4 else if sub == 2 then odRw 8 else none
  | 0x3000 => odRoIn sub 1 16
  | 0x3001 => odRoIn sub 1 2
  | 0x3002 | 0x3003 | 0x3004 | 0x3005 | 0x3006 => odRoIn sub 0 0
  | 0x3100 | 0x3103 => if sub == 0 then odRw 4 else none
  | 0x3101 => if sub == 0 then odRwa 2 else none
  | 0x3200 => odRoIn sub 1 0x60
  | 0x3201 => odRoIn sub 1 0x30
  | 0x3202 => odRoIn sub 1 1
  | 0x4000 => if sub == 3 then odRw 4 else odRoIn sub 1 2
  | 0x4001 => odRoIn sub 0 0xFF
  | 0x4010 => odRoIn sub 1 7
  | 0x4011 => if sub == 4 then odRw 1 else odRoIn sub 1 3
  | 0x5000 | 0x5001 => if sub == 0 then odRwa 4 else none
  | 0x5002 | 0x5003 => odRoIn sub 1 5
  | 0x5004 => odRoIn sub 1 3
  | 0x5005 => if sub == 0 then odRw 1 else none
  | 0x5006 => match sub with
    | 1 => odRw 1
    | 2 | 4 => odRw 2
    | 3 | 5 => odRw 4
    | _ => none
  | 0x5007 => odRoIn sub 1 16
  | 0x5010 => if sub == 0 then odRwa 64 else none
  | 0x5020 => match sub with
    | 1 => odRw 4
    | 2 => some ⟨.wo, 0, 1024⟩
    | 3 => odRwa 36
    | 4 => odRo
    | _ => none
  | 0x6000 => if 1 ≤ sub && sub ≤ 4 then odRwa 16 else none
  | 0x6001 | 0x6002 => odRoIn sub 1 4
  | 0x6003 => odRoIn sub 1 1
  | _ => none

/-! Values read. -/

/-- A array clock code in MHz; a code that stands for no clock reads as the clock requested (log 20). -/
def clockMhz (sel cur : BitVec 2) : Nat :=
  let c := if cur == 3 then sel else cur
  if c == 0 then 700 else if c == 1 then 672 else 644

def vreqMv (s : State) : Nat := 600 + 5 * s.bnd.vreq.toNat

/-- A generation of the spare map (15:R436). -/
def spareGen (s : State) (g : Nat) : List Byte := fuseBytes s (0x210 + 64 * g) 64

/-- The CRC-32 of a spare map is correct; a blank map never passes. -/
def spareGood (m : List Byte) : Bool :=
  m.any (· != 0) && leNat (m.drop 60) == (crc32 (m.take 60)).toNat

/-- The active generation (15:R436). -/
def spareActive (s : State) : Option Nat := [3, 2, 1, 0].find? fun g => spareGood (spareGen s g)

def slotState (s : State) (k : Nat) : Nat :=
  if vget s.mg.exhausted k false then 2 else if (vget s.mg.keys k none).isSome then 1 else 0

/-- The masks of 0x5002 and 0x5003. -/
def maskEntry (sub : Nat) (cg : BitVec 16) (cc ve : BitVec 8) (way : BitVec 16) (bank : BitVec 128) : List Byte :=
  match sub with
  | 1 => natLe cg.toNat 2
  | 2 => natLe cc.toNat 1
  | 3 => natLe ve.toNat 1
  | 4 => natLe way.toNat 2
  | _ => natLe bank.toNat 16

def asciiBytes (t : String) : List Byte := t.toList.map fun c => BitVec.ofNat 8 c.toNat

def capEntry (s : State) (sub : Nat) : List Byte :=
  match sub with
  | 1 => natLe (fuseByte s 0).toNat 1
  | 2 => natLe (cgBuilt s).toNat 2
  | 3 => natLe (cgInService s).toNat 2
  | 4 => natLe (ccInService s).toNat 1
  | 5 => natLe (mpBuilt s).toNat 2
  | 6 => natLe (smBytes s) 8
  | 7 => natLe (veLanes s) 2
  | 8 => natLe (memGib s) 2
  | _ => natLe (pmodeAvail s) 1

def flagByte (b : Bool) : List Byte := [if b then 1 else 0]

/-- The value that a READ returns, REG_VALUE aside. -/
def odValue (s : State) (idx sub : Nat) : List Byte :=
  match idx with
  | 0x1001 => match sub with
    | 1 => asciiBytes "Waxia"
    | 2 => asciiBytes "Elistad Microsystems"
    | 3 => asciiBytes (if gradeB s then "Waxia-98" else "Waxia-112")
    | 4 => natLe 0x0E1A 2
    | 5 => natLe 0x5704 2
    | 6 => natLe (stepping s) 1
    | _ => natLe (fuseNat s 8 8) 8
  | 0x1002 => if sub == 1 then natLe s.mg.fwVersion.toNat 4 else [s.mg.fwSource]
  | 0x1010 => natLe s.mg.nodeAddr.toNat 2
  | 0x1011 => natLe s.mg.chainPos.toNat 2
  | 0x2000 => match sub with
    | 1 => natLe (stateCode s.ctl.state) 1
    | 2 => natLe s.gen.reqStaged.toNat 1
    | 3 => [s.gen.reqResult]
    | 4 => flagByte (s.ctl.state == .service)
    | 6 => natLe s.gen.applyAt.toNat 8
    | _ => flagByte (s.ctl.state == .hold && quiet s)
  | 0x2001 => capEntry s sub
  | 0x2002 => natLe s.mg.regOffset.toNat 4
  | 0x3000 => natLe (vget s.sens.tj (sub - 1) 0).toNat 4
  | 0x3001 => natLe (vget s.sens.vdd (sub - 1) 0).toNat 4
  | 0x3002 => natLe s.sens.iblk.toNat 4
  | 0x3003 => natLe s.sens.pblk.toNat 4
  | 0x3004 => natLe (clockMhz s.bnd.aclkSel s.bnd.aclkCur) 2
  | 0x3005 => natLe (vreqMv s) 2
  | 0x3006 => natLe s.bnd.flags.toNat 4
  | 0x3100 => natLe s.sens.replan.toNat 4
  | 0x3101 => natLe s.sens.vlimit.toNat 2
  | 0x3103 => natLe s.sens.sample.toNat 4
  | 0x3200 => natLe (vget s.sens.ro (sub - 1) 0).toNat 4
  | 0x3201 => natLe (vget s.sens.pd (sub - 1) 0).toNat 4
  | 0x3202 => natLe s.sens.flagged.toNat 2
  | 0x4000 => match sub with
    | 1 => natLe s.flt.wr.toNat 4
    | 2 => natLe s.flt.total.toNat 8
    | _ => natLe s.flt.ack.toNat 4
  | 0x4001 => (vget s.flt.ring sub (.replicate 4 0)).toList.flatMap fun w => natLe w.toNat 8
  | 0x4010 => match sub with
    | 1 => natLe s.mg.mgAuth.toNat 4
    | 2 => natLe s.mg.mgReplay.toNat 4
    | 3 => natLe s.mg.mgState.toNat 4
    | 4 => natLe s.mg.crcErr.toNat 4
    | 5 => natLe s.mg.discard.toNat 4
    | 6 => natLe s.mg.suppressed.toNat 4
    | _ => natLe s.flt.lost.toNat 4
  | 0x4011 => match sub with
    | 1 => natLe s.mg.avail.toNat 8
    | 2 => natLe s.mg.unavail.toNat 8
    | 3 => natLe s.mg.excluded.toNat 8
    | _ => [s.mg.window]
  | 0x5000 => natLe s.mg.testmode.toNat 4
  | 0x5001 => natLe s.svc.unitCmd.toNat 4
  | 0x5002 => maskEntry sub s.svc.cg s.svc.cc s.svc.ve s.svc.way s.svc.bank
  | 0x5003 => maskEntry sub s.svc.retCG s.svc.retCC s.svc.retVE s.svc.retWay s.svc.retBank
  | 0x5004 => match sub with
    | 1 => natLe s.svc.testUnit.toNat 2
    | 2 => [s.svc.testResult]
    | _ => natLe s.svc.testDetail.toNat 4
  | 0x5005 => [s.mg.recovery]
  | 0x5006 => match sub with
    | 1 => [s.svc.auto]
    | 2 => natLe s.svc.cgLimit.toNat 2
    | 3 => natLe s.svc.cgWindow.toNat 4
    | 4 => natLe s.svc.veLimit.toNat 2
    | _ => natLe s.svc.smLimit.toNat 4
  | 0x5007 => natLe (vget s.svc.cgCount (sub - 1) 0).toNat 2
  | 0x5010 => match spareActive s with
    | some g => spareGen s g
    | none => natLe 0 64
  | 0x5020 => if sub == 1 then natLe s.mg.imgOffset.toNat 4 else [s.mg.imgState]
  | 0x6001 => natLe (vget s.mg.counters (sub - 1) 0).toNat 4
  | 0x6002 => natLe (slotState s (sub - 1)) 1
  | 0x6003 => natLe s.mg.nonce.toNat 8
  | _ => []

/-- The offset of the register that backs an entry (13:R388). -/
def odRegister (s : State) (idx sub : Nat) : Option Nat :=
  if idx == 0x2000 && sub == 2 then some 0x8010
  else if idx == 0x2000 && sub == 6 then some 0x20
  else if idx == 0x2002 && sub == 2 then some s.mg.regOffset.toNat
  else none

/-! Commands (13:R367 to R374). -/

def cmdRead : Nat := 1
def cmdWrite : Nat := 2
def cmdAwrite : Nat := 3

/-- The fields of a payload (13:R367). -/
def plIndex (p : List Byte) : Nat := leNat (p.take 2)
def plSub (p : List Byte) : Nat := ((p.drop 2).headD 0).toNat
def plSlot (ty : Nat) (p : List Byte) : Nat := if ty == cmdAwrite then ((p.drop 3).headD 0).toNat else 0
def plCounter (ty : Nat) (p : List Byte) : Nat := if ty == cmdAwrite then leNat ((p.drop 4).take 4) else 0
def plData (ty : Nat) (p : List Byte) : List Byte :=
  if ty == cmdWrite then p.drop 4 else if ty == cmdAwrite then (p.drop 8).take (p.length - 16) else []

/-- The fixed bytes of a command. -/
def fixedBytes (ty : Nat) : Nat := if ty == cmdAwrite then 16 else 4

/-- The unit that the command is about (13:R366): a column group's count, the control core that a sensor, ring oscillator
or path-delay replica stands at, or the unit that UNIT_CMD names. -/
def odUnit (idx sub : Nat) (data : List Byte) : Option (BitVec 16) :=
  if idx == 0x5007 then some (unitOf 1 (sub - 1))
  else if idx == 0x3000 || idx == 0x3200 || idx == 0x3201 then (Config.sensorCore idx sub).map fun c => unitOf 2 c.val
  else if idx == 0x5001 && 2 ≤ data.length then
    let u := BitVec.ofNat 16 (leNat (data.take 2))
    if classSize (uClass u) == 0 then none else some u
  else none

/-- A unit is absent, retired or not built (13:R366). -/
def unitAbsent (s : State) (u : BitVec 16) : Bool := !unitExists u || !unitBuilt s u || unitRetired s u

/-- The register window reaches no register of the DQ, FLAG and CC regions by a write (13:R364). -/
def windowClosed (s : State) : Bool :=
  let r := s.mg.regOffset.toNat / 0x100000
  r == 1 || r == 2 || r == 6

/-- Check 4 of 13:R369: the access type. -/
def checkAccess (s : State) (ty idx sub : Nat) (e : OdEntry) : Nat :=
  if ty == cmdRead then
    if e.acc == .wo || idx == 0x6000 || (idx == 0x5020 && sub == 3) then 0x01000003 else 0
  else if ty == cmdWrite then
    if e.acc == .ro then 0x01000002
    else if e.acc == .rwa then 0x01000004
    else if idx == 0x2002 && sub == 2 && windowClosed s then 0x01000006 else 0
  else if idx == 0x6000 && sub == 1 then 0x01000002
  else if e.acc == .rwa then 0 else 0x01000005

/-- Check 5: the length of the data. -/
def checkLength (ty : Nat) (e : OdEntry) (n : Nat) : Nat :=
  if ty == cmdRead then 0 else if e.hi < n then 0x02000001 else if n < e.lo then 0x02000002 else 0

/-- The message whose tag an AWRITE carries, and that tag (13:R373). -/
def awriteMessage (s : State) (p : List Byte) : List Byte :=
  fuseBytes s 8 8 ++ natLe s.mg.nonce.toNat 8 ++ p.take (p.length - 8)

def tagMatches (s : State) (key : BitVec 128) (p : List Byte) : Bool :=
  (cmac (natLe key.toNat 16) (awriteMessage s p)).take 8 == p.drop (p.length - 8)

/-- Check 6: the slot, the tag, the counter; the state in which the counter is consumed (13:R374). -/
def checkAuth (idx sub slot counter : Nat) (p : List Byte) (s : State) : Nat × State :=
  match (if 3 < slot then none else vget s.mg.keys slot none) with
  | none => (0x05000002, s)
  | some key =>
    if idx == 0x6000 && slot != 0 && slot != sub - 1 then (0x05000002, s)
    else if !tagMatches s key p then (0x05000001, s)
    else if vget s.mg.exhausted slot false then (0x06000002, s)
    else if counter ≤ (vget s.mg.counters slot 0).toNat then (0x06000001, s)
    else
      (0, { s with mg := { s.mg with
        counters := vmod s.mg.counters slot fun _ => BitVec.ofNat 32 counter,
        exhausted := vmod s.mg.exhausted slot fun x => x || counter == 0xFFFFFFFF } })

/-- Check 7: reserved bits and reserved codes of the value. -/
def odReserved (idx sub : Nat) (data : List Byte) : Bool :=
  let v := leNat data
  match idx with
  | 0x2000 => (sub == 2 && 3 < v) || (sub == 4 && v != 1 && v != 2) || (sub == 5 && v != 1)
  | 0x4011 | 0x5005 => 1 < v
  | 0x5000 => 1 < v
  | 0x5001 => fld (BitVec.ofNat 32 v) 16 8 != 0 || v / 2 ^ 24 == 0 || 3 < v / 2 ^ 24 || classSize (v / 256 % 256) == 0
  | 0x5006 => sub == 1 && 1 < v
  | 0x5010 =>
    ((data.drop 8).take 52).any (· != 0) ||
      [0, 2, 4, 6].any fun i => leNat ((data.drop i).take 2) / 128 % 256 != 0
  | _ => false

/-- The states in a list are those in which a command is legal. -/
def stateCheck (s : State) (ok : Bool) : Nat := if ok then 0 else 0x04000000 + stateCode s.ctl.state

def inCrhs (s : State) : Bool := applyOpen s
def notBoot (s : State) : Bool := s.ctl.state != .boot
def inMaint (s : State) : Bool := s.ctl.state == .config || s.ctl.state == .service

/-- The sub-state part of check 8 for UNIT_CMD (13:R365, 14:R412). -/
def unitSubCheck (s : State) (act : Nat) (u : BitVec 16) : Nat :=
  let bad := 0x04010000 + u.toNat
  if act == 1 then
    if inSub s u || (uClass u == 2 && ((List.range 8).any fun c =>
        c != uIdx u && (s.svc.cc.getLsbD c || transOf s (unitOf 2 c) == some .entering))) then bad
    else if noSpare s u then 0x04020000 else 0
  else if act == 2 then
    if !inSub s u || s.svc.tested.any (fun t => t.1 == u && !t.2) then bad else 0
  else if noSpare s u then 0x04020000 else 0

/-- Check 8: the block state and the unit sub-state (13:R370, R371). -/
def checkState (s : State) (ty idx sub v : Nat) : Nat :=
  let st := s.ctl.state
  if ty == cmdRead then stateCheck s (notBoot s || idx < 0x2001)
  else match idx with
  | 0x1010 => 0
  | 0x2000 =>
    if sub == 2 then stateCheck s (flagsOpen s && legalRequest st v)
    else if sub == 4 then
      stateCheck s (if v == 1 then st == .config || (st == .hold && quiet s) else st == .service)
    else stateCheck s (inCrhs s)
  | 0x2002 | 0x3100 | 0x3103 | 0x3101 => stateCheck s (inCrhs s)
  | 0x4000 | 0x4011 | 0x5005 | 0x5006 => stateCheck s (notBoot s)
  | 0x5001 =>
    let act := v / 2 ^ 24
    let u := BitVec.ofNat 16 (v % 65536)
    let ok := if act == 3 then inCrhs s else st == .run || st == .hold
    if ok then (if uClass u == 3 then 0 else unitSubCheck s act u) else stateCheck s false
  | 0x5000 | 0x5010 => stateCheck s (st == .service)
  | _ => stateCheck s (inMaint s)

/-- A value against its range. -/
def checkBounds (lo hi v : Nat) : Nat := if hi < v then 0x03000001 else if v < lo then 0x03000002 else 0

/-- Size of the image buffer. -/
def imgSize : Nat := 524288

/-- The next blank generation of the spare map. -/
def spareNext (s : State) : Option Nat :=
  match spareActive s with
  | some 3 => none
  | a => [0, 1, 2, 3].find? fun g =>
      (match a with | some k => k < g | none => true) && (spareGen s g).all (· == 0)

/-- Check 9: the range of the value and invalid combinations (13:R363, R365). -/
def checkRange (s : State) (idx sub : Nat) (data : List Byte) : Nat :=
  let v := leNat data
  match idx with
  | 0x1010 => checkBounds 0 0xFFD v
  | 0x2002 =>
    if sub != 1 then 0 else if 0x4000000 ≤ v then 0x03000001 else if v % 8 != 0 then 0x03000003 else 0
  | 0x3100 => checkBounds 1024 0xFFFFFFFF v
  | 0x3101 => let b := checkBounds 750 850 v; if b != 0 then b else if v % 5 != 0 then 0x03000003 else 0
  | 0x3103 => checkBounds 10 1000000 v
  | 0x5001 => if v / 256 % 256 == 3 then 0x03000004 else 0
  | 0x5006 => match sub with
    | 2 | 4 => checkBounds 1 1000 v
    | 3 => checkBounds 1024 0xFFFFFFFF v
    | 5 => checkBounds 1 0xFFFFFFFF v
    | _ => 0
  | 0x5010 => if !spareGood data || (spareNext s).isNone then 0x03000003 else 0
  | 0x5020 => match sub with
    | 1 => checkBounds 0 (imgSize - 1) v
    | 2 => if imgSize < s.mg.imgOffset.toNat + data.length then 0x03000001 else 0
    | _ =>
      let n := leNat (data.take 4)
      if imgSize < n then 0x03000001
      else if sha256 (Memory.gets s.mg.img 0 n) != data.drop 4 then 0x05000003 else 0
  | _ => 0

/-- Check 10: an earlier transition, or the test, of the unit has not ended (13:R365, 14:R412). -/
def checkBusy (s : State) (idx v : Nat) : Nat :=
  if idx != 0x5001 then 0 else
  let u := BitVec.ofNat 16 (v % 65536)
  if (transOf s u).isSome || (v / 2 ^ 24 == 2 && !s.svc.tested.any (·.1 == u)) then 0x09000002 else 0

/-- Check 11: parity of the register behind an entry. -/
def checkParity (s : State) (idx sub : Nat) : Nat :=
  match odRegister s idx sub with
  | some off => if parityAt s off then 0x08000000 + off / 0x100000 else 0
  | none => 0

/-! Effects. -/

/-- The source code of a path (14:R394). -/
def pathSource (p : ReqPath) : BitVec 16 :=
  match p with
  | .chain => 0x0800
  | .mailbox => 0x0801
  | .register => 0x0C00

/-- The count of a unit's detections in its window. -/
def windowCount (s : State) (u : BitVec 16) : Nat :=
  match uClass u with
  | 1 => (vget s.svc.cgCount (uIdx u) 0).toNat
  | 4 => vget s.svc.veCount (uIdx u) 0
  | 6 => ((s.sm.ceWindow.find? (·.1 == uIdx u)).map (·.2)).getD 0
  | _ => 0

/-- An accepted UNIT_CMD (13:R365). -/
def unitCommand (v : Nat) (s : State) : State :=
  let u := BitVec.ofNat 16 (v % 65536)
  let s := { s with svc := { s.svc with unitCmd := BitVec.ofNat 32 v } }
  match v / 2 ^ 24 with
  | 1 => enterUnit u s
  | 2 => leaveUnit u s
  | _ => retireUnit u 0x0001 (windowCount s u) s

/-- SERVICE ends (01:R25, 13:R363): TESTMODE becomes 0, and the control cores start as 11:R331 gives. -/
def endService (s : State) : State :=
  { s with
    ctl := { s.ctl with state := .config },
    mg := { s.mg with testmode := 0 },
    cores := vmap startEmpty s.cores }

/-- A spare map is programmed into the next blank generation (15:R436). -/
def programSpare (data : List Byte) (s : State) : State :=
  match spareNext s with
  | none => s
  | some g => (List.range 16).foldl (fun s i =>
      programFuse (132 + 16 * g + i) (BitVec.ofNat 32 (leNat ((data.drop (4 * i)).take 4))) s) s

/-- The effect of an accepted WRITE or AWRITE. -/
def odEffect (path : ReqPath) (idx sub : Nat) (data : List Byte) (s : State) : State :=
  let v := leNat data
  match idx with
  | 0x1010 => { s with mg := { s.mg with nodeAddr := BitVec.ofNat 16 v } }
  | 0x2000 => match sub with
    | 2 => stageRequest path v s
    | 4 => if v == 1 then { s with ctl := { s.ctl with state := .service } } else endService s
    | 5 => applyNext s
    | 6 => armApply (writeApplyAt (w64 v) s)
    | _ => s
  | 0x2002 =>
    if sub == 1 then { s with mg := { s.mg with regOffset := BitVec.ofNat 32 v } }
    else regWrite .snowdrop s.mg.regOffset.toNat (w64 v) s
  | 0x3100 => { s with sens := { s.sens with replan := BitVec.ofNat 32 v } }
  | 0x3101 => { s with sens := { s.sens with vlimit := BitVec.ofNat 16 v } }
  | 0x3103 => { s with sens := { s.sens with sample := BitVec.ofNat 32 v } }
  | 0x4000 => writeFaultAck (BitVec.ofNat 32 v) s
  | 0x4011 => { s with mg := { s.mg with window := BitVec.ofNat 8 v } }
  | 0x5000 => { s with mg := { s.mg with testmode := BitVec.ofNat 32 v } }
  | 0x5001 => unitCommand v s
  | 0x5005 => { s with mg := { s.mg with recovery := BitVec.ofNat 8 v } }
  | 0x5006 => match sub with
    | 1 => { s with svc := { s.svc with auto := BitVec.ofNat 8 v } }
    | 2 => { s with svc := { s.svc with cgLimit := BitVec.ofNat 16 v } }
    | 3 => { s with svc := { s.svc with cgWindow := BitVec.ofNat 32 v } }
    | 4 => { s with svc := { s.svc with veLimit := BitVec.ofNat 16 v } }
    | _ => { s with svc := { s.svc with smLimit := BitVec.ofNat 32 v } }
  | 0x5010 => programSpare data s
  | 0x5020 => match sub with
    | 1 => { s with mg := { s.mg with imgOffset := BitVec.ofNat 32 v } }
    | 2 => { s with mg := { s.mg with
        img := Memory.puts s.mg.img (cellsAt s.mg.imgOffset.toNat data),
        imgOffset := s.mg.imgOffset + BitVec.ofNat 32 data.length } }
    | _ => { s with mg := { s.mg with
        imgLen := leNat (data.take 4), imgDigest := data.drop 4, imgState := 1,
        imgVersion := BitVec.ofNat 32 (leNat (Memory.gets s.mg.img 0 4)) } }
  | 0x6000 =>
    let k := sub - 1
    { s with mg := { s.mg with
      keys := vmod s.mg.keys k fun _ => if v == 0 then none else some (BitVec.ofNat 128 v),
      counters := vmod s.mg.counters k fun _ => 0,
      exhausted := vmod s.mg.exhausted k fun _ => false } }
  | _ => s

/-- The value of an accepted READ. -/
def odReadValue (idx sub : Nat) (s : State) : List Byte × State :=
  if idx == 0x2002 && sub == 2 then
    let (v, s) := regRead s.mg.regOffset.toNat s
    (natLe v.toNat 8, s)
  else (odValue s idx sub, s)

/-- The first of a list of checks that fails. -/
def firstAbort : List Nat → Nat
  | [] => 0
  | a :: r => if a != 0 then a else firstAbort r

/-- Checks 7 to 11 of 13:R369. -/
def checkRest (s : State) (ty idx sub : Nat) (data : List Byte) : Nat :=
  let v := leNat data
  if ty == cmdRead then firstAbort [checkState s ty idx sub 0, checkParity s idx sub]
  else if odReserved idx sub data then 0x03000003
  else
    let a := checkState s ty idx sub v
    if a != 0 then a
    else
      let b := checkRange s idx sub data
      if b != 0 then b else checkBusy s idx v

/-- Checks 1 to 5 of 13:R369. -/
def checkForm (s : State) (ty : Nat) (p : List Byte) : Nat :=
  if p.length < fixedBytes ty then 0x02000003
  else
    let idx := plIndex p
    let sub := plSub p
    let data := plData ty p
    match odEntry idx sub with
    | none => 0x01000001
    | some e =>
      match odUnit idx sub data with
      | some u =>
        if unitAbsent s u then 0x07000000 + u.toNat
        else firstAbort [checkAccess s ty idx sub e, checkLength ty e data.length]
      | none => firstAbort [checkAccess s ty idx sub e, checkLength ty e data.length]

/-- The parity of the register behind an entry that a READ reads is checked (13:R388). -/
def checkBacking (ty idx sub : Nat) (s : State) : State :=
  match (if ty == cmdRead then odRegister s idx sub else none) with
  | some off => parityRead (BitVec.ofNat 26 off) s
  | none => s

/-- Checks 1 to 11, and the state with the counter consumed where it is. -/
def odCheck (ty : Nat) (p : List Byte) (s : State) : Nat × State :=
  let a := checkForm s ty p
  if a != 0 then (a, s)
  else if ty == cmdAwrite then
    let (a, s) := checkAuth (plIndex p) (plSub p) (plSlot ty p) (plCounter ty p) p s
    if a != 0 then (a, s) else (checkRest s ty (plIndex p) (plSub p) (plData ty p), s)
  else if checkState s ty (plIndex p) (plSub p) 0 != 0 && ty == cmdRead then
    (checkState s ty (plIndex p) (plSub p) 0, s)
  else
    let s := checkBacking ty (plIndex p) (plSub p) s
    (checkRest s ty (plIndex p) (plSub p) (plData ty p), s)

/-- The event of a refusal's abort class (13:R368). -/
def abortEvent (a : Nat) : Option (BitVec 16) :=
  match a / 2 ^ 24 with
  | 4 => some mgStateEv
  | 5 => some mgAuthEv
  | 6 => some mgReplayEv
  | _ => none

/-- A refusal with an event is counted and recorded, at most one record of its code in a beat (13:R374). -/
def countRefusal (path : ReqPath) (ty : Nat) (p : List Byte) (a : Nat) (s : State) : State :=
  match abortEvent a with
  | none => s
  | some ev =>
    let s := { s with mg :=
      if ev == mgStateEv then { s.mg with mgState := s.mg.mgState + 1 }
      else if ev == mgAuthEv then { s.mg with mgAuth := s.mg.mgAuth + 1 }
      else { s.mg with mgReplay := s.mg.mgReplay + 1 } }
    let (first, s) := firstInBeat ev 0 s
    if first then
      detect ev clsInfo (pathSource path) 0
        (w64 (a + plIndex p * 2 ^ 32 + plSub p * 2 ^ 48 + plSlot ty p * 2 ^ 56)) (w64 (plCounter ty p)) s
    else { s with mg := { s.mg with suppressed := s.mg.suppressed + 1 } }

/-- A command of the object dictionary: its abort code, the data it returns, and what it does (13:R367 to R374). -/
def odExec (path : ReqPath) (ty : Nat) (p : List Byte) (s : State) : Nat × List Byte × State :=
  let (a, s) := odCheck ty p s
  if a != 0 then (a, [], countRefusal path ty p a s)
  else if ty == cmdRead then
    let (d, s) := odReadValue (plIndex p) (plSub p) s
    (0, d, s)
  else (0, [], odEffect path (plIndex p) (plSub p) (plData ty p) s)

/-- Where a command that writes a register stops the model (00:R16, 01:R37). -/
def odStop (s : State) (ty : Nat) (p : List Byte) : Option Fault :=
  if ty == cmdWrite && plIndex p == 0x2002 && plSub p == 2 && (odCheck ty p s).1 == 0 then
    regStop s s.mg.regOffset.toNat (w64 (leNat (plData ty p)))
  else none

/-- The answer of a command (13:R367). -/
def odAnswer (a : Nat) (d : List Byte) : List Byte := natLe a 4 ++ d

/-! Paths. -/

/-- A command from the mailbox is the one in progress (13:R381). -/
def mboxHolds (s : State) (ty : Nat) (p : List Byte) : Bool :=
  s.mbox.busy && s.mbox.ready.isNone &&
    match s.mbox.cmd with
    | some r => r.ty.toNat == ty && r.payload == p
    | none => false

/-- A mailbox command: its answer waits to be written. -/
def mboxExec (ty : Nat) (p : List Byte) (s : State) : State :=
  if !mboxHolds s ty p then s else
  let (a, d, s) := odExec .mailbox ty p s
  { s with mbox := { s.mbox with ready := some (odAnswer a d) } }

/-- A mailbox request that reached Snowdrop has not been executed (13:R359). -/
def mboxWaits (s : State) : Bool := s.mbox.cmd.isSome && s.mbox.ready.isNone

/-! Frames (13:R375, R376). -/

/-- The bytes of a frame before its CRC: TYPE, DEST, SRC, SEQ, LEN and the payload. -/
def frameBody (ty : Byte) (dest src : BitVec 12) (seq : Byte) (p : List Byte) : List Byte :=
  ty :: natLe dest.toNat 2 ++ natLe src.toNat 2 ++ seq :: natLe p.length 2 ++ p

/-- The frame with its correct CRC. -/
def frameOf (ty : Byte) (dest src : BitVec 12) (seq : Byte) (p : List Byte) : Frame :=
  ⟨ty, dest, src, seq, p, crc32 (frameBody ty dest src seq p)⟩

def Frame.bytes (f : Frame) : List Byte := frameBody f.ty f.dest f.src f.seq f.payload ++ natLe f.crc.toNat 4

/-- Its CRC is correct. -/
def Frame.good (f : Frame) : Bool := f.crc == crc32 (frameBody f.ty f.dest f.src f.seq f.payload)

/-- The symbols of frame bytes on the link, before the 8B/10B code: whether it is a control symbol, and its byte; K27.7
begins the frame and K29.7 ends it (13:R375). -/
def frameSymbols (bs : List Byte) : List (Bool × Byte) := (true, 0xFB) :: bs.map (fun b => (false, b)) ++ [(true, 0xFD)]

/-- The ordered pair between frames: K28.5 D16.2 (13:R375). -/
def idlePair : List (Bool × Byte) := [(true, 0xBC), (false, 0x50)]

/-- Frame bytes leave the block; without valid code at its input the output carries idle (15:R431). -/
def chainSend (bs : List Byte) (s : State) : State :=
  if s.bnd.chainIn then { s with mg := { s.mg with chainOut := s.mg.chainOut ++ [bs] } } else s

/-- A frame with a bad CRC is counted (13:R377). -/
def countCrc (s : State) : State := { s with mg := { s.mg with crcErr := s.mg.crcErr + 1 } }

/-- The repeater receives frames: it is out of power-on reset, and its input carries valid code (15:R431). -/
def chainOpen (s : State) : Bool := s.bnd.chainIn && !s.ctl.por

/-- The block takes a frame with a destination (13:R360, R377). -/
def chainTakes (s : State) (dest : BitVec 12) : Bool :=
  s.ctl.fwUp && s.mg.nodeAddr != 0 && s.mg.nodeAddr.setWidth 12 == dest

/-! Requests of the chain (13:R359, R369, R377 to R379). -/

/-- The answer to a frame, from an address. -/
def responseTo (f : Frame) (own : BitVec 16) (bytes : List Byte) : List Byte :=
  (frameOf 4 f.src (own.setWidth 12) f.seq bytes).bytes

/-- The response to a frame, kept for its retransmission (13:R378). -/
def chainAnswer (f : Frame) (own : BitVec 16) (bytes : List Byte) (s : State) : State :=
  let r := responseTo f own bytes
  chainSend r { s with mg := { s.mg with lastResp := some ⟨f.src, f.seq, f.ty, f.crc, r⟩ } }

/-- The kept response answers a frame that is sent again (13:R378). -/
def resent (s : State) (f : Frame) : Option (List Byte) :=
  match s.mg.lastResp with
  | some r => if r.src == f.src && r.seq == f.seq && r.ty == f.ty && r.crc == f.crc then some r.frame else none
  | none => none

/-- The broadcast address (13:R376). -/
def toAll : BitVec 12 := 0xFFF

/-- The types of ENUM, ASSIGN and CRESET (13:R376). -/
def tyEnum : Byte := 5
def tyAssign : Byte := 6
def tyCreset : Byte := 7

/-- ASSIGN: the block takes ADDR and answers from it; an address out of range is refused (13:R379). -/
def takeAddress (f : Frame) (s : State) : State :=
  let addr : BitVec 16 := BitVec.ofNat 16 (leNat (f.payload.drop 2))
  if 1 ≤ addr.toNat && addr.toNat ≤ 0xFFD then
    chainAnswer f addr (odAnswer 0 []) { s with mg := { s.mg with nodeAddr := addr } }
  else chainAnswer f s.mg.nodeAddr (odAnswer 0x03000003 []) s

/-- Snowdrop executes a request of the chain (13:R377 to R379): a broadcast WRITE is not answered; the answer comes from the
address that the block had; a request that is sent again is answered again and not executed. -/
def chainRun (f : Frame) (s : State) : State :=
  if f.dest == toAll && f.ty != tyAssign then (odExec .chain f.ty.toNat f.payload s).2.2
  else match resent s f with
    | some r => chainSend r s
    | none =>
      if f.ty == tyAssign then takeAddress f s
      else
        let own := s.mg.nodeAddr
        let (a, d, s) := odExec .chain f.ty.toNat f.payload s
        chainAnswer f own (odAnswer a d) s

/-- A request reaches the chain interface: with another in progress it is discarded where it is the same, else answered by
the interface itself (13:R369, R378); behind a mailbox request that came earlier it is held (13:R359). -/
def chainRequest (f : Frame) (s : State) : State :=
  match s.mg.chainReq with
  | some r =>
    if (r.src == f.src && r.seq == f.seq && r.ty == f.ty && r.crc == f.crc) || (f.dest == toAll && f.ty != tyAssign) then s
    else chainSend (responseTo f s.mg.nodeAddr (odAnswer 0x09000001 [])) s
  | none => if mboxWaits s then { s with mg := { s.mg with chainReq := some f } } else chainRun f s

/-- A READ, WRITE or AWRITE arrives on the chain (13:R360, R377): addressed to the block, it is replaced by idle, and
executed where its CRC is good; any other is passed on, and of these a broadcast WRITE is executed. -/
def chainFrame (f : Frame) (s : State) : State :=
  if !chainOpen s then s
  else if chainTakes s f.dest then (if f.good then chainRequest f s else countCrc s)
  else
    let s := chainSend f.bytes s
    if !f.good then countCrc s
    else if f.dest == toAll && f.ty.toNat == cmdWrite && s.ctl.fwUp then chainRequest f s else s

/-- The request that Snowdrop executes when a frame has arrived, if it executes one at once. -/
def chainRuns (s : State) (f : Frame) : Bool :=
  chainOpen s && f.good && s.mg.chainReq.isNone && !mboxWaits s &&
    (if chainTakes s f.dest then (resent s f).isNone else f.dest == toAll && f.ty.toNat == cmdWrite && s.ctl.fwUp)

/-- The frame that a command of the chain is (13:R375). -/
def pathFrame (dest src : BitVec 12) (seq : Byte) (crc : BitVec 32) (ty : Nat) (p : List Byte) : Frame :=
  ⟨BitVec.ofNat 8 ty, dest, src, seq, p, crc⟩

/-- The command is executed now, not answered again and not passed over. -/
def odReaches (s : State) (path : Path) (ty : Nat) (p : List Byte) : Bool :=
  match path with
  | .mailbox => mboxHolds s ty p
  | .chain dest src seq crc => chainRuns s (pathFrame dest src seq crc ty p)

/-- A command of a path. -/
def odRun (path : Path) (ty : Nat) (p : List Byte) (s : State) : State :=
  match path with
  | .mailbox => mboxExec ty p s
  | .chain dest src seq crc => chainFrame (pathFrame dest src seq crc ty p) s

/-- What Snowdrop does next: the chain request that it held behind the mailbox request is executed (13:R359). -/
def thenHeld (old s : State) : Host.Outcome State Fault Refusal :=
  match s.mg.chainReq with
  | none => .next (settle old s)
  | some f =>
    if mboxWaits s then .next (settle old s)
    else
      let s := { s with mg := { s.mg with chainReq := none } }
      finish old (if (resent s f).isNone then odStop s f.ty.toNat f.payload else none) (chainRun f s)

/-- The outcome of a command of a path. -/
def odOutcome (path : Path) (ty : Nat) (p : List Byte) (s : State) : Host.Outcome State Fault Refusal :=
  match if odReaches s path ty p then odStop s ty p else none with
  | some f => .fault f
  | none => thenHeld s (odRun path ty p s)

/-! Payloads of the commands that name an entry. -/

def payRead (idx sub : Nat) : List Byte := natLe idx 2 ++ natLe sub 1 ++ [0]
def payWrite (idx sub : Nat) (data : List Byte) : List Byte := natLe idx 2 ++ natLe sub 1 ++ [0] ++ data
def payAwrite (idx sub : Nat) (au : Auth) (data : List Byte) : List Byte :=
  natLe idx 2 ++ natLe sub 1 ++ [au.slot] ++ natLe au.counter.toNat 4 ++ data ++ natLe au.tag.toNat 8

/-- The answer of the mailbox becomes complete (13:R381). -/
def mboxRespond (s : State) : State :=
  match s.mbox.ready with
  | none => s
  | some bytes =>
    let words := vmapIdx (fun i w =>
      if 8 * i < bytes.length then w64 (leNat ((bytes.drop (8 * i)).take 8)) else w) s.mbox.resp
    mboxEvent 0 { s with mbox := { s.mbox with
      resp := words, rlen := BitVec.ofNat 16 bytes.length,
      rseq := (match s.mbox.cmd with | some r => r.seq | none => s.mbox.rseq),
      busy := false, cmd := none, ready := none, evMbox := true } }

end Sys2Proof.Machine
end

