-- ==== Sys2Proof/Machine/Registers.lean ====
section
/-! DEFINITION. Commands that are register writes, and the commands of the block cache, translation, the fault ring
and configuration parity (00:R14 to R18; 06:R151, R165, R178, R181; 12:R347, R348, R355, R356; 13:R371, R384 to R389;
14:R399). -/

namespace Sys2Proof.Machine

/-! Writers. -/

/-- The writer can write a register: the host outside BOOT (15:R430), a core that runs (01:R27), Snowdrop by
REG_VALUE, which reaches no register of the DQ, FLAG and CC regions (13:R364, R370). -/
def srcReaches (s : State) (src : Src) (off : Nat) : Bool :=
  match src with
  | .host => s.ctl.state != .boot
  | .core c => coreRuns s c.val
  | .snowdrop =>
    let r := off / 0x100000
    s.ctl.fwUp && applyOpen s && r != 1 && r != 2 && r != 6

/-- The state after a writer's aligned 8-byte write. -/
def srcWrite (src : Src) (off : Nat) (v : Word) (s : State) : State :=
  if srcReaches s src off then regWrite src off v s else s

/-- A writer's aligned 8-byte write, as far as it has an effect (00:R16, 01:R37). -/
def writeReg (src : Src) (off : Nat) (v : Word) (s : State) : Host.Outcome State Fault Refusal :=
  finish s (if srcReaches s src off then regStop s off v else none) (srcWrite src off v s)

/-- A write that a register or the mailbox or chain makes (13:R363). -/
def cmdWriteOf (by_ : CmdSrc) (off : Nat) (v : Word) (idx sub : Nat) (data : List Byte) (s : State) :
    Host.Outcome State Fault Refusal :=
  match by_ with
  | .reg src => writeReg src off v s
  | .od p => odOutcome p cmdWrite (payWrite idx sub data) s

/-! APPLY and state requests. -/

/-- APPLY_NOW: GEN_APPLY.NOW, or a write of 0x2000 sub 0x05 (13:R387). -/
def effectApplyNow (by_ : CmdSrc) (s : State) : Host.Outcome State Fault Refusal :=
  cmdWriteOf by_ 0x18 1 0x2000 5 [1] s

/-- GEN_APPLY_AT := a beat, then AT = 1 (13:R363, R387). -/
def armAt (src : Src) (beat : Word) (s : State) : State := srcWrite src 0x18 2 (srcWrite src 0x20 beat s)

/-- APPLY_ARM: GEN_APPLY_AT := beat and GEN_APPLY.AT, or a write of 0x2000 sub 0x06 (13:R387). -/
def effectApplyArm (by_ : CmdSrc) (beat : Word) (s : State) : Host.Outcome State Fault Refusal :=
  match by_ with
  | .reg src => .next (settle s (armAt src beat s))
  | .od p => odOutcome p cmdWrite (payWrite 0x2000 6 (natLe beat.toNat 8)) s

/-- APPLY_AT_WRITE: a write of GEN_APPLY_AT disarms (13:R384). -/
def effectApplyAtWrite (src : Src) (v : Word) (s : State) : Host.Outcome State Fault Refusal :=
  writeReg src 0x20 v s

/-- The scheduled APPLY is taken once the beat value has reached BEAT (13:R387). -/
def scheduledEdge (s : State) : State :=
  if s.gen.armed && s.gen.applyAt.toNat ≤ s.beat.value.toNat then
    applyEdge { s with gen := { s.gen with armed := false } }
  else s

/-- SCHEDULED_APPLY (13:R387). -/
def effectScheduledApply (s : State) : Host.Outcome State Fault Refusal := .next (settle s (scheduledEdge s))

/-- STATE_REQUEST: a write of GEN_STATEREQ, or of 0x2000 sub 0x02 (13:R371). -/
def effectStateRequest (by_ : CmdSrc) (code : Byte) (s : State) : Host.Outcome State Fault Refusal :=
  cmdWriteOf by_ 0x8010 (code.setWidth 64) 0x2000 2 [code] s

/-! Registers. -/

/-- STAGED_WRITE: a write of a register with an RWS field, at either of its addresses (00:R14). -/
def effectStagedWrite (src : Src) (off : BitVec 26) (v : Word) (s : State) : Host.Outcome State Fault Refusal :=
  if isStaged off.toNat then writeReg src off.toNat v s else .next s

/-- REGISTER_WRITE: a write of a register without a row of its own (00:R14). -/
def effectRegisterWrite (src : Src) (off : BitVec 26) (v : Word) (s : State) : Host.Outcome State Fault Refusal :=
  if off.toNat % 8 == 0 then writeReg src off.toNat v s else .next s

/-- SQC_CLEAR: a write of an SQC register (00:R18). -/
def effectSqcClear (src : Src) (off : BitVec 26) (v : Word) (s : State) : Host.Outcome State Fault Refusal :=
  if isSqc off.toNat then writeReg src off.toNat v s else .next s

/-- The offset of a DQ register. -/
def dqOff (q : Fin 32) (r : Nat) : Nat := 0x100000 + q.val * 0x1000 + r

/-- DQ_CFG_WRITE: DQ_CFG, DQ_RBASE or DQ_CBASE (06:R151). -/
def effectDqCfgWrite (src : Src) (q : Fin 32) (reg : Fin 3) (v : Word) (s : State) : Host.Outcome State Fault Refusal :=
  writeReg src (dqOff q (8 * reg.val)) v s

/-- DQ_DOORBELL (06:R165). -/
def effectDqDoorbell (src : Src) (q : Fin 32) (v : Word) (s : State) : Host.Outcome State Fault Refusal :=
  writeReg src (dqOff q 0x18) v s

/-- QUEUE_FLUSH (06:R178). -/
def effectQueueFlush (src : Src) (q : Fin 32) (s : State) : Host.Outcome State Fault Refusal :=
  writeReg src (dqOff q 0x40) 4 s

/-- QUEUE_RESUME (06:R178). -/
def effectQueueResume (src : Src) (q : Fin 32) (s : State) : Host.Outcome State Fault Refusal :=
  writeReg src (dqOff q 0x40) 1 s

/-- QUEUE_HALT (06:R178). -/
def effectQueueHalt (src : Src) (q : Fin 32) (s : State) : Host.Outcome State Fault Refusal :=
  writeReg src (dqOff q 0x40) 2 s

/-- FLAG_WRITE_SET: a write of FLAG_n with ADD = 0 (06:R181). -/
def effectFlagWriteSet (src : Src) (f : Fin 4096) (v : BitVec 32) (s : State) : Host.Outcome State Fault Refusal :=
  writeReg src (0x200000 + 8 * f.val) (v.setWidth 64) s

/-- FLAG_WRITE_ADD: a write of FLAG_n with ADD = 1 (06:R181). -/
def effectFlagWriteAdd (src : Src) (f : Fin 4096) (v : BitVec 32) (s : State) : Host.Outcome State Fault Refusal :=
  writeReg src (0x200000 + 8 * f.val) (v.setWidth 64 ||| 0x8000000000000000) s

/-- MEMP_CFG_WRITE (08:R231). -/
def effectMempCfgWrite (src : Src) (v : Word) (s : State) : Host.Outcome State Fault Refusal :=
  writeReg src 0x900000 v s

/-- XLAT_CTXBASE_WRITE (12:R348). -/
def effectXlatCtxbaseWrite (src : Src) (v : Word) (s : State) : Host.Outcome State Fault Refusal :=
  writeReg src 0x700000 v s

/-- The value of XLAT_INV that starts an invalidation. -/
def invWord (variant : Nat) (ctx : BitVec 16) (va : BitVec 48) : Word :=
  (ctx.setWidth 64 <<< (48 : Nat)) ||| (va.setWidth 64 &&& 0xFFFFFFFFF000) ||| w64 variant

/-- XLAT_INV_ADDRESS (12:R345, R348). -/
def effectXlatInvAddress (src : Src) (ctx : BitVec 16) (va : BitVec 48) (s : State) : Host.Outcome State Fault Refusal :=
  writeReg src 0x700008 (invWord 0 ctx va) s

/-- XLAT_INV_ADDRESS_WALKER (12:R348). -/
def effectXlatInvAddressWalker (src : Src) (ctx : BitVec 16) (va : BitVec 48) (s : State) :
    Host.Outcome State Fault Refusal :=
  writeReg src 0x700008 (invWord 1 ctx va) s

/-- XLAT_INV_CONTEXT (12:R348). -/
def effectXlatInvContext (src : Src) (ctx : BitVec 16) (s : State) : Host.Outcome State Fault Refusal :=
  writeReg src 0x700008 (invWord 2 ctx 0) s

/-- XLAT_INV_BLOCK (12:R348). -/
def effectXlatInvBlock (src : Src) (s : State) : Host.Outcome State Fault Refusal :=
  writeReg src 0x700008 (invWord 3 0 0) s

/-! The block cache. -/

/-- PRELOAD_START: a write of BC_PLLEN (12:R355). -/
def effectPreloadStart (src : Src) (v : Word) (s : State) : Host.Outcome State Fault Refusal :=
  writeReg src 0x800030 v s

/-- PRELOAD_COMPLETE (12:R355). -/
def effectPreloadComplete (s : State) : Host.Outcome State Fault Refusal := .next (settle s (finishPreload s))

/-- BC_PWR with the bit of a way changed. -/
def pwrWord (s : State) (way : Fin 16) (off : Bool) : Word := (putBit s.bc.off way.val off).setWidth 64

/-- WAY_POWER_DOWN (12:R356). -/
def effectWayPowerDown (src : Src) (way : Fin 16) (s : State) : Host.Outcome State Fault Refusal :=
  writeReg src 0x800008 (pwrWord s way true) s

/-- WAY_CLEAN_COMPLETE (12:R356). -/
def effectWayCleanComplete (way : Fin 16) (s : State) : Host.Outcome State Fault Refusal :=
  .next (settle s (if s.bc.busy.getLsbD way.val then wayClean way.val s else s))

/-- WAY_POWER_UP (12:R356). -/
def effectWayPowerUp (src : Src) (way : Fin 16) (s : State) : Host.Outcome State Fault Refusal :=
  writeReg src 0x800008 (pwrWord s way false) s

/-- WAY_POWER_UP_READY (12:R356). -/
def effectWayPowerUpReady (way : Fin 16) (s : State) : Host.Outcome State Fault Refusal :=
  .next (settle s (wayReady way.val s))

/-! The fault ring. -/

/-- The four words of record n (14:R395). -/
def recordWords (n : BitVec 32) (r : FRec) : Vector Word 4 :=
  let flags := (if n.toNat / 256 % 2 == 0 then 1 else 0) + (if r.avalid then 2 else 0)
  #v[w64 (r.event.toNat + r.cls.toNat * 2 ^ 16 + flags * 2 ^ 24 + r.source.toNat * 2 ^ 32 + r.detail.toNat * 2 ^ 48),
    r.beat, r.info0, r.info1]

/-- The ring has room for a record (14:R399). -/
def ringRoom (s : State) (r : FRec) : Bool :=
  let used := (s.flt.wr - s.flt.ack).toNat
  if r.cls == clsFatal then used < 256 else used < 255

/-- The oldest detection's record is written, or counted as lost (14:R399). -/
def writeFaultRecord (s : State) : State :=
  match s.flt.detected with
  | [] => s
  | (_, r) :: rest =>
    let s := { s with flt := { s.flt with detected := rest } }
    if ringRoom s r then
      let s := fltEvent 0 { s with flt := { s.flt with
        ring := vmod s.flt.ring (s.flt.wr.toNat % 256) fun _ => recordWords s.flt.wr r,
        wr := s.flt.wr + 1, total := s.flt.total + 1, evRec := true } }
      if r.cls == clsFatal then fltEvent 3 s else s
    else fltEvent 2 { s with flt := { s.flt with lost := s.flt.lost + 1 } }

/-- FAULT_RECORD_WRITE (14:R399). -/
def effectFaultRecordWrite (s : State) : Host.Outcome State Fault Refusal := .next (settle s (writeFaultRecord s))

/-- FAULT_ACK_WRITE (14:R399). -/
def effectFaultAckWrite (src : Src) (v : Word) (s : State) : Host.Outcome State Fault Refusal :=
  writeReg src 0xB00008 v s

/-! Configuration parity (13:R388). -/

/-- PARITY_SCAN: a covered register is visited, and its copy mismatches or not (13:R388). -/
def effectParityScan (off : BitVec 26) (mismatch : Bool) (s : State) : Host.Outcome State Fault Refusal :=
  .next (settle s (if mismatch && parityCovered off.toNat then parityMismatch off s else parityRead off s))

/-- No two copies of a voted item of a queue or of the timebase agree: the block enters FAULT (14:R400). -/
def votedLost (q : Option (Fin 32)) (s : State) : State :=
  fatal mgCfgParity (match q with | some q => BitVec.ofNat 16 (0x0700 + q.val) | none => 0x0A00) 0 0 0 s

/-- MBOX_RESPONSE_READY (13:R381). -/
def effectMboxResponseReady (s : State) : Host.Outcome State Fault Refusal := .next (settle s (mboxRespond s))

end Sys2Proof.Machine
end

