-- ==== Sys2Proof/Machine/HostWindow.lean ====
section
/-! DEFINITION. The host window (01:R33, R34; 08:R233, R243; 13:R382; 15:R430). -/

namespace Sys2Proof.Machine

/-- Ones in every enabled byte. -/
def onesIn (be : BitVec 256) : List Host.Cell := (maskBits be).map fun i => (i, 0xFF)

/-- The enables of the w-th 8-byte word of a block. -/
def wordBe (be : BitVec 256) (w : Nat) : BitVec 8 := be.extractLsb' (8 * w) 8

/-- A word of a read of the block control space: a whole word reads the register; in BOOT only the GEN region is
answered; a part of a word reads ones and sets NARROW (13:R382, 15:R430). -/
def hostRegRead (be : BitVec 256) (off w : Nat) (s : State) : List Host.Cell × State :=
  let e := wordBe be w
  let o := off + 8 * w
  if e == 0 then ([], s)
  else if s.ctl.state == .boot && 0x100000 ≤ o then ((maskBits e).map fun i => (8 * w + i, 0xFF), s)
  else if e == 0xFF then
    let (v, s) := regRead o s
    (cellsAt (8 * w) (natLe v.toNat 8), s)
  else ((maskBits e).map fun i => (8 * w + i, 0xFF), genEvent 6 s)

def hostRegReads (be : BitVec 256) (off : Nat) : List Nat → State → List Host.Cell × State
  | [], s => ([], s)
  | w :: ws, s =>
    let (a, s) := hostRegRead be off w s
    let (b, s) := hostRegReads be off ws s
    (a ++ b, s)

/-- A host-window read is performed (15:R430): unassigned and remote addresses read ones; in BOOT all but the GEN region. -/
def hostRead (tag : BitVec 6) (addr : BitVec 44) (be : BitVec 256) (s : State) : State :=
  let pa := addr.toNat * 256
  match region s pa with
  | .ctl =>
    let (cs, s) := hostRegReads be (past ctlBase pa) (List.range 32) s
    hostAnswer tag cs s
  | .ext | .stage =>
    if s.ctl.state == .boot then hostAnswer tag (onesIn be) s
    else
      let (cs, s) := hostMemRead be pa s
      hostAnswer tag cs s
  | _ => hostAnswer tag (onesIn be) s

/-- A word of a write of the block control space (13:R382). -/
def hostRegWrite (be : BitVec 256) (data : BitVec 2048) (off w : Nat) (s : State) : State :=
  let e := wordBe be w
  if e == 0 then s
  else if e == 0xFF then srcWrite .host (off + 8 * w) (data.extractLsb' (64 * w) 64) s
  else genEvent 6 s

/-- The enabled bytes of a write of memory. -/
def hostCells (be : BitVec 256) (data : BitVec 2048) (pa : Nat) : List Host.Cell :=
  (maskBits be).map fun i => (pa + i, data.extractLsb' (8 * i) 8)

/-- A write of memory: it updates a hit and goes to the port, or to stage memory; the parts of uncorrectable
stage-memory words that it names are not written, and recorded (08:R233, R236). -/
def hostMemWrite (be : BitVec 256) (data : BitVec 2048) (pa : Nat) (s : State) : State :=
  (groupCells 32 (hostCells be data pa)).foldl (fun s g =>
    match writeAccess false true .hostWrite g s with
    | (some a, s) => detect smUe clsInfo 0x0900 0 (w64 a) 0 s true
    | (none, s) => s) s

/-- A host-window write is performed (15:R430). -/
def hostWrite (addr : BitVec 44) (be : BitVec 256) (data : BitVec 2048) (s : State) : State :=
  let pa := addr.toNat * 256
  if s.ctl.state == .boot then s
  else match region s pa with
  | .ctl => (List.range 32).foldl (fun s w => hostRegWrite be data (past ctlBase pa) w s) s
  | .ext => (writeAccess false true .hostWrite (hostCells be data pa) s).2
  | .stage => hostMemWrite be data pa s
  | _ => s

/-- A request is performed. -/
def hostPerform (r : HostReq) (s : State) : State :=
  match r with
  | .read tag addr be => hostRead tag addr be s
  | .write addr be data => hostWrite addr be data s

/-- The requester of the memory ports that the host window is. -/
def hostPlace : Nat := 5

/-- Requests that wait are performed, oldest first, up to one whose reads are not answered (15:R430). -/
def hostRun : Nat → State → State
  | 0, s => s
  | n + 1, s => match s.bnd.hostHeld with
    | [] => s
    | r :: rest => match tryPorts hostPlace (hostPerform r) s with
      | (s, true) => hostRun n { s with bnd := { s.bnd with hostHeld := rest } }
      | (s, false) => s

/-- A request is taken, which returns its credit, and performed in its turn (08:R243, 15:R430). -/
def hostRequest (r : HostReq) (s : State) : State :=
  let s := { s with bnd := { s.bnd with hwCred := s.bnd.hwCred + 1, hostHeld := s.bnd.hostHeld ++ [r] } }
  hostRun s.bnd.hostHeld.length s

/-- A request that is not confined to its block is an access to an unassigned address, and sets HW_SPLIT (15:R430). -/
def splitRequest (tag : Option (BitVec 6 × BitVec 256)) (s : State) : State :=
  let s := setBnd 12 { s with bnd := { s.bnd with hwCred := s.bnd.hwCred + 1 } }
  match tag with
  | some (tag, be) => hostAnswer tag (onesIn be) s
  | none => s

/-- HOST_WINDOW_READ (08:R243). -/
def effectHostWindowRead (tag : BitVec 6) (addr : BitVec 44) (be : BitVec 256) (split : Bool) (s : State) :
    Host.Outcome State Fault Refusal :=
  .next (settle s (if split then splitRequest (some (tag, be)) s else hostRequest (.read tag addr be) s))

/-- Where a request to write registers stops the model (00:R16, 01:R37). -/
def hostStop (s : State) (addr : BitVec 44) (be : BitVec 256) (data : BitVec 2048) : Option Fault :=
  let pa := addr.toNat * 256
  if region s pa == .ctl && s.ctl.state != .boot then (List.range 32).findSome? fun w =>
    if wordBe be w == 0xFF then regStop s (past ctlBase pa + 8 * w) (data.extractLsb' (64 * w) 64) else none
  else none

/-- HOST_WINDOW_WRITE (08:R243). -/
def effectHostWindowWrite (addr : BitVec 44) (be : BitVec 256) (data : BitVec 2048) (split : Bool) (s : State) :
    Host.Outcome State Fault Refusal :=
  if split then .next (settle s (splitRequest none s))
  else finish s (hostStop s addr be data) (hostRequest (.write addr be data) s)

/-- The read with a tag that waits. -/
def heldRead (tag : BitVec 6) (r : HostReq) : Option (BitVec 256) :=
  match r with
  | .read t _ be => if t == tag then some be else none
  | .write _ _ _ => none

/-- HOST_WINDOW_READ_TIMEOUT: a read that waits too long is answered with ones (15:R430). -/
def effectHostWindowReadTimeout (tag : BitVec 6) (s : State) : Host.Outcome State Fault Refusal :=
  .next (settle s (match s.bnd.hostHeld.findSome? (heldRead tag) with
    | some be => hostAnswer tag (onesIn be)
        { s with bnd := { s.bnd with hostHeld := s.bnd.hostHeld.filter fun r => (heldRead tag r).isNone } }
    | none => s))

end Sys2Proof.Machine
end

