-- ==== Sys2Proof/Machine/Fp.lean ====
section
/-! DEFINITION. Arithmetic on exact values: the operations that the vector engine and the control cores share
(07:R201 to R212, 09:R265). -/

namespace Sys2Proof.Machine

/-! Exact arithmetic. NaN results are the first NaN operand; a signalling mark raises invalid when the result is
converted (02:R64). An invalid operation gives the default NaN with that mark. -/

/-- The result of an invalid operation. -/
def xBad : XVal := .nan false true 0

/-- Exact sum; `dn`: the sign of an exact zero sum of operands of opposite sign. -/
def Ex.add (dn : Bool) (x y : Ex) : Ex :=
  let q := min x.exp y.exp
  let a := (x.num * y.den) <<< (x.exp - q).toNat
  let b := (y.num * x.den) <<< (y.exp - q).toNat
  if x.neg == y.neg then ⟨x.neg, a + b, x.den * y.den, q⟩
  else if a == b then ⟨dn, 0, 1, 0⟩
  else if b < a then ⟨x.neg, a - b, x.den * y.den, q⟩
  else ⟨y.neg, b - a, x.den * y.den, q⟩

def Ex.mul (x y : Ex) : Ex := ⟨x.neg != y.neg, x.num * y.num, x.den * y.den, x.exp + y.exp⟩

/-- Quotient by a nonzero y. -/
def Ex.div (x y : Ex) : Ex := ⟨x.neg != y.neg, x.num * y.den, x.den * y.num, x.exp - y.exp⟩

/-- Comparison of exact numbers; −0 equals +0. -/
def Ex.cmp (x y : Ex) : Ordering :=
  let d := x.add false { y with neg := !y.neg }
  if d.num == 0 then .eq else if d.neg then .lt else .gt

def xNeg : XVal → XVal
  | .nan n s p => .nan n s p
  | .inf n => .inf (!n)
  | .real x => .real { x with neg := !x.neg }

def xIsNan : XVal → Bool
  | .nan _ _ _ => true
  | _ => false

def xSig : XVal → Bool
  | .nan _ s _ => s
  | _ => false

/-- The first NaN of two operands, marked if either signals (02:R64). -/
def xNan2 (a b : XVal) : Option XVal :=
  match a, b with
  | .nan n s p, b => some (.nan n (s || xSig b) p)
  | _, .nan n s p => some (.nan n s p)
  | _, _ => none

def xAdd (dn : Bool) (a b : XVal) : XVal :=
  match xNan2 a b with
  | some r => r
  | none => match a, b with
    | .inf n, .inf m => if n == m then .inf n else xBad
    | .inf n, _ => .inf n
    | _, .inf n => .inf n
    | .real x, .real y => .real (x.add dn y)
    | a, _ => a

def xMul (a b : XVal) : XVal :=
  match xNan2 a b with
  | some r => r
  | none => match a, b with
    | .inf n, .inf m => .inf (n != m)
    | .inf n, .real y => if y.num == 0 then xBad else .inf (n != y.neg)
    | .real x, .inf m => if x.num == 0 then xBad else .inf (x.neg != m)
    | .real x, .real y => .real (x.mul y)
    | a, _ => a

/-- A quotient and divide-by-zero. -/
def xDiv (a b : XVal) : XVal × Exc :=
  match xNan2 a b with
  | some r => (r, 0)
  | none => match a, b with
    | .inf _, .inf _ => (xBad, 0)
    | .inf n, .real y => (.inf (n != y.neg), 0)
    | .real x, .inf m => (.real ⟨x.neg != m, 0, 1, 0⟩, 0)
    | .real x, .real y =>
      if y.num != 0 then (.real (x.div y), 0)
      else if x.num == 0 then (xBad, 0) else (.inf (x.neg != y.neg), excDivZero)
    | a, _ => (a, 0)

/-- a × b + c with one rounding to come; zero times infinity with a quiet NaN c is open (log 16). -/
def xFma (dn : Bool) (a b c : XVal) : XVal :=
  match a, b with
  | .nan _ _ _, _ => xAdd dn (xMul a b) c
  | _, .nan _ _ _ => xAdd dn (xMul a b) c
  | _, _ => match xMul a b, c with
    | .nan _ _ _, .nan n s p => .nan n (s || Config.fmaInvalid) p
    | p, c => xAdd dn p c

/-- The integer square root, from n bits down. -/
def isqrtBits (v : Nat) : Nat → Nat → Nat
  | 0, r => r
  | n + 1, r => let t := r + 2 ^ n; isqrtBits v n (if t * t ≤ v then t else r)

def isqrt (v : Nat) : Nat := isqrtBits v (v.log2 / 2 + 1) 0

/-- Square root, to 128 bits beyond its argument's and a half unit for the rest, so that it rounds as the exact
value does in every mode and format. -/
def xSqrt : XVal → XVal
  | .nan n s p => .nan n s p
  | .inf n => if n then xBad else .inf false
  | .real x =>
    if x.num == 0 then .real x
    else if x.neg then xBad
    else
      let odd := x.exp % 2 != 0
      let k := x.num.log2 + x.den.log2 + 128
      let v := ((if odd then 2 * x.num else x.num) <<< (2 * k)) / x.den
      let e := (if odd then x.exp - 1 else x.exp) / 2 - k
      let r := isqrt v
      if r * r * x.den == (if odd then 2 * x.num else x.num) <<< (2 * k) then .real ⟨false, r, 1, e⟩
      else .real ⟨false, 2 * r + 1, 1, e - 1⟩

/-- Rounding of a magnitude to an integer; mode 5 is ties away. -/
def roundInt (c : Rnd) (neg : Bool) (num den : Nat) : Nat :=
  if c.mode == 5 then (2 * num + den) / (2 * den) else roundQ c neg num den

/-- IEEE 754 remainder: x − y × n, n the integer nearest to x / y, ties to even. -/
def xRem (a b : XVal) : XVal :=
  match xNan2 a b with
  | some r => r
  | none => match a, b with
    | .inf _, _ => xBad
    | a, .inf _ => a
    | .real x, .real y =>
      if y.num == 0 then xBad
      else
        let t := x.div y
        let (n, d) := t.units 0
        let k := roundQ rne false n d
        let r := x.add x.neg { y.mul ⟨false, k, 1, 0⟩ with neg := !x.neg }
        .real (if r.num == 0 then ⟨x.neg, 0, 1, 0⟩ else r)
    | a, _ => a

/-- x × 2^n; beyond ±20000 every format saturates or underflows alike. -/
def xScaleb (a : XVal) (n : Int) : XVal :=
  match a with
  | .real x => .real (if x.num == 0 then x else { x with exp := x.exp + max (-20000) (min 20000 n) })
  | a => a

/-- The integer that an INT32 operand holds. -/
def valInt : Val → Int
  | .fin n m e => let t : Int := shiftTo m e 0; if n then -t else t
  | _ => 0

/-- An exact value rounded to an integer value, with the sign of the operand, and whether it differs. -/
def xRint (c : Rnd) (a : XVal) : XVal × Bool :=
  match a with
  | .real x =>
    let (n, d) := x.units 0
    (.real ⟨x.neg, roundInt c x.neg n d, 1, 0⟩, n % d != 0)
  | a => (a, false)

/-! Comparison. -/

/-- Order of values that are not NaN. -/
def xCmp (a b : XVal) : Ordering :=
  match a, b with
  | .inf n, .inf m => if n == m then .eq else if n then .lt else .gt
  | .inf n, _ => if n then .lt else .gt
  | _, .inf m => if m then .gt else .lt
  | .real x, .real y => x.cmp y
  | _, _ => .eq

/-- The relation of a to b as a one-hot code: less 1, equal 2, greater 4, unordered 8 (07:R204). -/
def relation (a b : XVal) : Nat :=
  if xIsNan a || xIsNan b then 8 else match xCmp a b with
    | .lt => 1
    | .eq => 2
    | .gt => 4

def xNegSign : XVal → Bool
  | .nan n _ _ => n
  | .inf n => n
  | .real x => x.neg

/-- maximumNumber and minimumNumber, −0 below +0 (07:R207); a number beside a signalling NaN raises invalid. -/
def xMinMax (mx : Bool) (a b : XVal) : XVal × Exc :=
  if xIsNan a && xIsNan b then ((xNan2 a b).getD a, 0)
  else if xIsNan a then (b, sigExc (xSig a))
  else if xIsNan b then (a, sigExc (xSig b))
  else
    let aMore := match xCmp a b with
      | .gt => true
      | .lt => false
      | .eq => xNegSign b || !xNegSign a
    (if aMore == mx then a else b, 0)

/-- Place of a value in the sequence of 07:R203: class and, of finite values, the comparison that follows. -/
def totPlace (a : XVal) : Int :=
  match a with
  | .nan n s _ => let k := if s then 3 else 4; if n then -k else k
  | .inf n => if n then -2 else 2
  | .real _ => 0

/-- totalOrder by value (07:R203). -/
def totByValue (a b : XVal) : Bool :=
  match a, b with
  | .real x, .real y => match x.cmp y with
    | .lt => true
    | .gt => false
    | .eq => x.neg || !y.neg
  | a, b => totPlace a ≤ totPlace b

/-- The place of a code in the order of its IEEE format. -/
def codeOrder (bits c : Nat) : Int :=
  let m := c % 2 ^ (bits - 1)
  if c.testBit (bits - 1) then -(m : Int) - 1 else m

def xAbs : XVal → XVal
  | .nan _ s p => .nan false s p
  | .inf _ => .inf false
  | .real x => .real { x with neg := false }

/-! Sums. -/

/-- The first NaN of a list, marked if any of its values signals (02:R64). -/
def xNanOf (l : List XVal) : Option XVal :=
  (l.find? xIsNan).map fun x => match x with
    | .nan n _ p => .nan n (l.any xSig) p
    | x => x

/-- Exact sum of a list (07:R208, R210): one operation, whose NaN result is its first NaN operand (02:R64). -/
def xSum (dn : Bool) (l : List XVal) : XVal :=
  match xNanOf l with
  | some x => x
  | none => match l with
    | [] => .real ⟨false, 0, 1, 0⟩
    | x :: xs => xs.foldl (xAdd dn) x

/-- Lists of 8 consecutive elements. -/
def runsOf8 {α : Type} (l : List α) : List (List α) :=
  (List.range ((l.length + 7) / 8)).map fun i => (l.drop (8 * i)).take 8

/-! Exponential and logarithm (07:R207). -/

/-- 2^f for the fraction f = frac / 2^n, in units of 2^-320, by repeated square roots: at most 2^-300 below. -/
def exp2Frac (frac : Nat) : Nat → Nat → Nat → Nat
  | 0, _, acc => acc
  | n + 1, root, acc =>
    let r := isqrt (root <<< 320)
    exp2Frac frac n r (if frac.testBit n then (acc * r) >>> 320 else acc)

/-- The exact value of 2^x, or a value between it and the next lower value of any format. -/
def exp2Ex (x : Ex) : Ex :=
  -- beyond 2^15 every format overflows or underflows
  if x.num == 0 then ⟨false, 1, 1, 0⟩
  else if 15 ≤ x.ilog then ⟨false, 3, 1, if x.neg then -40000 else 40000⟩
  else
    let unit : Nat := 240
    let (n, d) := x.units (-(unit : Int))
    let exact := n % d == 0
    -- floor of x in units of 2^-240
    let fl : Int := if x.neg then -((n / d : Nat) : Int) - (if exact then 0 else 1) else (n / d : Nat)
    let whole := fl / (2 ^ unit : Nat)
    let frac := (fl % (2 ^ unit : Nat)).toNat
    if frac == 0 && exact then ⟨false, 1, 1, whole⟩
    else
      let r := exp2Frac frac unit (2 <<< 320) (1 <<< 320)
      ⟨false, 2 * (r >>> 20) + 1, 1, whole - 301⟩

/-- The bits of log2 of m / 2^640 in [1, 2), n of them. -/
def log2Bits : Nat → Nat → Nat → Nat
  | 0, _, acc => acc
  | n + 1, m, acc =>
    let s := (m * m) >>> 640
    if 2 <<< 640 ≤ s then log2Bits n (s >>> 1) (2 * acc + 1) else log2Bits n s (2 * acc)

/-- The exact value of log2 x of a positive x, or a value between it and the next value of any format towards −infinity. -/
def log2Ex (x : Ex) : Ex :=
  let e := x.ilog
  let (n, d) := x.units (e - 640)
  let m := n / d
  if m == 1 <<< 640 && n % d == 0 then
    ⟨e < 0, e.natAbs, 1, 0⟩
  else
    let b := log2Bits 300 m 0
    let t : Int := 2 * (e * (2 ^ 300 : Nat) + b) + 1
    ⟨t < 0, t.natAbs, 1, -301⟩

/-! Activation (04:R121). -/

/-- FMA32 of 04:R121 on FP32 codes. -/
def fma32 (a b c : Nat) : Nat := (rne32 (xFma false (valX (decode32 a)) (valX (decode32 b)) (valX (decode32 c)))).1

/-- b ≤ x as reals, for FP32 codes that are not NaN. -/
def le32 (b x : Nat) : Bool :=
  !valIsNan (decode32 b) && xCmp (valX (decode32 b)) (valX (decode32 x)) != .gt

/-- The breakpoints b1 to b63 are nondecreasing and hold no NaN (04:R118, 07:R207). -/
def breaksOk : List Nat → Bool
  | a :: b :: l => !valIsNan (decode32 a) && le32 a b && breaksOk (b :: l)
  | [a] => !valIsNan (decode32 a)
  | [] => true

end Sys2Proof.Machine
end

