-- ==== Sys2Proof/Machine/Act.lean ====
section
/-! DEFINITION. Activation tables and presets, statistics records (04:R121 to R125). -/

namespace Sys2Proof.Machine

/-- Coefficients C0 to C3 of segments 1 to 62 of the GELU preset (04:R123). -/
def geluCoef : List (BitVec 32 × BitVec 32 × BitVec 32 × BitVec 32) :=
  [(0xA9205DA6, 0xAA9B4650, 0xAADEFB9D, 0xACF7B0BF), (0xAA86B932, 0xABFC7597, 0xAC4BCFE9, 0xAE34B50A),
   (0xABD4A034, 0xAD409077, 0xADA9918E, 0xAF76C007), (0xAD1D9A58, 0xAE89CC43, 0xAF016ADB, 0xB09D98DC),
   (0xAE5B73DC, 0xAFB9006D, 0xB0361AEB, 0xB1BC40AA), (0xAF8F821F, 0xB0E8F755, 0xB16CF95C, 0xB2D230DE),
   (0xB0B049C0, 0xB2099069, 0xB28EE770, 0xB3DB40CA), (0xB1CB64B3, 0xB3185642, 0xB39FFA4C, 0xB4D58A2B),
   (0xB2DC656C, 0xB41E27F4, 0xB4A66607, 0xB5C20C57), (0xB3E049EC, 0xB519E81F, 0xB5A0E975, 0xB6A4641D),
   (0xB4D659EF, 0xB60C59F0, 0xB690B7A1, 0xB781B405), (0xB5C05E5D, 0xB6EFCFCC, 0xB7721B82, 0xB83E61F3),
   (0xB6A21B39, 0xB7BFDF8F, 0xB83C5440, 0xB901C64C), (0xB7804203, 0xB88FB750, 0xB9082C99, 0xB9A401E1),
   (0xB83E880C, 0xB94972A9, 0xB9B6EBE8, 0xBA3FA925), (0xB904D6BD, 0xBA04075B, 0xBA64013F, 0xBACE6ACA)] ++
  [(0xB9ADD5E0, 0xBAA1B803, 0xBB03A96F, 0xBB4BEDA8), (0xBA557028, 0xBB38ED48, 0xBB8C9847, 0xBBB78E3F),
   (0xBAF5CDAE, 0xBBC52D74, 0xBC0A6886, 0xBC14EE56), (0xBB84B34C, 0xBC43B7AD, 0xBC7A2721, 0xBC55E4F8),
   (0xBC064197, 0xBCB47316, 0xBCCE29EF, 0xBC8315EE), (0xBC7E590F, 0xBD1A0E15, 0xBD195603, 0xBC79FCEF),
   (0xBCE1524D, 0xBD7270F2, 0xBD4A0873, 0xBBF12454), (0xBD3A5E7C, 0xBDAE8E03, 0xBD62E87C, 0x3C2F25A1),
   (0xBD8F9270, 0xBDE32D40, 0xBD440C59, 0x3D216833), (0xBDCD3B52, 0xBE028749, 0xBC974A53, 0x3D995F44),
   (0xBE073B51, 0xBDFB35FF, 0x3D1C02FB, 0x3DDDBFBC), (0xBE227686, 0xBDAAA14D, 0x3DF65CC8, 0x3E02C248),
   (0xBE2E0CC0, 0x3A4AF8EF, 0x3E5EB077, 0x3DFB2C4F), (0xBE1DF8A2, 0x3E07AF5C, 0x3E9F2546, 0x3DB679C3),
   (0xBDCD765D, 0x3E9BF806, 0x3EC1CC2F, 0x3D05A5B8), (0x00000000, 0x3F000000, 0x3ECE53B9, 0xBD05A5B8)] ++
  [(0x3E1944D1, 0x3F3203FD, 0x3EC15C1B, 0xBDB679C3), (0x3EB103AF, 0x3F5E1429, 0x3E9E708A, 0xBDFB2C4F),
   (0x3F147CD0, 0x3F7FCD42, 0x3E5D401A, 0xBE02C248), (0x3F57625F, 0x3F8AAA15, 0x3DF4514A, 0xBDDDBFBC),
   (0x3F8F1896, 0x3F8FB360, 0x3D1A69BD, 0xBD995F44), (0x3FB32C4B, 0x3F9050E9, 0xBC95FC65, 0xBD216833),
   (0x3FD706D9, 0x3F8E32D4, 0xBD42116E, 0xBC2F25A1), (0x3FFA2D0C, 0x3F8AE8E0, 0xBD60A3DB, 0x3BF12454),
   (0x400E3D5B, 0x3F879388, 0xBD483570, 0x3C79FCEF), (0x401F01A7, 0x3F84D071, 0xBD183D30, 0x3C8315EE),
   (0x402F79BE, 0x3F82D1CC, 0xBCCD496E, 0x3C55E4F8), (0x403FBDA6, 0x3F81876F, 0xBC7A1B47, 0x3C14EE56),
   (0x404FE146, 0x3F80C52D, 0xBC0B217B, 0x3BB78E3F), (0x405FF2A9, 0x3F805C77, 0xBB8E4DD6, 0x3B4BEDA8),
   (0x406FFA91, 0x3F80286E, 0xBB06685C, 0x3ACE6ACA), (0x407FFDED, 0x3F801081, 0xBA6B34D0, 0x3A3FA925)] ++
  [(0x4087FFA1, 0x3F80064C, 0xB9BF17B5, 0x39A401E1), (0x408FFFE0, 0x3F80023F, 0xB91069C9, 0x3901C64C),
   (0x4097FFF6, 0x3F8000C0, 0xB84B5057, 0x383E61F3), (0x409FFFFD, 0x3F80003C, 0xB78574EC, 0x3781B405),
   (0x40A7FFFF, 0x3F800012, 0xB6A38573, 0x36A4641D), (0x40B00000, 0x3F800005, 0xB5BB22C3, 0x35C20C57),
   (0x40B80000, 0x3F800001, 0xB4C82633, 0x34D58A2B), (0x40C00000, 0x3F800000, 0xB3C82A74, 0x33DB40CA),
   (0x40C80000, 0x3F800000, 0xB2BB43D2, 0x32D230DE), (0x40D00000, 0x3F800000, 0xB1A3F3DD, 0x31BC40AA),
   (0x40D80000, 0x3F800000, 0xB0866000, 0x309D98DC), (0x40E00000, 0x3F800000, 0xAF4E4237, 0x2F76C007),
   (0x40E80000, 0x3F800000, 0xAE1444C6, 0x2E34B50A), (0x40F00000, 0x3F800000, 0xACC7B449, 0x2CF7B0BF)]

/-- Coefficients C0 to C3 of segments 1 to 62 of the SiLU preset (04:R123). -/
def siluCoef : List (BitVec 32 × BitVec 32 × BitVec 32 × BitVec 32) :=
  [(0xB640FED5, 0xB6348B49, 0xB5A47F62, 0xB503403A), (0xB699F734, 0xB68FB382, 0xB6029AB7, 0xB54F8DE9),
   (0xB6F56283, 0xB6E4762C, 0xB64F15BA, 0xB5A3CF87), (0xB7434F66, 0xB7355BF9, 0xB6A3EA5A, 0xB60107B8),
   (0xB79B4176, 0xB78FC14C, 0xB70185A3, 0xB64AD3CA), (0xB7F67E20, 0xB7E387F9, 0xB74C4E96, 0xB69F08F2),
   (0xB843621B, 0xB833C079, 0xB7A0CE68, 0xB6F8BC77), (0xB89A9F8B, 0xB88DBCAC, 0xB7FC9110, 0xB741F1A0),
   (0xB8F44EB9, 0xB8DF0F97, 0xB845DA42, 0xB796B91F), (0xB940A3CB, 0xB92F1FB7, 0xB89A90C6, 0xB7E965C6),
   (0xB99795AB, 0xB98924D2, 0xB8F0C208, 0xB833F211), (0xB9EE03FD, 0xB9D63406, 0xB93ADCA8, 0xB88A0F58),
   (0xBA3A6508, 0xBA26C29D, 0xB9907732, 0xB8D2A5E3), (0xBA918FEA, 0xBA815EE2, 0xB9DE6189, 0xB91FA014),
   (0xBAE2A3F4, 0xBAC7EE46, 0xBA2A46F6, 0xB96FFA08), (0xBB2FD1EF, 0xBB19C899, 0xBA8197F9, 0xB9B29AFE)] ++
  [(0xBB87D9D3, 0xBB6B531D, 0xBAC3D765, 0xBA034602), (0xBBD0F929, 0xBBB2EDF8, 0xBB12AF14, 0xBA3DD737),
   (0xBC1FDEB2, 0xBC0708D8, 0xBB59576F, 0xBA86411D), (0xBC731199, 0xBC49F4CE, 0xBB9EC6D2, 0xBAB7F455),
   (0xBCB76256, 0xBC954B8F, 0xBBE3B511, 0xBAF0190C), (0xBD0911D0, 0xBCD97A00, 0xBC1F1ECE, 0xBB105471),
   (0xBD4A82E6, 0xBD1B48A9, 0xBC5621CD, 0xBB132525), (0xBD9357D1, 0xBD57B6DA, 0xBC87BEC0, 0xBAB5744C),
   (0xBDD21C2E, 0xBD8FEB7A, 0xBC9AF5FA, 0x3ABDAE77), (0xBE11B139, 0xBDB46FED, 0xBC8CDD33, 0x3C00D9C3),
   (0xBE42326B, 0xBDCB92CF, 0xBBC30731, 0x3C9F20E4), (0xBE7420A9, 0xBDB9ED18, 0x3CBBE449, 0x3D11054F),
   (0xBE8C1A51, 0xBD29240F, 0x3D9D7345, 0x3D48AB51), (0xBE89B2B1, 0x3D94217C, 0x3E1C523D, 0x3D3F6E0D),
   (0xBE414D03, 0x3E8523CF, 0x3E667DAB, 0x3CA27251), (0x00000000, 0x3F000000, 0x3E82798D, 0xBCA27251)] ++
  [(0x3E9F597F, 0x3F3D6E19, 0x3E641B82, 0xBD3F6E0D), (0x3F3B26A8, 0x3F6D7BD1, 0x3E19F9E1, 0xBD48AB51),
   (0x3F9CF96C, 0x3F854920, 0x3D9BBD0E, 0xBD11054F), (0x3FE17BEB, 0x3F8B9ED1, 0x3CBDEF8A, 0xBC9F20E4),
   (0x4013DCD9, 0x3F8CB92D, 0xBBB0E781, 0xBC00D9C3), (0x4036E4EC, 0x3F8B46FF, 0xBC892D9F, 0xBABDAE77),
   (0x40596F1F, 0x3F88FEB8, 0xBC98C1A7, 0x3AB5744C), (0x407B6541, 0x3F86BDB7, 0xBC86A7DD, 0x3B132525),
   (0x408E6AFA, 0x3F84DA45, 0xBC553E79, 0x3B105471), (0x409EEDDC, 0x3F8365E8, 0xBC1EDF3B, 0x3AF0190C),
   (0x40AF489E, 0x3F82552E, 0xBBE3C271, 0x3AB7F455), (0x40BF8677, 0x3F8193EA, 0xBB9F0422, 0x3A86411D),
   (0x40CFB011, 0x3F810E12, 0xBB59DFC9, 0x3A3DD737), (0x40DFCBC2, 0x3F80B2EE, 0xBB1325F4, 0x3A034602),
   (0x40EFDE0A, 0x3F8075AA, 0xBAC49218, 0x39B29AFE), (0x40FFEA06, 0x3F804CE4, 0xBA82225D, 0x396FFA08)] ++
  [(0x4107F8EB, 0x3F8031FC, 0xBA2B0CCC, 0x391FA014), (0x410FFB74, 0x3F802058, 0xB9DF7567, 0x38D2A5E3),
   (0x4117FD16, 0x3F8014D8, 0xB9913415, 0x388A0F58), (0x411FFE24, 0x3F800D63, 0xB93BDBCA, 0x3833F211),
   (0x4127FED1, 0x3F800892, 0xB8F216F1, 0x37E965C6), (0x412FFF3F, 0x3F800579, 0xB89B728C, 0x3796B91F),
   (0x4137FF86, 0x3F80037C, 0xB8470324, 0x3741F1A0), (0x413FFFB3, 0x3F800237, 0xB7FE1515, 0x36F8BC77),
   (0x4147FFCF, 0x3F800168, 0xB7A1CAA6, 0x369F08F2), (0x414FFFE1, 0x3F8000E4, 0xB74D950E, 0x364AD3CA),
   (0x4157FFED, 0x3F800090, 0xB7025812, 0x360107B8), (0x415FFFF4, 0x3F80005B, 0xB6A4F8B0, 0x35A3CF87),
   (0x4167FFF8, 0x3F800039, 0xB6506FEE, 0x354F8DE9), (0x416FFFFB, 0x3F800024, 0xB60377C7, 0x3503403A)]

/-- A preset whose Hermite segments start at b1 = `first` and are `width` wide, in units of 1/4. -/
def hermite (first width : Int) (coef : List (BitVec 32 × BitVec 32 × BitVec 32 × BitVec 32)) : List ActSeg :=
  let bp (i : Nat) : BitVec 32 :=
    let v := first + width * (i : Int)
    BitVec.ofNat 32 (rne32 (.real ⟨v < 0, v.natAbs, 1, -2⟩)).1
  let seg (x : (BitVec 32 × BitVec 32 × BitVec 32 × BitVec 32) × Nat) : ActSeg :=
    ⟨false, bp (x.2 + 1), x.1.1, x.1.2.1, x.1.2.2.1, x.1.2.2.2⟩
  ⟨true, 0, 0, 0, 0, 0⟩ :: (coef.zipIdx.map seg ++ [⟨true, bp 63, 0, 0x3F800000, 0, 0⟩])

/-- The segments of a preset (04:R123). -/
def preset (code : Nat) : List ActSeg :=
  match code with
  | 1 => ⟨true, 0, 0, 0, 0, 0⟩ :: List.replicate 63 ⟨true, 0, 0, 0x3F800000, 0, 0⟩
  | 2 => ⟨true, 0, 0, 0x3C23D70A, 0, 0⟩ :: List.replicate 63 ⟨true, 0, 0, 0x3F800000, 0, 0⟩
  | 3 => hermite (-32) 1 geluCoef
  | _ => hermite (-64) 2 siluCoef

/-- The segments of an activation code: a preset, or a programmable table's values (04:R123). -/
def actSegs (code : Nat) (tab : ActTable) : List ActSeg := if 8 ≤ code then tab.toList else preset code

/-- act(x) of 04:R121 on an FP32 code. -/
def actEval (segs : List ActSeg) (x : Nat) : Nat :=
  let v := decode32 x
  if valIsNan v then 0x7FC00000 else
  let i := ((segs.drop 1).filter fun g => le32 g.b.toNat x).length
  let g := segs.getD i .reset
  if g.linear then
    if valIsZero (decode32 g.c1.toNat) then (rne32 (valX (decode32 g.c0.toNat))).1
    else fma32 g.c1.toNat x g.c0.toNat
  else if !valIsFinite v then 0x7FC00000
  else
    let b := (segs.getD (max i 1) .reset).b.toNat
    let t := (rne32 (xAdd false (valX v) (xNeg (valX (decode32 b))))).1
    let y := fma32 g.c3.toNat t g.c2.toNat
    let y := fma32 y t g.c1.toNat
    fma32 y t g.c0.toNat

/-! Statistics (04:R124, R125). -/

/-- A record while it is gathered: FP64 codes and counts. -/
structure Stat where
  sum   : Nat
  sumsq : Nat
  mean  : Nat
  m2    : Nat
  max   : Nat
  count : Nat
  nf    : Nat
  deriving DecidableEq, Repr

def Stat.empty : Stat := ⟨0, 0, 0, 0, 0xFFF0000000000000, 0, 0⟩

def rne64 (x : XVal) : Nat := (convIeee flt64 false rne x).1
def x64 (c : Nat) : XVal := valX (decode64 c)
def xNat (n : Nat) : XVal := .real ⟨false, n, 1, 0⟩

/-- One run of elements is folded in. -/
def Stat.run (r : Stat) (xs : List XVal) : Stat :=
  let cnt := xs.filter fun x => match x with | .real _ => true | _ => false
  let n := cnt.length
  let sg := xSum false cnt
  let sq := xSum false (cnt.map fun x => xMul x x)
  let r := { r with
    sum := rne64 (xAdd false (x64 r.sum) (x64 (rne64 sg))),
    sumsq := rne64 (xAdd false (x64 r.sumsq) (x64 (rne64 sq))),
    nf := r.nf + (xs.length - n) }
  if n == 0 then r else
  let mu := (xDiv sg (xNat n)).1
  let m2r := xAdd false sq (xNeg (xMul sg mu))
  let cnt' := r.count + n
  let dlt := x64 (rne64 (xAdd false (x64 (rne64 mu)) (xNeg (x64 r.mean))))
  let top := cnt.foldl (fun m x => if xCmp m x == .lt then x else m) (x64 r.max)
  { r with
    count := cnt',
    mean := rne64 (xAdd false (x64 r.mean) (xDiv (xMul dlt (xNat n)) (xNat cnt')).1),
    m2 := rne64 (xAdd false (xAdd false (x64 r.m2) (x64 (rne64 m2r)))
      (xDiv (xMul (xMul dlt dlt) (xNat (r.count * n))) (xNat cnt')).1),
    max := if top.isZero then 0 else rne64 top }

/-- The record of a line, in runs of 8 (04:R124). -/
def statLine (xs : List XVal) : Stat := (runsOf8 xs).foldl Stat.run .empty

/-- The 48 bytes of a record (04:R125). -/
def Stat.bytes (r : Stat) : List Byte :=
  natLe r.sum 8 ++ natLe r.sumsq 8 ++ natLe r.mean 8 ++ natLe r.m2 8 ++ natLe r.max 8 ++ natLe r.count 4 ++ natLe r.nf 4

end Sys2Proof.Machine
end

