-- ==== Sys2Proof/Machine/Engine.lean ====
section
/-! DEFINITION. What the engines share: translating and reading the parts of a descriptor, and performing its writes
(06:R184; 08:R233, R235; 12:R350, R352). -/

namespace Sys2Proof.Machine

/-- The outcome of a part of a descriptor's work: done, the event it ends with, or translation is held. -/
inductive EngRes (α : Type) where
  | ok (a : α)
  | fail (e : Ended)
  | wait
  deriving DecidableEq, Repr

def engWaiter (q : Nat) (idx : BitVec 32) (part va : Nat) : Waiter :=
  .engine (qFin q) idx (BitVec.ofNat 8 part) (BitVec.ofNat 48 va)

/-- Parts are translated in order, with the pages known already (12:R350). -/
def xlatReqs (ctx : BitVec 16) (reqs : List PartReq) (m : PageMap) (s : State) : EngRes PageMap × State :=
  match xlatParts ctx reqs m s with
  | (.ok m, s) => (.ok m, s)
  | (.error none, s) => (.wait, s)
  | (.error (some (ev, part, va)), s) => (.fail (endWith dqXlat part va ev), s)

/-- Translated pieces of parts are read in order; the event of the first that is uncorrectable at once. -/
def readReqs (q : Nat) (idx : BitVec 32) (m : PageMap) : List (Nat × List (Nat × Nat)) → State → Option Ended × State
  | [], s => (none, s)
  | (part, ps) :: rest, s =>
    match readPieces (engWaiter q idx) m part ps s with
    | (some (part, va, ev), s) => (some (endWith dqMemerr part va ev), s)
    | (none, s) => readReqs q idx m rest s

/-- A part is translated and read. -/
def loadPart (q : Nat) (idx : BitVec 32) (ctx : BitVec 16) (part : Nat) (ps : List (Nat × Nat)) (m : PageMap) (s : State) :
    EngRes PageMap × State :=
  match xlatReqs ctx [⟨part, .engRead, ps⟩] m s with
  | (.ok m, s) => match readReqs q idx m [(part, ps)] s with
    | (some e, s) => (.fail e, s)
    | (none, s) => (.ok m, s)
  | r => r

/-- The attribute of the page that holds a virtual address. -/
def attrOf (m : PageMap) (va : Nat) : BitVec 3 :=
  match m.find? (·.1 == va / 4096) with
  | some (_, _, a) => a
  | none => attrWB

/-- Cells at virtual addresses as writes, one for each page. -/
def engWrites (part : Nat) (m : PageMap) (cs : List Host.Cell) : List EngWrite :=
  (cs.splitBy fun a b => a.1 / 4096 == b.1 / 4096).map fun g =>
    let va := (g.headD (0, 0)).1
    ⟨BitVec.ofNat 8 part, BitVec.ofNat 48 va, attrOf m va != attrWB, physCells m g⟩

/-- A write whose page is translated again: its bytes at the page's present place (12:R347, R350). -/
def EngWrite.moveTo (w : EngWrite) (pa : Nat) (attr : BitVec 3) : EngWrite :=
  let first := (w.cells.headD (0, 0)).1
  { w with through := attr != attrWB, cells := w.cells.map fun c => (pa + (c.1 - first), c.2) }

/-- Writes translated again before they are performed; a translation held by parity keeps the one made before. -/
def retranslate (ctx : BitVec 16) : List EngWrite → State → EngRes (List EngWrite) × State
  | [], s => (.ok [], s)
  | w :: ws, s =>
    match xlatEngine ctx w.va.toNat .engWrite s with
    | (.fault ev, s) => (.fail (endWith dqXlat w.part.toNat w.va.toNat ev), s)
    | (r, s) =>
      let w := match r with | .ok pa attr => w.moveTo pa attr | _ => w
      match retranslate ctx ws s with
      | (.ok ws, s) => (.ok (w :: ws), s)
      | r => r

/-- Writes are performed in order; the event of the first that cannot be (08:R235, R236), after which each byte that is
left lands or not (01:R30). -/
def performWrites (q : Nat) (idx : BitVec 32) : List EngWrite → State → Option Ended × State
  | [], s => (none, s)
  | w :: ws, s =>
    match writeAccess false w.through (.engine (qFin q) idx w.part w.va) w.cells s with
    | (some a, s) =>
      let first := (w.cells.headD (0, 0)).1
      (some (endWith dqMemerr w.part.toNat (w.va.toNat + (a - first)) smUe), landPending (ws.flatMap (·.cells)) s)
    | (none, s) => performWrites q idx ws s

/-- A descriptor of an engine other than OPA has finished (07:R219, R222): its writes are performed once its reads are
answered, and it has finished when they are acknowledged. -/
def finishFlight (q : Nat) (idx : BitVec 32) (done : State → State) (s : State) : State :=
  match getFlight s q idx with
  | none => s
  | some f =>
    if f.ended.isSome || !(running s) then s
    else if !f.posted then
      if readsOut s q idx then s
      else
        match retranslate (getQ s q).ctx f.writes s with
        | (.fail e, s) => failFlight q idx e s
        | (.wait, s) => s
        | (.ok ws, s) => match performWrites q idx ws (done (modFlight q idx (fun f => { f with posted := true }) s)) with
          | (some e, s) => failFlight q idx e s
          | (none, s) => if (portReqs s q idx).isEmpty then endFlight q idx (f.verdict.getD endOk) s else s
    else if (portReqs s q idx).isEmpty then endFlight q idx (f.verdict.getD endOk) s else s

/-- The oldest descriptor of a class in flight on a queue whose engine has not finished. -/
def oldestOf (s : State) (q cls : Nat) : Option InFlight :=
  (getQ s q).inflight.find? fun f => dClass f.desc == cls && f.ended.isNone

/-- A descriptor starts and ends at once with an event (06:R169, R229). -/
def startFailed (q : Nat) (f : Fetched) (e : Ended) (s : State) : State :=
  beginFlight q f { newFlight s q f with
    ended := some e, exc := if dClass f.desc == 2 then veRaise f.desc &&& ~~~(veLower f.desc) else 0 } s

end Sys2Proof.Machine
end

