-- ==== Sys2Proof/Machine/OpaStart.lean ====
section
/-! DEFINITION. The start of an OPA descriptor: the conditions checked then, its lists and vectors (03:R70, 04:R99, R100,
R115, R118, 05:R130, R141, R142, 07:R196, R197). -/

namespace Sys2Proof.Machine

def getGroup (i : OpaInst) (g : Nat) : Group := vget i.groups g .reset
def Group.set (g : Group) (y : Bool) : AccSet := if y then g.y else g.x
def Group.mod (g : Group) (y : Bool) (f : AccSet → AccSet) : Group := if y then { g with y := f g.y } else { g with x := f g.x }
/-- The set that holds a group's open tile. -/
def Group.open_ (g : Group) : AccSet := g.set g.inY

/-- A change of a group of an instance. -/
def modGroup (n g : Nat) (f : Group → Group) (s : State) : State :=
  modInst n (fun i => { i with groups := vmod i.groups g f }) s

/-- A change of the job of a descriptor. -/
def modJob (n q : Nat) (idx : BitVec 32) (f : OpaJob → OpaJob) (s : State) : State :=
  modInst n (fun i => { i with jobs := i.jobs.map fun j => if j.isOf q idx then f j else j }) s

/-- The rows and columns of a descriptor's tile (07:R197). -/
def tileRows (d : Desc) : Nat := if dOpcode d == 1 then (dA d).rows else (dC d).rows
def tileCols (d : Desc) : Nat := if dOpcode d == 1 then (dB d).cols else (dC d).cols

/-- The tile folds into one pass (04:R100). -/
def onePass (s : State) (n : Nat) (d : Desc) : Bool := tileRows d ≤ passHeight s && tileCols d ≤ passWidth s n

/-- The conditions on groups and formats when a descriptor starts (04:R99, R100). -/
def opaStateOk (s : State) (n : Nat) (d : Desc) : Bool :=
  let i := getInst s n
  let g := getGroup i (opaGroupNo d)
  let sameTile (t : OpenTile) : Bool := t.m == tileRows d && t.n == tileCols d
  (if dOpcode d != 1 then (match g.tile with | some t => sameTile t | none => false)
   else if opaCont d then
     match g.tile with
     | some t => sameTile t && i.fmt.toNat == opaAccFmt d && t.nextK == opaKBase d
     | none => false
   else g.tile.isNone && (i.fmt.toNat == opaAccFmt d || i.groups.toList.all (·.tile.isNone))) &&
  (opaDrains d || onePass s n d)

/-- The active table that a profile names; another for a preset (04:R119, R123). -/
def profTable (s : State) (p : BitVec 17) : ActTable :=
  if 8 ≤ prAct p then vget s.opa.act (prAct p - 8) (.replicate 64 .reset) else .replicate 64 .reset

def tableOk (t : ActTable) : Bool := breaksOk ((t.toList.drop 1).map (·.b.toNat))

/-- The profile checks of a descriptor that drains (04:R118), with the width of SR, whose use the profile alone says
(02:R54, R62; DEDUCED, log 63). -/
def profileOk (d : Desc) (p : BitVec 17) (t : ActTable) (w : BitVec 5) : Bool :=
  let c := dC d
  !(5 ≤ prAct p && prAct p ≤ 7) && prBias p != 3 && prScale p != 3 && prStats p != 3 && (prRnd p == 0 || (prRnd p == 4 && 4 ≤ w.toNat && w.toNat ≤ 16)) &&
    !((c.fmt == 0x20 || c.fmt == 0x21) && (prScale p != 0 || prBias p != 0 || prAct p != 0 || prRnd p != 0)) &&
    !(8 ≤ prAct p && !tableOk t) && !(c.layout == 4 && c.scaled && prSblk p)

/-- Operands A and B of a descriptor, with its reduction length (07:R197). -/
def opaA (d : Desc) : Operand := { dA d with cols := opaK d }
def opaB (d : Desc) : Operand := { dB d with rows := opaK d }
def roleA : Role := ⟨false, false⟩
def roleB : Role := ⟨true, false⟩

/-- The record of an OPA detection (14:R397). -/
def opaRecord (ev : BitVec 16) (cls : Byte) (source : BitVec 16) (attempt n : Nat) (who : Option (Nat × BitVec 32))
    (row col : BitVec 8) (pass : Nat) (s : State) : State :=
  let info0 : Word := match who with
    | some (q, idx) => idx.setWidth 64 ||| w64 (q * 2 ^ 32)
    | none => 0xFFFFFFFFFFFFFFFF
  detect ev cls source (BitVec.ofNat 16 (attempt + n * 256)) info0
    (w64 (row.toNat + col.toNat * 256 + pass % 65536 * 65536)) s

/-- The column group of a logical cube column (03:R69). -/
def cubeGroup (col : BitVec 8) : Nat := col.toNat / 7

/-- The source of an OPA detection (14:R394). -/
def cubeSource (col : BitVec 8) (outside : Bool) : BitVec 16 := if outside then 0x01FF else unitOf 1 (cubeGroup col)

/-- A detection is counted for its column group, which is retired when the previous attempt missed in it too, or at
the limit (14:R404). -/
def opaCount (col : BitVec 8) (outside repeated : Bool) (s : State) : State :=
  if outside then s
  else
    let g := cubeGroup col
    if repeated && s.svc.auto == 1 && !s.svc.retCG.getLsbD g then
      let (_, s) := countCg g s
      retireUnit (unitOf 1 g) 0x0002 (vget s.svc.cgCount g 0).toNat s
    else cgDetection g s

/-- A parity error found in a held set ends the descriptor that needs it (14:R402): its record, of class QUEUE. -/
def heldBad (n q : Nat) (idx : BitVec 32) (b : BitVec 8 × BitVec 8 × Bool) (s : State) : State :=
  opaCount b.2.1 b.2.2 false
    (opaRecord opaAccParity clsQueue (cubeSource b.2.1 b.2.2) 1 n (some (q, idx)) b.1 b.2.1 0 s)

/-- The open tile of a group and its set are lost (04:R103). -/
def dropTile (n g : Nat) (s : State) : State :=
  modGroup n g (fun x => { x.mod x.inY (fun _ => AccSet.reset) with tile := none }) s

/-- Parts that have to lie in stage memory (01:R34): translated, and in stage memory; in any other region: DQ_OPERAND. -/
def stageReqs (ctx : BitVec 16) : List (Nat × List (Nat × Nat)) → PageMap → State → EngRes PageMap × State
  | [], m, s => (.ok m, s)
  | (part, ps) :: rest, m, s =>
    match xlatReqs ctx [⟨part, .stageRead, ps⟩] m s with
    | (.ok m, s) =>
      if (piecePages ps).all fun va => region s (mapVa m va) == .stage then stageReqs ctx rest m s
      else (.fail (endWith dqOperand part), s)
    | r => r

/-- An index list is translated and read. -/
def loadList (q : Nat) (idx : BitVec 32) (ctx : BitVec 16) (part : Nat) (o : Operand) (n : Nat) (s : State) :
    EngRes (List (BitVec 32)) × State :=
  if o.layout != 4 then (.ok [], s)
  else match loadPart q idx ctx part [(o.listBase, 4 * n)] [] s with
    | (.ok m, s) => (.ok (readList (vaReader s m) o.listBase n), s)
    | (.fail e, s) => (.fail e, s)
    | (.wait, s) => (.wait, s)

/-- What an OPA descriptor has read when its steps begin. -/
structure OpaData where
  listA : List (BitVec 32)
  listB : List (BitVec 32)
  listC : List (BitVec 32)
  scale : List (BitVec 32)
  bias  : List (BitVec 32)
  deriving DecidableEq, Repr

/-- The destination and the vectors of a descriptor that drains. -/
def opaPrepareC (q : Nat) (idx : BitVec 32) (ctx : BitVec 16) (d : Desc) (p : BitVec 17) (x : OpaData) (s : State) :
    EngRes OpaData × State :=
  if !opaDrains d then (.ok x, s)
  else match loadList q idx ctx 6 (dC d) (dC d).rows s with
    | (.fail e, s) => (.fail e, s)
    | (.wait, s) => (.wait, s)
    | (.ok listC, s) =>
      let c := dC d
      match xlatReqs ctx [⟨3, .engWrite, c.runPieces listC (drainRole p)⟩, ⟨9, .engWrite, c.scalePieces listC (drainRole p)⟩,
          ⟨0xB, .engWrite, [statPiece d p, maskPiece d p]⟩] [] s with
      | (.fail e, s) => (.fail e, s)
      | (.wait, s) => (.wait, s)
      | (.ok _, s) => match loadPart q idx ctx 0xA [scaleVec d p, biasVec d p] [] s with
        | (.fail e, s) => (.fail e, s)
        | (.wait, s) => (.wait, s)
        | (.ok m, s) =>
          (.ok { x with
            listC := listC,
            scale := readList (vaReader s m) (scaleVec d p).1 ((scaleVec d p).2 / 4),
            bias := readList (vaReader s m) (biasVec d p).1 ((biasVec d p).2 / 4) }, s)

/-- Every page is translated and checked, and the lists and vectors are read (04:R115, 05:R142, 12:R350). -/
def opaPrepare (q : Nat) (idx : BitVec 32) (ctx : BitVec 16) (d : Desc) (p : BitVec 17) (s : State) : EngRes OpaData × State :=
  let x : OpaData := ⟨[], [], [], [], []⟩
  if dOpcode d != 1 then opaPrepareC q idx ctx d p x s
  else
    let a := opaA d
    let b := opaB d
    match loadList q idx ctx 4 a a.rows s with
    | (.fail e, s) => (.fail e, s)
    | (.wait, s) => (.wait, s)
    | (.ok listA, s) => match loadList q idx ctx 5 b b.rows s with
      | (.fail e, s) => (.fail e, s)
      | (.wait, s) => (.wait, s)
      | (.ok listB, s) =>
        match stageReqs ctx [(1, a.runPieces listA roleA), (7, a.scalePieces listA roleA), (2, b.runPieces listB roleB),
            (8, b.scalePieces listB roleB)] [] s with
        | (.fail e, s) => (.fail e, s)
        | (.wait, s) => (.wait, s)
        | (.ok _, s) => opaPrepareC q idx ctx d p { x with listA := listA, listB := listB } s

/-- The job of a descriptor that starts. -/
def newJob (s : State) (q : Nat) (f : Fetched) (x : OpaData) : OpaJob :=
  let d := f.desc
  let e := getQ s q
  let p := if opaDrains d then profileOf s d else 0
  { q := qFin q, idx := f.idx, desc := d, ctx := e.ctx, seed := e.seed, w := e.w, fast := e.fast, m := tileRows d,
    n := tileCols d, k := opaK d, only := dOpcode d != 1, prof := p, tab := profTable s p, r0 := 0, c0 := 0, s := 0,
    begun := false, issued := 0, groups := [], passNo := 0, feed := [], done := dOpcode d != 1, attempt := 1, lastMiss := none,
    restart := false, replayed := false, setY := false, drained := 0, passes := [], fail := none, scale := x.scale, bias := x.bias,
    listA := x.listA, listB := x.listB, listC := x.listC, zbuf := [], outv := [], exc := 0 }

/-- The descriptor whose steps an instance issues: the oldest that has not issued its last (03:R87). -/
def issuing (i : OpaInst) : Option OpaJob := i.jobs.find? fun j => !j.done && j.fail.isNone

/-- A gap begins: λ becomes FILL, of which 16 is the most (03:R82, R92); in a gap it has begun already. -/
def OpaInst.gap (fill : Nat) (i : OpaInst) : OpaInst :=
  match i.activity with
  | .full | .ramp => { i with activity := .shortGap, lambda := min 16 fill }
  | _ => i

/-- A descriptor joins its instance; one that had no work has been in a gap (03:R92). -/
def OpaInst.join (fill : Nat) (j : OpaJob) (i : OpaInst) : OpaInst :=
  let i := if (issuing i).isNone then i.gap fill else i
  { i with jobs := i.jobs ++ [j] }

/-- An OPA descriptor of an opcode starts. -/
def startOpa (q op : Nat) (s : State) : State :=
  match startHead s q 1 op with
  | none => s
  | some f =>
    let d := f.desc
    let n := dInstance d
    let p := profileOf s d
    let held := (getGroup (getInst s n) (opaGroupNo d)).open_
    if !opaPresent s n then startFailed q f (endWith dqEngineAbsent) s
    else if !opaStateOk s n d then startFailed q f (endWith dqState) s
    else if opaDrains d && !profileOk d p (profTable s p) (getQ s q).w then startFailed q f (endWith dqOperand) s
    else match if op == 2 then held.bad else none with
      | some b => startFailed q f (endWith opaAccParity) (dropTile n (opaGroupNo d) (heldBad n q f.idx b s))
      | none => match opaPrepare q f.idx (getQ s q).ctx d p s with
        | (.wait, _) => s
        | (.fail e, s) => startFailed q f e s
        | (.ok x, s) =>
          modInst n (OpaInst.join s.opa.fill.toNat (newJob s q f x)) (beginFlight q f (newFlight s q f) s)

end Sys2Proof.Machine
end

