-- ==== Sys2Proof/Machine/OpaDrain.lean ====
section
/-! DEFINITION. The drain path, statistics, masks, and the end of an OPA descriptor (04:R103, R110 to R114, R124 to R127,
05:R139, R140). -/

namespace Sys2Proof.Machine

/-! One output (04:R110, R111). -/

/-- The sum and error registers of an output (04:R97). -/
def AccSet.reg (a : AccSet) (row col : Nat) : BitVec 32 × BitVec 32 :=
  match a.regs.find? fun r => r.row == row && r.col == col with
  | some r => (r.hi, r.lo)
  | none => (0, 0)

/-- The exact value of a set, by accumulator format (04:R107, R110). -/
def setValue (fmt : BitVec 2) (r : BitVec 32 × BitVec 32) : XVal :=
  match fmt.toNat with
  | 1 => if r.1 == 0x80000000 then .nan false false 0 else valX (intVal 32 r.1.toNat)
  | 2 => xAdd false (valX (decode32 r.1.toNat)) (valX (decode32 r.2.toNat))
  | _ => valX (decode32 r.1.toNat)

/-- A value of steps 1 to 3: every NaN is 0x7FC00000 (04:R110). -/
def quietZ (c : Nat) : XVal :=
  match valX (decode32 c) with
  | .nan _ _ _ => .nan false false 0
  | x => x

/-- The value before step 4: scale and bias with one rounding, then the activation (04:R110). -/
def drainZ (j : OpaJob) (a : XVal) (row col : Nat) : XVal :=
  let p := j.prof
  let vec (c : Nat) (l : List (BitVec 32)) (d : BitVec 32) : XVal :=
    if c == 0 then valX (decode32 d.toNat) else valX (decode32 (l.getD (if c == 1 then row else col) 0).toNat)
  let z := if prScale p == 0 && prBias p == 0 then a
    else quietZ (rne32 (xFma false a (vec (prScale p) j.scale 0x3F800000) (vec (prBias p) j.bias 0))).1
  if prAct p == 0 then z else quietZ (actEval (actSegs (prAct p) j.tab) (rne32 z).1)

def xToVal : XVal → Val
  | .nan n s p => .nan n s p
  | .inf n => .inf n
  | .real x => .fin x.neg x.num x.exp

/-- How an element is rounded: its logical lane is its column (04:R112). -/
def drainRnd (j : OpaJob) (row col : Nat) : Rnd :=
  { mode := prRnd j.prof, w := j.w.toNat, fast := j.fast,
    r := if prRnd j.prof == 4 then srBits j.seed col (row + 1) j.w.toNat else 0 }

/-! Blocks and rectangles. -/

def Rect.rows (r : Rect) : List Nat := (List.range (r.ib - r.ia)).map (· + r.ia)
def Rect.cols (r : Rect) : List Nat := (List.range (r.jb - r.ja)).map (· + r.ja)
def Rect.has (r : Rect) (i j : Nat) : Bool := r.ia ≤ i && i < r.ib && r.ja ≤ j && j < r.jb

/-- The virtual cells of a rectangle, whose sides are multiples of 8 (06:R162; 05:R141). -/
def rectCells (o : Operand) (list : List (BitVec 32)) (r : Rect) (code : Nat → Nat → Nat) : List Host.Cell :=
  let at_ (run p : Nat) := run + p * o.bits / 8
  match o.layout with
  | 1 => r.cols.flatMap fun j => packRun o.bits (at_ (o.addr + j * o.stride) r.ia) (r.rows.map fun i => code i j)
  | 2 => ((List.range (r.ib / 8 - r.ia / 8)).map (· + r.ia / 8)).flatMap fun x =>
      packRun o.bits (at_ (o.addr + x * o.stride) (8 * r.ja))
        (r.cols.flatMap fun j => (List.range 8).map fun u => code (8 * x + u) j)
  | _ => r.rows.flatMap fun i =>
      if o.isNull list i then []
      else packRun o.bits (at_ (o.place list i 0).1 r.ja) (r.cols.map fun j => code i j)

/-- The rectangle whose blocks are complete once cube row `a` of a pass has drained: of an unscaled destination its own
outputs; else whole scale blocks (04:R113). -/
def readyRect (j : OpaJob) (t : AccSet) (a : Nat) : Rect :=
  let c := dC j.desc
  let i0 := t.r0 + 8 * a
  let j1 := t.c0 + t.cols
  if !c.scaled then ⟨i0, i0 + 8, t.c0, j1⟩
  else if prSblk j.prof then
    if (i0 + 8) % c.bs == 0 || i0 + 8 == j.m then ⟨i0 / c.bs * c.bs, i0 + 8, t.c0, j1⟩ else ⟨i0, i0, t.c0, t.c0⟩
  else ⟨i0, i0 + 8, t.c0 / c.bs * c.bs, if j1 == j.n then j1 else j1 / c.bs * c.bs⟩

/-- The drained value of an element. -/
def zAt (j : OpaJob) (i k : Nat) : XVal :=
  match j.zbuf.find? fun z => z.row == i && z.col == k with
  | some z => valX z.v
  | none => .real ⟨false, 0, 1, 0⟩

/-- The elements of the block of an element. -/
def blockOf (j : OpaJob) (i k : Nat) : List (Nat × Nat) :=
  let c := dC j.desc
  if prSblk j.prof then
    (List.range (min c.bs (j.m - i / c.bs * c.bs))).map fun x => (i / c.bs * c.bs + x, k)
  else (List.range (min c.bs (j.n - k / c.bs * c.bs))).map fun x => (i, k / c.bs * c.bs + x)

/-- The scale exponent of the block of an element (02:R58). -/
def blockSe (j : OpaJob) (i k : Nat) : Nat :=
  chooseSe (dC j.desc).fmt ((blockOf j i k).map fun x => zAt j x.1 x.2)

/-- Step 4 on an element: its code and flags. -/
def drainCode (j : OpaJob) (i k : Nat) : Nat × Exc :=
  let c := dC j.desc
  if c.scaled then convertScaled c.fmt (blockSe j i k) (drainRnd j i k) (zAt j i k)
  else convert c.fmt (drainRnd j i k) (zAt j i k)

/-- The scale byte of the block of an element. -/
def drainScale (j : OpaJob) (i k : Nat) : Nat :=
  scaleByte (blockSe j i k) ((blockOf j i k).map fun x => (drainCode j x.1 x.2).1)

/-- The virtual cells of the scale bytes of the blocks in a rectangle. -/
def rectScales (j : OpaJob) (r : Rect) : List Host.Cell :=
  let c := dC j.desc
  let role := drainRole j.prof
  if !c.scaled then []
  else if prSblk j.prof then
    (r.cols.flatMap fun k => (r.rows.filter (· % c.bs == 0)).map fun i =>
      (c.scaleAddr j.listC role i k, BitVec.ofNat 8 (drainScale j i k)))
  else r.rows.flatMap fun i =>
    if c.isNull j.listC i then []
    else (r.cols.filter (· % c.bs == 0)).map fun k =>
      (c.scaleAddr j.listC role i k, BitVec.ofNat 8 (drainScale j i k))

/-- The written element (04:R124, R126, R127). DESIGN CHOICE (log 63): an element of a null line, which is not written
(05:R141), counts in the statistics, the mask and NONFINITE with the value that it would be written with. -/
def outElem (j : OpaJob) (i k : Nat) : OutElem :=
  let c := dC j.desc
  let code := (drainCode j i k).1
  let v := if c.scaled then decodeScaled c.fmt code (drainScale j i k) else decode c.fmt code
  let bad (x : Val) : Bool := !valIsFinite x
  ⟨i, k, v, valIsZero v, bad v || bad (xToVal (zAt j i k))⟩

/-! Statistics and masks. -/

def outAt (j : OpaJob) (i k : Nat) : Option OutElem := j.outv.find? fun e => e.row == i && e.col == k

/-- Every element of a list of positions has been written. -/
def allOut (j : OpaJob) (l : List (Nat × Nat)) : Bool := l.all fun x => (outAt j x.1 x.2).isSome

/-- The positions of the x-th statistics line. -/
def statPos (j : OpaJob) (x : Nat) : List (Nat × Nat) :=
  if prStats j.prof == 1 then (List.range j.n).map fun k => (x, k) else (List.range j.m).map fun i => (i, x)

/-- Every pass that contains a position of a line has drained (04:R103). -/
def passesDrained (j : OpaJob) (l : List (Nat × Nat)) : Bool := l.all fun x => j.passes.any (·.has x.1 x.2)

/-- The statistics records of the lines all of whose passes have drained, each from its elements as written (04:R125,
R103). DEDUCED (log 63): a record gathers elements as they are written, so an element of a held scale block, which is never
written, is not in it. -/
def statCells (j : OpaJob) : List Host.Cell :=
  ((List.range (vecLen (prStats j.prof) j.m j.n)).filter fun x => passesDrained j (statPos j x)).flatMap fun x =>
    cellsAt (opaStatv j.desc + 48 * x)
      (statLine ((statPos j x).filterMap fun y => (outAt j y.1 y.2).map fun e => valX e.v)).bytes

/-- The positions of mask block b of line x (05:R139). -/
def maskPos (j : OpaJob) (x b : Nat) : List (Nat × Nat) :=
  let bm := maskBm (dC j.desc)
  if prSblk j.prof then (List.range (min bm (j.m - b * bm))).map fun i => (b * bm + i, x)
  else (List.range (min bm (j.n - b * bm))).map fun k => (x, b * bm + k)

/-- The mask bytes whose blocks have all drained (05:R140). -/
def maskCells (j : OpaJob) : List Host.Cell :=
  if !prMask j.prof then [] else
  let bm := maskBm (dC j.desc)
  let (lines, len) := if prSblk j.prof then (j.n, j.m) else (j.m, j.n)
  let nb := (len + bm - 1) / bm
  let base := (maskPiece j.desc j.prof).1
  (List.range lines).flatMap fun x =>
    (List.range (maskRow nb)).filterMap fun y =>
      let bits := (List.range 8).filter fun t => 8 * y + t < nb
      if bits.all fun t => allOut j (maskPos j x (8 * y + t)) then
        let zero (t : Nat) : Bool := (maskPos j x (8 * y + t)).all fun z =>
          match outAt j z.1 z.2 with | some e => e.zero | none => false
        some (base + x * maskRow nb + y, BitVec.ofNat 8 ((bits.filter zero).map (2 ^ ·)).sum)
      else none

/-! Ending. -/

/-- Virtual cells of a part are translated again and written (12:R350). -/
def writeVa (j : OpaJob) (part : Nat) (cs : List Host.Cell) (s : State) : EngRes Unit × State :=
  match xlatReqs j.ctx [⟨part, .engWrite, cs.map fun c => (c.1, 1)⟩] [] s with
  | (.wait, s) => (.wait, s)
  | (.fail e, s) => (.fail e, s)
  | (.ok m, s) => match performWrites j.q.val j.idx (engWrites part m cs) s with
    | (some e, s) => (.fail e, s)
    | (none, s) => (.ok (), s)

/-- The statistics records and mask bytes that can be written, are. -/
def writeStats (j : OpaJob) (s : State) : EngRes Unit × State := writeVa j 0xB (statCells j ++ maskCells j) s

/-- Sets that hold a pass of a descriptor and have not begun to drain are discarded; a group whose open tile goes is
not open (04:R103). DESIGN CHOICE (log 63): the HELD set of a drain-only descriptor that ends before its drain begins
holds the passes of the descriptors that made it, so its tile stays open. -/
def Group.discardUndrained (q : Nat) (idx : BitVec 32) (g : Group) : Group :=
  let goes (a : AccSet) : Bool := a.owner == some (q, idx) && a.st != .drain
  { g with
    x := if goes g.x then .reset else g.x, y := if goes g.y then .reset else g.y,
    tile := if goes g.open_ then none else g.tile }

def drains (i : OpaInst) (q : Nat) (idx : BitVec 32) : Bool :=
  i.groups.toList.any fun g => (g.x.st == .drain && g.x.owner == some (q, idx)) ||
    (g.y.st == .drain && g.y.owner == some (q, idx))

/-- The engine has finished with a descriptor: its job goes and its outcome stands. -/
def closeJob (n : Nat) (j : OpaJob) (e : Ended) (s : State) : State :=
  let s := modInst n (fun i => { i with jobs := i.jobs.filter fun x => !x.isOf j.q.val j.idx }) s
  endFlight j.q.val j.idx e (modFlight j.q.val j.idx (fun f => { f with exc := j.exc, replayed := j.replayed }) s)

/-- A descriptor in flight ends with an event: its undrained sets are discarded, the records of what has drained are
written, and a set that has begun to drain drains (04:R103, 14:R402). -/
def endJob (n : Nat) (j : OpaJob) (e : Ended) (s : State) : State :=
  if j.fail.isSome then s else
  let s := modInst n (fun i => { i with groups := vmap (Group.discardUndrained j.q.val j.idx) i.groups }) s
  let (_, s) := if opaDrains j.desc then writeStats j s else (EngRes.ok (), s)
  if drains (getInst s n) j.q.val j.idx then
    modJob n j.q.val j.idx (fun j => { j with fail := some e, done := true, restart := false }) s
  else closeJob n j e s

/-- The job of a descriptor, and its instance. -/
def jobOf (s : State) (q : Nat) (idx : BitVec 32) : Option (Nat × OpaJob) :=
  (List.range 16).findSome? fun n => ((getInst s n).jobs.find? (OpaJob.isOf q idx)).map fun j => (n, j)

/-- A descriptor of any engine in flight ends with an event. -/
def failDesc (q : Nat) (idx : BitVec 32) (e : Ended) (s : State) : State :=
  match jobOf s q idx with
  | some (n, j) => endJob n j e s
  | none => failFlight q idx e s

/-! One cube row (04:R110, R114). -/

/-- The group and set that drain in an instance. -/
def drainingSet (i : OpaInst) : Option (Nat × Bool) :=
  (List.range 4).findSome? fun g =>
    let x := getGroup i g
    if x.x.st == .drain then some (g, false) else if x.y.st == .drain then some (g, true) else none

/-- The job with the drained values of cube row a of a set. -/
def gatherRow (fmt : BitVec 2) (t : AccSet) (a : Nat) (j : OpaJob) : OpaJob :=
  let i0 := t.r0 + 8 * a
  let new := (Rect.rows ⟨i0, i0 + 8, 0, 0⟩).flatMap fun i => (Rect.cols ⟨0, 0, t.c0, t.c0 + t.cols⟩).map fun k =>
    (⟨i, k, xToVal (drainZ j (setValue fmt (t.reg (i - t.r0) (k - t.c0))) i k)⟩ : ZElem)
  { j with zbuf := new ++ j.zbuf.filter fun z => !Rect.has ⟨i0, i0 + 8, t.c0, t.c0 + t.cols⟩ z.row z.col }

/-- The job with the written elements of a rectangle, and their flags. -/
def writtenRect (r : Rect) (j : OpaJob) : OpaJob :=
  let pos := r.rows.flatMap fun i => r.cols.map fun k => (i, k)
  { j with
    outv := (pos.map fun x => outElem j x.1 x.2) ++ j.outv.filter fun e => !r.has e.row e.col,
    exc := pos.foldl (fun e x => e ||| (drainCode j x.1 x.2).2) j.exc }

/-- A cube row passes the drain path and is written; its job, and the event of a write that fails. -/
def drainRow (fmt : BitVec 2) (t : AccSet) (a : Nat) (j : OpaJob) (s : State) : EngRes OpaJob × State :=
  if t.rows ≤ 8 * a then (.ok j, s) else
  let j := gatherRow fmt t a j
  let r := readyRect j t a
  match writeVa j 3 (rectCells (dC j.desc) j.listC r fun i k => (drainCode j i k).1) s with
  | (.wait, s) => (.wait, s)
  | (.fail e, s) => (.fail e, s)
  | (.ok _, s) => match writeVa j 9 (rectScales j r) s with
    | (.wait, s) => (.wait, s)
    | (.fail e, s) => (.fail e, s)
    | (.ok _, s) => (.ok (writtenRect r j), s)

/-- The job once the pass of a set has drained. -/
def OpaJob.passDone (j : OpaJob) (t : AccSet) : OpaJob :=
  { j with drained := j.drained + 1, passes := j.passes ++ [⟨t.r0, t.r0 + t.rows, t.c0, t.c0 + t.cols⟩] }

/-- A pass has drained: where none has issued its last step since, h a-cycles have passed (03:R90, R91). -/
def OpaInst.intervalOver (i : OpaInst) : OpaInst :=
  if i.groups.toList.any fun g => g.x.st == .settle || g.y.st == .settle then i else { i with interval := 0 }

/-- One cube row of the draining set leaves the array; after the last the set is FREE (04:R102). -/
def drainCube (n : Nat) (s : State) : State :=
  let i := getInst s n
  match drainingSet i with
  | none => s
  | some (g, y) =>
    let t := (getGroup i g).set y
    match i.jobs.find? fun j => t.owner == some (j.q.val, j.idx) with
    | none => s
    | some j => match drainRow i.fmt t t.cubeRow j s with
      | (.wait, _) => s
      | (.fail e, s) =>
        endJob n j e (modGroup n g (fun x => x.mod y fun _ => .reset) s)
      | (.ok j', s) =>
        let last := modeRows (pmode s) ≤ t.cubeRow + 1
        let s := modJob n j.q.val j.idx (fun _ => if last then j'.passDone t else j') s
        let s := modGroup n g (fun x => x.mod y fun t => if last then .reset else { t with cubeRow := t.cubeRow + 1 }) s
        if last then modInst n OpaInst.intervalOver s else s

end Sys2Proof.Machine
end

