-- ==== Sys2Proof/Machine/RmeOps.lean ====
section
/-! DEFINITION. The remote memory engine: what its descriptors send, and what the answers do (07:R223 to R226; 08:R245,
R250 to R254; 15:R428, R429). -/

namespace Sys2Proof.Machine

/-- One step of a descriptor's preparation after another. -/
def EngRes.andThen {α β : Type} (x : EngRes α × State) (f : α → State → EngRes β × State) : EngRes β × State :=
  match x with
  | (.ok a, s) => f a s
  | (.fail e, s) => (.fail e, s)
  | (.wait, s) => (.wait, s)

/-- A data request: its packet operation, its packet, what its answer fills, and its remote virtual address. -/
structure RmeReq where
  op   : Byte
  pkt  : Packet
  kind : OutKind
  va   : Nat
  deriving DecidableEq, Repr

/-- What a descriptor sends: its data requests, and its flag update. -/
structure RmePlan where
  data : List RmeReq
  flag : Option (Byte × Packet)
  deriving DecidableEq, Repr

/-- A piece of a remote operand within one page: virtual address, target offset, length. -/
structure RemPiece where
  va  : Nat
  off : Nat
  len : Nat
  deriving DecidableEq, Repr

/-- The slot of a remote physical address (08:R245). -/
def slotOf (pa : Nat) : Nat := pa / 2 ^ 40 % 2048

/-- Lines cut at pages. -/
def pieceLens (ps : List (Nat × Nat)) : List (Nat × Nat) :=
  ps.flatMap fun p => (pagesOf p.1 p.2).map fun v => (v, min (p.1 + p.2) (v / 4096 * 4096 + 4096) - v)

/-- The remote operand of a part: translated, in one window, whose entry is read once (07:R223, 08:R245). The node, and
its pieces. -/
def remotePieces (ctx : BitVec 16) (part : Nat) (acc : Access) (ps : List (Nat × Nat)) (s : State) :
    EngRes (BitVec 16 × List RemPiece) × State :=
  EngRes.andThen (xlatReqs ctx [⟨part, acc, ps⟩] [] s) fun m s =>
    match pieceLens ps with
    | [] => (.ok (0, []), s)
    | (v0, n0) :: rest =>
      let slot := slotOf (mapVa m v0)
      if rest.any fun p => slotOf (mapVa m p.1) != slot then (.fail (endWith dqOperand part), s)
      else
        let w := vget s.rme.win slot ⟨false, 0⟩
        if !w.valid || w.node == 0xFFFF then (.fail (endWith rmeNode 0xFF v0), s)
        else (.ok (w.node, ((v0, n0) :: rest).map fun p => ⟨p.1, mapVa m p.1 % 2 ^ 40, p.2⟩), s)

def rmePacket (node : BitVec 16) (addr len : Nat) (attr : Byte) (arg : Word) (payload : List Byte) : Packet :=
  { emptyPacket with dest := node, addr := w64 addr, len := BitVec.ofNat 16 len, attr := attr, arg := arg, payload := payload }

/-- SIZE of an atomic's elements (15:R427). -/
def atomicSize (d : Desc) : Nat := if (dC d).fmt == 0x13 then 8 else 4
def atomicAttr (d : Desc) : Byte := if (dC d).fmt == 0x13 then 1 else 0

/-- The lines of a put as source and destination run addresses; lines that are null on either side are not moved
(05:R144). -/
def putLines (d : Desc) (la lc : List (BitVec 32)) : List (Nat × Nat) :=
  ((List.range (dA d).rows).filter fun i => !(dA d).isNull la i && !(dC d).isNull lc i).map fun i =>
    (((dA d).place la i 0).1, ((dC d).place lc i 0).1)

/-- The requests of one line: each piece carries its bytes. -/
def linePackets (d : Desc) (rd : Nat → Byte) (node : BitVec 16) (src dst : Nat) (ps : List RemPiece) : List RmeReq :=
  ps.map fun p =>
    let bytes := readVa rd (src + (p.va - dst)) p.len
    if dOpcode d == 6 then ⟨pkAadd, rmePacket node p.off p.len (atomicAttr d) 0 bytes, .aadd, p.va⟩
    else ⟨pkPut, rmePacket node p.off p.len 0 0 bytes, .put, p.va⟩

/-- The pieces of consecutive lines, split back into lines. -/
def linesPackets (d : Desc) (rd : Nat → Byte) (node : BitVec 16) (rb : Nat) :
    List (Nat × Nat) → List RemPiece → List RmeReq
  | [], _ => []
  | l :: ls, ps =>
    let n := (pagesOf l.2 rb).length
    linePackets d rd node l.1 l.2 (ps.take n) ++ linesPackets d rd node rb ls (ps.drop n)

/-- The flag update of RME_PUT_FLAG. -/
def putFlag (d : Desc) (node : BitVec 16) : Option (Byte × Packet) :=
  if dOpcode d != 3 then none
  else some (if osf d 12 2 == 1 then pkFlagAdd else pkFlagSet, rmePacket node (osf d 0 12) 0 0 (w64 (osf d 32 32)) [])

/-- RME_PUT, RME_PUT_FLAG and RME_AADD. -/
def planPut (q : Nat) (idx : BitVec 32) (ctx : BitVec 16) (d : Desc) (s : State) : EngRes RmePlan × State :=
  EngRes.andThen (loadList q idx ctx 4 (dA d) (dA d).rows s) fun la s =>
  EngRes.andThen (loadList q idx ctx 6 (dC d) (dC d).rows s) fun lc s =>
  let rb := runBytes (dA d).fmt (dA d).cols
  let lines := putLines d la lc
  let remote := if lines.isEmpty then (if dOpcode d == 3 then [((dC d).addr, 1)] else []) else lines.map fun l => (l.2, rb)
  EngRes.andThen (remotePieces ctx 3 .remWrite remote s) fun r s =>
  EngRes.andThen (loadPart q idx ctx 1 (lines.map fun l => (l.1, rb)) [] s) fun m s =>
  (.ok ⟨if lines.isEmpty then [] else linesPackets d (vaReader s m) r.1 rb lines r.2, putFlag d r.1⟩, s)

/-- The local bytes of a piece, to be filled. -/
def emptyWrites (part va n : Nat) (m : PageMap) : List EngWrite := engWrites part m (cellsAt va (List.replicate n 0))

/-- RME_GET. -/
def planGet (ctx : BitVec 16) (d : Desc) (s : State) : EngRes RmePlan × State :=
  let a := dA d
  let c := dC d
  let rb := runBytes a.fmt a.cols
  let lines := (List.range a.rows).map fun i => (a.addr + i * a.stride, c.addr + i * c.stride)
  EngRes.andThen (xlatReqs ctx [⟨3, .engWrite, lines.map fun l => (l.2, rb)⟩] [] s) fun m s =>
  EngRes.andThen (remotePieces ctx 1 .remRead (lines.map fun l => (l.1, rb)) s) fun r s =>
  let ofLine (l : Nat × Nat) : List RmeReq :=
    (pieceLens [(l.1, rb)]).map fun p =>
      let off := match r.2.find? fun x => x.va == p.1 with | some x => x.off | none => 0
      ⟨pkGet, rmePacket r.1 off p.2 0 0 [], .get (emptyWrites 3 (l.2 + (p.1 - l.1)) p.2 m), p.1⟩
  (.ok ⟨lines.flatMap ofLine, none⟩, s)

/-- RME_FADD and RME_CAS. -/
def planAtomic (ctx : BitVec 16) (d : Desc) (s : State) : EngRes RmePlan × State :=
  let n := atomicSize d
  let va := (dC d).addr
  EngRes.andThen (xlatReqs ctx [⟨2, .engWrite, [((dB d).addr, n)]⟩] [] s) fun m s =>
  EngRes.andThen (remotePieces ctx 3 .remWrite [(va, n)] s) fun r s =>
  let off := match r.2 with | p :: _ => p.off | [] => 0
  let dest := emptyWrites 2 (dB d).addr n m
  let req : RmeReq := if dOpcode d == 7 then ⟨pkFadd, rmePacket r.1 off 0 (atomicAttr d) (w64 (osf d 64 64)) [], .old dest, va⟩
    else ⟨pkCas, rmePacket r.1 off n (atomicAttr d) (w64 (osf d 0 64)) (natLe (osf d 64 64) n), .old dest, va⟩
  (.ok ⟨[req], none⟩, s)

/-- The plan of a descriptor (07:R223). -/
def rmePlan (q : Nat) (idx : BitVec 32) (ctx : BitVec 16) (d : Desc) (s : State) : EngRes RmePlan × State :=
  match dOpcode d with
  | 2 => planGet ctx d s
  | 4 => (.ok ⟨[], some (pkFlagAdd, rmePacket (BitVec.ofNat 16 (osf d 16 16)) (osf d 0 12) 0 0 (w64 (osf d 32 32)) [])⟩, s)
  | 5 => (.ok ⟨[], some (pkFlagSet, rmePacket (BitVec.ofNat 16 (osf d 16 16)) (osf d 0 12) 0 0 (w64 (osf d 32 32)) [])⟩, s)
  | 7 => planAtomic ctx d s
  | 8 => planAtomic ctx d s
  | _ => planPut q idx ctx d s

/-- The remote operand's address, with which a descriptor fails for want of a node (07:R226). -/
def rmeRemoteVa (d : Desc) : Nat :=
  match dOpcode d with
  | 2 => (dA d).addr
  | 4 | 5 => 0
  | _ => (dC d).addr

/-- A request takes its transaction identifier and waits until its local bytes are read (08:R251). -/
def holdRequest (op : Byte) (p : Packet) (r : OutReq) (s : State) : State :=
  let t := s.rme.txid
  let pk : TxPacket := ⟨op, { p with src := s.rme.self, txid := t }, 0⟩
  { s with rme := { s.rme with
      txid := t + 1, out := s.rme.out ++ [{ r with txid := t }], unsent := s.rme.unsent ++ [pk] } }

/-- A descriptor's packets leave once its local reads are answered. -/
def releaseUnsent (q : Nat) (idx : BitVec 32) (s : State) : State :=
  if readsOut s q idx then s else
  let mine := (s.rme.out.filter (ofDescriptor q idx)).map (·.txid)
  let go := s.rme.unsent.filter fun k => mine.contains k.hdr.txid
  go.foldl (fun s k => sendPacket k s)
    { s with rme := { s.rme with unsent := s.rme.unsent.filter fun k => !mine.contains k.hdr.txid } }

/-- The requests of a plan are made: the data first, then the flag update (05:R144, 08:R251). -/
def sendPlan (q : Nat) (idx : BitVec 32) (p : RmePlan) (s : State) : State :=
  let s := p.data.foldl (fun s r => holdRequest r.op r.pkt ⟨0, r.pkt.dest, qFin q, idx, r.kind, r.va, 0⟩ s) s
  let s := match p.flag with
    | some (op, k) => postUpdate op k ⟨0, k.dest, qFin q, idx, .flag, 0, 0⟩ s
    | none => s
  releaseUnsent q idx s

/-- An RME descriptor of an opcode starts (06:R171, 07:R223, 08:R245). -/
def startRme (q op : Nat) (s : State) : State :=
  match startHead s q 4 op with
  | none => s
  | some f =>
    let d := f.desc
    if s.rme.self == 0xFFFF then startFailed q f (endWith rmeNode 0xFF (rmeRemoteVa d)) s
    else match rmePlan q f.idx (getQ s q).ctx d s with
      | (.wait, _) => s
      | (.fail e, s) => startFailed q f e s
      | (.ok p, s) =>
        let idle := p.data.isEmpty && p.flag.isNone && !readsOut s q f.idx
        sendPlan q f.idx p (beginFlight q f { newFlight s q f with ended := if idle then some endOk else none } s)

/-! Answers (08:R252, 15:R428, R429). -/

/-- Nothing of a descriptor is unanswered. -/
def rmeAnswered (s : State) (q : Nat) (idx : BitVec 32) : Bool :=
  !(s.rme.out.any (ofDescriptor q idx)) && !(s.rme.held.any fun h => ofDescriptor q idx h.req) && (portReqs s q idx).isEmpty

/-- An RME descriptor has finished once every answer and local write has come (07:R226). -/
def rmeCheck (q : Nat) (idx : BitVec 32) (s : State) : State :=
  match getFlight s q idx with
  | some f => if dClass f.desc == 4 && f.ended.isNone && rmeAnswered s q idx then endFlight q idx endOk s else s
  | none => s

/-- The unanswered request of a transaction. -/
def outOf (s : State) (txid : BitVec 32) : Option OutReq := s.rme.out.find? (·.txid == txid)

def removeOut (txid : BitVec 32) (s : State) : State :=
  { s with rme := { s.rme with out := s.rme.out.filter fun r => r.txid != txid } }

/-- An answer that names nothing outstanding: a late one is discarded, any other sets RP_STRAY (08:R253, 15:R429). -/
def strayAnswer (txid : BitVec 32) (s : State) : State :=
  if s.rme.stale.contains txid then
    releaseHeld { s with rme := { s.rme with
      stale := s.rme.stale.erase txid, linger := s.rme.linger.filter fun r => r.txid != txid } }
  else setBnd 11 s

/-- ACK. -/
def answerAck (txid : BitVec 32) (s : State) : State :=
  match outOf s txid with
  | none => strayAnswer txid s
  | some r => match r.kind with
    | .get _ => s
    | .old _ => s
    | .signal _ => releaseHeld (removeOut txid s)
    | _ => rmeCheck r.q.val r.idx (releaseHeld (removeOut txid s))

/-- The local writes of an answer with its bytes, in order. -/
def fillWrites : List EngWrite → List Byte → List EngWrite
  | [], _ => []
  | w :: ws, bs =>
    { w with cells := w.cells.zipWith (fun c b => (c.1, b)) bs } :: fillWrites ws (bs.drop w.cells.length)

/-- DATA: the local bytes are written (08:R252). -/
def answerData (txid : BitVec 32) (data : List Byte) (s : State) : State :=
  match outOf s txid with
  | none => strayAnswer txid s
  | some r => match r.kind with
    | .get dest | .old dest =>
      let s := { s with rme := { s.rme with inbytes := s.rme.inbytes + w64 data.length } }
      let s := releaseHeld (removeOut txid s)
      match retranslate (getQ s r.q.val).ctx (fillWrites dest data) s with
      | (.fail e, s) => failDesc r.q.val r.idx e s
      | (.wait, s) => s
      | (.ok ws, s) => match performWrites r.q.val r.idx ws s with
        | (some e, s) => failDesc r.q.val r.idx e s
        | (none, s) => rmeCheck r.q.val r.idx s
    | _ => s

/-- REFUSE: a signal's record, or the descriptor's event with the reason (07:R226, 08:R252). -/
def answerRefuse (txid : BitVec 32) (reason : BitVec 16) (s : State) : State :=
  match outOf s txid with
  | none => strayAnswer txid s
  | some r => match r.kind with
    | .signal f =>
      signalRecord rmeRemoteFault r.q.val r.idx r.node f reason (rmeEvent 4 (releaseHeld (removeOut txid s)))
    | _ => failDesc r.q.val r.idx (endWith rmeRemoteFault 0xFF r.va reason) (removeOut txid s)

/-- The descriptor of a queue whose limit has passed (08:R253). -/
def lateFlight (s : State) (q : Nat) : Option InFlight :=
  (getQ s q).inflight.find? fun f => dClass f.desc == 4 && f.ended.isNone &&
    match f.limit with | some l => l < s.beat.value.toNat | none => false

/-- RME_TIMEOUT of a descriptor: INFO is the address of its first unanswered request (07:R226, 08:R253). -/
def rmeTimeout (q : Nat) (s : State) : State :=
  match lateFlight s q with
  | none => s
  | some f =>
    let va := match s.rme.out.find? (ofDescriptor q f.idx) with | some r => r.va | none => 0
    failDesc q f.idx (endWith rmeTimeoutEv 0xFF va) s

/-- A remote signal that is not acknowledged by its limit (08:R252). -/
def signalTimeout (txid : BitVec 32) (s : State) : State :=
  let late (r : OutReq) : Bool := r.txid == txid && isSignal r.kind && r.limit < s.beat.value.toNat
  match (s.rme.out ++ s.rme.held.map (·.req)).find? late with
  | none => s
  | some r =>
    let flag := match r.kind with | .signal f => f | _ => 0
    signalRecord rmeTimeoutEv r.q.val r.idx r.node flag 0 (rmeEvent 2 (dropRequests false late s))

end Sys2Proof.Machine
end

