-- ==== Sys2Proof/Machine/Inbound.lean ====
section
/-! DEFINITION. Inbound remote operations (08:R247 to R249; 07:R224, R225; 15:R428, R429). -/

namespace Sys2Proof.Machine

/-- A response to a request packet (15:R428). -/
def respond (src : BitVec 16) (txid : BitVec 32) (op : Byte) (reason : BitVec 16) (data : List Byte) (s : State) : State :=
  sendPacket ⟨op, { emptyPacket with
    dest := src, src := s.rme.self, txid := txid, len := BitVec.ofNat 16 data.length, payload := data }, reason⟩ s

/-- A refusal with its reason code (08:R249). -/
def refuse (src : BitVec 16) (txid : BitVec 32) (reason : BitVec 16) (s : State) : State :=
  respond src txid pkRefuse reason [] (rmeEvent 3 { s with rme := { s.rme with refusals := s.rme.refusals + 1 } })

/-- A mismatch in RME_CFG or an aperture refuses inbound operations (13:R388). -/
def inboundHeld (s : State) : Bool :=
  parityAt s 0x580000 || (List.range 8).any fun k => parityAt s (0x580100 + 8 * k)

/-- DEST, the block state and SELF, in the order of 15:R429; what is accepted goes on. -/
def inboundGate (p : Packet) (accept : State → State) (s : State) : State :=
  if s.ctl.por || s.ctl.wres then s else
  let s := takeStream p.payload.length s
  if s.rme.self != 0xFFFF && p.dest != s.rme.self then setBnd 11 s
  else if s.rme.self == 0xFFFF || !flagsOpen s then refuse p.src p.txid 0x0001 s
  else if inboundHeld s then refuse p.src p.txid 0x0002 s
  else accept s

/-- An aperture that grants an access of n bytes (08:R248). -/
def granted (s : State) (addr n : Nat) (w r : Bool) : Bool :=
  s.rme.inb.toList.any fun a =>
    let lg := a.log2size.toNat
    let base := a.base.toNat * 2 ^ 20
    20 ≤ lg && lg ≤ 40 && base % 2 ^ lg == 0 && base ≤ addr && addr + n ≤ base + 2 ^ lg && (!w || a.w) && (!r || a.rd)

/-- The refusal of a data access, if any (08:R247, R249). -/
def memRefusal (s : State) (addr n : Nat) (w r : Bool) : Option (BitVec 16) :=
  let reg := region s addr
  if reg == .ctl then some 0x0003
  else if !(inMemory s addr && region s (addr + n - 1) == reg) then some 0x0005
  else if !granted s addr n w r then some 0x0002 else none

/-- The target address of a packet. -/
def packetAddr (p : Packet) : Nat := p.addr.toNat % 2 ^ 40

/-- An accepted operation is answered (08:R254). -/
def inboundDone (i : Inbound) (s : State) : State :=
  respond i.src i.txid i.op 0 i.data { s with rme := { s.rme with inbytes := s.rme.inbytes + w64 i.bytes } }

/-- Requests of an inbound operation at the memory ports. -/
def inboundPorts (s : State) (n : Nat) : Bool := (s.memp.out ++ s.memp.waiting).any fun r => r.waiter == .inbound n

/-- An accepted operation is answered at once, or waits for the memory ports. -/
def inboundAnswer (p : Packet) (n : Nat) (op : Byte) (data : List Byte) (s : State) : State :=
  let i : Inbound := ⟨n, p.src, p.txid, op, data, p.payload.length⟩
  let s := { s with rme := { s.rme with inNext := n + 1 } }
  if inboundPorts s n then { s with rme := { s.rme with inq := s.rme.inq ++ [i] } } else inboundDone i s

/-- A port has answered a request of an inbound operation: it is refused, or answered when it was the last. -/
def inboundPort (n : Nat) (bad : Bool) (s : State) : State :=
  match s.rme.inq.find? (·.n == n) with
  | none => s
  | some i =>
    let t := { s with rme := { s.rme with inq := s.rme.inq.filter (·.n != n) } }
    if bad then refuse i.src i.txid 0x0004 t else if inboundPorts s n then s else inboundDone i t

/-- PUT: a hit is written in the block cache, a miss at the port (12:R352). -/
def inboundPut (p : Packet) (s : State) : State :=
  let a := packetAddr p
  match memRefusal s a p.payload.length true false with
  | some r => refuse p.src p.txid r s
  | none =>
    let n := s.rme.inNext
    match writeAccess false false (.inbound n) (cellsAt a p.payload) s with
    | (some _, s) => refuse p.src p.txid 0x0004 { s with rme := { s.rme with inNext := n + 1 } }
    | (none, s) => inboundAnswer p n pkAck [] s

/-- GET: a hit is served, a miss read at the port (12:R352). -/
def inboundGet (p : Packet) (s : State) : State :=
  let a := packetAddr p
  let len := p.len.toNat
  match memRefusal s a len false true with
  | some r => refuse p.src p.txid r s
  | none =>
    let n := s.rme.inNext
    match engRead (.inbound n) a len s with
    | (.uncorrectable, s) => refuse p.src p.txid 0x0004 { s with rme := { s.rme with inNext := n + 1 } }
    | (_, s) => inboundAnswer p n pkData (Memory.gets s.mem a len) s

/-- A flag update by number (08:R247, 13:R388). -/
def inboundFlag (p : Packet) (add : Bool) (s : State) : State :=
  let f := p.addr.toNat % 4096
  let v := p.arg.extractLsb' 0 32
  if !s.rme.flagin then refuse p.src p.txid 0x0003 s
  else if add && flagHeld s f then refuse p.src p.txid 0x0004 s
  else respond p.src p.txid pkAck 0 [] (flagPost 41 f (if add then .add v else .set v) s)

/-! Atomics (07:R224, R225; 08:R247). -/

def atomSize (p : Packet) : Nat := if p.attr.getLsbD 0 then 8 else 4

/-- The flag register whose [31:0] word an atomic of one 32-bit element names (07:R224). -/
def flagTarget (p : Packet) (n : Nat) : Option Nat :=
  let a := packetAddr p
  let base := ctlBase + 0x200000
  if atomSize p == 4 && n == 4 && base ≤ a && a < base + 0x8000 && past base a % 8 == 0 then some (past base a / 8) else none

/-- One element: read, computed and written in the block cache (12:R352); its old value. -/
def atomicElem (n a size : Nat) (f : Nat → Option Nat) (s : State) : Option Nat × State :=
  match readAccess true a size s with
  | (.uncorrectable, s) => (none, s)
  | (_, s) =>
    let old := leNat (Memory.gets s.mem a size)
    match f old with
    | none => (some old, s)
    | some v => match writeAccess true false (.inbound n) (cellsAt a (natLe v size)) s with
      | (some _, s) => (none, s)
      | (none, s) => (some old, s)

/-- Elements of an AADD in increasing order; whether all were updated. -/
def addElems (n size : Nat) : List (Nat × Nat) → State → Bool × State
  | [], s => (true, s)
  | (a, v) :: rest, s => match atomicElem n a size (fun old => some (old + v)) s with
    | (none, s) => (false, s)
    | (some _, s) => addElems n size rest s

/-- The elements of a payload, with their addresses. -/
def packetElems (p : Packet) : List (Nat × Nat) :=
  let size := atomSize p
  (List.range (p.payload.length / size)).map fun i =>
    (packetAddr p + size * i, leNat ((p.payload.drop (size * i)).take size))

/-- The checks of an atomic of n bytes; a 32-bit atomic on a flag register is a flag update. -/
def atomicGate (p : Packet) (n : Nat) (onFlag : Nat → State → State) (onMem : State → State) (s : State) : State :=
  match flagTarget p n with
  | some f =>
    if !s.rme.flagin then refuse p.src p.txid 0x0003 s
    else if flagHeld s f then refuse p.src p.txid 0x0004 s
    else onFlag f s
  | none => match memRefusal s (packetAddr p) n true true with
    | some r => refuse p.src p.txid r s
    | none => onMem s

/-- Number of the operation in progress, refused after its reads or writes. -/
def refuseAtomic (p : Packet) (n : Nat) (s : State) : State :=
  refuse p.src p.txid 0x0004 { s with rme := { s.rme with inNext := n + 1 } }

/-- AADD. -/
def inboundAadd (p : Packet) : State → State :=
  atomicGate p p.payload.length
    (fun f s => inboundAnswer p s.rme.inNext pkAck []
      (flagPost 41 f (.add (BitVec.ofNat 32 (leNat (p.payload.take 4)))) s))
    (fun s =>
      let n := s.rme.inNext
      match addElems n (atomSize p) (packetElems p) s with
      | (false, s) => refuseAtomic p n s
      | (true, s) => inboundAnswer p n pkAck [] s)

/-- FADD. -/
def inboundFadd (p : Packet) : State → State :=
  let size := atomSize p
  atomicGate p size
    (fun f s => inboundAnswer p s.rme.inNext pkData (natLe (flagBefore s 41 f true).toNat 4)
      (flagPost 41 f (.add (p.arg.extractLsb' 0 32)) s))
    (fun s =>
      let n := s.rme.inNext
      match atomicElem n (packetAddr p) size (fun old => some (old + p.arg.toNat)) s with
      | (none, s) => refuseAtomic p n s
      | (some old, s) => inboundAnswer p n pkData (natLe old size) s)

/-- CAS: the swap happens when the old value is COMPARE. -/
def inboundCas (p : Packet) : State → State :=
  let size := atomSize p
  atomicGate p size
    (fun f s => inboundAnswer p s.rme.inNext pkData (natLe (flagBefore s 41 f false).toNat 4)
      (flagPost 41 f (.cas (p.arg.extractLsb' 0 32) (BitVec.ofNat 32 (leNat (p.payload.take 4)))) s))
    (fun s =>
      let n := s.rme.inNext
      match atomicElem n (packetAddr p) size
          (fun old => if old == p.arg.toNat % 2 ^ (8 * size) then some (leNat (p.payload.take size)) else none) s with
      | (none, s) => refuseAtomic p n s
      | (some old, s) => inboundAnswer p n pkData (natLe old size) s)

/-! Atomics wait for their reads at the ports (15:R425), in their order; the requester that they are. -/

def inboundPlace : Nat := 16

/-- The atomic of an operation code. -/
def inboundAtomic (op : Byte) (p : Packet) (s : State) : State :=
  if op == pkAadd then inboundAadd p s else if op == pkFadd then inboundFadd p s else inboundCas p s

/-- Atomics that wait are performed, oldest first, up to one whose reads are not answered. -/
def inboundRun : Nat → State → State
  | 0, s => s
  | n + 1, s => match s.rme.inHeld with
    | [] => s
    | (op, p) :: rest => match tryPorts inboundPlace (inboundAtomic op p) s with
      | (s, true) => inboundRun n { s with rme := { s.rme with inHeld := rest } }
      | (s, false) => s

/-- An accepted atomic. -/
def takeAtomic (op : Byte) (p : Packet) (s : State) : State :=
  let s := { s with rme := { s.rme with inHeld := s.rme.inHeld ++ [(op, p)] } }
  inboundRun s.rme.inHeld.length s

/-- INBOUND_PUT (08:R247). -/
def effectInboundPut (p : Packet) (s : State) : Host.Outcome State Fault Refusal :=
  .next (settle s (inboundGate p (inboundPut p) s))

/-- INBOUND_GET (08:R247). -/
def effectInboundGet (p : Packet) (s : State) : Host.Outcome State Fault Refusal :=
  .next (settle s (inboundGate p (inboundGet p) s))

/-- INBOUND_FLAG_ADD (08:R247). -/
def effectInboundFlagAdd (p : Packet) (s : State) : Host.Outcome State Fault Refusal :=
  .next (settle s (inboundGate p (inboundFlag p true) s))

/-- INBOUND_FLAG_SET (08:R247). -/
def effectInboundFlagSet (p : Packet) (s : State) : Host.Outcome State Fault Refusal :=
  .next (settle s (inboundGate p (inboundFlag p false) s))

/-- INBOUND_AADD (07:R225). -/
def effectInboundAadd (p : Packet) (s : State) : Host.Outcome State Fault Refusal :=
  .next (settle s (inboundGate p (takeAtomic pkAadd p) s))

/-- INBOUND_FADD (07:R225). -/
def effectInboundFadd (p : Packet) (s : State) : Host.Outcome State Fault Refusal :=
  .next (settle s (inboundGate p (takeAtomic pkFadd p) s))

/-- INBOUND_CAS (07:R225). -/
def effectInboundCas (p : Packet) (s : State) : Host.Outcome State Fault Refusal :=
  .next (settle s (inboundGate p (takeAtomic pkCas p) s))

/-- A discarded packet sets RP_CRC or RP_STRAY; DEST is not examined while SELF is not set (15:R429). How many bytes of the
stream it took, its LEN does not say reliably: the number is free. -/
def discardPacket (bad : PacketFault) (s : State) : State :=
  let (n, s) := drawNat 4097 s
  let s := takeStream n s
  match bad with
  | .crc => setBnd 10 s
  | .dest => if s.rme.self == 0xFFFF then s else setBnd 11 s
  | .op => setBnd 11 s

/-- INBOUND_PACKET_DISCARDED (15:R429). -/
def effectInboundPacketDiscarded (bad : PacketFault) (s : State) : Host.Outcome State Fault Refusal :=
  .next (settle s (discardPacket bad s))

end Sys2Proof.Machine
end

