-- ==== Sys2Proof/Machine/Clock.lean ====
section
/-! DEFINITION. The end of an f-cycle (log 1): counters of f-cycles, the flag store, and what lasts one f-cycle
(06:R159, R182; 09:R281; 15:R432, R434). -/

namespace Sys2Proof.Machine

/-- The flag store of the next f-cycle; on-start signals are lost where the block state takes no flag update (01:R27). -/
def nextFlags (s : State) : Flags :=
  flagsTick (if flagsOpen s then s.flags else { s.flags with next := [] })

/-- The outputs of the ended f-cycle fall, and what it put on the boundary has left (15:R424, R427, R430, R434). -/
def dropPulses (s : State) : State :=
  { s with
    ctl := { s.ctl with place := 0 },
    gen := { s.gen with now := false, edged := false },
    flt := { s.flt with evRec := false },
    dq := vmap (fun q => { q with evNotify := false, evHalt := false }) s.dq,
    mbox := { s.mbox with evMbox := false },
    beat := { s.beat with loaded := false },
    arb := { s.arb with taken := [] },
    bnd := { s.bnd with vreqStb := false, hostOut := [], hwCred := 0 },
    rme := { s.rme with tx := [], rxCred := 0 },
    mg := { s.mg with chainOut := [] } }

/-- What the new f-cycle begins with: the edge that GEN_APPLY.NOW asked for, and requests that waited for a memory port
(13:R387; 15:R430). -/
def beginCycle (now : Bool) (s : State) : State :=
  let s := if now then applyEdge s else s
  inboundRun s.rme.inHeld.length (hostRun s.bnd.hostHeld.length s)

/-- The f-cycle ends; in reset only the timebase goes on (13:R452). -/
def endCycle (s : State) : State :=
  if s.ctl.por || s.ctl.wres then
    { s with ctl := { s.ctl with place := 0 }, beat := { s.beat with loaded := false }, mg := { s.mg with chainOut := [] } }
  else
    let t := dropPulses { s with
      ctl := { s.ctl with fcycles := s.ctl.fcycles + 1 },
      flags := nextFlags s,
      cores := vmap (fun c => { c with cycle := c.cycle + 1 }) s.cores }
    settle s (beginCycle s.gen.now t)

end Sys2Proof.Machine
end

