-- ==== Sys2Proof/Machine/Beats.lean ====
section
/-! DEFINITION. The timebase, the APPLY input and what begins or ends with a beat (06:R185 to R187; 12:R357;
14:R404, R416; 15:R432, R433). -/

namespace Sys2Proof.Machine

/-! The block cache's checks (12:R357). -/

/-- A way's count has passed LIMIT: it is disabled; with 8 ways disabled already, the crossing sets CE_LIMIT. -/
def disableWay (w : Nat) (s : State) : State :=
  if s.bc.disabled.getLsbD w then s
  else if 8 ≤ popCount s.bc.disabled then (if vget s.bc.ceWin w 0 == s.bc.limit.toNat + 1 then bcEvent 3 s else s)
  else
    let s := bcEvent 2 { s with bc := { s.bc with
      disabled := s.bc.disabled ||| wayBit w, lock := s.bc.lock &&& ~~~wayBit w } }
    let n := vget s.bc.ceWin w 0
    startCleaning w (detect bcWayDisabled clsUnit (BitVec.ofNat 16 (0x0500 + w)) 0 (w64 n) s.bc.winBeat s)

/-- A corrected event of a way. -/
def bcCorrected (w : Nat) (s : State) : State :=
  let s := { s with bc := { s.bc with ce := vmod s.bc.ce w (· + 1), ceWin := vmod s.bc.ceWin w (· + 1) } }
  if s.bc.limit != 0 && s.bc.limit.toNat < vget s.bc.ceWin w 0 then disableWay w s else s

/-- An uncorrectable word: a clean line is invalidated, which counts as a corrected event; a dirty one becomes a bad
line. -/
def bcUncorrectable (line : Nat) (s : State) : State :=
  match bcFind s line with
  | none => s
  | some l =>
    if l.bad then s
    else if l.dirty then
      bcEvent 4 { s with bc := { s.bc with lines := s.bc.lines.map fun x =>
        if x.line == line then { x with bad := true } else x } }
    else bcCorrected l.way.val { s with bc := { s.bc with lines := s.bc.lines.filter (·.line != line) } }

/-- Both copies of a line's tag and state fail: the line goes, with what it held, and the block enters FAULT
(14:R400). -/
def bcTagLost (line : Nat) (s : State) : State :=
  match bcFind s line with
  | none => s
  | some l =>
    let s := { s with
      mem := Memory.puts s.mem (if l.dirty then lineCells line l.under else []),
      bc := { s.bc with lines := s.bc.lines.filter (·.line != line) } }
    fatal memUe (BitVec.ofNat 16 (0x0500 + l.way.val)) 5 0 0 s

/-! Upsets (14:R390, R400, R406; log 60). -/

/-- An L1 data cache drops a line; of a dirty one, which cannot be corrected, the block cache holds a bad line, or, where
no way can take it, memory an uncorrectable one, and the consuming load is still to fault. -/
def l1Upset (c : Fin 8) (line : Nat) (dirty : Bool) (s : State) : State :=
  if !(getCore s c).l1d.contains line then s else
  let s := modCore c (fun k => { k with l1d := k.l1d.erase line }) s
  if !dirty then s else
  let s := modCore c (fun k => { k with l1bad := addOnce line k.l1bad }) s
  let (ok, s) := if (bcFind s line).isSome then (true, s) else bcAlloc line s
  if ok then
    let s := markDirty line s
    { s with bc := { s.bc with lines := s.bc.lines.map fun l => if l.line == line then { l with bad := true } else l } }
  else { s with memp := { s.memp with ueUnits := addOnce (2 * line) (addOnce (2 * line + 1) s.memp.ueUnits) } }

/-- A stage-memory word's code will find an error. -/
def stageUpset (word : Nat) (found : ReadStat) (s : State) : State :=
  if smBytes s ≤ word * 32 then s else
  let w := (stageBase + word * 32) / 32
  match found with
  | .clean => s
  | .corrected => { s with sm := { s.sm with ceWords := addOnce w s.sm.ceWords } }
  | .uncorrectable => { s with sm := { s.sm with ueWords := addOnce w s.sm.ueWords } }

/-- A register of a bank holds a free value with bad parity. -/
def registerUpset (c : Fin 8) (k : Nat) (r : BitVec 5) (s : State) : State :=
  if r == 0 then s else
  let (w, s) := drawWord s
  modCore c (modBank k fun b => { b with
    g := vmod b.g r.toNat fun _ => w, bad := b.bad ||| BitVec.ofNat 32 (2 ^ r.toNat) }) s

/-- A tile row holds free bytes with bad parity. -/
def tileUpset (c : Fin 8) (t : Nat) (row : BitVec 5) (s : State) : State :=
  let (w, s) := drawNat (2 ^ 512) s
  modCore c (fun k => { k with tiles := vmod k.tiles t fun x => { x with
    bytes := Memory.puts x.bytes (cellsAt (64 * row.toNat) (natLe w 64)),
    bad := x.bad ||| BitVec.ofNat 32 (2 ^ row.toNat) } }) s

/-- The parity of a reuse latch is bad. -/
def latchUpset (c : Fin 8) (left : Bool) (s : State) : State :=
  let spoil (l : Option Latch) : Option Latch := l.map fun x => { x with bad := true }
  modCore c (fun k => if left then { k with latchS := spoil k.latchS } else { k with latchT := spoil k.latchT }) s

/-- The parity of an entry of the store buffer is bad. -/
def storeUpset (c : Fin 8) (i : Nat) (s : State) : State :=
  modCore c (fun k => { k with sb := k.sb.zipIdx.map fun e => if e.2 == i then { e.1 with bad := true } else e.1 }) s

/-- The copy of a configuration register mismatches, and nothing has found it yet (13:R388). -/
def configUpset (off : BitVec 26) (s : State) : State :=
  if parityCovered off.toNat && !s.gen.parity.contains off then
    { s with gen := { s.gen with latent := addOnce off s.gen.latent } }
  else s

/-- What an upset leads to: a copy of a clean line or of an entry is dropped and read again when it is next wanted. -/
def upset (e : Upset) (s : State) : State :=
  match e with
  | .corrected w => bcCorrected w.val s
  | .uncorrectable l => bcUncorrectable l s
  | .tagLost l => bcTagLost l s
  | .victim l => { s with bc := { s.bc with victim := s.bc.victim.erase l } }
  | .l1Line c l dirty => l1Upset c l dirty s
  | .stage w found => stageUpset w.toNat found s
  | .register c k r => registerUpset c k.val r s
  | .tileRow c t row => tileUpset c t.val row s
  | .latch c left => latchUpset c left s
  | .store c i => storeUpset c i s
  | .l1Tlb c i => modCore c (fun k => { k with l1tlb := k.l1tlb.eraseIdx i }) s
  | .tlb i => { s with xlat := { s.xlat with tlb := s.xlat.tlb.eraseIdx i } }
  | .walker i => { s with xlat := { s.xlat with walker := s.xlat.walker.eraseIdx i } }
  | .context i => { s with xlat := { s.xlat with ctxCache := s.xlat.ctxCache.eraseIdx i } }
  | .voted q => votedLost q s
  | .config off => configUpset off s

/-! Beats. -/

/-- A window of a length begins at a beat value. -/
def windowBegins (v : Word) (len : Nat) : Bool := v.toNat % max 1 len == 0

/-- The beat value is new: the records of the beat, and the windows that begin with it (12:R357, 14:R404). -/
def newBeat (s : State) : State :=
  let v := s.beat.value
  let s := { s with beat := { s.beat with marks := [] }, sens := { s.sens with stepped := false, replanOn := s.sens.replan, sampleOn := s.sens.sample } }
  let s :=
    if windowBegins v s.bc.window.toNat then { s with bc := { s.bc with ceWin := .replicate 16 0, winBeat := v } }
    else s
  if windowBegins v s.svc.cgWindow.toNat then
    { s with
      svc := { s.svc with cgCount := .replicate 16 0, veCount := .replicate 8 0 },
      sm := { s.sm with ceWindow := [] } }
  else s

/-- A tick is classed by the block state (14:R416). -/
def classBeat (s : State) : State :=
  { s with mg :=
      if s.ctl.state == .run then { s.mg with avail := s.mg.avail + 1 }
      else if s.mg.window == 1 then { s.mg with excluded := s.mg.excluded + 1 }
      else { s.mg with unavail := s.mg.unavail + 1 } }

/-- A tick: ignored within 700 f-cycles of the one before; it adds nothing in the f-cycle of a load (15:R432). -/
def tick (since : Nat) (found : List Upset) (s : State) : State :=
  if since < 700 then setBnd 5 s
  else
    let s := classBeat (if s.ctl.wres then s else found.foldl (fun s e => upset e s) s)
    if s.beat.loaded then s else newBeat { s with beat := { s.beat with value := s.beat.value + 1 } }

/-- BEAT_TICK (15:R432). -/
def effectBeatTick (since : Nat) (found : List Upset) (s : State) : Host.Outcome State Fault Refusal :=
  .next (settle s (if s.ctl.por then s else tick since found s))

/-- A load: LOAD, and BACKWARD when the value is lower, in one event (06:R187). -/
def loadBeat (v : Word) (s : State) : State :=
  let bits : BitVec 48 := if v.toNat < s.beat.value.toNat then 3 else 1
  newBeat { s with beat := { s.beat with
    value := v, loaded := true, status := s.beat.status.event s.ctl.fcycles bits } }

/-- BEAT_LOAD (06:R187). -/
def effectBeatLoad (v : Word) (s : State) : Host.Outcome State Fault Refusal :=
  .next (settle s (if s.ctl.por then s else loadBeat v s))

/-- APPLY_IN rises: an APPLY edge while EXT_EN = 1 (15:R433). -/
def effectApplyIn (s : State) : Host.Outcome State Fault Refusal :=
  .next (settle s (if s.gen.extEn then applyEdge s else s))

end Sys2Proof.Machine
end

