-- ==== Sys2Proof/Machine/Sensors.lean ====
section
/-! DEFINITION. Sensors, margins, the voltage request and the array clock (14:R413 to R415; 15:R421, R424;
16:R445, R446). -/

namespace Sys2Proof.Machine

def srcSensors : BitVec 16 := 0x0D00

/-! Limits (16:R445). -/

/-- The value of a binary32 image is at least that of another, or above it; no comparison with a NaN holds. -/
def atLeast (x lim : BitVec 32) : Bool := !valIsNan (decode32 x.toNat) && le32 lim.toNat x.toNat
def above (x lim : BitVec 32) : Bool :=
  !valIsNan (decode32 x.toNat) && !valIsNan (decode32 lim.toNat) && !le32 x.toNat lim.toNat

def lim100 : BitVec 32 := 0x42C80000
def lim110 : BitVec 32 := 0x42DC0000
def lim115 : BitVec 32 := 0x42E60000
def lim1320 : BitVec 32 := 0x44A50000
def lim1700 : BitVec 32 := 0x44D48000
def lim2100 : BitVec 32 := 0x45034000

/-- The junction site with the highest value, the lowest-numbered on a tie. -/
def hottest (tj : Vector (BitVec 32) 16) : Nat :=
  (List.range 16).foldl (fun m i => if above (vget tj i 0) (vget tj m 0) then i else m) 0

/-- A warning crossing (16:R445). -/
def warn (ev detail : BitVec 16) (v lim : BitVec 32) (s : State) : State :=
  detect ev clsInfo srcSensors detail (v.setWidth 64) (lim.setWidth 64) s

/-- A fatal junction temperature: one record for one crossing, whoever reports it (16:R446). -/
def thermalFatal (site : Nat) (v lim : BitVec 32) (s : State) : State :=
  if s.sens.tripped then s
  else
    fatal hwThermal srcSensors (BitVec.ofNat 16 site) (v.setWidth 64) (lim.setWidth 64)
      { s with sens := { s.sens with tripped := true } }

/-- The junction temperature of a sample against its thresholds. -/
def checkThermal (s : State) : State :=
  let site := hottest s.sens.tj
  let v := vget s.sens.tj site 0
  if atLeast v lim110 then thermalFatal site v lim110 s
  else
    let s := { s with sens := { s.sens with tripped := false } }
    if atLeast v lim100 then warn hwThermal (BitVec.ofNat 16 site) v lim100 s else s

/-- A sample is taken, at a beat that is a multiple of SAMPLE, and compared with the limits (14:R413, 16:R445). -/
def takeSample (x : Sample) (s : State) : State :=
  if s.beat.value.toNat % max 1 s.sens.sampleOn.toNat != 0 then s else
  let s := { s with sens := { s.sens with tj := x.tj, vdd := x.vdd, iblk := x.iblk, pblk := x.pblk } }
  let s := checkThermal s
  let s := if above x.iblk lim1700 then warn hwCurrent 0 x.iblk lim1700 s else s
  if above x.pblk lim1320 then warn hwCurrent 1 x.pblk lim1320 s else s

/-- SENSOR_SAMPLE (14:R413). -/
def effectSensorSample (x : Sample) (s : State) : Host.Outcome State Fault Refusal := .next (settle s (takeSample x s))

/-- HW_COMPARATOR_TRIP: the thermal trip or the peak-current comparator (16:R446). -/
def comparatorTrip (thermal : Bool) (site : Nat) (v : BitVec 32) (s : State) : State :=
  if thermal then thermalFatal site v lim115 s
  else fatal hwCurrent srcSensors 0 (v.setWidth 64) (lim2100.setWidth 64) s

def effectHwComparatorTrip (thermal : Bool) (site : Fin 16) (value : BitVec 32) (s : State) :
    Host.Outcome State Fault Refusal :=
  .next (settle s (comparatorTrip thermal site.val value s))

/-! The re-plan (14:R414). -/

/-- A finite binary32 number in units of 2^-149. -/
def scaled32 (x : BitVec 32) : Option Int :=
  let e := fld (x.setWidth 64) 23 8
  let m := fld (x.setWidth 64) 0 23
  if e == 255 then none
  else
    let n : Nat := if e == 0 then m else (m + 2 ^ 23) * 2 ^ (e - 1)
    some (if x.getLsbD 31 then -(n : Int) else (n : Int))

/-- The temperature coefficient of a ring-oscillator site, a signed number of counts per 100 °C (15:R435). -/
def roCoef (s : State) (i : Nat) : Int := (BitVec.ofNat 16 (fuseNat s (0x150 + 2 * i) 2)).toInt

/-- The count of a ring-oscillator site normalised to 85 °C with its coefficient (14:R413): which way the quotient is
rounded is free, and so is a count that leaves its range or has no temperature (log 21). -/
def normalCount (s : State) (i : Nat) (raw : BitVec 32) : BitVec 32 :=
  let k := roCoef s i
  let free := (Config.freeWord (s.ctl.free + i)).setWidth 32
  if k == 0 then raw
  else match scaled32 (vget s.sens.tj (Config.roJunction i).val 0) with
    | none => free
    | some t =>
      let num := k * (85 * 2 ^ 149 - t)
      let den : Int := 100 * 2 ^ 149
      let v := raw.toNat + num / den + (if num % den != 0 && Config.freeBit (s.ctl.free + i) then 1 else 0)
      if 0 ≤ v && v < 2 ^ 32 then BitVec.ofInt 32 v else free

/-- The counts of the 96 sites as a re-plan reads them. -/
def readSites (raw : Vector (BitVec 32) 96) (s : State) : State :=
  { s with
    sens := { s.sens with ro := vmapIdx (normalCount s) raw }
    ctl := { s.ctl with free := s.ctl.free + 96 } }

/-- A slowdown: a fraction. -/
structure Slow where
  num : Nat
  den : Nat
  deriving DecidableEq, Repr

def Slow.max (a b : Slow) : Slow := if a.num * b.den < b.num * a.den then b else a

/-- x / y − 1, at least 0; where y is 0 the manual gives no value, and it is free (log 21). -/
def excess (x y free : Nat) : Slow := if y == 0 then ⟨free, 1⟩ else ⟨x - y, y⟩

/-- d of 14:R414, over the readings held. -/
def slowdown (s : State) : Slow :=
  let free := Config.freeNat s.ctl.free
  let ro := (List.range 96).map fun i => excess (fuseNat s (0x30 + 2 * i) 2) (vget s.sens.ro i 0).toNat free
  let pd := (List.range 48).map fun j => excess (vget s.sens.pd j 0).toNat (fuseNat s (0xF0 + 2 * j) 2) free
  (ro ++ pd).foldl Slow.max ⟨0, 1⟩

/-- need(f) in mV, of the clock of a code (14:R414). -/
def need (s : State) (d : Slow) (code : Nat) : Nat :=
  fuseNat s (0x20 + 2 * code) 2 + 5 * ((500 * d.num + d.den - 1) / d.den) + (if s.sens.flagged != 0 then 5 else 0) + 10

/-- d in parts per million; whether it is rounded up is free (log 21). -/
def slowPpm (s : State) (d : Slow) : Word :=
  let q := 1000000 * d.num / d.den
  w64 (if 1000000 * d.num % d.den != 0 && Config.freeBit s.ctl.free then q + 1 else q)

def codeMhz (code : Nat) : Nat := if code == 0 then 700 else if code == 1 then 672 else 644

/-- A HW_MARGIN record (14:R397). -/
def marginRecord (cls : Byte) (mhz : Nat) (d : Slow) (s : State) : State :=
  detect hwMargin cls srcSensors (BitVec.ofNat 16 mhz) (w64 (vreqMv s)) (slowPpm s d) s

/-- The planned clock: the first not above need, or 644 MHz; else a step up with its headroom (14:R414). -/
def planClock (s : State) (d : Slow) (room : BitVec 3) : Nat :=
  let lim := s.sens.vlimit.toNat
  let cur := s.sens.plan.toNat
  let f := (([0, 1, 2].filter (cur ≤ ·)).find? fun f => need s d f ≤ lim).getD 2
  if f == cur && 0 < f && room.getLsbD (f - 1) && s.sens.headroom.getLsbD (f - 1) then f - 1 else f

/-- Clocks with the headroom of a step up. -/
def roomNow (s : State) (d : Slow) : BitVec 3 :=
  ([0, 1].filter fun g => need s d g + 20 ≤ s.sens.vlimit.toNat).foldl (fun m g => m ||| BitVec.ofNat 3 (2 ^ g)) 0

/-- A re-plan over new readings: the clock and the voltage target planned, and its record (14:R414). -/
def replan (x : Monitors) (s : State) : State :=
  let s := readSites x.ro s
  let s := { s with sens := { s.sens with pd := x.pd, flagged := x.flagged } }
  let d := slowdown s
  let room := roomNow s d
  let f := planClock s d room
  let lim := s.sens.vlimit.toNat
  let old := s.sens.plan.toNat
  let s' := { s with sens := { s.sens with
    plan := BitVec.ofNat 2 f, target := min (need s d f) lim, headroom := room } }
  let s' := { s' with ctl := { s'.ctl with free := s'.ctl.free + 1 } }
  if lim < need s d 2 then marginRecord clsUnit 644 d s'
  else if old < f then marginRecord clsInfo (codeMhz f) d s' else s'

/-! The voltage request (14:R415, 15:R424). -/

/-- The code of VREQ that the target and VLIMIT give. -/
def targetCode (s : State) : Nat := min ((s.sens.target - 600 + 4) / 5) ((s.sens.vlimit.toNat - 600) / 5)

/-- A clock step that is planned and may begin: down at once; up when the voltage has reached its target. -/
def startStep (s : State) : State :=
  let p := s.sens.plan
  let c := s.bnd.aclkSel
  if s.sens.hold != .none || p == c then s
  else if c.toNat < p.toNat || (targetCode s ≤ s.bnd.vreq.toNat && s.bnd.vack) then
    { s with sens := { s.sens with hold := .emptying p } }
  else s

/-- MARGIN_REPLAN: at a beat that is a multiple of REPLAN (14:R414). -/
def effectMarginReplan (x : Monitors) (s : State) : Host.Outcome State Fault Refusal :=
  .next (settle s (if s.beat.value.toNat % max 1 s.sens.replanOn.toNat != 0 then s else startStep (replan x s)))

/-- The voltage is not lowered before a planned clock step has been made. -/
def mayLower (s : State) : Bool := s.sens.hold == .none && s.bnd.aclkSel == s.sens.plan

/-- One 5 mV step toward the target, at most one in a beat; none while VACK = 0 or VREQ is held (14:R415, 15:R424). -/
def stepVoltage (s : State) : State :=
  let t := targetCode s
  let v := s.bnd.vreq.toNat
  if s.sens.stepped || !s.bnd.vack || s.bnd.vackHold || t == v || (t < v && !mayLower s && v ≤ (s.sens.vlimit.toNat - 600) / 5) then s
  else { s with
    bnd := { s.bnd with vreq := BitVec.ofNat 7 (if t < v then v - 1 else v + 1), vreqStb := true }
    sens := { s.sens with stepped := true } }

/-- VOLTAGE_STEP (14:R415). -/
def effectVoltageStep (s : State) : Host.Outcome State Fault Refusal := .next (settle s (startStep (stepVoltage s)))

/-- VACK_INPUT (15:R424). -/
def effectVackInput (v : Bool) (s : State) : Host.Outcome State Fault Refusal :=
  .next (settle s (startStep { s with bnd := { s.bnd with vack := v, vackHold := s.bnd.vackHold && !v } }))

/-- VACK has stayed 0 for 1,000 beats: VACK_LATE, VREQ held, the clock steps to 644 MHz (15:R424). -/
def vackLate (s : State) : State :=
  if s.bnd.vack || s.bnd.vackHold then s
  else
    let s := setBnd 6 { s with bnd := { s.bnd with vackHold := true }, sens := { s.sens with plan := 2 } }
    startStep (marginRecord clsUnit 644 (slowdown s) s)

/-- VACK_TIMEOUT (15:R424). -/
def effectVackTimeout (s : State) : Host.Outcome State Fault Refusal := .next (settle s (vackLate s))

/-! The array clock (15:R421). -/

/-- No accumulator set settles or drains. -/
def drainsEmpty (s : State) : Bool :=
  !s.opa.inst.toList.any fun i => i.groups.toList.any fun g =>
    [g.x.st, g.y.st].any fun st => st == .settle || st == .drain

/-- Once the pipelines and drains are empty, ACLK_SEL is driven. -/
def driveClock (s : State) : State :=
  match s.sens.hold with
  | .emptying code =>
    if !drainsEmpty s then s else
    { s with
      bnd := { s.bnd with aclkSel := code },
      sens := { s.sens with hold := if s.bnd.aclkCur == code then .resuming else .waiting } }
  | _ => s

/-- ACLK_PIPELINE_EMPTY (15:R421). -/
def effectAclkPipelineEmpty (s : State) : Host.Outcome State Fault Refusal := .next (settle s (driveClock s))

/-- The record of a chip that does not follow 15:R421: DETAIL 0. -/
def clockRecord (s : State) : State := marginRecord clsUnit 0 (slowdown s) s

/-- ACLK_CUR takes a code. -/
def clockChanges (code : BitVec 2) (s : State) : State :=
  let s' := { s with bnd := { s.bnd with aclkCur := code } }
  let agree := code == s.bnd.aclkSel
  if code == s.bnd.aclkCur then s else
  match s.sens.hold with
  | .waiting => if agree then { s' with sens := { s'.sens with hold := .resuming } } else s'
  | .mismatch => if agree then { s' with sens := { s'.sens with hold := .none } } else s'
  | .emptying _ => if agree then s' else clockRecord s'
  | _ => if agree then s' else clockRecord { s' with sens := { s'.sens with hold := .mismatch } }

/-- ACLK_CUR_CHANGE (15:R421); BOOT compares what a reset leaves of it. -/
def effectAclkCurChange (code : BitVec 2) (s : State) : Host.Outcome State Fault Refusal :=
  .next (settle s (if s.ctl.por || s.ctl.wres then { s with bnd := { s.bnd with aclkCur := code } }
    else startStep (clockChanges code s)))

/-- ACLK_RESUME: 16 f-cycles after the match, issue resumes (15:R421). -/
def effectAclkResume (s : State) : Host.Outcome State Fault Refusal :=
  .next (settle s (if s.sens.hold == .resuming then startStep { s with sens := { s.sens with hold := .none } } else s))

/-- ACLK_SWITCH_LATE: no match within 4 beats (15:R421). -/
def effectAclkSwitchLate (s : State) : Host.Outcome State Fault Refusal :=
  .next (settle s (if s.sens.hold == .waiting then clockRecord (setBnd 7 s) else s))

end Sys2Proof.Machine
end

