-- ==== Sys2Proof/Machine/Boot.lean ====
section
/-! DEFINITION. Resets, BOOT, the fuses, the clocks seen by Snowdrop, and test access (13:R450, R452; 14:R405, R416;
15:R420, R422, R423, R431, R435, R438; 16:R440 to R442). -/

namespace Sys2Proof.Machine

/-! Resets. -/

/-- What memory holds behind the block cache's dirty lines. -/
def dropDirty (s : State) : State :=
  { s with mem := Memory.puts s.mem ((s.bc.lines.filter (·.dirty)).flatMap fun l => lineCells l.line l.under) }

/-- Writes that never left for their port are lost; of one that left and is not acknowledged each byte holds the old
or the new value (15:R422, 16:R444). -/
def dropWrites (s : State) : State :=
  let s := (s.memp.out.filter (·.write)).reverse.foldl (fun s r => landPending r.old s) s
  { s with mem := Memory.puts s.mem ((s.memp.waiting.filter (·.write)).reverse.flatMap (·.old)) }

/-- External and stage memory as a reset leaves them: what the ports acknowledged; of the writes of descriptors in
flight each byte landed or not (01:R30). -/
def dropCaches (s : State) : State :=
  let s := dropWrites (dropDirty (landPending (allPending s) s))
  { s with bc := .reset, memp := { Memp.reset with ilv := s.memp.ilv } }

/-- The management state that warm reset keeps (13:R372, R450). -/
def warmMg (m : Mg) : Mg :=
  { Mg.reset with
    nodeAddr := m.nodeAddr, chainPos := m.chainPos, img := m.img, imgLen := m.imgLen, imgDigest := m.imgDigest,
    imgState := m.imgState, imgVersion := m.imgVersion, keys := m.keys, counters := m.counters,
    exhausted := m.exhausted, nonce := m.nonce, chainOut := m.chainOut, avail := m.avail, unavail := m.unavail,
    excluded := m.excluded, window := m.window, recovery := m.recovery }

/-- The unit state that warm reset keeps: banks in their sub-state, retired ways, which no fuse holds (log 43), and the
settings of 0x5006 (13:R450; 14:R405). -/
def warmSvc (v : Svc) : Svc :=
  { Svc.reset with
    bank := v.bank, retWay := v.retWay, trans := v.trans.filter fun t => uClass t.1 == 6, tested := v.tested.filter fun t => uClass t.1 == 6,
    auto := v.auto, cgLimit := v.cgLimit, cgWindow := v.cgWindow, veLimit := v.veLimit, smLimit := v.smLimit }

/-- The block in warm reset (13:R450, R452; 15:R418, R422): BOOT begins at the release. -/
def warmState (s : State) : State :=
  let m := changeIlv Memp.reset.ilv (dropCaches s)
  { State.reset with
    pending := s.pending,
    ctl := { Ctl.reset with
      wres := true, pgood := s.ctl.pgood, phase := .none, warmBoot := true, b3Done := s.ctl.b3Done,
      lostAtReset := s.flt.detected.length, fcycles := s.ctl.fcycles, free := m.ctl.free },
    flt := { s.flt with detected := [], evRec := false, evFatal := false },
    beat := { s.beat with status := .reset, misses := 0 },
    rme := { Rme.reset with
      flagin := s.rme.flagin, self := s.rme.self, tmo := s.rme.tmo, inb := s.rme.inb, win := s.rme.win },
    sm := { s.sm with ceLast := 0, ceCount := 0, ueLast := 0, ueCount := 0, ceWindow := [] },
    mem := m.mem,
    svc := warmSvc s.svc,
    mg := warmMg s.mg,
    sens := { Sens.reset with
      replan := s.sens.replan, sample := s.sens.sample, replanOn := s.sens.replanOn, sampleOn := s.sens.sampleOn,
      vlimit := s.sens.vlimit, plan := s.bnd.aclkSel,
      target := s.sens.target, hold := if s.bnd.aclkCur == s.bnd.aclkSel then .none else .waiting },
    bnd := { Bnd.reset with
      aclkSel := s.bnd.aclkSel, aclkCur := s.bnd.aclkCur, vreq := s.bnd.vreq, vack := s.bnd.vack,
      mgAlive := s.bnd.mgAlive, mgRisen := s.bnd.mgRisen, chainIn := s.bnd.chainIn, flags := s.bnd.flags },
    tap := s.tap }

/-- The block in power-on reset (15:R422, R423): external memory keeps what its ports acknowledged, stage memory loses what
it held; a retired way stays retired (14:R405, log 43). -/
def porState (s : State) : State :=
  let m := dropCaches s
  { State.reset with
    pending := s.pending,
    ctl := { Ctl.reset with
      por := true, pgood := s.ctl.pgood, phase := .none, fcycles := s.ctl.fcycles, free := m.ctl.free },
    mem := m.mem.filter fun c => region s c.1 != .stage,
    svc := { Svc.reset with retWay := s.svc.retWay },
    bnd := { Bnd.reset with aclkCur := s.bnd.aclkCur, vack := s.bnd.vack, chainIn := s.bnd.chainIn } }

/-- POWER_ON_RESET_ASSERT (15:R422). -/
def effectPowerOnResetAssert (s : State) : Host.Outcome State Fault Refusal :=
  .next (settle s (if s.ctl.por then s else porState s))

/-- POWER_ON_RESET_RELEASE: BOOT begins (15:R422, 16:R440). -/
def effectPowerOnResetRelease (s : State) : Host.Outcome State Fault Refusal :=
  .next (settle s (if s.ctl.por then { s with ctl := { s.ctl with por := false, pgood := 0xF, state := .boot, phase := .b1 } } else s))

/-- WARM_RESET_ASSERT: WRESET_N low over a number of MCLK edges; fewer than 64 make no reset, and a power-on reset is
not affected (15:R422). -/
def effectWarmResetAssert (edges : Nat) (s : State) : Host.Outcome State Fault Refusal :=
  .next (settle s (if edges < 64 || s.ctl.por || s.ctl.wres then s else warmState s))

/-- WARM_RESET_RELEASE: BOOT begins, and FAULT_LOST counts the detections that were lost (14:R399). -/
def effectWarmResetRelease (s : State) : Host.Outcome State Fault Refusal :=
  .next (settle s (if s.ctl.wres then
    { s with
      ctl := { s.ctl with wres := false, state := .boot, phase := .b1, lostAtReset := 0 },
      flt := { s.flt with lost := s.flt.lost + w64 s.ctl.lostAtReset } }
  else s))

/-- POWER_GOOD_FALL: an assertion of power-on reset (15:R423). -/
def effectPowerGoodFall (domain : Fin 4) (s : State) : Host.Outcome State Fault Refusal :=
  let t := if s.ctl.por then s else porState s
  .next (settle s { t with ctl := { t.ctl with pgood := putBit t.ctl.pgood domain.val false } })

/-! The fuses (15:R435). -/

def srcFuses : BitVec 16 := 0x0E00

/-- FUSE_READ_DATA: the next word of the array, at BOOT. -/
def effectFuseReadData (w : BitVec 32) (s : State) : Host.Outcome State Fault Refusal :=
  .next (settle s (if s.ctl.phase == .b1 && s.fuses.next < 1024 then
    { s with fuses := { s.fuses with words := vmod s.fuses.words s.fuses.next fun _ => w, next := s.fuses.next + 1 } }
  else s))

/-- FUSE_READ_TIMEOUT: the block enters FAULT (16:R441). -/
def effectFuseReadTimeout (s : State) : Host.Outcome State Fault Refusal :=
  .next (settle s (if s.ctl.phase == .b1 && s.fuses.next < 1024 then
    fatal hwBoot srcFuses 1 (w64 s.fuses.next) 0 s else s))

/-- A programming has ended: its bits are set, or it is tried again, or FUSE_FAIL is set (14:R405, 15:R435). -/
def fuseProgrammed (err : Bool) (s : State) : State :=
  match s.fuses.prog with
  | [] => s
  | p :: rest =>
    if !err then
      { s with fuses := { s.fuses with words := vmod s.fuses.words p.word (· ||| p.bits), prog := rest } }
    else if p.tries < 2 then { s with fuses := { s.fuses with prog := { p with tries := p.tries + 1 } :: rest } }
    else setBnd 13 { s with fuses := { s.fuses with prog := rest } }

/-- FUSE_PROGRAM_DONE (15:R435). -/
def effectFuseProgramDone (err : Bool) (s : State) : Host.Outcome State Fault Refusal :=
  .next (settle s (fuseProgrammed err s))

/-! BOOT (16:R440, R441). -/

/-- The spares as the retirement map keeps them (15:R437); a spare whose march has failed is not used until the next
power-on reset (16:R441). -/
def mapSpares (s : State) : Vector (Option (Fin 128)) 4 :=
  vmapIdx (fun i x =>
    let b := (fuseByte s (0x324 + i)).toNat
    if b == 0 || 128 < b || vget s.sm.spareBad i false then x else some (bankFin (b - 1))) s.sm.spare

/-- B1: fuse load; it ends when the array has been read. -/
def bootB1 (s : State) : State :=
  if s.fuses.next < 1024 then s
  else if (spareActive s).isNone then fatal hwBoot srcFuses 1 0 1 s
  else
    let s := { s with
      gen := { s.gen with testctl := BitVec.ofNat 32 (fuseNat s 0x350 4) },
      mg := { s.mg with keys := vmod s.mg.keys 0 fun _ => some (BitVec.ofNat 128 (fuseNat s 0x10 16)) },
      svc := { s.svc with
        retCG := BitVec.ofNat 16 (fuseNat s 0x310 2), retCC := fuseByte s 0x312, retVE := fuseByte s 0x313,
        retBank := BitVec.ofNat 128 (fuseNat s 0x314 16) },
      sm := { s.sm with spare := mapSpares s } }
    { s with ctl := { s.ctl with phase := .b2 } }

/-- The nonce of a power-on reset: a free value that is not 0 (13:R372). -/
def drawNonce (s : State) : State :=
  if s.mg.nonce != 0 then s
  else
    let (w, s) := drawWord s
    { s with mg := { s.mg with nonce := if w == 0 then 1 else w } }

/-- Snowdrop's firmware starts from an image. -/
def startFirmware (committed : Bool) (s : State) : State :=
  drawNonce { s with
    ctl := { s.ctl with fwUp := true, phase := .b3 },
    mg := if committed then { s.mg with fwVersion := s.mg.imgVersion, fwSource := 1, imgState := 2 }
          else { s.mg with fwVersion := Mg.reset.fwVersion, fwSource := 0 } }

/-- The ROM image is checked. -/
def bootRom (r : BootChecks) (s : State) : State :=
  if r.romGood then startFirmware false s else fatal mgAuthEv 0x0800 0 0 0 s

/-- B2: the image that runs. -/
def bootB2 (r : BootChecks) (s : State) : State :=
  if s.ctl.warmBoot && s.mg.imgState != 0 then
    if r.imgGood then startFirmware true s
    else bootRom r (detect mgAuthEv clsUnit 0x0800 0 0 0 { s with mg := { s.mg with imgState := 0 } })
  else bootRom r s

/-- A bank that no spare serves fails the march: a spare takes its addresses and the bank is retired, or BOOT ends in FAULT. The record
names an address of the bank, which the manual leaves open (log 23). -/
def marchFails (b : Fin 128) (s : State) : State :=
  if (spareOf s b.val).isSome || s.ctl.state == .fault then s
  else
    let src := BitVec.ofNat 16 (0x0600 + b.val)
    let (k, s) := drawNat (smBytes s / 16384) s
    let pa := w64 (stageBase + k * 16384 + ((b.val ^^^ (k % 128)) * 128))
    match freeSpare s with
    | some i =>
      let s := detect smUe clsUnit src 0 pa 0 (takeSpare i b.val s) true
      programRetire (unitOf 6 b.val) (setRetired (unitOf 6 b.val) s)
    | none => fatal smUe src 0 pa 0 s true

/-- A spare fails the march (16:R441): it serves no bank. The manual gives a spare no source code and no address: both
are free in its record (log 65). -/
def spareFails (i : Fin 4) (s : State) : State :=
  let (src, s) := drawNat 256 s
  let (pa, s) := drawNat (2 ^ 52) s
  let s := detect smUe clsUnit (BitVec.ofNat 16 (0x0600 + src)) 0 (w64 pa) 0 s true
  { s with sm := { s.sm with
    spareBad := vmod s.sm.spareBad i.val fun _ => true, spare := vmod s.sm.spare i.val fun _ => none } }

/-- The spares that fail the march, each once; the banks that they kept are left without a spare and count as failed
(log 65). -/
def marchSpares (bad : List (Fin 4)) (s : State) : State :=
  let kept := bad.filterMap fun i => vget s.sm.spare i.val none
  let s := ((List.finRange 4).filter (bad.contains ·)).foldl (fun s i => spareFails i s) s
  kept.foldl (fun s b => marchFails b s) s

/-- B3: the march of stage memory, and every word 0; it is not run after a warm reset once it has been completed. -/
def bootB3 (r : BootChecks) (s : State) : State :=
  if s.ctl.b3Done then { s with ctl := { s.ctl with phase := .b4 } }
  else
    let s := r.badBanks.foldl (fun s b => marchFails b s) (marchSpares r.badSpares s)
    if s.ctl.state == .fault then s
    else
      { s with
        ctl := { s.ctl with phase := .b4, b3Done := true },
        mem := s.mem.filter fun c => region s c.1 != .stage,
        sm := { s.sm with ueWords := [], ceWords := [] } }

/-- B4: the structures of PD_CC and PD_ARR are initialised; the voted items are compared. -/
def bootB4 (r : BootChecks) (s : State) : State :=
  if r.votedGood then { s with ctl := { s.ctl with phase := .b5 } }
  else votedLost r.votedQ s

/-- The band map is dealt at the end of BOOT (03:R74). -/
def bootDeal (s : State) : State :=
  let m := dealMap s (pmode s)
  if m == s.opa.bandmap then s else opaMEvent 2 { s with opa := { s.opa with bandmap := m } }

/-- B5: the retirement map is applied, the re-plan is made, ACLK_SEL takes the planned clock, and CONFIG is entered. -/
def bootB5 (r : BootChecks) (s : State) : State :=
  let s := bootDeal (replan r.monitors s)
  let hold := if s.bnd.aclkCur == s.sens.plan then ClockHold.none else .waiting
  { s with
    ctl := { s.ctl with state := .config, phase := .none },
    bnd := { s.bnd with aclkSel := s.sens.plan },
    sens := { s.sens with hold := hold } }

/-- A BOOT phase ends (16:R440). -/
def endPhase (r : BootChecks) (s : State) : State :=
  match s.ctl.phase with
  | .none => s
  | .b1 => bootB1 s
  | .b2 => bootB2 r s
  | .b3 => bootB3 r s
  | .b4 => bootB4 r s
  | .b5 => bootB5 r s

/-- BOOT_PHASE_END (16:R440, R441). -/
def effectBootPhaseEnd (r : BootChecks) (s : State) : Host.Outcome State Fault Refusal := .next (settle s (endPhase r s))

/-! Boundary conditions (15:R420, R431). -/

/-- A count lies more than 0.5 % from its nominal. -/
def offNominal (n nominal : Nat) : Bool := n * 1000 < nominal * 995 || nominal * 1005 < n * 1000

/-- A window of 10,000 m-cycles: FCLK, and ACLK while PD_ARR is powered. -/
def measureClocks (fclk aclk : Nat) (fLost aLost : Bool) (s : State) : State :=
  let s := if fLost then setBnd 0 s else s
  let s := if aLost && s.ctl.pgood.getLsbD 3 then setBnd 1 s else s
  let s := if offNominal fclk 140000 then setBnd 2 s else s
  if offNominal aclk (100 * clockMhz s.bnd.aclkSel s.bnd.aclkCur) then setBnd 3 s else s

/-- CLOCK_MEASURE_WINDOW (15:R420). -/
def effectClockMeasureWindow (fclk aclk : Nat) (fLost aLost : Bool) (s : State) : Host.Outcome State Fault Refusal :=
  .next (settle s (measureClocks fclk aclk fLost aLost s))

/-- BEAT_MEASURE_WINDOW (15:R420). -/
def effectBeatMeasureWindow (ticks : Nat) (s : State) : Host.Outcome State Fault Refusal :=
  .next (settle s (if ticks < 9900 || 10100 < ticks then setBnd 4 s else s))

/-- MCLK_WATCHDOG: MG_ALIVE falls (15:R431). -/
def effectMclkWatchdog (s : State) : Host.Outcome State Fault Refusal :=
  .next (settle s { s with bnd := { s.bnd with mgAlive := false } })

/-- MG_ALIVE_RISE: once after power-on reset (15:R431). -/
def effectMgAliveRise (s : State) : Host.Outcome State Fault Refusal :=
  .next (settle s (if s.bnd.mgRisen || !s.bnd.chainIn || s.ctl.por then s
    else { s with bnd := { s.bnd with mgAlive := true, mgRisen := true } }))

/-- RECOVERY_TIMER: 100 ms after entering FAULT, Snowdrop asks for a warm reset (14:R416). -/
def effectRecoveryTimer (s : State) : Host.Outcome State Fault Refusal :=
  .next (settle s (if s.ctl.state == .fault && s.mg.recovery == 1 then
    { s with bnd := { s.bnd with wrstReq := true } } else s))

/-! Test access (15:R438). -/

/-- The gate of the instruments is open. -/
def gateOpen (s : State) : Bool := s.ctl.state == .service && s.mg.testmode.getLsbD 0

/-- The gated instruments are reached: the gate was opened, and the block is still where it may be open; else the
segment shifts out 0s and its update has no effect (15:R438). -/
def gatedReached (s : State) : Bool := s.tap.gate && gateOpen s

/-- TAP_RESET: IDCODE is selected (log 11). -/
def effectTapReset (s : State) : Host.Outcome State Fault Refusal := .next (settle s { s with tap := .reset })

/-- IDCODE is selected (15:R438). -/
def effectIdcode (s : State) : Host.Outcome State Fault Refusal :=
  .next (settle s { s with tap := { s.tap with ir := 0x01 } })

/-- IJTAG is selected; its gate opens only while it may (15:R438). -/
def effectIjtag (s : State) : Host.Outcome State Fault Refusal :=
  .next (settle s { s with tap := ⟨0x10, gateOpen s⟩ })

/-- BYPASS is selected, as by every code that the manual does not name (15:R438). -/
def effectBypass (s : State) : Host.Outcome State Fault Refusal :=
  .next (settle s { s with tap := { s.tap with ir := 0xFF } })

end Sys2Proof.Machine
end

