-- ==== Sys2Proof/Machine/Ccm.lean ====
section
/-! DEFINITION. CCM_POST: the mailbox of a control core as an engine (07:R227, R228). -/

namespace Sys2Proof.Machine

/-- TASK and ARG of a CCM_POST (07:R227). -/
def ccmTask (d : Desc) : Byte := BitVec.ofNat 8 (osf d 0 8)
def ccmArg (d : Desc) : Word := w64 (osf d 64 64)

/-- The post goes into a free entry, and its task receives a mailbox cause (07:R227, 11:R318). -/
def postEntry (q : Fin 32) (f : Fetched) (m : Nat) (c : Core) : Core :=
  let e : MbxEntry := ⟨true, q, ccmTask f.desc, f.idx, BitVec.ofNat 32 (dTag f.desc), ccmArg f.desc⟩
  modTask (ccmTask f.desc) (causeTask 2) { c with mbx := vmod c.mbx m fun _ => e }

/-- A CCM_POST starts: at once ended for an absent or halted core, or an INVALID task; else posted (07:R227, R228). -/
def postMailbox (q : Fin 32) (s : State) : State :=
  match startHead s q.val 5 1 with
  | none => s
  | some f =>
    let n := dInstance f.desc
    let c := getCore s n
    if !(ccInService s).getLsbD n || c.halted then startFailed q.val f (endWith dqEngineAbsent) s
    else if (getTask c (ccmTask f.desc)).st == .invalid then startFailed q.val f (endWith dqState) s
    else match freeEntry c with
      | none => s
      | some m => modCore n (postEntry q f m) (beginFlight q.val f { newFlight s q.val f with entry := some m } s)

/-- CCM_POST (07:R227). -/
def effectCcmPost (q : Fin 32) (s : State) : Host.Outcome State Fault Refusal := .next (settle s (postMailbox q s))

end Sys2Proof.Machine
end

