-- ==== Sys2Proof/Machine/CoreOps.lean ====
section
/-! DEFINITION. What the instructions of a control core share: the bank of the running task, commit and faults, the store
buffer, loads and stores (09:R256 to R286, 11:R326, 10:R302, 14:R392). -/

namespace Sys2Proof.Machine

/-! Registers of a bank (09:R256, 11:R313). -/

/-- A general register; G0 reads 0. -/
def Bank.reg (b : Bank) (r : BitVec 5) : Word := if r == 0 then 0 else vget b.g r.toNat 0

/-- A write of a general register: discarded for G0, else its group is dirty. -/
def Bank.setReg (b : Bank) (r : BitVec 5) (v : Word) : Bank :=
  if r == 0 then b
  else { b with
    g := vmod b.g r.toNat fun _ => v, dirty := b.dirty ||| BitVec.ofNat 4 (2 ^ groupOf r.toNat),
    bad := b.bad &&& ~~~(BitVec.ofNat 32 (2 ^ r.toNat)) }

/-- A register that is read has bad parity (14:R390). -/
def Bank.parityBad (b : Bank) (rs : List (BitVec 5)) : Bool := rs.any fun r => r != 0 && b.bad.getLsbD r.toNat

/-- The PC moved on by n bytes. -/
def Bank.advance (b : Bank) (n : Nat) : Bank := { b with pc := b.pc + BitVec.ofNat 48 n }

/-! Commit (09:R258, R278). -/

/-- How an instruction ends: it commits with its bank as it then is, or (its task's registers gone) without one, it
faults precisely, or it waits. -/
inductive Commit where
  | done (b : Bank)
  | gone
  | fault (ev : BitVec 16) (addr : Nat) (half : Nat)
  | wait
  deriving DecidableEq, Repr

/-- An instruction ends: its bank and CTL_INSTRET, or the fault; while it waits, what older accesses and translations
have done stands. -/
def endInstr (c : Fin 8) (k : Nat) (r : Commit × State) : State :=
  match r with
  | (.done b, s) =>
    modCore c (fun x => { modBank k (fun _ => b) x with instret := x.instret + 1, resumed := false, wants := [] }) s
  | (.gone, s) => modCore c (fun x => { x with instret := x.instret + 1, resumed := false, wants := [] }) s
  | (.fault ev a h, s) => takeFault c ev (BitVec.ofNat 48 a) h s
  | (.wait, s) => s

/-- The parts of bank k that an instruction of its occupant reads or writes are not pending (11:R326). -/
def partsReady (c : Core) (k : Nat) (regs : List (BitVec 5)) : Bool :=
  !(c.xq.any fun u => u.level.val == k && u.kind == .fillH) &&
    regs.all fun r => r == 0 || !groupPending c k (groupOf r.toNat)

/-- The bank of a level as it stands. -/
def bankNow (s : State) (c : Fin 8) (k : Nat) : Bank := getBank (getCore s c) k

/-- The row fault that the running task has not taken, if any (10:R302). -/
def pendingRow (s : State) (c : Fin 8) : Option (BitVec 48) :=
  (getCore s c).running.bind fun t => (getTask (getCore s c) t).rowFault

/-- A pending row fault is taken; else the instruction goes on. -/
def rowCheck (c : Fin 8) (f : State → Commit × State) (s : State) : Commit × State :=
  match pendingRow s c with
  | some a =>
    (.fault tileRowFault a.toNat 0, modCore c (fun k => match k.running with
      | some t => modTask t (fun x => { x with rowFault := none }) k
      | none => k) s)
  | none => f s

/-- The parts of bank k for which an instruction that names registers waits (11:R326). -/
def partsWanted (k : Nat) (regs : List (BitVec 5)) : List (Nat × Nat) :=
  (k, 0) :: (regs.filter (· != 0)).map fun r => (k, 1 + groupOf r.toNat)

/-- An instruction of the running task waits for transfer units. -/
def wantParts (c : Nat) (ps : List (Nat × Nat)) (s : State) : State := modCore c (fun x => { x with wants := ps }) s

/-- The parity of what the instruction reads: a store lost from the store buffer, then its source registers; else it goes
on (14:R390, R392). -/
def parityCheck (c : Fin 8) (src : List (BitVec 5)) (f : Nat → State → Commit × State) (k : Nat) (s : State) :
    Commit × State :=
  match (getCore s c).lost with
  | some a => (.fault ccParity a.toNat 0, modCore c (fun x => { x with lost := none }) s)
  | none => if (bankNow s c k).parityBad src then (.fault ccParity 0 0, s) else f k s

/-- An instruction of the running task of a core that writes registers `dst` and reads registers `src`, at its level. The
first instruction after the task has resumed takes a pending row fault. -/
def runInstr (c : Fin 8) (dst src : List (BitVec 5)) (f : Nat → State → Commit × State) (s : State) : State :=
  if !coreRuns s c then s else
  match runningTask (getCore s c) with
  | none => s
  | some (_, k) =>
    if !partsReady (getCore s c) k (dst ++ src) then wantParts c (partsWanted k (dst ++ src)) s
    else
      let g := parityCheck c src f k
      endInstr c k (if (getCore s c).resumed then rowCheck c g s else g s)

/-- An instruction that only reads and writes its bank. -/
def runPlain (c : Fin 8) (dst src : List (BitVec 5)) (f : Bank → Commit) (s : State) : State :=
  runInstr c dst src (fun k s => (f (bankNow s c k), s)) s

/-- The record of a retry that matched, of an instruction at the state's PC (14:R392, R397). -/
def retryRecord (c : Fin 8) (k : Nat) (at_ s : State) : State :=
  detect ccParity clsCorrected (BitVec.ofNat 16 (0x0200 + c.val)) (BitVec.ofNat 16 (k + 256))
    ((bankNow at_ c k).pc.setWidth 64) 0 s

/-- The residue check of a result (14:R392): a retry that matches is recorded; a second mismatch faults. -/
def withResidue (c : Fin 8) (res : Residue) (f : Bank → Commit) (k : Nat) (s : State) : Commit × State :=
  let b := bankNow s c k
  match res with
  | .ok => (f b, s)
  | .retried => (f b, retryRecord c k s s)
  | .failed => (.fault ccParity 0 0, s)

/-- An arithmetic instruction with a residue check. -/
def runArith (c : Fin 8) (dst src : List (BitVec 5)) (res : Residue) (f : Bank → Commit) (s : State) : State :=
  runInstr c dst src (withResidue c res f) s

/-- A register result: d, then the next instruction. -/
def Bank.result (b : Bank) (d : BitVec 5) (v : Word) : Commit := .done ((b.setReg d v).advance 4)

/-! The store buffer (09:R275, R276). -/

/-- Two byte ranges share a byte. -/
def bytesMeet (a n b m : Nat) : Bool := a < b + m && b < a + n

def SbEntry.meets (e : SbEntry) (pa n : Nat) : Bool := bytesMeet e.pa e.bytes.length pa n

/-- The memory part of a store: ZLINE writes a line whole (12:R358), a store by its attribute (12:R352). -/
def storeMem (c : Fin 8) (e : SbEntry) (s : State) : State :=
  let wb := e.attr == attrWB
  if e.bytes.length == 128 && region s e.pa == .ext then zeroLine wb (.coreStore c) (e.pa / 128) s
  else (writeAccess wb (!wb) (.coreStore c) (cellsAt e.pa e.bytes) s).2

/-- An entry leaves the store buffer: rows of older tile instructions are performed first (log 28). One with bad parity
writes nothing (14:R390, log 60). -/
def drainEntry (c : Fin 8) (e : SbEntry) (s : State) : State :=
  let s := modCore c (fun k => { k with sb := k.sb.erase e }) (allRows c s)
  if e.bad then modCore c (fun k => { k with lost := some (BitVec.ofNat 48 e.va) }) s
  else if region s e.pa == .ctl then srcWrite (.core c) (past ctlBase e.pa) (w64 (leNat e.bytes)) s else storeMem c e s

/-- The oldest entry leaves, unless it needs a memory port that is held (13:R388). -/
def drainOldest (c : Fin 8) (s : State) : State :=
  match (getCore s c).sb with
  | [] => s
  | e :: _ => if portWaits s e.pa e.bytes.length then s else drainEntry c e s

def drainFrom (c : Fin 8) : Nat → State → State
  | 0, s => s
  | n + 1, s => drainFrom c n (drainOldest c s)

/-- Every entry leaves (those that can). -/
def drainAll (c : Fin 8) (s : State) : State := drainFrom c (getCore s c).sb.length s

/-- Entries of the buffer that can leave next: the oldest, and stores to write-combining pages with no older store to the
same bytes before them; after these, the oldest of the others (09:R275, 08:R241). -/
def drainable : List SbEntry → List SbEntry → Bool → List SbEntry
  | _, [], _ => []
  | older, e :: es, blocked =>
    let free := !(older.any fun o => o.meets e.pa e.bytes.length) && (e.attr == attrWC || !blocked)
    (if free then [e] else []) ++ drainable (older ++ [e]) es (blocked || e.attr != attrWC)

/-- One entry that can leave does; which is free. -/
def drainOne (c : Fin 8) (s : State) : State :=
  let es := (drainable [] (getCore s c).sb false).filter fun e => !portWaits s e.pa e.bytes.length
  match es with
  | [] => s
  | e :: rest =>
    let (i, s) := drawNat (rest.length + 1) s
    drainEntry c ((e :: rest).getD i e) s

/-- Entries leave until n are free; whether they are. -/
def makeRoom (c : Fin 8) (n : Nat) (s : State) : Bool × State :=
  let s := drainFrom c ((getCore s c).sb.length + n - 16) s
  ((getCore s c).sb.length + n ≤ 16, s)

/-- The older stores of the core and its rows are performed; whether all could be (09:R267, R277; 10:R300). -/
def performOlder (c : Fin 8) (s : State) : Bool × State :=
  let s := drainAll c (allRows c s)
  ((getCore s c).sb.isEmpty && (getCore s c).rows.isEmpty, s)

/-! Accesses (09:R272 to R276). -/

/-- Half of an access: its virtual and physical address, length and attribute. -/
structure Half where
  va   : Nat
  pa   : Nat
  len  : Nat
  attr : BitVec 3
  deriving DecidableEq, Repr

/-- The halves of an access, or its fault; `wait`: translation is held. -/
inductive Halves where
  | ok (hs : List Half)
  | fault (ev : BitVec 16) (addr half : Nat)
  | wait
  deriving DecidableEq, Repr

/-- The number of bytes of an n-byte access at a in its first half. -/
def firstLen (a n : Nat) : Nat := n - a % n

/-- The translated halves of an access of n bytes at a (09:R273, R274; 13:R382). -/
def accessHalves (c : Fin 8) (k : Nat) (acc : Access) (a n : Nat) (s : State) : Halves × State :=
  if a % n == 0 then
    match xlatCore c a acc k s with
    | (.wait, s) => (.wait, s)
    | (.fault ev, s) => (.fault ev a 0, s)
    | (.ok pa attr, s) =>
      if region s pa == .ctl && n != 8 then (.fault ccIllegal a 0, s) else (.ok [⟨a, pa, n, attr⟩], s)
  else
    let b := (a + firstLen a n) % 2 ^ 64
    match xlatCore c a acc k s with
    | (.wait, s) => (.wait, s)
    | (.fault ev, s) => (.fault ev a 1, s)
    | (.ok pa attr, s) =>
      if attr == attrDevice || (getCore s c).alchk then (.fault ccIllegal a 0, s)
      else match xlatCore c b acc k s with
        | (.wait, s) => (.wait, s)
        | (.fault ev, s) => (.fault ev b 2, s)
        | (.ok pb attrb, s) =>
          if attrb == attrDevice then (.fault ccIllegal a 0, s)
          else (.ok [⟨a, pa, firstLen a n, attr⟩, ⟨b, pb, n - firstLen a n, attrb⟩], s)

/-- The bytes that an entry holds of a range that it contains. -/
def SbEntry.slice (e : SbEntry) (pa n : Nat) : List Byte := (e.bytes.drop (pa - e.pa)).take n

/-- The youngest older store that overlaps, and the number of entries up to it. -/
def youngest (sb : List SbEntry) (pa n : Nat) : Option (SbEntry × Nat) :=
  (sb.zipIdx.reverse.find? fun e => e.1.meets pa n).map fun e => (e.1, e.2 + 1)

/-- A half of a load is read from memory or a register: none where it is uncorrectable, or was when its line left the L1
data cache (14:R390). -/
def readHalf (c : Fin 8) (h : Half) (s : State) : Option (List Byte) × State :=
  if region s h.pa == .ctl then
    let (v, s) := regRead (past ctlBase h.pa) s
    (some (natLe v.toNat 8), s)
  else if attrCached h.attr && (getCore s c).l1bad.contains (h.pa / 128) then
    (none, modCore c (fun k => { k with l1bad := k.l1bad.erase (h.pa / 128) }) s)
  else
    let (r, s) := coreRead c h.attr h.pa h.len s
    (if r == .uncorrectable then none else some (Memory.gets s.mem h.pa h.len), s)

/-- The bytes of a core's stores that a memory port has not acknowledged (15:R425). -/
def storesPosted (c : Fin 8) (s : State) : List Host.Cell :=
  ((s.memp.out ++ s.memp.waiting).filter fun r => r.write && r.waiter == .coreStore c).flatMap (·.old)

/-- What the older stores give a half of a load (09:R276): the bytes and parity of the youngest that overlaps, where it
contains the half, or the number of entries that have to leave. -/
def fromStores (sb : List SbEntry) (h : Half) : Option (List Byte × Bool) × Nat :=
  match youngest sb h.pa h.len with
  | none => (none, 0)
  | some (e, n) =>
    if e.pa ≤ h.pa && h.pa + h.len ≤ e.pa + e.bytes.length then (some (e.slice h.pa h.len, e.bad), 0) else (none, n)

/-- A half of a load that is not forwarded waits: an overlapping store is still in the buffer, or, of a page that the L1
data cache does not allocate, is not acknowledged (09:R276); an older store to a device page is still in the buffer, for a
device page (12:R339); a memory port is held. -/
def halfWaits (c : Fin 8) (h : Half) (s : State) : Bool :=
  ((getCore s c).sb.any fun e => e.meets h.pa h.len || (h.attr == attrDevice && e.attr == attrDevice)) ||
    (!attrCached h.attr && (storesPosted c s).any fun x => h.pa ≤ x.1 && x.1 < h.pa + h.len) || portWaits s h.pa h.len

/-- The entries that have to leave before a half is read: the overlapping ones, and, for a device page, the stores to
device pages (09:R276, 12:R339). -/
def entriesBefore (sb : List SbEntry) (h : Half) : Nat :=
  let dev := if h.attr == attrDevice then sb.length - (sb.reverse.takeWhile fun e => e.attr != attrDevice).length else 0
  max (fromStores sb h).2 dev

/-- The halves of a load in order (09:R274, R276), the store buffer having stood as `sb`: each is forwarded from its
youngest overlapping store, or read; its bytes, or the half that failed. -/
def loadHalves (c : Fin 8) (sb : List SbEntry) (split : Bool) :
    List Half → Nat → State → Except Commit (List Byte) × State
  | [], _, s => (.ok [], s)
  | h :: hs, i, s =>
    let (got, s) : Option (List Byte) × State := match (fromStores sb h).1 with
      | some (bs, bad) => (if bad then none else some bs, s)
      | none => readHalf c h s
    match got with
    | none => (.error (.fault ccParity h.va (if split then i else 0)), s)
    | some bs => match loadHalves c sb split hs (i + 1) s with
      | (.ok rest, s) => (.ok (bs ++ rest), s)
      | r => r

/-- A value of n bytes, sign- or zero-extended. -/
def extendLe (sext : Bool) (n : Nat) (bs : List Byte) : Word :=
  let v := leNat bs
  if sext && 2 ^ (8 * n - 1) ≤ v then w64 v - w64 (2 ^ (8 * n)) else w64 v

/-- The address of an I-format access. -/
def effAddr (b : Bank) (a : BitVec 5) (imm : BitVec 16) : Nat := (b.reg a + imm.signExtend 64).toNat

/-- A load of n bytes (09:R262, R273 to R276): the rows of older tile instructions are performed before it (10:R300,
log 28). -/
def coreLoad (c : Fin 8) (d a : BitVec 5) (imm : BitVec 16) (n : Nat) (sext : Bool) (k : Nat) (s : State) :
    Commit × State :=
  let s := allRows c s
  if !(getCore s c).rows.isEmpty then (.wait, s) else
  match accessHalves c k .load (effAddr (bankNow s c k) a imm) n s with
  | (.wait, s) => (.wait, s)
  | (.fault ev x h, s) => (.fault ev x h, s)
  | (.ok hs, s) =>
    let sb := (getCore s c).sb
    let s := drainFrom c ((hs.map (entriesBefore sb)).foldl max 0) s
    if hs.any fun h => (fromStores sb h).1.isNone && halfWaits c h s then (.wait, s)
    else match loadHalves c sb (hs.length == 2) hs 1 s with
      | (.error r, s) => (r, s)
      | (.ok bs, s) => ((bankNow s c k).result d (extendLe sext n bs), s)

/-- The entries of a store: the bytes of its value over its halves. -/
def storeEntries : List Half → List Byte → List SbEntry
  | [], _ => []
  | h :: hs, bs => ⟨h.va, h.pa, bs.take h.len, h.attr, false⟩ :: storeEntries hs (bs.drop h.len)

/-- Entries are committed into the store buffer once there is room for them (09:R275). -/
def commitStores (c : Fin 8) (k : Nat) (es : List SbEntry) (s : State) : Commit × State :=
  match makeRoom c es.length s with
  | (false, s) => (.wait, s)
  | (true, s) =>
    let s := modCore c (fun x => { x with sb := x.sb ++ es }) s
    (.done ((bankNow s c k).advance 4), s)

/-- A store of the low n bytes of d (09:R262, R273 to R275). -/
def coreStore (c : Fin 8) (d a : BitVec 5) (imm : BitVec 16) (n : Nat) (k : Nat) (s : State) : Commit × State :=
  let b := bankNow s c k
  match accessHalves c k .store (effAddr b a imm) n s with
  | (.wait, s) => (.wait, s)
  | (.fault ev x h, s) => (.fault ev x h, s)
  | (.ok hs, s) => commitStores c k (storeEntries hs (natLe (b.reg d).toNat n)) s

end Sys2Proof.Machine
end

