-- ==== Sys2Proof/Machine/CoreSys.lean ====
section
/-! DEFINITION. System operations of the control cores: control registers, CSYNC, FENCE, the bank window, the end of
tasks, TRAP, TLBI and ZLINE; and control registers reached by a task or through the CC window (09:R268, R277 to R283,
11:R315 to R333, 12:R346 to R348, R358). -/

namespace Sys2Proof.Machine

/-! Control registers (09:R281 to R283, 11:R315). -/

/-- The fault of a CRR or CRW at a level, if any: an unassigned number, or one that is not legal at the level. -/
def crFault (r k : Nat) (write : Bool) : Option (BitVec 16) :=
  match crRules r with
  | none => some ccIllegal
  | some (rd, wr) => if crLegal (if write then wr else rd) k then none else some ccPriv

/-- A control register is read into d. -/
def readCr (c : Fin 8) (d : BitVec 5) (r : Nat) (k : Nat) (s : State) : Commit × State :=
  match crFault r k false with
  | some ev => (.fault ev 0 0, s)
  | none =>
    let v := crValue s c.val (.level k) r
    let s := crReadEffect c.val r s
    ((bankNow s c k).result d v, s)

/-- A control register is written; the running task can lose its registers by it (11:R320). -/
def writeCr (c : Fin 8) (r : Nat) (v : Word) (k : Nat) (s : State) : Commit × State :=
  match crFault r k true with
  | some ev => (.fault ev 0 0, s)
  | none =>
    let s := crWriteTask c.val k r v s
    (if (getCore s c).running.isNone then .gone else .done ((bankNow s c k).advance 4), s)

/-- A write of a control register by the running task, with the value that it holds. -/
def runCrw (c : Fin 8) (r : Nat) (v : Word) (s : State) : Host.Outcome State Fault Refusal :=
  .next (settle s (runInstr c [] [] (writeCr c r v) s))

/-- A write of a control register by the running task or through the CC window of a core (09:R281). -/
def crCommand (who : CrWho) (r : Nat) (v : Word) (s : State) : Host.Outcome State Fault Refusal :=
  match who with
  | .task c => runCrw c r v s
  | .window src c => writeReg src (0x600000 + c.val * 0x10000 + r * 8) v s

/-- CRR (09:R281). -/
def effectCrr (c : Fin 8) (d : BitVec 5) (cr : BitVec 12) (s : State) : Host.Outcome State Fault Refusal :=
  .next (settle s (runInstr c [d] [] (readCr c d cr.toNat) s))

/-- CRW (09:R282). -/
def effectCrw (c : Fin 8) (a : BitVec 5) (cr : BitVec 12) (s : State) : Host.Outcome State Fault Refusal :=
  .next (settle s (runInstr c [] [a] (fun k s => writeCr c cr.toNat ((bankNow s c k).reg a) k s) s))

/-- TASK_ENTRY_WRITE: a write of CTL_TENT0 to CTL_TENT3 (11:R316). -/
def effectTaskEntryWrite (who : CrWho) (w : Fin 4) (v : Word) (s : State) : Host.Outcome State Fault Refusal :=
  crCommand who (0x63 + w.val) v s

/-- WAKE: a write of CTL_WAKE (11:R318). -/
def effectWake (who : CrWho) (task : Byte) (s : State) : Host.Outcome State Fault Refusal :=
  crCommand who 0x68 (task.setWidth 64) s

/-- ARM_BINDING: CRW of CTL_MYARM (11:R320). -/
def effectArmBinding (c : Fin 8) (a : BitVec 5) (s : State) : Host.Outcome State Fault Refusal :=
  .next (settle s (runInstr c [] [a] (fun k s => writeCr c 0x69 ((bankNow s c k).reg a) k s) s))

/-- READ_CAUSE: CRR of CTL_MYCAUSE (11:R320). -/
def effectReadCause (c : Fin 8) (d : BitVec 5) (s : State) : Host.Outcome State Fault Refusal :=
  .next (settle s (runInstr c [d] [] (readCr c d 0x6A) s))

/-- The word of CTL_TCMD. -/
def tcmdWord (cmd : Nat) (task : Byte) : Word := w64 (task.toNat * 256 + cmd)

/-- TASK_RESUME: CTL_TCMD with RESUME (11:R320). -/
def effectTaskResume (who : CrWho) (task : Byte) (s : State) : Host.Outcome State Fault Refusal :=
  crCommand who 0x67 (tcmdWord 1 task) s

/-- TASK_KILL: CTL_TCMD with KILL (11:R320). -/
def effectTaskKill (who : CrWho) (task : Byte) (s : State) : Host.Outcome State Fault Refusal :=
  crCommand who 0x67 (tcmdWord 2 task) s

/-- TRANSFER_RETRY: CTL_TCMD with RETRY (11:R320, R328). -/
def effectTransferRetry (who : CrWho) (task : Byte) (s : State) : Host.Outcome State Fault Refusal :=
  crCommand who 0x67 (tcmdWord 3 task) s

/-- CLEAR_PEND: CTL_TCMD with CLRPEND (11:R320). -/
def effectClearPend (who : CrWho) (task : Byte) (s : State) : Host.Outcome State Fault Refusal :=
  crCommand who 0x67 (tcmdWord 4 task) s

/-- MAILBOX_DONE: a write of MBX_DONE_m; through the CC window it is ignored (11:R315, R333). -/
def effectMailboxDone (who : CrWho) (m : Fin 16) (v : Word) (s : State) : Host.Outcome State Fault Refusal :=
  crCommand who (0x83 + 4 * m.val) v s

/-! CSYNC and FENCE (09:R277, R282). -/

/-- Every row of the core is performed, then a pending row fault is taken, else the instruction goes on (10:R302). -/
def afterRows (c : Fin 8) (f : State → Commit × State) (s : State) : Commit × State :=
  let s := allRows c s
  if !(getCore s c).rows.isEmpty then (.wait, s) else rowCheck c f s

/-- CSYNC (09:R282). -/
def effectCsync (c : Fin 8) (s : State) : Host.Outcome State Fault Refusal :=
  .next (settle s (runInstr c [] [] (fun k => afterRows c fun s =>
    let s := modCore c applyHeld s
    (.done ((bankNow s c k).advance 4), s)) s))

/-- Stores of a core that a memory port has not acknowledged. -/
def storesOut (c : Fin 8) (s : State) : Bool := (s.memp.out ++ s.memp.waiting).any fun r => r.waiter == .coreStore c

/-- FENCE: the store buffer is empty, and its stores are acknowledged (09:R277). -/
def effectFence (c : Fin 8) (s : State) : Host.Outcome State Fault Refusal :=
  .next (settle s (runInstr c [] [] (fun k s =>
    match performOlder c s with
    | (false, s) => (.wait, s)
    | (true, s) => rowCheck c (fun s =>
        if storesOut c s then (.wait, s) else (.done ((bankNow s c k).advance 4), s)) s) s))

/-! The bank window (11:R332). -/

/-- A register of a bank by cr: G1 to G31, PC, CS. -/
def bankRead (b : Bank) (r : Nat) : Word :=
  if r < 32 then b.reg (BitVec.ofNat 5 r) else if r == 32 then b.pc.setWidth 64 else b.cs.setWidth 64

/-- A write of a register of a bank by cr; bits of the PC and of CS that are reserved stay 0. -/
def bankWrite (b : Bank) (r : Nat) (v : Word) : Bank :=
  if r < 32 then b.setReg (BitVec.ofNat 5 r) v
  else if r == 32 then { b with pc := v.extractLsb' 0 48 &&& 0xFFFFFFFFFFFC }
  else { b with cs := v.extractLsb' 0 13 &&& csMask }

/-- The part that cr names in the selected bank has a transfer pending. -/
def windowPending (c : Core) (r : Nat) : Bool :=
  let k := c.bankwin.val
  if r < 32 then groupPending c k (groupOf r)
  else c.xq.any fun u => u.level.val == k && (u.kind == .fillH || u.kind == .spillH)

/-- The level and part that cr names (11:R326). -/
def windowPart (c : Core) (r : Nat) : Nat × Nat := (c.bankwin.val, if r < 32 then 1 + groupOf r else 0)

/-- BRD and BWR are legal for a cr from 1 to 33 at L6 and L7 (09:R268). -/
def windowFault (cr : BitVec 12) (k : Nat) : Option (BitVec 16) :=
  if cr.toNat == 0 || 33 < cr.toNat then some ccIllegal else if k < 6 then some ccPriv else none

/-- BRD (11:R332). -/
def effectBrd (c : Fin 8) (d : BitVec 5) (cr : BitVec 12) (s : State) : Host.Outcome State Fault Refusal :=
  .next (settle s (runInstr c [d] [] (fun k s =>
    let core := getCore s c
    match windowFault cr k with
    | some ev => (.fault ev 0 0, s)
    | none =>
      if windowPending core cr.toNat then (.wait, wantParts c [windowPart core cr.toNat] s)
      else
        let b := getBank core core.bankwin.val
        if cr.toNat < 32 && b.parityBad [cr.setWidth 5] then (.fault ccParity 0 0, s)
        else ((bankNow s c k).result d (if b.occ.isSome then bankRead b cr.toNat else 0), s)) s))

/-- BWR (11:R332). -/
def effectBwr (c : Fin 8) (a : BitVec 5) (cr : BitVec 12) (s : State) : Host.Outcome State Fault Refusal :=
  .next (settle s (runInstr c [] [a] (fun k s =>
    let core := getCore s c
    match windowFault cr k with
    | some ev => (.fault ev 0 0, s)
    | none =>
      if k == 6 && core.bankwin.val == 7 then (.fault ccPriv 0 0, s)
      else if windowPending core cr.toNat then (.wait, wantParts c [windowPart core cr.toNat] s)
      else
        let v := (bankNow s c k).reg a
        if (getBank core core.bankwin.val).occ.isNone then (.done ((bankNow s c k).advance 4), s)
        else if core.bankwin.val == k then
          let b := bankNow s c k
          (.done (if cr.toNat == 32 then bankWrite b 32 v else (bankWrite b cr.toNat v).advance 4), s)
        else
          (.done ((bankNow s c k).advance 4),
            modCore c (modBank core.bankwin.val fun b => bankWrite b cr.toNat v) s)) s))

/-! The end of a task (11:R319). -/

/-- The running task ends: its registers and tile state go. -/
def endTask (t : Byte) (c : Core) : Core :=
  let c := dropTiles t (freeBank t (cancelUnits t c))
  modTask t (fun y => { y with st := if y.pend then .ready else .dormant, pend := false, spilled := false })
    { c with running := none, outgoing := none }

/-- TEND (11:R319). -/
def effectTend (c : Fin 8) (s : State) : Host.Outcome State Fault Refusal :=
  .next (settle s (runInstr c [] [] (fun _ => afterRows c fun s =>
    match (getCore s c).running with
    | some t => (.gone, modCore c (endTask t) s)
    | none => (.wait, s)) s))

/-- TWAIT of the running task at level k: it goes on when a cause has come, else it waits for one. -/
def waitTask (t : Byte) (k : Nat) (c : Core) : Core :=
  let c := modBank k (fun b => b.advance 4) c
  if (getTask c t).pend then modTask t (fun y => { y with pend := false }) c
  else modTask t (fun y => { y with st := .waiting }) { c with running := none, outgoing := some t }

/-- TWAIT (11:R319). -/
def effectTwait (c : Fin 8) (s : State) : Host.Outcome State Fault Refusal :=
  .next (settle s (runInstr c [] [] (fun k => rowCheck c fun s =>
    match (getCore s c).running with
    | some t => (.gone, modCore c (waitTask t k) s)
    | none => (.wait, s)) s))

/-- A task that a TRAP with a code fires (11:R317). -/
def trapBound (code : Byte) (t : Task) : Bool :=
  t.src == 7 && (t.smode.getLsbD 0 || t.value.extractLsb' 0 8 == code)

/-- TRAP (11:R317). -/
def effectTrap (c : Fin 8) (code : Byte) (s : State) : Host.Outcome State Fault Refusal :=
  .next (settle s (runInstr c [] [] (fun k => rowCheck c fun s =>
    let s := modCore c (fireWhere (trapBound code)) s
    (.done ((bankNow s c k).advance 4), s)) s))

/-! TLBI and XLAT_INV (12:R346 to R348). -/

/-- Every store buffer of the block leaves: accesses through a removed translation are performed (12:R347). -/
def drainCores (s : State) : State :=
  (List.finRange 8).foldl (fun s c => drainAll c (allRows c s)) s

/-- No store and no row of a core is left. -/
def coresDrained (s : State) : Bool := s.cores.toList.all fun k => k.sb.isEmpty && k.rows.isEmpty

/-- The context of a request that waits at a memory port; none for one without an engine's translation. -/
def Waiter.ctx (s : State) (w : Waiter) : Option (BitVec 16) :=
  match w with
  | .engine q _ _ _ => some (getQ s q.val).ctx
  | _ => none

/-- The contexts in which an engine or RME has translated an access that it has not performed: bytes that it will write,
requests at the memory ports, and requests to other nodes (12:R347). -/
def ctxsOut (s : State) : List (BitVec 16) :=
  (s.dq.toList.filter fun q => q.inflight.any fun f => f.ended.isNone && !f.posted && !f.writes.isEmpty).map (·.ctx) ++
    (s.memp.out ++ s.memp.waiting).filterMap (·.waiter.ctx s) ++
    ((s.rme.out ++ s.rme.held.map (·.req) ++ s.rme.linger).filter fun r => match r.kind with
      | .signal _ => false
      | _ => true).map fun r => (getQ s r.q.val).ctx

/-- Every access that was translated with an entry that the variant removes has been performed (12:R347). -/
def accessesDone (variant : Nat) (ctx : BitVec 16) (s : State) : Bool :=
  coresDrained s && (ctxsOut s).all fun x => variant != 3 && x != ctx

/-- TLBI of a variant at an operand (12:R346, R347). -/
def coreTlbi (c : Fin 8) (variant : Nat) (a : BitVec 5) (k : Nat) (s : State) : Commit × State :=
  if k < 6 then (.fault ccPriv 0 0, s)
  else
    let s := drainCores s
    let v := (bankNow s c k).reg a
    if !accessesDone variant (v.extractLsb' 48 16) s || storesOut c s then (.wait, s)
    else
      let s := invalidate variant (v.extractLsb' 48 16) (fld v 12 36 * 4096) s
      (.done ((bankNow s c k).advance 4), s)

def runTlbi (c : Fin 8) (variant : Nat) (a : BitVec 5) (s : State) : Host.Outcome State Fault Refusal :=
  .next (settle s (runInstr c [] [a] (coreTlbi c variant a) s))

/-- TLBI_ADDRESS (12:R346). -/
def effectTlbiAddress (c : Fin 8) (a : BitVec 5) (s : State) : Host.Outcome State Fault Refusal := runTlbi c 0 a s

/-- TLBI_ADDRESS_WALKER (12:R346). -/
def effectTlbiAddressWalker (c : Fin 8) (a : BitVec 5) (s : State) : Host.Outcome State Fault Refusal := runTlbi c 1 a s

/-- TLBI_CONTEXT (12:R346). -/
def effectTlbiContext (c : Fin 8) (a : BitVec 5) (s : State) : Host.Outcome State Fault Refusal := runTlbi c 2 a s

/-- TLBI_BLOCK (12:R346). -/
def effectTlbiBlock (c : Fin 8) (a : BitVec 5) (s : State) : Host.Outcome State Fault Refusal := runTlbi c 3 a s

/-- The invalidation that XLAT_INV has started, and whose entries went then, ends: accesses through them are performed,
and INV_DONE is set (12:R347, R348). -/
def endInv (s : State) : State :=
  match s.xlat.inv with
  | none => s
  | some i =>
    let s := drainCores s
    if !accessesDone i.variant.toNat i.ctx s then s else xlatEvent 0 { s with xlat := { s.xlat with inv := none } }

/-- XLAT_INV_COMPLETE (12:R347). -/
def effectXlatInvComplete (s : State) : Host.Outcome State Fault Refusal := .next (settle s (endInv s))

/-! ZLINE (12:R358). -/

/-- ZLINE: one store of 128 zeros into the line that holds a. -/
def coreZline (c : Fin 8) (a : BitVec 5) (k : Nat) (s : State) : Commit × State :=
  let va := ((bankNow s c k).reg a).toNat
  match xlatCore c va .rowStore k s with
  | (.wait, s) => (.wait, s)
  | (.fault ev, s) => (.fault ev va 0, s)
  | (.ok pa attr, s) =>
    commitStores c k [⟨va / 128 * 128, pa / 128 * 128, List.replicate 128 0, attr, false⟩] s

/-- ZLINE (12:R358). -/
def effectZline (c : Fin 8) (a : BitVec 5) (s : State) : Host.Outcome State Fault Refusal :=
  .next (settle s (runInstr c [] [a] (coreZline c a) s))

end Sys2Proof.Machine
end

