-- ==== Sys2Proof/Machine/OpaSteps.lean ====
section
/-! DEFINITION. Steps of the array: products, step sums, accumulation, skipping, issue, power smoothing, replay
(03:R67, R68, R87 to R95; 04:R101 to R108; 05:R131 to R137; 14:R391, R401, R402). -/

namespace Sys2Proof.Machine

/-! Step sums and accumulation. -/

/-- Reduction indices of a step for dense operands (03:R67). -/
def stepWidth (fa fb : Nat) : Nat :=
  if fmtRate fa == 16 || fmtRate fb == 16 then 2 else if fmtRate fa == 4 && fmtRate fb == 4 then 16 else 8

/-- Logical indices that a step covers (05:R137). -/
def stepLen (d : Desc) : Nat :=
  let ks := stepWidth (dA d).fmt (dB d).fmt
  if (dA d).layout == 3 || (dB d).layout == 3 then 2 * ks else ks

/-- Step positions of a pass. -/
def stepCount (d : Desc) : Nat := (opaK d + stepLen d - 1) / stepLen d

/-- A product of factors; none is an exact zero that no other factor touches: a zero block, an index without a stored
value, or beyond K (04:R104, 05:R137). -/
def product (x y : Option Val) : XVal :=
  match x, y with
  | some a, some b => xMul (valX a) (valX b)
  | _, _ => .real ⟨false, 0, 1, 0⟩

def xIsInf (neg : Bool) : XVal → Bool
  | .inf n => n == neg
  | _ => false

/-- The FP32 step sum; none is ZERO (04:R105). -/
def stepSum (ps : List XVal) : Option Nat :=
  if ps.any xIsNan || (ps.any (xIsInf false) && ps.any (xIsInf true)) then some 0x7FC00000
  else if ps.any (xIsInf false) then some 0x7F800000
  else if ps.any (xIsInf true) then some 0xFF800000
  else
    let xs := ps.filterMap fun p => match p with | .real x => if x.num == 0 then none else some x | _ => none
    match xs.map (·.ilog) with
    | [] => none
    | l :: ls =>
      let q := ls.foldl max l - 80
      let sum : Int := (xs.map fun x =>
        let (n, d) := x.units q
        if x.neg then -((n / d : Nat) : Int) else ((n / d : Nat) : Int)).foldl (· + ·) 0
      let sticky := xs.any fun x => (x.units q).1 % (x.units q).2 != 0
      if sum == 0 && !sticky then none
      else
        let m := if sticky then sum.natAbs ||| 1 else sum.natAbs
        some (rne32 (.real ⟨sum < 0, m, 1, q⟩)).1

/-- The exact integer step sum; none is ZERO, and an inner none NaN (04:R105). -/
def intSum (ps : List XVal) : Option (Option Int) :=
  if ps.any xIsNan then some none
  else
    let sum := (ps.map fun p => valInt (xToVal p)).foldl (· + ·) 0
    if sum == 0 then none else some (some sum)

/-- A step sum is added into an output's registers (04:R107). -/
def accumulate (fmt : BitVec 2) (r : BitVec 32 × BitVec 32) (ps : List XVal) : BitVec 32 × BitVec 32 :=
  let val (c : Nat) : XVal := valX (decode32 c)
  match fmt.toNat with
  | 1 =>
    match intSum ps with
    | none => r
    | some v =>
      let acc : Int := r.1.toInt
      match v with
      | none => (0x80000000, 0)
      | some v =>
        if r.1 == 0x80000000 then r
        else (BitVec.ofInt 32 (max (-(2 ^ 31 - 1)) (min (2 ^ 31 - 1) (acc + v))), 0)
  | 2 =>
    match stepSum ps with
    | none => r
    | some c =>
      let exact := xAdd false (val r.1.toNat) (val c)
      let t := (rne32 exact).1
      if valIsFinite (decode32 r.1.toNat) && valIsFinite (decode32 c) && valIsFinite (decode32 t) then
        let e := xAdd false exact (xNeg (val t))
        (BitVec.ofNat 32 t, BitVec.ofNat 32 (rne32 (xAdd false (val r.2.toNat) e)).1)
      else (BitVec.ofNat 32 (if valIsNan (decode32 t) then 0x7FC00000 else t), 0)
  | _ =>
    match stepSum ps with
    | none => r
    | some c =>
      let t := (rne32 (xAdd false (val r.1.toNat) (val c))).1
      (BitVec.ofNat 32 (if valIsNan (decode32 t) then 0x7FC00000 else t), 0)

/-! Operands of a step. -/

/-- A factor: the value of line x at index t (a row of A, a column of B). -/
def factor (o : Operand) (rd : Nat → Byte) (list : List (BitVec 32)) (r : Role) (k x t : Nat) : Option Val :=
  let i := if r.isB then t else x
  let j := if r.isB then x else t
  if k ≤ t || o.zblock rd list r i j then none
  else (o.code rd list r i j).map fun _ => o.value rd list r i j

/-- The element bytes of a line at an index. -/
def factorPiece (o : Operand) (list : List (BitVec 32)) (r : Role) (x t : Nat) : List (Nat × Nat) :=
  let i := if r.isB then t else x
  let j := if r.isB then x else t
  if o.isNull list i then []
  else if o.layout == 3 then
    -- the two positions of the group of four, and its two stored values (05:R135)
    let c := o.addr + x * o.stride + t / 32 * o.chunk
    let g := t % 32 / 4
    [(c + g / 2, 1), (c + 4 + 2 * g * o.bits / 8, (2 * g * o.bits % 8 + 2 * o.bits + 7) / 8)]
  else
    let (run, p) := o.place list i j
    let (a, n, _) := packPlace o.bits run p
    [(a, n)]

/-- The scale byte of a line at an index. -/
def scalePiece (o : Operand) (list : List (BitVec 32)) (r : Role) (x t : Nat) : List (Nat × Nat) :=
  let i := if r.isB then t else x
  let j := if r.isB then x else t
  if !o.scaled || o.isNull list i then [] else [(o.scaleAddr list r i j, 1)]

/-- The lines of an operand in a pass, and the indices of a step position. -/
def lineRange (a n : Nat) : List Nat := (List.range n).map (· + a)
def stepIdx (j : OpaJob) (s : Nat) : List Nat :=
  ((List.range (stepLen j.desc)).map (· + s * stepLen j.desc)).filter (· < j.k)

/-- Every VS8 byte of a pass's lines at a step position has Z = 1 (05:R131). -/
def allZero (o : Operand) (rd : Nat → Byte) (list : List (BitVec 32)) (r : Role) (lines idx : List Nat) : Bool :=
  o.skips && lines.all fun x => idx.all fun t => o.zblock rd list r (if r.isB then t else x) (if r.isB then x else t)

/-- Rows and columns of a pass of a job. -/
def passRows (s : State) (j : OpaJob) : Nat := min (passHeight s) (j.m - j.r0)
def passCols (j : OpaJob) : Nat := min (56 * j.groups.length) (j.n - j.c0)

/-- A step position is skipped. -/
def skipped (rd : Nat → Byte) (j : OpaJob) (rows cols p : Nat) : Bool :=
  allZero (opaA j.desc) rd j.listA roleA (lineRange j.r0 rows) (stepIdx j p) ||
    allZero (opaB j.desc) rd j.listB roleB (lineRange j.c0 cols) (stepIdx j p)

/-- The pieces of the pass's lines at a position, by part: elements, and scale bytes. -/
def elemReqs (j : OpaJob) (rows cols p : Nat) : List (Nat × List (Nat × Nat)) :=
  [(1, (lineRange j.r0 rows).flatMap fun x => (stepIdx j p).flatMap (factorPiece (opaA j.desc) j.listA roleA x)),
   (2, (lineRange j.c0 cols).flatMap fun x => (stepIdx j p).flatMap (factorPiece (opaB j.desc) j.listB roleB x))]
def scaleReqs (j : OpaJob) (rows cols p : Nat) : List (Nat × List (Nat × Nat)) :=
  [(7, (lineRange j.r0 rows).flatMap fun x => (stepIdx j p).flatMap (scalePiece (opaA j.desc) j.listA roleA x)),
   (8, (lineRange j.c0 cols).flatMap fun x => (stepIdx j p).flatMap (scalePiece (opaB j.desc) j.listB roleB x))]

/-- Stage-memory words of pieces, each with its part and address, once. -/
def stageWords (m : PageMap) (reqs : List (Nat × List (Nat × Nat))) : List (Nat × Nat × Nat) :=
  let all := reqs.flatMap fun r => r.2.flatMap fun p => (pagesOf p.1 p.2).flatMap fun v =>
    let len := min (p.1 + p.2) (v / 4096 * 4096 + 4096) - v
    (blocksOf 32 (mapVa m v) len).map fun w => (w, r.1, v)
  all.foldl (fun l x => if l.any (·.1 == x.1) then l else l ++ [x]) []

/-- The words are read; the event of the first that is uncorrectable (04:R103). -/
def readWords : List (Nat × Nat × Nat) → State → Option Ended × State
  | [], s => (none, s)
  | (w, part, va) :: l, s =>
    match readSmWord w s with
    | (.uncorrectable, s) => (some (endWith dqMemerr part va smUe), s)
    | (_, s) => readWords l s

/-- Feeder reads: pieces are translated, have to lie in stage memory, and are read. -/
def feederRead (j : OpaJob) (reqs : List (Nat × List (Nat × Nat))) (m : PageMap) (s : State) : EngRes PageMap × State :=
  match stageReqs j.ctx reqs m s with
  | (.ok m, s) => match readWords (stageWords m reqs) s with
    | (some e, s) => (.fail e, s)
    | (none, s) => (.ok m, s)
  | r => r

/-- The first of step positions that is not skipped, with the scale bytes read up to it (05:R131, R134). -/
def scanSteps (j : OpaJob) (rows cols : Nat) : List Nat → PageMap → State → EngRes (Option Nat × PageMap) × State
  | [], m, s => (.ok (none, m), s)
  | p :: ps, m, s =>
    match feederRead j (scaleReqs j rows cols p) m s with
    | (.wait, s) => (.wait, s)
    | (.fail e, s) => (.fail e, s)
    | (.ok m, s) =>
      if skipped (vaReader s m) j rows cols p then scanSteps j rows cols ps m s else (.ok (some p, m), s)

/-- The factors of a step position: those of each row of A, or of each column of B, of a pass. -/
def rowFactors (rd : Nat → Byte) (j : OpaJob) (rows p : Nat) : List (List (Option Val)) :=
  (lineRange j.r0 rows).map fun x => (stepIdx j p).map (factor (opaA j.desc) rd j.listA roleA j.k x)
def colFactors (rd : Nat → Byte) (j : OpaJob) (cols p : Nat) : List (List (Option Val)) :=
  (lineRange j.c0 cols).map fun x => (stepIdx j p).map (factor (opaB j.desc) rd j.listB roleB j.k x)

/-- The feeders read the next step from a position on: the first position that is not skipped, or, where all are, the
last with zeros (05:R131 to R134). -/
def readStep (j : OpaJob) (rows cols at_ : Nat) (s : State) : EngRes FeedStep × State :=
  let np := stepCount j.desc
  match scanSteps j rows cols (lineRange at_ (np - at_)) [] s with
  | (.wait, s) => (.wait, s)
  | (.fail e, s) => (.fail e, s)
  | (.ok (none, _), s) => (.ok ⟨np - 1, np - 1 - at_, none, true, [], []⟩, s)
  | (.ok (some p, m), s) => match feederRead j (elemReqs j rows cols p) m s with
    | (.wait, s) => (.wait, s)
    | (.fail e, s) => (.fail e, s)
    | (.ok m, s) =>
      let rd := vaReader s m
      match scanSteps j rows cols (lineRange (p + 1) (np - 1 - p)) m s with
      | (.wait, s) => (.wait, s)
      | (.fail e, s) => (.fail e, s)
      | (.ok (next, _), s) =>
        (.ok ⟨p, p - at_ + (if next.isNone then np - 1 - p else 0), next, false, rowFactors rd j rows p,
          colFactors rd j cols p⟩, s)

/-- The step that issues next: the oldest that the feeders hold, or the one they read now (03:R70). -/
def nextStep (j : OpaJob) (rows cols : Nat) (s : State) : EngRes FeedStep × State :=
  match j.feed with
  | x :: _ => (.ok x, s)
  | [] => readStep j rows cols j.s s

/-- The feeders read up to k further steps of the pass; a read that cannot be made now, or fails, is made again when its
step is next (03:R70; log 63). -/
def readOn (rows cols : Nat) : Nat → OpaJob → State → OpaJob × State
  | 0, j, s => (j, s)
  | k + 1, j, s =>
    match match j.feed.getLast? with | some x => x.next | none => some j.s with
    | none => (j, s)
    | some p => match readStep j rows cols p s with
      | (.ok x, s) => readOn rows cols k { j with feed := j.feed ++ [x] } s
      | _ => (j, s)

/-- The registers of a set after a step, or after a step of zeros. -/
def stepRegs (fmt : BitVec 2) (x : FeedStep) (t : AccSet) : List AccReg :=
  if x.zero then t.regs
  else (List.range t.rows).flatMap fun u => (List.range t.cols).filterMap fun v =>
    let (hi, lo) := accumulate fmt (t.reg u v) (List.zipWith product (x.a.getD u []) (x.b.getD v []))
    if hi == 0 && lo == 0 then none else some ⟨u, v, hi, lo⟩

/-- The cubes' rows, or columns, of the lines that have a NaN or infinite factor (14:R391). -/
def specialLines (l : List (List (Option Val))) : List Nat :=
  ((l.zipIdx.filter fun x => x.1.any fun v => match v with | some v => !valIsFinite v | none => false).map (·.2 / 8)).eraseDups

/-- The logical cube column of the b-th cube column of a pass's column groups (03:R69, R87). -/
def cubeCol (groups : List Nat) (b : Nat) : Nat := 7 * groups.getD (b / 7) 0 + b % 7

/-- The cube rows and logical cube columns that do not check a step (14:R391). -/
def blindTo (groups : List Nat) (x : FeedStep) : List Nat × List Nat :=
  (specialLines x.a, (specialLines x.b).map (cubeCol groups))

/-! The power smoothing of a partition (03:R92 to R95). -/

/-- A real step issues: work that arrives after a long gap ramps. -/
def OpaInst.realStep (i : OpaInst) : OpaInst :=
  match i.activity with
  | .longGap => { i with activity := .ramp, lambda := max i.lambda 1 }
  | .ramp => i
  | _ => { i with activity := .full, lambda := 16 }

/-- A gap has lasted 5,600 a-cycles. -/
def OpaInst.longer (fill : Nat) (i : OpaInst) : OpaInst :=
  match i.activity with
  | .longGap => i
  | _ => { i.gap fill with activity := .longGap }

def OpaInst.decay (i : OpaInst) : OpaInst :=
  if i.activity == .longGap then { i with lambda := i.lambda - 1 } else i

def OpaInst.ramp (i : OpaInst) : OpaInst :=
  if i.activity == .ramp then
    if 15 ≤ i.lambda then { i with lambda := 16, activity := .full } else { i with lambda := i.lambda + 1 }
  else i

/-- A dummy step: the partition is in a gap, unless it ramps with work left, when none issues (03:R92 to R94). -/
def OpaInst.dummy (fill : Nat) (i : OpaInst) : OpaInst :=
  if i.activity == .ramp && (issuing i).isSome then i
  else { i.gap fill with interval := i.interval - 1 }

/-- No array clock step holds the array (14:R415). -/
def arrayRuns (s : State) : Bool := !s.ctl.por && !s.ctl.wres && s.sens.hold == .none

/-- Power smoothing of instance n. -/
def smooth (n : Nat) (f : OpaInst → OpaInst) (s : State) : State := if arrayRuns s then modInst n f s else s

/-! Issue. -/

/-- The set that a pass takes: the first of a descriptor X when both are FREE, else the FREE one; later ones in turn; a
replay its own (04:R102). -/
def chooseSet (g : Group) (j : OpaJob) : Bool :=
  if opaCont j.desc then g.inY
  else if j.passNo == 0 && !j.replayed then g.x.st != .free
  else j.setY

/-- An a-cycle in which an instance with work issues no step is one of a gap (03:R92). -/
def gapCycle (n : Nat) (s : State) : State := modInst n (OpaInst.gap s.opa.fill.toNat) s

/-- An a-cycle in which the pass-interval rule holds a step back (03:R91). -/
def drainWait (n : Nat) (s : State) : State :=
  gapCycle n { s with opa := { s.opa with drainwait := vmod s.opa.drainwait n (· + 1) } }

/-- A starve cycle (03:R70). -/
def starve (n : Nat) (s : State) : State :=
  gapCycle n { s with opa := { s.opa with starve := vmod s.opa.starve n (· + 1) } }

/-- An index list of a descriptor is still being read at a memory port (05:R142). -/
def listsOut (s : State) (q : Nat) (idx : BitVec 32) : Bool :=
  (portReqs s q idx).any fun r => !r.write && match r.waiter with
    | .engine _ _ p _ => p == 4 || p == 5
    | _ => false

/-- The outcome of beginning a pass: the job and its group are ready, or not. -/
inductive Begin where
  | ready (j : OpaJob) (g : Group)
  | held
  | waits
  | ends (e : Ended)
  | bad (b : BitVec 8 × BitVec 8 × Bool)
  deriving DecidableEq, Repr

/-- A pass begins (03:R87; 04:R99, R100, R102). DESIGN CHOICE (log 63): a KEEP descriptor whose band has become too narrow
for one pass since it started ends with DQ_STATE. -/
def beginPass (s : State) (n : Nat) (j : OpaJob) : Begin :=
  let i := getInst s n
  let g := getGroup i (opaGroupNo j.desc)
  let groups := bandGroups s n
  if groups.isEmpty then .waits
  else if opaCont j.desc then
    let t := g.open_
    match g.tile, t.bad with
    | none, _ => .ends (endWith dqState)
    | some _, some b => .bad b
    | some _, none =>
      let j := { j with begun := true, groups := groups, setY := g.inY }
      .ready j (g.mod g.inY fun t => { t with
        st := .accum, owner := some (j.q.val, j.idx), pass := 0, attempt := 1, lastMiss := none })
  else if i.fmt.toNat != opaAccFmt j.desc then .waits
  else if opaKeep j.desc && !onePass s n j.desc then .ends (endWith dqState)
  else
    let y := chooseSet g j
    if (g.set y).st != .free then .held
    else
      let j := { j with begun := true, groups := groups, setY := y }
      .ready j (g.mod y fun _ => { AccSet.reset with
        st := .accum, r0 := j.r0, c0 := j.c0, rows := passRows s j, cols := passCols j, owner := some (j.q.val, j.idx),
        pass := j.passNo, attempt := j.attempt, lastMiss := j.lastMiss })

/-- The group after the first step of a descriptor that ends with KEEP: open, with its next K index (04:R100). -/
def openTile (j : OpaJob) (g : Group) : Group :=
  if opaKeep j.desc then
    { g with inY := j.setY, tile := some ⟨j.m, j.n, opaKBase j.desc + j.k⟩ }
  else g

/-- The job after the last step of its pass: the next pass of the fold, or none (03:R87). -/
def nextPass (rows cols : Nat) (j : OpaJob) : OpaJob :=
  let j := { j with
    begun := false, s := 0, issued := 0, feed := [], passNo := j.passNo + 1, setY := !j.setY, attempt := 1, lastMiss := none }
  if j.c0 + cols < j.n then { j with c0 := j.c0 + cols }
  else if j.r0 + rows < j.m then { j with r0 := j.r0 + rows, c0 := 0 }
  else { j with done := true }

/-- Counts of a step (03:R85). -/
def countStep (n skip : Nat) (s : State) : State :=
  { s with opa := { s.opa with
      steps := vmod s.opa.steps n (· + 1), skip := vmod s.opa.skip n (· + w64 skip) } }

/-- A step of a pass issues: its set's registers, its counts, and where its descriptor goes on (03:R70, R85, R87). The
feeders then read on, by a free number of steps (log 63). -/
def stepIssued (n : Nat) (j : OpaJob) (g : Group) (x : FeedStep) (s : State) : State :=
  let t := g.set j.setY
  let last := x.next.isNone
  let j1 : OpaJob := { j with s := x.next.getD (stepCount j.desc), issued := j.issued + 1, feed := j.feed.drop 1 }
  let g := (openTile j g).mod j.setY fun t => { t with
    regs := stepRegs (getInst s n).fmt x t, st := if last then .settle else .accum,
    blind := let c := blindTo j.groups x; if t.blind.contains c then t.blind else t.blind ++ [c] }
  let (k, s) := drawNat (65 - j1.feed.length) s
  let (j1, s) := if last then (nextPass t.rows t.cols j1, s) else readOn t.rows t.cols k j1 s
  let s := modGroup n (opaGroupNo j.desc) (fun _ => g) (modJob n j.q.val j.idx (fun _ => j1) s)
  let h := modeRows (pmode s)
  modInst n (fun i => { i.realStep with interval := if last then h else i.interval }) (countStep n x.skip s)

/-- One step of a pass that has begun issues, unless its operands are not there (03:R70) or it is the pass's last and
comes too soon after the last of the pass before (03:R91). `g`: the group with the pass's set. -/
def issueStep (n : Nat) (j : OpaJob) (g : Group) (s : State) : State :=
  let t := g.set j.setY
  if listsOut s j.q.val j.idx then starve n s
  else match nextStep j t.rows t.cols s with
  | (.wait, _) => starve n s
  | (.fail e, s) => endJob n j e (modGroup n (opaGroupNo j.desc) (fun _ => g) s)
  | (.ok x, s1) =>
    if x.next.isNone && 0 < (getInst s n).interval then drainWait n s else stepIssued n j g x s1

/-- An a-cycle of an instance that has a pass to issue. -/
def opaCycle (n : Nat) (j : OpaJob) (s : State) : State :=
  if j.restart then gapCycle n s
  else if j.begun then issueStep n j (getGroup (getInst s n) (opaGroupNo j.desc)) s
  else match beginPass s n j with
    | .waits => gapCycle n s
    | .held => drainWait n s
    | .ends e => endJob n j e s
    | .bad b => endJob n j (endWith opaAccParity) (dropTile n (opaGroupNo j.desc) (heldBad n j.q.val j.idx b s))
    | .ready j g => issueStep n j g s

/-- One a-cycle of the pass interval goes by (03:R91). -/
def OpaInst.intervalTick (i : OpaInst) : OpaInst := { i with interval := i.interval - 1 }

/-- An a-cycle in which an instance with work is to issue a step (03:R70; log 63). -/
def opaStep (n : Nat) (s : State) : State :=
  if !(running s && arrayRuns s) then s else
  match issuing (getInst s n) with
  | none => s
  | some j => opaCycle n j (modInst n OpaInst.intervalTick s)

/-- Every set of the instance is FREE, and the format of the descriptor that waits for it is taken (04:R99). -/
def formatSwitch (n : Nat) (s : State) : State :=
  let i := getInst s n
  match issuing i with
  | some j =>
    if !j.begun && !opaCont j.desc && i.fmt.toNat != opaAccFmt j.desc &&
        i.groups.toList.all (fun g => g.x.st == .free && g.y.st == .free) && running s then
      modInst n (fun i => { i with fmt := BitVec.ofNat 2 (opaAccFmt j.desc) }) s
    else s
  | none => s

/-! The end of passes. -/

/-- The set of a job's next pass to drain: passes alternate between the sets. -/
def drainSet (j : OpaJob) : Bool := if (j.passNo - j.drained) % 2 == 0 then j.setY else !j.setY

/-- The oldest pass that has issued its last step and ends with DRAIN is final and begins to drain, once the drain path
is free and the descriptor's vectors and lists are read (03:R90; 04:R102, R115). -/
def groupFinal (n : Nat) (s : State) : State :=
  let i := getInst s n
  if (drainingSet i).isSome || !running s then s else
  let ready (j : OpaJob) : Bool :=
    let t := (getGroup i (opaGroupNo j.desc)).set (drainSet j)
    !j.only && opaDrains j.desc && j.fail.isNone && t.owner == some (j.q.val, j.idx) && t.st == .settle &&
      t.pass == j.drained && !readsOut s j.q.val j.idx
  match i.jobs.find? ready with
  | some j =>
    modGroup n (opaGroupNo j.desc) (fun g =>
      let g := g.mod (drainSet j) fun t => { t with st := .drain, cubeRow := 0 }
      if opaCont j.desc then { g with tile := none } else g) s
  | none => s

/-- The held set of an open tile begins to drain under a drain-only descriptor (04:R102). -/
def heldDrain (n : Nat) (s : State) : State :=
  let i := getInst s n
  if (drainingSet i).isSome || !running s then s else
  let due (j : OpaJob) : Bool :=
    let g := getGroup i (opaGroupNo j.desc)
    j.only && j.fail.isNone && j.drained == 0 && (g.tile.isNone || (g.open_.st == .held && !readsOut s j.q.val j.idx))
  match i.jobs.find? due with
  | none => s
  | some j =>
    let g := getGroup i (opaGroupNo j.desc)
    if g.tile.isNone then endJob n j (endWith dqState) s
    else match g.open_.bad with
      | some b => endJob n j (endWith opaAccParity) (dropTile n (opaGroupNo j.desc) (heldBad n j.q.val j.idx b s))
      | none =>
        modGroup n (opaGroupNo j.desc) (fun g =>
          let g := g.mod g.inY fun t => { t with st := .drain, cubeRow := 0, owner := some (j.q.val, j.idx) }
          { g with tile := none }) s

/-- The oldest KEEP descriptor that has issued its last step, and has read all it reads, has finished (04:R101, R102;
08:R233). -/
def keepFinish (n : Nat) (s : State) : State :=
  let i := getInst s n
  if !running s then s else
  match i.jobs.find? fun j => !j.only && !opaDrains j.desc && j.done && j.fail.isNone && !readsOut s j.q.val j.idx with
  | none => s
  | some j =>
    let s := modGroup n (opaGroupNo j.desc) (fun g => g.mod (drainSet j) fun t =>
      if t.st == .settle && t.owner == some (j.q.val, j.idx) then { t with st := .held } else t) s
    closeJob n j endOk s

/-- Success; for a tile with non-finite elements with the image of OPA_NFPOS (04:R127, R128). -/
def drainOutcome (j : OpaJob) : Ended :=
  let nf := j.outv.filter (·.nonfin)
  match (nf.map fun e => e.row * j.n + e.col) with
  | [] => endOk
  | x :: xs =>
    let first := xs.foldl min x
    { endOk with
      nonfin := true,
      info := w64 (nf.length * 2 ^ 39 + opaGroupNo j.desc * 2 ^ 37 + 2 ^ 36 + first / j.n * 2 ^ 24 + first % j.n * 2 ^ 12) }

/-- A draining descriptor whose passes have all drained has finished once its records are written and its writes are
acknowledged; NONFINITE is noted at its completion (04:R114, R125, R127). -/
def drainFinish (n : Nat) (s : State) : State :=
  let i := getInst s n
  let over_ (j : OpaJob) : Bool := opaDrains j.desc && j.done && !drains i j.q.val j.idx &&
    (j.fail.isSome || (if j.only then j.drained == 1 else j.drained == j.passNo))
  if !running s then s else
  match i.jobs.find? over_ with
  | none => s
  | some j =>
    match j.fail with
    | some e => closeJob n j e s
    | none =>
      let posted := match getFlight s j.q.val j.idx with | some f => f.posted | none => true
      if posted then (if (portReqs s j.q.val j.idx).isEmpty then closeJob n j (drainOutcome j) s else s)
      else match writeStats j s with
        | (.wait, _) => s
        | (.fail e, s) => endJob n j e s
        | (.ok _, s) =>
          let s := modFlight j.q.val j.idx (fun f => { f with posted := true }) s
          if (portReqs s j.q.val j.idx).isEmpty then closeJob n j (drainOutcome j) s else s

/-! Detections and replay (14:R391, R401, R402). -/

/-- A descriptor may be replayed (14:R401). -/
def replayable (d : Desc) : Bool := dOpcode d == 1 && dReplay d && !opaCont d

/-- The pass of a set is to run again: its set, and those of the descriptor's later passes, are discarded, and the fold
goes back to it. -/
def restartPass (n g : Nat) (t : AccSet) (y : Bool) (j : OpaJob) (attempt : Nat) (lastMiss : Option Nat) (s : State) : State :=
  let old : Rect := ⟨t.r0, t.r0 + t.rows, t.c0, t.c0 + t.cols⟩
  let s := modJob n j.q.val j.idx (fun j => { j with
    r0 := t.r0, c0 := t.c0, s := 0, begun := false, issued := 0, feed := [], passNo := t.pass, done := false, attempt := attempt,
    lastMiss := lastMiss, restart := true, setY := y, zbuf := j.zbuf.filter fun z => !old.has z.row z.col,
    outv := j.outv.filter fun e => !old.has e.row e.col }) s
  let drop (a : AccSet) : AccSet :=
    if a.owner == some (j.q.val, j.idx) && t.pass ≤ a.pass then .reset else a
  modGroup n g (fun x => { x with
    x := drop x.x, y := drop x.y, tile := if opaKeep j.desc then none else x.tile }) s

/-- An error in the pass that a set holds: its record; another attempt, or the end of the descriptor. -/
def passError (ev : BitVec 16) (n g : Nat) (y : Bool) (row col : BitVec 8) (outside : Bool) (s : State) : State :=
  let i := getInst s n
  let t := (getGroup i g).set y
  match i.jobs.find? fun j => t.owner == some (j.q.val, j.idx) && j.fail.isNone with
  | none =>
    if t.st == .held && ev == opaAccParity then
      modGroup n g (fun x => x.mod y fun t => { t with bad := some (row, col, outside) }) s
    else s
  | some j =>
    if t.st == .free || t.st == .held then s else
    let more := replayable j.desc && t.attempt < 3
    let s := opaRecord ev (if more then clsCorrected else clsQueue) (cubeSource col outside) t.attempt n
      (some (j.q.val, j.idx)) row col t.pass s
    let miss := ev == opaChecksum
    let s := opaCount col outside (miss && t.lastMiss == some (cubeGroup col)) s
    if more then restartPass n g t y j (t.attempt + 1) (if miss then some (cubeGroup col) else none) s
    else
      let s := if t.st == .drain then modGroup n g (fun x => x.mod y fun _ => .reset) s else s
      endJob n j (endWith ev) s

/-- The cube is one of instance n's. DESIGN CHOICE (log 63): its row is counted within the partition. -/
def cubeOf (s : State) (n : Nat) (row col : BitVec 8) : Bool :=
  n < modeParts (pmode s) && row.toNat < modeRows (pmode s) && cubeGroup col < 16 &&
    (vget s.opa.bandmap (cubeGroup col) 0xF).toNat == bandOf s n

/-- The cube has checked a step of the pass that a set holds: one without a NaN or infinite factor in it (14:R391). -/
def AccSet.checkedBy (t : AccSet) (row col : BitVec 8) : Bool :=
  t.blind.any fun c => !c.1.contains row.toNat && !c.2.contains col.toNat

/-- A checksum miss (14:R391, R402; 03:R93 for a dummy step). -/
def checksumMiss (n g : Nat) (y : Bool) (row col : BitVec 8) (dummy : Bool) (s : State) : State :=
  if !cubeOf s n row col || (!dummy && !((getGroup (getInst s n) g).set y).checkedBy row col) then s
  else if dummy then opaCount col false false (opaRecord opaChecksum clsInfo (cubeSource col false) 0 n none row col 0 s)
  else passError opaChecksum n g y row col false s

/-- A parity error of accumulators, feeders or latches. -/
def accParity (n g : Nat) (y : Bool) (row col : BitVec 8) (outside : Bool) (s : State) : State :=
  if !(outside || cubeOf s n row col) then s else passError opaAccParity n g y row col outside s

/-- The pass that is to run again restarts (14:R401). -/
def replayAttempt (n : Nat) (s : State) : State :=
  match issuing (getInst s n) with
  | some j =>
    if j.restart && running s then modJob n j.q.val j.idx (fun j => { j with restart := false, replayed := true }) s else s
  | none => s

/-! A column group leaves its band (03:R76, R78; 04:R103). -/

/-- The open groups of an instance. -/
def openGroups (i : OpaInst) : List Nat := (List.range 4).filter fun g => (getGroup i g).tile.isSome

/-- The open tile of a group is discarded: a descriptor in flight whose set it is runs again if it can be replayed, or
ends with OPA_GROUP. -/
def loseGroup (n g : Nat) (s : State) : State :=
  let i := getInst s n
  let x := getGroup i g
  let t := x.open_
  match i.jobs.find? fun j => opaGroupNo j.desc == g && j.fail.isNone &&
      (t.owner == some (j.q.val, j.idx) || (opaCont j.desc && !j.begun) || j.only) with
  | some j =>
    if t.owner == some (j.q.val, j.idx) && replayable j.desc then restartPass n g t x.inY j t.attempt t.lastMiss s
    else
      endJob n j (endWith opaGroup) (dropTile n g s)
  | none => dropTile n g s

def loseGroups (n : Nat) : List Nat → State → State
  | [], s => s
  | g :: gs, s => loseGroups n gs (loseGroup n g s)

/-- Every descriptor of an instance without column groups ends with DQ_ENGINE_ABSENT (03:R78). -/
def endAbsent (n : Nat) (s : State) : State :=
  (getInst s n).jobs.foldl (fun s j => endJob n j (endWith dqEngineAbsent) s) s

/-- What the departure of column group c means for instance n. -/
def leaveInst (c n : Nat) (s : State) : State :=
  let gs := openGroups (getInst s n)
  let s :=
    if gs.isEmpty then s
    else
      let s := opaDEvent 16 (detect opaGroup clsQueue (unitOf 1 c) (BitVec.ofNat 16 n) (w64 ((gs.map (2 ^ ·)).sum)) 0 s)
      loseGroups n gs s
  if (bandGroups s n).isEmpty then endAbsent n s else s

/-- A column group leaves its band once no instance of the band is in a pass on it (03:R76). -/
def leaveBand (c : Nat) (s : State) : State :=
  let band := (vget s.opa.bandmap c 0xF).toNat
  let insts := (List.range (modeParts (pmode s))).filter fun n => bandOf s n == band
  let busy := insts.any fun n => (getInst s n).jobs.any fun j => j.begun && !j.done && j.groups.contains c
  if !s.opa.leaving.any (·.val == c) || busy || s.ctl.por || s.ctl.wres then s
  else
    let s := { s with opa := { s.opa with
      bandmap := vmod s.opa.bandmap c fun _ => 0xF, leaving := s.opa.leaving.filter (·.val != c) } }
    insts.foldl (fun s n => leaveInst c n s) s

end Sys2Proof.Machine
end

