-- ==== Sys2Proof/Machine/TileOps.lean ====
section
/-! DEFINITION. Tile instructions: checks, ownership of the tile file, and what they compute (10:R287 to R310, 11:R327). -/

namespace Sys2Proof.Machine

/-! Checks (10:R294 to R297). -/

/-- A tile register number. -/
def isTile (t : Nat) : Bool := t < 12
def isTReg (t : Nat) : Bool := t < 8
def isAReg (t : Nat) : Bool := 8 ≤ t && t < 12

def fmtWord (f : BitVec 4) : Bool := f == 0xA || f == 0xC

/-- The format is defined, and RB a multiple for it. -/
def shapeLegal (rb : Nat) (fmt : BitVec 4) : Bool :=
  let b := fmtBits (tileFmt fmt)
  b != 0 && rb % (if b == 6 then 3 else if b < 8 then 1 else b / 8) == 0

/-- The destination can hold the format. -/
def destLegal (td rb : Nat) (fmt : BitVec 4) : Bool := isTile td && shapeLegal rb fmt && (!isAReg td || fmtWord fmt)

/-- Bytes of a row of n elements; none where they are not whole or exceed 64 (10:R294, R305, R310). -/
def rowSize (fmt : BitVec 4) (n : Nat) : Option Nat :=
  let b := n * fmtBits (tileFmt fmt)
  if b % 8 == 0 && b / 8 ≤ 64 then some (b / 8) else none

/-- A shape that an instruction names for a source: register, rows, bytes per row, and its format if it is compared. -/
structure Named where
  reg  : Nat
  rows : Nat
  rb   : Nat
  fmt  : Option (BitVec 4)
  deriving DecidableEq, Repr

/-- The named shape fits the tag. -/
def Named.fits (n : Named) (c : Core) : Bool :=
  match (tileAt c n.reg).tag with
  | some t => n.rows ≤ t.rows && n.rb ≤ t.rb
  | none => false

def Named.agrees (n : Named) (c : Core) : Bool :=
  match n.fmt, (tileAt c n.reg).tag with
  | some f, some t => f == t.fmt
  | _, _ => true

/-- A row of the named shape has bad parity (14:R390). -/
def Named.parityBad (n : Named) (c : Core) : Bool := (List.range n.rows).any fun r => (tileAt c n.reg).bad.getLsbD r

/-- The first source that fails, TILE_SHAPE before TILE_FORMAT (10:R297). -/
def sourceFault (c : Core) (ns : List Named) : Option Commit :=
  match ns.find? fun n => !n.fits c with
  | some n => some (.fault tileShape n.reg 0)
  | none => (ns.find? fun n => !n.agrees c).map fun n => .fault tileFormat n.reg 0

/-- A read with bad parity faults (14:R390, R392). -/
def parityFault (bad : Bool) : Option Commit := if bad then some (.fault ccParity 0 0) else none

/-- A source that is read whole: its checks, then the parity of its rows. -/
def readFault (c : Core) (n : Named) : Option Commit := (sourceFault c [n]).or (parityFault (n.parityBad c))

/-- A source of TMM comes from the reuse latch of its side when that holds it (10:R307), else from its register: whether its
parity is bad. -/
def Named.operandBad (n : Named) (l : Option Latch) (fmt : BitVec 4) (c : Core) : Bool :=
  match l.filter fun l => l.reg == n.reg && l.tag == ⟨n.rows, n.rb, fmt⟩ with
  | some l => l.bad
  | none => n.parityBad c

/-- CTL_TCFG is legal for a conversion (10:R309). -/
def tcfgLegal (t : Tcfg) : Bool := t.rnd.toNat ≤ 4 && (t.rnd.toNat != 4 || (4 ≤ t.w.toNat && t.w.toNat ≤ 16))

/-- The memory bytes of a row that a TLD converts, or none (10:R301, R309). -/
def loadRowBytes (t : Tcfg) (n : Nat) : Option Nat :=
  let b := fmtBits t.cvtl.toNat
  if b == 0 || n * b % 8 != 0 || 256 < n * b / 8 then none else some (n * b / 8)

/-! The tile file (11:R327). -/

/-- A clear file without an owner; a restore in progress for another task than t ends, and begins anew when that task
asks again. -/
def clearTiles (t : Byte) (c : Core) : Core :=
  { c with
    tiles := .replicate 12 .reset, latchS := none, latchT := none, rowFault := .reset, tileOwner := none,
    xq := c.xq.filter fun u => unitClass u.kind != 6 || u.task == t }

/-- A clear file of a new owner. -/
def claimTiles (t : Byte) (c : Core) : Core := { clearTiles t c with tileOwner := some t }

/-- A tile restore of the task is to be moved. -/
def restoring (c : Core) (t : Byte) : Bool := c.xq.any fun u => unitClass u.kind == 6 && u.task == t

/-- A tile save of the core is to be moved. -/
def savingTiles (c : Core) : Bool := c.xq.any fun u => unitClass u.kind == 4

/-- A tile instruction of a task uses the file: its own as it stands, its saved tiles restored; a task without saved tiles
clears it and takes it when no tile save is pending. -/
def useTiles (c : Fin 8) (s : State) : Option State :=
  let core := getCore s c
  core.running.bind fun t =>
    if core.tileOwner == some t then some s
    else if savingTiles core || (getTask core t).tilesSaved then none
    else some (modCore c (claimTiles t) s)

/-- The tile units for which a tile instruction waits (11:R326). -/
def tilesWanted (c : Core) : List (Nat × Nat) := (c.xq.filter fun u => 5 ≤ unitPart u.kind).map fun u => (u.level.val, 5)

/-- A tile instruction on registers: rows still arriving in them are performed, a pending row fault is taken, then its
encoding is checked, and it waits for the file (10:R297, R302, R308; 11:R327). -/
def tileInstr (c : Fin 8) (dst src : List (BitVec 5)) (ts : List Nat) (legal : Bool) (f : Nat → State → Commit × State)
    (s : State) : Host.Outcome State Fault Refusal :=
  .next (settle s (runInstr c dst src (fun k s =>
    let s := rowsThrough c (fun r => !r.store && ts.contains r.tile.toNat) s
    rowCheck c (fun s =>
      if (getCore s c).rows.any fun r => !r.store && ts.contains r.tile.toNat then (.wait, s)
      else if !legal then (.fault ccIllegal 0 0, s)
      else match useTiles c s with
        | some s => f k s
        | none => (.wait, wantParts c (tilesWanted (getCore s c)) s)) s) s))

/-- A register is written: its tag, its in-use flag, its bytes; a latch on it is lost (10:R288, R307). -/
def writeTile (td rows rb : Nat) (fmt : BitVec 4) (f : Tile → Tile) (c : Core) : Core :=
  let lost (l : Option Latch) : Option Latch := l.filter (·.reg != td)
  modTile td (fun t => { f t with tag := some ⟨rows, rb, fmt⟩, inUse := true })
    { c with latchS := lost c.latchS, latchT := lost c.latchT }

/-- The rows of a register replaced. -/
def putRows (rows : List (List Byte)) (t : Tile) : Tile := rows.zipIdx.foldl (fun t r => t.putRow r.2 r.1) t

/-- The named rows of a register. -/
def namedRows (c : Core) (n : Named) : List (List Byte) := (List.range n.rows).map fun r => (tileAt c n.reg).row r n.rb

/-- A tile instruction commits. -/
def tileDone (c : Fin 8) (k : Nat) (g : Core → Core) (s : State) : Commit × State :=
  let s := modCore c g s
  (.done ((bankNow s c k).advance 8), s)

/-- A tile instruction commits with a result in a general register. -/
def tileResult (c : Fin 8) (k : Nat) (d : BitVec 5) (v : Word) (g : Core → Core) (s : State) : Commit × State :=
  let s := modCore c g s
  (.done (((bankNow s c k).setReg d v).advance 8), s)

/-! Loads and stores (10:R298 to R301). -/

/-- A row within pages and lines. -/
def rowPieces (va pa n : Nat) (attr : BitVec 3) : List RowPiece :=
  (blocksOf 128 va n).map fun l =>
    let a := max va (l * 128)
    ⟨pa + (a - va), min (va + n) (l * 128 + 128) - a, attr⟩

/-- The pages of a row are translated in order (10:R299). -/
def xlatRow (c : Fin 8) (k : Nat) (acc : Access) : List (Nat × Nat) → State → Except Commit (List RowPiece) × State
  | [], s => (.ok [], s)
  | (va, n) :: ps, s =>
    match xlatCore c va acc k s with
    | (.wait, s) => (.error .wait, s)
    | (.fault ev, s) => (.error (.fault ev va 0), s)
    | (.ok pa attr, s) => match xlatRow c k acc ps s with
      | (.ok rest, s) => (.ok (rowPieces va pa n attr ++ rest), s)
      | r => r

/-- The parts of a row in pages: the first byte in each, and its length. -/
def pageParts (va n : Nat) : List (Nat × Nat) := (pagesOf va n).map fun a => (a, min (va + n) (a / 4096 * 4096 + 4096) - a)

/-- Every row is translated before the first is performed. -/
def xlatRows (c : Fin 8) (k : Nat) (acc : Access) (n : Nat) : List Nat → State → Except Commit (List (Nat × List RowPiece)) × State
  | [], s => (.ok [], s)
  | va :: vas, s =>
    match xlatRow c k acc (pageParts va n) s with
    | (.error e, s) => (.error e, s)
    | (.ok ps, s) => match xlatRows c k acc n vas s with
      | (.ok rest, s) => (.ok ((va, ps) :: rest), s)
      | r => r

/-- The row addresses GA + r × GB. -/
def rowAddrs (base stride : Word) (rows : Nat) : List Nat := (List.range rows).map fun r => (base + stride * w64 r).toNat

/-- At most four row phases are in progress. -/
def phaseRoom (c : Fin 8) (s : State) : State := if phases (getCore s c).rows < 4 then s else firstPhase c s

/-- The task and PC of the instruction. -/
def tileSite (s : State) (c : Fin 8) (k : Nat) : Byte × BitVec 48 := ((getCore s c).running.getD 0, (bankNow s c k).pc)

/-- Older stores to the bytes of rows leave the store buffer first (10:R300). -/
def drainMeeting (c : Fin 8) (ps : List RowPiece) (s : State) : State :=
  let hits := (getCore s c).sb.map fun e => ps.any fun p => e.meets p.pa p.len
  drainFrom c (hits.length - (hits.reverse.takeWhile fun h => !h).length) s

def meetsRows (sb : List SbEntry) (ps : List RowPiece) : Bool := sb.any fun e => ps.any fun p => e.meets p.pa p.len

/-- TLD. -/
def tileLoad (c : Fin 8) (td : Nat) (ga gb : BitVec 5) (conv : Bool) (rows rb : Nat) (fmt : BitVec 4) (k : Nat) (s : State) :
    Commit × State :=
  let b := bankNow s c k
  let t := (getCore s c).tcfg
  let mem := if conv then (if tcfgLegal t then loadRowBytes t (rowElems (tileFmt fmt) rb) else none) else some rb
  match mem with
  | none => (.fault ccIllegal 0 0, s)
  | some n => match xlatRows c k .rowLoad n (rowAddrs (b.reg ga) (b.reg gb) rows) s with
    | (.error e, s) => (e, s)
    | (.ok rs, s) =>
      let all := rs.flatMap (·.2)
      let s := drainMeeting c all (phaseRoom c s)
      if meetsRows (getCore s c).sb all || 4 ≤ phases (getCore s c).rows then (.wait, s)
      else
        let (task, pc) := tileSite s c k
        let cv := if conv then some (t.cvtl, fmt, b.reg ga, t) else none
        let ops : List RowOp := rs.zipIdx.map fun r =>
          ⟨false, BitVec.ofNat 4 td, r.2, r.1.1, r.1.2, [], cv, rb, task, pc⟩
        tileDone c k (fun x => let y := writeTile td rows rb fmt id x; { y with rows := y.rows ++ ops }) s

/-- TST. -/
def tileStore (c : Fin 8) (n : Named) (ga gb : BitVec 5) (k : Nat) (s : State) : Commit × State :=
  match readFault (getCore s c) n with
  | some e => (e, s)
  | none =>
    let b := bankNow s c k
    match xlatRows c k .rowStore n.rb (rowAddrs (b.reg ga) (b.reg gb) n.rows) s with
    | (.error e, s) => (e, s)
    | (.ok rs, s) =>
      let s := drainAll c (phaseRoom c s)
      if !(getCore s c).sb.isEmpty || 4 ≤ phases (getCore s c).rows then (.wait, s)
      else
        let (task, pc) := tileSite s c k
        let ops : List RowOp := (rs.zip (namedRows (getCore s c) n)).zipIdx.map fun r =>
          ⟨true, BitVec.ofNat 4 n.reg, r.2, r.1.1.1, r.1.1.2, r.1.2, none, n.rb, task, pc⟩
        tileDone c k (fun x => { x with rows := x.rows ++ ops }) s

/-! Computation. -/

/-- TCVT: the rows converted, and the flags raised (10:R310). -/
def tileConvert (t : Tcfg) (x : Word) (src dst : BitVec 4) (rb : Nat) (rows : List (List Byte)) : List (List Byte) × Exc :=
  let out := rows.zipIdx.map fun r => tileConv t x (tileFmt src) (tileFmt dst) r.2 rb r.1
  (out.map (·.1), out.foldl (fun e r => e ||| r.2) 0)

/-- The values of the elements of a row. -/
def rowVals (fmt : BitVec 4) (n : Nat) (bs : List Byte) : List (Option Val) :=
  (unpackRow (fmtBits (tileFmt fmt)) n bs).map fun v => some (decode (tileFmt fmt) v)

/-- A list in runs of n; the length bounds the number of runs. -/
def runsOf {α : Type} (n : Nat) (l : List α) : List (List α) :=
  (List.range l.length).filterMap fun i => if i * n < l.length then some ((l.drop (i * n)).take n) else none

/-- One output of TMM (10:R304, R305): the step sums of the products are added in order. -/
def tmmCell (fa fb : BitVec 4) (int : Bool) (start : BitVec 32) (xs ys : List (Option Val)) : BitVec 32 :=
  let ps := List.zipWith product xs ys
  ((runsOf (stepWidth (tileFmt fa) (tileFmt fb)) ps).foldl (fun r p => accumulate (if int then 1 else 0) r p) (start, 0)).1

/-- The i-th 32-bit element of a row. -/
def elem32 (bs : List Byte) (j : Nat) : BitVec 32 := BitVec.ofNat 32 (leNat ((bs.drop (4 * j)).take 4))

/-- TMM: the rows of the destination. -/
def tmmRows (fa fb : BitVec 4) (int zero : Bool) (k n : Nat) (a b d : List (List Byte)) : List (List Byte) :=
  let cols := b.map (rowVals fb k)
  a.zipIdx.map fun r =>
    let xs := rowVals fa k r.1
    (List.range n).flatMap fun j =>
      natLe (tmmCell fa fb int (if zero then 0 else elem32 (d.getD r.2 []) j) xs (cols.getD j [])).toNat 4

/-- TMM's encoding is legal (10:R294). -/
def tmmLegal (td ts tt : Nat) (int : Bool) (rb : Nat) (fmt fmt2 : BitVec 4) : Bool :=
  isAReg td && isTReg ts && isTReg tt && shapeLegal rb fmt && fmtBits (tileFmt fmt2) != 0 && !fmtWord fmt && !fmtWord fmt2 &&
    (!int || ((fmt == 5 || fmt == 6) && (fmt2 == 5 || fmt2 == 6))) &&
    (rowSize fmt2 (rowElems (tileFmt fmt) rb)).isSome

/-- A reuse latch after TMM has read an operand (10:R307). -/
def latchOf (c : Core) (n : Named) (fmt : BitVec 4) : Option Latch :=
  some ⟨n.reg, ⟨n.rows, n.rb, fmt⟩, (List.range n.rows).flatMap fun r => cellsAt (64 * r) ((tileAt c n.reg).row r n.rb), false⟩

/-- TMM. -/
def tileMultiply (c : Fin 8) (td ts tt : Nat) (zero int : Bool) (rows rb : Nat) (fmt fmt2 : BitVec 4) (n : Nat) (k : Nat)
    (s : State) : Commit × State :=
  let core := getCore s c
  let e := rowElems (tileFmt fmt) rb
  let out : BitVec 4 := if int then 0xC else 0xA
  let na : Named := ⟨ts, rows, rb, some fmt⟩
  let nb : Named := ⟨tt, n, (rowSize fmt2 e).getD 0, some fmt2⟩
  let nd : Named := ⟨td, rows, 4 * n, some out⟩
  let bad := na.operandBad core.latchS fmt core || nb.operandBad core.latchT fmt2 core || (!zero && nd.parityBad core)
  match (sourceFault core ([na, nb] ++ if zero then [] else [nd])).or (parityFault bad) with
  | some x => (x, s)
  | none =>
    let res := tmmRows fmt fmt2 int zero e n (namedRows core na) (namedRows core nb) (namedRows core nd)
    tileDone c k (fun x =>
      { writeTile td rows (4 * n) out (putRows res) x with latchS := latchOf core na fmt, latchT := latchOf core nb fmt2 }) s

/-- The tag word (10:R293). -/
def tagWord (t : Tile) : Word :=
  match t.tag with
  | none => 0
  | some g => w64 ((if t.inUse then 2 ^ 63 else 0) + (g.rows - 1) * 2 ^ 27 + (g.rb - 1) * 2 ^ 21 + g.fmt.toNat * 2 ^ 17)

/-- The deferred row-fault status as a word (10:R302). -/
def rowFaultWord (f : RowFault) : Word :=
  w64 ((if f.valid then 2 ^ 63 else 0) + (if f.more then 2 ^ 58 else 0) + (if f.store then 2 ^ 57 else 0) +
    f.tile.toNat * 2 ^ 53 + f.row.toNat * 2 ^ 48 + f.pc.toNat)

/-- The status that a word holds. -/
def rowFaultOf (v : Word) : RowFault :=
  ⟨v.getLsbD 63, v.getLsbD 58, v.getLsbD 57, v.extractLsb' 53 4, v.extractLsb' 48 5, v.extractLsb' 0 48⟩

/-- A tag word read back: the tag of an in-use register. -/
def tileTagOf (v : Word) : Option Tag :=
  if v.getLsbD 63 then some ⟨fld v 27 5 + 1, fld v 21 6 + 1, v.extractLsb' 17 4⟩ else none

/-- Row and unit position of TRDG and TWRG (10:R292). -/
def posRow (v : Word) : Nat := fld v 0 5
def posUnit (v : Word) : Nat := fld v 5 3

/-- Eight bytes of a row replaced. -/
def putUnit (v : Word) (g : Word) (t : Tile) : Tile :=
  { t with bytes := Memory.puts t.bytes (cellsAt (64 * posRow g + 8 * posUnit g) (natLe v.toNat 8)) }

end Sys2Proof.Machine
end

