-- ==== Sys2Proof/Machine/CoreEnc.lean ====
section
/-! DEFINITION. The encodings of a control core, and what a fetch can find: UNDEFINED_ENCODING and
INSTRUCTION_FETCH_FAULT (09:R260 to R268, R278; 10:R290 to R294). -/

namespace Sys2Proof.Machine

/-! 32-bit encodings (09:R260 to R268). -/

/-- R format, major 0x00. -/
def intDefined (func b : Nat) : Bool :=
  func ≤ 0x13 || ((0x14 ≤ func && func ≤ 0x16) && b == 0) || (0x17 ≤ func && func ≤ 0x1A) ||
    ((0x1C ≤ func && func ≤ 0x1F) && b == 0) || (0x40 ≤ func && func ≤ 0x4E)

/-- R format, major 0x30. -/
def fpDefined (func b : Nat) : Bool :=
  let op := func / 2
  op ≤ 0xD && (!(op == 0x4 || op == 0xB || op == 0xC) || b == 0)

/-- R format, major 0x1C. -/
def atomDefined (func : Nat) : Bool := func < 64 && 2 ≤ func % 4 && func / 4 ≤ 6

/-- S format, major 0x3F. -/
def sysDefined (d a sub cr : Nat) : Bool :=
  match sub with
  | 0x0 => a == 0 && (crRules cr).isSome
  | 0x1 => d == 0 && (crRules cr).isSome
  | 0x2 | 0x3 | 0x6 | 0x7 => d == 0 && a == 0 && cr == 0
  | 0x4 => a == 0 && 1 ≤ cr && cr ≤ 33
  | 0x5 => d == 0 && 1 ≤ cr && cr ≤ 33
  | 0x8 => d == 0 && a == 0 && cr < 256
  | 0x9 => d == 0 && cr ≤ 3
  | 0xA => d == 0 && cr == 0
  | _ => false

/-- A 32-bit instruction word is defined (09:R261). -/
def wordDefined (w : BitVec 32) : Bool :=
  let d := fld w 21 5
  let a := fld w 16 5
  let b := fld w 11 5
  let func := fld w 0 11
  match fld w 26 6 with
  | 0x00 => intDefined func b
  | 0x01 | 0x02 | 0x03 | 0x04 | 0x08 | 0x09 => true
  | 0x05 | 0x06 | 0x07 => fld w 6 10 == 0
  | 0x0A => d == 0
  | 0x0B | 0x0C => a ≤ 3
  | 0x10 | 0x11 | 0x12 | 0x13 | 0x14 | 0x15 | 0x16 | 0x18 | 0x19 | 0x1A | 0x1B => true
  | 0x1C => atomDefined func
  | 0x20 | 0x21 | 0x22 | 0x23 | 0x24 | 0x25 => true
  | 0x26 => fld w 22 4 != 0xF
  | 0x28 | 0x29 | 0x2A => true
  | 0x30 => fpDefined func b
  | 0x3F => sysDefined d a (fld w 12 4) (fld w 0 12)
  | _ => false

/-! Tile encodings (10:R290 to R294). -/

/-- The fields of a tile instruction. -/
structure TileEnc where
  top  : Nat
  ga   : Nat
  gb   : Nat
  fl   : Nat
  td   : Nat
  ts   : Nat
  rows : Nat
  rb   : Nat
  fmt  : BitVec 4
  tt   : Nat
  fmt2 : BitVec 4
  nm1  : Nat
  low  : Nat
  deriving DecidableEq, Repr

def tileEnc (w0 w1 : BitVec 32) : TileEnc :=
  { top := fld w0 21 5, ga := fld w0 16 5, gb := fld w0 11 5, fl := fld w0 8 3, td := fld w0 4 4, ts := fld w0 0 4,
    rows := fld w1 27 5 + 1, rb := fld w1 21 6 + 1, fmt := w1.extractLsb' 17 4, tt := fld w1 13 4, fmt2 := w1.extractLsb' 9 4,
    nm1 := fld w1 5 4, low := fld w1 0 5 }

/-- Word 1 names a shape and FMT only. -/
def TileEnc.shapeOnly (e : TileEnc) : Bool := e.tt == 0 && e.fmt2 == 0 && e.nm1 == 0

/-- FL has no bits but FL[2]. -/
def TileEnc.flag2 (e : TileEnc) : Bool := e.fl % 4 == 0

/-- A tile instruction is defined (10:R292, R294). -/
def TileEnc.defined (e : TileEnc) (w1 : BitVec 32) : Bool :=
  e.low == 0 &&
  match e.top with
  | 0x01 => e.shapeOnly && e.ts == 0 && e.ga == 0 && e.gb == 0 && e.fl == 0 && destLegal e.td e.rb e.fmt
  | 0x02 => e.shapeOnly && e.ts == 0 && e.flag2 && destLegal e.td e.rb e.fmt
  | 0x03 => e.shapeOnly && e.td == 0 && e.flag2 && isTile e.ts && shapeLegal e.rb e.fmt
  | 0x04 => e.shapeOnly && e.ga == 0 && e.gb == 0 && e.flag2 && isTile e.ts && destLegal e.td e.rb e.fmt
  | 0x05 =>
    e.tt == 0 && e.nm1 == 0 && e.gb == 0 && e.fl == 0 && isTile e.ts && destLegal e.td e.rb e.fmt &&
      fmtBits (tileFmt e.fmt2) != 0 && (rowSize e.fmt2 (rowElems (tileFmt e.fmt) e.rb)).isSome
  | 0x06 => e.ga == 0 && e.gb == 0 && e.fl % 2 == 0 && tmmLegal e.td e.ts e.tt (e.fl / 2 % 2 == 1) e.rb e.fmt e.fmt2
  | 0x07 => w1 == 0 && e.td == 0 && e.fl == 0 && isTile e.ts
  | 0x08 => e.shapeOnly && e.ts == 0 && e.fl == 0 && destLegal e.td e.rb e.fmt
  | 0x09 => w1 == 0 && e.ts == 0 && e.ga == 0 && e.gb == 0 && e.fl == 0 && isTile e.td
  | 0x0A => w1 == 0 && e.td == 0 && e.gb == 0 && e.fl == 0 && isTile e.ts
  | 0x0B => w1 == 0 && e.td == 0 && e.ts == 0 && e.gb == 0 && e.fl == 0
  | _ => false

/-- The words of an instruction are defined; the second counts for a tile instruction only. -/
def encodingDefined (w0 w1 : BitVec 32) : Bool :=
  if fld w0 26 6 == 0x3E then (tileEnc w0 w1).defined w1 else wordDefined w0

/-- UNDEFINED_ENCODING: the running task meets words that are not defined (09:R261). -/
def effectUndefinedEncoding (c : Fin 8) (word0 word1 : BitVec 32) (s : State) : Host.Outcome State Fault Refusal :=
  .next (settle s (if encodingDefined word0 word1 then s
    else runInstr c [] [] (fun _ s => (.fault ccIllegal 0 0, s)) s))

/-! Fetch (09:R258, R278; 08:R233). -/

/-- The word at an address is fetched; the fault that the fetch finds, if any. -/
def fetchWord (c : Fin 8) (va k : Nat) (s : State) : Option Commit × State :=
  match xlatCore c va .fetch k s with
  | (.wait, s) => (some .wait, s)
  | (.fault ev, s) => (some (.fault ev va 0), s)
  | (.ok pa attr, s) =>
    if portWaits s pa 4 then (some .wait, s)
    else match readAccess (attrCached attr) pa 4 s with
      | (.uncorrectable, s) => (some (.fault ccParity va 0), s)
      | (_, s) => (none, s)

/-- The running task fetches its instruction word, or the second word of a tile instruction: it takes the fault that
the fetch finds; a fetch that finds none changes nothing (09:R278). -/
def fetchFault (c : Fin 8) (second : Bool) (s : State) : State :=
  if !coreRuns s c then s else
  match runningTask (getCore s c) with
  | none => s
  | some (_, k) =>
    let va := ((bankNow s c k).pc + (if second then 4 else 0)).toNat
    match fetchWord c va k s with
    | (none, _) => s
    | _ => runInstr c [] [] (fun k s => match fetchWord c va k s with
      | (some r, s) => (r, s)
      | (none, s) => (.wait, s)) s

/-- INSTRUCTION_FETCH_FAULT (09:R278). -/
def effectInstructionFetchFault (c : Fin 8) (second : Bool) (s : State) : Host.Outcome State Fault Refusal :=
  .next (settle s (fetchFault c second s))

end Sys2Proof.Machine
end

