-- ==== Sys2Proof/Machine/CoreInt.lean ====
section
/-! DEFINITION. Integer instructions of the control cores (09:R262 to R264). -/

namespace Sys2Proof.Machine

/-! Results (09:R263). -/

/-- Quotient rounded toward zero and O, signed. -/
def quotS (a b : Word) : Word × Bool :=
  if b == 0 then (0, true) else if a == BitVec.intMin 64 && b == -1 then (BitVec.intMin 64, true) else (a.sdiv b, false)

/-- Quotient and O, unsigned. -/
def quotU (a b : Word) : Word × Bool := if b == 0 then (0, true) else (a / b, false)

/-- Remainder with the sign of a, and O. -/
def remS (a b : Word) : Word × Bool := if b == 0 then (a, true) else (a.srem b, false)

/-- Remainder and O, unsigned. -/
def remU (a b : Word) : Word × Bool := if b == 0 then (a, true) else (a % b, false)

/-- The upper 64 bits of the signed product. -/
def mulHiS (a b : Word) : Word := BitVec.ofInt 64 (a.toInt * b.toInt / 2 ^ 64)

/-- The upper 64 bits of the unsigned product. -/
def mulHiU (a b : Word) : Word := w64 (a.toNat * b.toNat / 2 ^ 64)

/-- The number of zeros from a side of 64 bits: the first place, from 0, at which a bit stands; 64 for none. -/
def zerosUntil (bit : Nat → Bool) : Word := w64 (((List.range 64).find? bit).getD 64)

def countLeading (a : Word) : Word := zerosUntil fun i => a.getLsbD (63 - i)
def countTrailing (a : Word) : Word := zerosUntil fun i => a.getLsbD i
def countOnes (a : Word) : Word := w64 (popCount a)

/-- 1 or 0. -/
def bitWord (b : Bool) : Word := if b then 1 else 0

/-- The shift amount of a register: its low six bits. -/
def shiftOf (b : Word) : Nat := b.toNat % 64

/-- A conditional result; condition 0xF is undefined (09:R264). -/
def pickOf (cond : BitVec 4) (cs : CS) (a b : Word) : Option Word := (condHolds cond cs).map fun h => if h then a else b

/-- A halfword of a register replaced. -/
def insertHalf (old : Word) (hw : Nat) (imm : BitVec 16) : Word :=
  (old &&& ~~~(w64 (0xFFFF * 2 ^ (16 * hw)))) ||| w64 (imm.toNat * 2 ^ (16 * hw))

/-! Forms. -/

/-- The flags set: S, Z, K, O (09:R263). -/
def Bank.setFlags (b : Bank) (f : Bool × Bool × Bool × Bool) : Bank := { b with cs := csFlags b.cs f.1 f.2.1 f.2.2.1 f.2.2.2 }

/-- Two sources and a destination, with the residue check (14:R392). -/
def arith3 (c : Fin 8) (d a b : BitVec 5) (res : Residue) (g : Word → Word → Word) (s : State) :
    Host.Outcome State Fault Refusal :=
  .next (settle s (runArith c [d] [a, b] res (fun k => k.result d (g (k.reg a) (k.reg b))) s))

/-- As `arith3`, setting S, Z, K and O. -/
def arithFlags (c : Fin 8) (d a b : BitVec 5) (res : Residue) (g : Word → Word → Word)
    (fl : Word → Word → Bool × Bool × Bool × Bool) (s : State) : Host.Outcome State Fault Refusal :=
  .next (settle s (runArith c [d] [a, b] res (fun k =>
    (k.setFlags (fl (k.reg a) (k.reg b))).result d (g (k.reg a) (k.reg b))) s))

/-- As `arith3`, setting O alone. -/
def arithDiv (c : Fin 8) (d a b : BitVec 5) (res : Residue) (g : Word → Word → Word × Bool) (s : State) :
    Host.Outcome State Fault Refusal :=
  .next (settle s (runArith c [d] [a, b] res (fun k =>
    let r := g (k.reg a) (k.reg b)
    ({ k with cs := csSetO k.cs r.2 } : Bank).result d r.1) s))

/-- Two sources and a destination. -/
def plain3 (c : Fin 8) (d a b : BitVec 5) (g : Word → Word → Word) (s : State) : Host.Outcome State Fault Refusal :=
  .next (settle s (runPlain c [d] [a, b] (fun k => k.result d (g (k.reg a) (k.reg b))) s))

/-- One source and a destination. -/
def plain2 (c : Fin 8) (d a : BitVec 5) (g : Word → Word) (s : State) : Host.Outcome State Fault Refusal :=
  .next (settle s (runPlain c [d] [a] (fun k => k.result d (g (k.reg a))) s))

/-! Meanings. -/

/-- ADD (09:R263). -/
def effectAdd (c : Fin 8) (d a b : BitVec 5) (res : Residue) (s : State) : Host.Outcome State Fault Refusal :=
  arith3 c d a b res (fun x y => x + y) s

/-- SUB (09:R263). -/
def effectSub (c : Fin 8) (d a b : BitVec 5) (res : Residue) (s : State) : Host.Outcome State Fault Refusal :=
  arith3 c d a b res (fun x y => x - y) s

/-- MUL (09:R263). -/
def effectMul (c : Fin 8) (d a b : BitVec 5) (res : Residue) (s : State) : Host.Outcome State Fault Refusal :=
  arith3 c d a b res (fun x y => x * y) s

/-- MHI (09:R263). -/
def effectMhi (c : Fin 8) (d a b : BitVec 5) (res : Residue) (s : State) : Host.Outcome State Fault Refusal :=
  arith3 c d a b res mulHiS s

/-- MHIU (09:R263). -/
def effectMhiu (c : Fin 8) (d a b : BitVec 5) (res : Residue) (s : State) : Host.Outcome State Fault Refusal :=
  arith3 c d a b res mulHiU s

/-- DIV (09:R263). -/
def effectDiv (c : Fin 8) (d a b : BitVec 5) (res : Residue) (s : State) : Host.Outcome State Fault Refusal :=
  arithDiv c d a b res quotS s

/-- DIVU (09:R263). -/
def effectDivu (c : Fin 8) (d a b : BitVec 5) (res : Residue) (s : State) : Host.Outcome State Fault Refusal :=
  arithDiv c d a b res quotU s

/-- REM (09:R263). -/
def effectRem (c : Fin 8) (d a b : BitVec 5) (res : Residue) (s : State) : Host.Outcome State Fault Refusal :=
  arithDiv c d a b res remS s

/-- REMU (09:R263). -/
def effectRemu (c : Fin 8) (d a b : BitVec 5) (res : Residue) (s : State) : Host.Outcome State Fault Refusal :=
  arithDiv c d a b res remU s

/-- ADDF (09:R263). -/
def effectAddf (c : Fin 8) (d a b : BitVec 5) (res : Residue) (s : State) : Host.Outcome State Fault Refusal :=
  arithFlags c d a b res (fun x y => x + y) addFlags s

/-- SUBF (09:R263). -/
def effectSubf (c : Fin 8) (d a b : BitVec 5) (res : Residue) (s : State) : Host.Outcome State Fault Refusal :=
  arithFlags c d a b res (fun x y => x - y) subFlags s

/-- ANDF (09:R263). -/
def effectAndf (c : Fin 8) (d a b : BitVec 5) (s : State) : Host.Outcome State Fault Refusal :=
  .next (settle s (runPlain c [d] [a, b] (fun k =>
    let v := k.reg a &&& k.reg b
    (k.setFlags (v.msb, v == 0, false, false)).result d v) s))

/-- AND (09:R263). -/
def effectAnd (c : Fin 8) (d a b : BitVec 5) (s : State) : Host.Outcome State Fault Refusal :=
  plain3 c d a b (fun x y => x &&& y) s

/-- OR (09:R263). -/
def effectOr (c : Fin 8) (d a b : BitVec 5) (s : State) : Host.Outcome State Fault Refusal :=
  plain3 c d a b (fun x y => x ||| y) s

/-- XOR (09:R263). -/
def effectXor (c : Fin 8) (d a b : BitVec 5) (s : State) : Host.Outcome State Fault Refusal :=
  plain3 c d a b (fun x y => x ^^^ y) s

/-- SHL (09:R263). -/
def effectShl (c : Fin 8) (d a b : BitVec 5) (s : State) : Host.Outcome State Fault Refusal :=
  plain3 c d a b (fun x y => x <<< shiftOf y) s

/-- SHR (09:R263). -/
def effectShr (c : Fin 8) (d a b : BitVec 5) (s : State) : Host.Outcome State Fault Refusal :=
  plain3 c d a b (fun x y => x >>> shiftOf y) s

/-- SHRA (09:R263). -/
def effectShra (c : Fin 8) (d a b : BitVec 5) (s : State) : Host.Outcome State Fault Refusal :=
  plain3 c d a b (fun x y => x.sshiftRight (shiftOf y)) s

/-- STL (09:R263). -/
def effectStl (c : Fin 8) (d a b : BitVec 5) (s : State) : Host.Outcome State Fault Refusal :=
  plain3 c d a b (fun x y => bitWord (x.slt y)) s

/-- STLU (09:R263). -/
def effectStlu (c : Fin 8) (d a b : BitVec 5) (s : State) : Host.Outcome State Fault Refusal :=
  plain3 c d a b (fun x y => bitWord (x.ult y)) s

/-- MIN (09:R263). -/
def effectMin (c : Fin 8) (d a b : BitVec 5) (s : State) : Host.Outcome State Fault Refusal :=
  plain3 c d a b (fun x y => if x.slt y then x else y) s

/-- MAX (09:R263). -/
def effectMax (c : Fin 8) (d a b : BitVec 5) (s : State) : Host.Outcome State Fault Refusal :=
  plain3 c d a b (fun x y => if x.slt y then y else x) s

/-- MINU (09:R263). -/
def effectMinu (c : Fin 8) (d a b : BitVec 5) (s : State) : Host.Outcome State Fault Refusal :=
  plain3 c d a b (fun x y => if x.ult y then x else y) s

/-- MAXU (09:R263). -/
def effectMaxu (c : Fin 8) (d a b : BitVec 5) (s : State) : Host.Outcome State Fault Refusal :=
  plain3 c d a b (fun x y => if x.ult y then y else x) s

/-- CLZ (09:R263). -/
def effectClz (c : Fin 8) (d a : BitVec 5) (s : State) : Host.Outcome State Fault Refusal :=
  plain2 c d a countLeading s

/-- CTZ (09:R263). -/
def effectCtz (c : Fin 8) (d a : BitVec 5) (s : State) : Host.Outcome State Fault Refusal :=
  plain2 c d a countTrailing s

/-- POPC (09:R263). -/
def effectPopc (c : Fin 8) (d a : BitVec 5) (s : State) : Host.Outcome State Fault Refusal :=
  plain2 c d a countOnes s

/-- SXB (09:R263). -/
def effectSxb (c : Fin 8) (d a : BitVec 5) (s : State) : Host.Outcome State Fault Refusal :=
  plain2 c d a (fun x => (x.extractLsb' 0 8).signExtend 64) s

/-- SXH (09:R263). -/
def effectSxh (c : Fin 8) (d a : BitVec 5) (s : State) : Host.Outcome State Fault Refusal :=
  plain2 c d a (fun x => (x.extractLsb' 0 16).signExtend 64) s

/-- SXW (09:R263). -/
def effectSxw (c : Fin 8) (d a : BitVec 5) (s : State) : Host.Outcome State Fault Refusal :=
  plain2 c d a (fun x => (x.extractLsb' 0 32).signExtend 64) s

/-- ZXW (09:R263). -/
def effectZxw (c : Fin 8) (d a : BitVec 5) (s : State) : Host.Outcome State Fault Refusal :=
  plain2 c d a (fun x => (x.extractLsb' 0 32).setWidth 64) s

/-- PICK (09:R263, R264). -/
def effectPick (c : Fin 8) (cond : BitVec 4) (d a b : BitVec 5) (s : State) : Host.Outcome State Fault Refusal :=
  .next (settle s (runPlain c [d] [a, b] (fun k =>
    match pickOf cond k.cs (k.reg a) (k.reg b) with
    | some v => k.result d v
    | none => .fault ccIllegal 0 0) s))

/-- ADDI (09:R262). -/
def effectAddi (c : Fin 8) (d a : BitVec 5) (imm : BitVec 16) (res : Residue) (s : State) : Host.Outcome State Fault Refusal :=
  .next (settle s (runArith c [d] [a] res (fun k => k.result d (k.reg a + imm.signExtend 64)) s))

/-- ANDI (09:R262). -/
def effectAndi (c : Fin 8) (d a : BitVec 5) (imm : BitVec 16) (s : State) : Host.Outcome State Fault Refusal :=
  plain2 c d a (fun x => x &&& imm.setWidth 64) s

/-- ORI (09:R262). -/
def effectOri (c : Fin 8) (d a : BitVec 5) (imm : BitVec 16) (s : State) : Host.Outcome State Fault Refusal :=
  plain2 c d a (fun x => x ||| imm.setWidth 64) s

/-- XORI (09:R262). -/
def effectXori (c : Fin 8) (d a : BitVec 5) (imm : BitVec 16) (s : State) : Host.Outcome State Fault Refusal :=
  plain2 c d a (fun x => x ^^^ imm.setWidth 64) s

/-- STLI (09:R262). -/
def effectStli (c : Fin 8) (d a : BitVec 5) (imm : BitVec 16) (s : State) : Host.Outcome State Fault Refusal :=
  plain2 c d a (fun x => bitWord (x.slt (imm.signExtend 64))) s

/-- STLUI (09:R262). -/
def effectStlui (c : Fin 8) (d a : BitVec 5) (imm : BitVec 16) (s : State) : Host.Outcome State Fault Refusal :=
  plain2 c d a (fun x => bitWord (x.ult (imm.signExtend 64))) s

/-- SHLI (09:R262). -/
def effectShli (c : Fin 8) (d a : BitVec 5) (imm : BitVec 6) (s : State) : Host.Outcome State Fault Refusal :=
  plain2 c d a (fun x => x <<< imm.toNat) s

/-- SHRI (09:R262). -/
def effectShri (c : Fin 8) (d a : BitVec 5) (imm : BitVec 6) (s : State) : Host.Outcome State Fault Refusal :=
  plain2 c d a (fun x => x >>> imm.toNat) s

/-- SHRAI (09:R262). -/
def effectShrai (c : Fin 8) (d a : BitVec 5) (imm : BitVec 6) (s : State) : Host.Outcome State Fault Refusal :=
  plain2 c d a (fun x => x.sshiftRight imm.toNat) s

/-- CMPI (09:R262). -/
def effectCmpi (c : Fin 8) (a : BitVec 5) (imm : Checked (BitVec 16)) (s : State) : Host.Outcome State Fault Refusal :=
  .next (settle s (runArith c [] [a] imm.res (fun k => .done ((k.setFlags (subFlags (k.reg a) (imm.val.signExtend 64))).advance 4)) s))

/-- IMZ (09:R262). -/
def effectImz (c : Fin 8) (d hw : BitVec 5) (imm : BitVec 16) (s : State) : Host.Outcome State Fault Refusal :=
  .next (settle s (runPlain c [d] [] (fun k =>
    if 3 < hw.toNat then .fault ccIllegal 0 0 else k.result d (insertHalf 0 hw.toNat imm)) s))

/-- IMI (09:R262). -/
def effectImi (c : Fin 8) (d hw : BitVec 5) (imm : BitVec 16) (s : State) : Host.Outcome State Fault Refusal :=
  .next (settle s (runPlain c [d] [d] (fun k =>
    if 3 < hw.toNat then .fault ccIllegal 0 0 else k.result d (insertHalf (k.reg d) hw.toNat imm)) s))

end Sys2Proof.Machine
end

