-- ==== Sys2Proof/Machine/CoreFp.lean ====
section
/-! DEFINITION. Floating-point instructions of the control cores (09:R265). -/

namespace Sys2Proof.Machine

/-- The layout of a precision. -/
def fpFlt (dbl : Bool) : Flt := if dbl then flt64 else flt32

/-- The operand that a register holds (09:R256). -/
def fpArg (dbl : Bool) (v : Word) : XVal := valX (if dbl then decode64 v.toNat else decode32 (v.toNat % 2 ^ 32))

/-- Rounding under CS.RM. -/
def fpRnd (cs : CS) : Rnd := ⟨csRM cs, 0, 12, false⟩

/-- The sign of an exact zero sum of operands of opposite sign: minus only under RDN. -/
def fpDown (cs : CS) : Bool := csRM cs == 3

/-- A result rounded to a precision: its register value and the flags raised, with those of the operation. -/
def fpResult (dbl : Bool) (cs : CS) (x : XVal) (e : Exc) : Word × Exc :=
  let r := convIeee (fpFlt dbl) false (fpRnd cs) x
  (w64 r.1, r.2 ||| e)

/-- A floating-point result: d, the flags ORed into CS, the next instruction. -/
def Bank.fpDone (b : Bank) (d : BitVec 5) (r : Word × Exc) : Commit := ({ b with cs := csRaise b.cs r.2 } : Bank).result d r.1

/-- FTOI: a signed 64-bit integer (log 27: whether it raises inexact). -/
def fpToInt (cs : CS) (x : XVal) : Word × Exc :=
  match x with
  | .nan _ _ _ => (0x8000000000000000, excInvalid)
  | .inf n => (if n then 0x8000000000000000 else 0x7FFFFFFFFFFFFFFF, excInvalid)
  | .real x =>
    let (n, d) := x.units 0
    let t := roundQ (fpRnd cs) x.neg n d
    if (if x.neg then 2 ^ 63 else 2 ^ 63 - 1) < t then (if x.neg then 0x8000000000000000 else 0x7FFFFFFFFFFFFFFF, excInvalid)
    else (w64 (twos 64 x.neg t), if n % d != 0 && Config.ftoiInexact then excInexact else 0)

/-- The sign bit of a precision's image. -/
def fpSign (dbl : Bool) : Word := if dbl then 0x8000000000000000 else 0x80000000

/-- The image that a register holds. -/
def fpImage (dbl : Bool) (v : Word) : Word := if dbl then v else v &&& 0xFFFFFFFF

/-- A checked operation of two sources. -/
def fpArith (c : Fin 8) (dbl : Bool) (d a b : BitVec 5) (res : Residue) (f : CS → XVal → XVal → XVal × Exc) (s : State) :
    Host.Outcome State Fault Refusal :=
  .next (settle s (runArith c [d] [a, b] res (fun k =>
    let r := f k.cs (fpArg dbl (k.reg a)) (fpArg dbl (k.reg b))
    k.fpDone d (fpResult dbl k.cs r.1 r.2)) s))

/-- A checked operation of two sources that gives its image and its flags. -/
def fpFlags (c : Fin 8) (dbl : Bool) (d a b : BitVec 5) (res : Residue) (f : CS → XVal → XVal → Word × Exc) (s : State) :
    Host.Outcome State Fault Refusal :=
  .next (settle s (runArith c [d] [a, b] res (fun k =>
    k.fpDone d (f k.cs (fpArg dbl (k.reg a)) (fpArg dbl (k.reg b)))) s))

/-- A change of the sign bit: no flags. -/
def fpBits (c : Fin 8) (dbl : Bool) (d a : BitVec 5) (f : Word → Word → Word) (s : State) : Host.Outcome State Fault Refusal :=
  .next (settle s (runPlain c [d] [a] (fun k => k.result d (f (fpImage dbl (k.reg a)) (fpSign dbl))) s))

/-- FADD. -/
def effectFadd (c : Fin 8) (dbl : Bool) (d a b : BitVec 5) (res : Residue) (s : State) : Host.Outcome State Fault Refusal :=
  fpArith c dbl d a b res (fun cs x y => (xAdd (fpDown cs) x y, 0)) s

/-- FSUB. -/
def effectFsub (c : Fin 8) (dbl : Bool) (d a b : BitVec 5) (res : Residue) (s : State) : Host.Outcome State Fault Refusal :=
  fpArith c dbl d a b res (fun cs x y => (xAdd (fpDown cs) x (xNeg y), 0)) s

/-- FMUL. -/
def effectFmul (c : Fin 8) (dbl : Bool) (d a b : BitVec 5) (res : Residue) (s : State) : Host.Outcome State Fault Refusal :=
  fpArith c dbl d a b res (fun _ x y => (xMul x y, 0)) s

/-- FDIV. -/
def effectFdiv (c : Fin 8) (dbl : Bool) (d a b : BitVec 5) (res : Residue) (s : State) : Host.Outcome State Fault Refusal :=
  fpArith c dbl d a b res (fun _ x y => xDiv x y) s

/-- FSQRT. -/
def effectFsqrt (c : Fin 8) (dbl : Bool) (d a : BitVec 5) (res : Residue) (s : State) : Host.Outcome State Fault Refusal :=
  .next (settle s (runArith c [d] [a] res (fun k =>
    k.fpDone d (fpResult dbl k.cs (xSqrt (fpArg dbl (k.reg a))) 0)) s))

/-- FMIN. -/
def effectFmin (c : Fin 8) (dbl : Checked Bool) (d a b : BitVec 5) (s : State) : Host.Outcome State Fault Refusal :=
  fpFlags c dbl.val d a b dbl.res (fun cs x y => let r := xMinMax false x y; fpResult dbl.val cs r.1 r.2) s

/-- FMAX. -/
def effectFmax (c : Fin 8) (dbl : Checked Bool) (d a b : BitVec 5) (s : State) : Host.Outcome State Fault Refusal :=
  fpFlags c dbl.val d a b dbl.res (fun cs x y => let r := xMinMax true x y; fpResult dbl.val cs r.1 r.2) s

/-- FCMP: the relation as a one-hot code; invalid only for a signalling NaN. -/
def effectFcmp (c : Fin 8) (dbl : Checked Bool) (d a b : BitVec 5) (s : State) : Host.Outcome State Fault Refusal :=
  fpFlags c dbl.val d a b dbl.res (fun _ x y => (w64 (relation x y), sigExc (xSig x || xSig y))) s

/-- FCVT: from the other precision. -/
def effectFcvt (c : Fin 8) (dbl : Checked Bool) (d a : BitVec 5) (s : State) : Host.Outcome State Fault Refusal :=
  .next (settle s (runArith c [d] [a] dbl.res (fun k => k.fpDone d (fpResult dbl.val k.cs (fpArg (!dbl.val) (k.reg a)) 0)) s))

/-- FTOI. -/
def effectFtoi (c : Fin 8) (dbl : Checked Bool) (d a : BitVec 5) (s : State) : Host.Outcome State Fault Refusal :=
  .next (settle s (runArith c [d] [a] dbl.res (fun k => k.fpDone d (fpToInt k.cs (fpArg dbl.val (k.reg a)))) s))

/-- ITOF. -/
def effectItof (c : Fin 8) (dbl : Checked Bool) (d a : BitVec 5) (s : State) : Host.Outcome State Fault Refusal :=
  .next (settle s (runArith c [d] [a] dbl.res (fun k => k.fpDone d (fpResult dbl.val k.cs (valX (intVal 64 (k.reg a).toNat)) 0)) s))

/-- FNEG. -/
def effectFneg (c : Fin 8) (dbl : Bool) (d a : BitVec 5) (s : State) : Host.Outcome State Fault Refusal :=
  fpBits c dbl d a (fun v m => v ^^^ m) s

/-- FABS. -/
def effectFabs (c : Fin 8) (dbl : Bool) (d a : BitVec 5) (s : State) : Host.Outcome State Fault Refusal :=
  fpBits c dbl d a (fun v m => v &&& ~~~m) s

/-- FMA: a × b + d, one rounding. -/
def effectFma (c : Fin 8) (dbl : Bool) (d a b : BitVec 5) (res : Residue) (s : State) : Host.Outcome State Fault Refusal :=
  .next (settle s (runArith c [d] [d, a, b] res (fun k =>
    k.fpDone d (fpResult dbl k.cs
      (xFma (fpDown k.cs) (fpArg dbl (k.reg a)) (fpArg dbl (k.reg b)) (fpArg dbl (k.reg d))) 0)) s))

end Sys2Proof.Machine
end

