-- ==== Sys2Proof/Machine/CoreMem.lean ====
section
/-! DEFINITION. Branches, loads, stores and atomics of the control cores (09:R262, R264, R266, R267, R272 to R276). -/

namespace Sys2Proof.Machine

/-! Branches and jumps (09:R260, R262). -/

/-- The PC displaced by an offset in units of four bytes. -/
def Bank.jump (b : Bank) (off : BitVec 48) : Bank := { b with pc := b.pc + (off <<< (2 : Nat)) }

/-- A branch: taken or not. -/
def Bank.branch (b : Bank) (taken : Bool) (off : BitVec 48) : Commit :=
  .done (if taken then b.jump off else b.advance 4)

/-- A compare and branch. -/
def branch2 (c : Fin 8) (a b : BitVec 5) (off : BitVec 16) (p : Word → Word → Bool) (s : State) :
    Host.Outcome State Fault Refusal :=
  .next (settle s (runPlain c [] [a, b] (fun k => k.branch (p (k.reg a) (k.reg b)) (off.signExtend 48)) s))

/-! Atomics (09:R266, R267). -/

/-- What memory becomes: operation, size in bytes, old value, b, and d before. -/
inductive Atom where
  | add | swap | cas | and | or | max | min
  deriving DecidableEq, Repr

/-- The new value of an atomic of n bits. -/
def atomNew (op : Atom) (n : Nat) (old b d : BitVec n) : BitVec n :=
  match op with
  | .add => old + b
  | .swap => b
  | .cas => if old == d then b else old
  | .and => old &&& b
  | .or => old ||| b
  | .max => if old.slt b then b else old
  | .min => if old.slt b then old else b

/-- The bytes that an atomic of n bytes writes. -/
def atomBytes (op : Atom) (n old : Nat) (b d : Word) : List Byte :=
  natLe (atomNew op (8 * n) (BitVec.ofNat (8 * n) old) (b.setWidth (8 * n)) (d.setWidth (8 * n))).toNat n

/-- An atomic: performed once every older store is visible (09:R267); in the line, or at the port (12:R352). -/
def coreAtomic (c : Fin 8) (op : Atom) (wide : Bool) (d a b : BitVec 5) (k : Nat) (s : State) : Commit × State :=
  let n := if wide then 8 else 4
  let va := ((bankNow s c k).reg a).toNat
  if va % n != 0 then (.fault ccIllegal va 0, s) else
  match performOlder c s with
  | (false, s) => (.wait, s)
  | (true, s) => match xlatCore c va .atomic k s with
    | (.wait, s) => (.wait, s)
    | (.fault ev, s) => (.fault ev va 0, s)
    | (.ok pa attr, s) =>
      if portWaits s pa n then (.wait, s) else
      match readAccess (attrCached attr) pa n s with
      | (.uncorrectable, s) => (.fault ccParity va 0, s)
      | (_, s) =>
        let k' := bankNow s c k
        let old := Memory.gets s.mem pa n
        let new := cellsAt pa (atomBytes op n (leNat old) (k'.reg b) (k'.reg d))
        let s := (writeAccess (attrCached attr) (attr != attrWB) (.coreStore c) new s).2
        ((bankNow s c k).result d (extendLe true n old), s)

def runAtomic (c : Fin 8) (op : Atom) (wide : Bool) (d a b : BitVec 5) (s : State) : Host.Outcome State Fault Refusal :=
  .next (settle s (runInstr c [d] (if op == .cas then [d, a, b] else [a, b]) (coreAtomic c op wide d a b) s))

def runLoad (c : Fin 8) (d a : BitVec 5) (imm : BitVec 16) (n : Nat) (sext : Bool) (s : State) :
    Host.Outcome State Fault Refusal :=
  .next (settle s (runInstr c [d] [a] (coreLoad c d a imm n sext) s))

/-- Where a store that the buffer holds stops the model (00:R16). -/
def entryStop (s : State) (e : SbEntry) : Option Fault :=
  if region s e.pa == .ctl then regStop s (past ctlBase e.pa) (w64 (leNat e.bytes)) else none

/-- A store: one that would change a KEEP bit stops as it enters the store buffer. -/
def runStore (c : Fin 8) (d a : BitVec 5) (imm : BitVec 16) (n : Nat) (s : State) : Host.Outcome State Fault Refusal :=
  let t := runInstr c [] [d, a] (coreStore c d a imm n) s
  finish s ((getCore t c).sb.findSome? (entryStop s)) t

/-! Meanings. -/

/-- BREQ (09:R262). -/
def effectBreq (c : Fin 8) (a b : BitVec 5) (off : BitVec 16) (s : State) : Host.Outcome State Fault Refusal :=
  branch2 c a b off (fun x y => x == y) s

/-- BRNE (09:R262). -/
def effectBrne (c : Fin 8) (a b : BitVec 5) (off : BitVec 16) (s : State) : Host.Outcome State Fault Refusal :=
  branch2 c a b off (fun x y => x != y) s

/-- BRLT (09:R262). -/
def effectBrlt (c : Fin 8) (a b : BitVec 5) (off : BitVec 16) (s : State) : Host.Outcome State Fault Refusal :=
  branch2 c a b off (fun x y => x.slt y) s

/-- BRLE (09:R262). -/
def effectBrle (c : Fin 8) (a b : BitVec 5) (off : BitVec 16) (s : State) : Host.Outcome State Fault Refusal :=
  branch2 c a b off (fun x y => x.sle y) s

/-- BRLTU (09:R262). -/
def effectBrltu (c : Fin 8) (a b : BitVec 5) (off : BitVec 16) (s : State) : Host.Outcome State Fault Refusal :=
  branch2 c a b off (fun x y => x.ult y) s

/-- BRLEU (09:R262). -/
def effectBrleu (c : Fin 8) (a b : BitVec 5) (off : BitVec 16) (s : State) : Host.Outcome State Fault Refusal :=
  branch2 c a b off (fun x y => x.ule y) s

/-- BRC (09:R264). -/
def effectBrc (c : Fin 8) (cond : BitVec 4) (off : BitVec 22) (s : State) : Host.Outcome State Fault Refusal :=
  .next (settle s (runPlain c [] [] (fun k =>
    match condHolds cond k.cs with
    | some h => k.branch h (off.signExtend 48)
    | none => .fault ccIllegal 0 0) s))

/-- GO (09:R262). -/
def effectGo (c : Fin 8) (off : BitVec 26) (s : State) : Host.Outcome State Fault Refusal :=
  .next (settle s (runPlain c [] [] (fun k => k.branch true (off.signExtend 48)) s))

/-- CALL (09:R262). -/
def effectCall (c : Fin 8) (off : BitVec 26) (s : State) : Host.Outcome State Fault Refusal :=
  .next (settle s (runPlain c [31] [] (fun k =>
    .done ((k.setReg 31 ((k.pc + 4).setWidth 64)).jump (off.signExtend 48))) s))

/-- GOR (09:R262). -/
def effectGor (c : Fin 8) (d a : BitVec 5) (imm : BitVec 16) (s : State) : Host.Outcome State Fault Refusal :=
  .next (settle s (runPlain c [d] [a] (fun k =>
    let t := k.reg a + imm.signExtend 64
    if t.extractLsb' 0 2 != 0 then .fault ccIllegal t.toNat 0
    else .done { k.setReg d ((k.pc + 4).setWidth 64) with pc := t.extractLsb' 0 48 }) s))

/-- LD1S (09:R262, R273). -/
def effectLd1s (c : Fin 8) (d a : BitVec 5) (imm : BitVec 16) (s : State) : Host.Outcome State Fault Refusal :=
  runLoad c d a imm 1 true s

/-- LD1Z (09:R262, R273). -/
def effectLd1z (c : Fin 8) (d a : BitVec 5) (imm : BitVec 16) (s : State) : Host.Outcome State Fault Refusal :=
  runLoad c d a imm 1 false s

/-- LD2S (09:R262, R273). -/
def effectLd2s (c : Fin 8) (d a : BitVec 5) (imm : BitVec 16) (s : State) : Host.Outcome State Fault Refusal :=
  runLoad c d a imm 2 true s

/-- LD2Z (09:R262, R273). -/
def effectLd2z (c : Fin 8) (d a : BitVec 5) (imm : BitVec 16) (s : State) : Host.Outcome State Fault Refusal :=
  runLoad c d a imm 2 false s

/-- LD4S (09:R262, R273). -/
def effectLd4s (c : Fin 8) (d a : BitVec 5) (imm : BitVec 16) (s : State) : Host.Outcome State Fault Refusal :=
  runLoad c d a imm 4 true s

/-- LD4Z (09:R262, R273). -/
def effectLd4z (c : Fin 8) (d a : BitVec 5) (imm : BitVec 16) (s : State) : Host.Outcome State Fault Refusal :=
  runLoad c d a imm 4 false s

/-- LD8 (09:R262, R273). -/
def effectLd8 (c : Fin 8) (d a : BitVec 5) (imm : BitVec 16) (s : State) : Host.Outcome State Fault Refusal :=
  runLoad c d a imm 8 false s

/-- ST1 (09:R262, R273). -/
def effectSt1 (c : Fin 8) (d a : BitVec 5) (imm : BitVec 16) (s : State) : Host.Outcome State Fault Refusal :=
  runStore c d a imm 1 s

/-- ST2 (09:R262, R273). -/
def effectSt2 (c : Fin 8) (d a : BitVec 5) (imm : BitVec 16) (s : State) : Host.Outcome State Fault Refusal :=
  runStore c d a imm 2 s

/-- ST4 (09:R262, R273). -/
def effectSt4 (c : Fin 8) (d a : BitVec 5) (imm : BitVec 16) (s : State) : Host.Outcome State Fault Refusal :=
  runStore c d a imm 4 s

/-- ST8 (09:R262, R273). -/
def effectSt8 (c : Fin 8) (d a : BitVec 5) (imm : BitVec 16) (s : State) : Host.Outcome State Fault Refusal :=
  runStore c d a imm 8 s

/-- AADD (09:R266). -/
def effectAadd (c : Fin 8) (wide : Bool) (d a b : BitVec 5) (s : State) : Host.Outcome State Fault Refusal :=
  runAtomic c .add wide d a b s

/-- ASWAP (09:R266). -/
def effectAswap (c : Fin 8) (wide : Bool) (d a b : BitVec 5) (s : State) : Host.Outcome State Fault Refusal :=
  runAtomic c .swap wide d a b s

/-- ACAS (09:R266). -/
def effectAcas (c : Fin 8) (wide : Bool) (d a b : BitVec 5) (s : State) : Host.Outcome State Fault Refusal :=
  runAtomic c .cas wide d a b s

/-- AAND (09:R266). -/
def effectAand (c : Fin 8) (wide : Bool) (d a b : BitVec 5) (s : State) : Host.Outcome State Fault Refusal :=
  runAtomic c .and wide d a b s

/-- AOR (09:R266). -/
def effectAor (c : Fin 8) (wide : Bool) (d a b : BitVec 5) (s : State) : Host.Outcome State Fault Refusal :=
  runAtomic c .or wide d a b s

/-- AMAX (09:R266). -/
def effectAmax (c : Fin 8) (wide : Bool) (d a b : BitVec 5) (s : State) : Host.Outcome State Fault Refusal :=
  runAtomic c .max wide d a b s

/-- AMIN (09:R266). -/
def effectAmin (c : Fin 8) (wide : Bool) (d a b : BitVec 5) (s : State) : Host.Outcome State Fault Refusal :=
  runAtomic c .min wide d a b s

/-- One entry leaves the store buffer: the oldest, or a store to a write-combining page (09:R275). -/
def effectStoreBufferDrain (c : Fin 8) (s : State) : Host.Outcome State Fault Refusal := .next (settle s (drainOne c s))

end Sys2Proof.Machine
end

