-- ==== Sys2Proof/Machine/Management.lean ====
section
/-! DEFINITION. Commands of the object dictionary, the management chain, units in service, Snowdrop's restart
(13:R359 to R379, R390; 14:R405, R411, R412). -/

namespace Sys2Proof.Machine

/-! The object dictionary. -/

/-- OD_READ (13:R367). -/
def effectOdRead (p : Path) (payload : List Byte) (s : State) : Host.Outcome State Fault Refusal :=
  odOutcome p cmdRead payload s

/-- OD_WRITE (13:R367). -/
def effectOdWrite (p : Path) (payload : List Byte) (s : State) : Host.Outcome State Fault Refusal :=
  odOutcome p cmdWrite payload s

/-- OD_AWRITE (13:R373). -/
def effectOdAwrite (p : Path) (payload : List Byte) (s : State) : Host.Outcome State Fault Refusal :=
  odOutcome p cmdAwrite payload s

/-- SERVICE_ENTER: an AWRITE of 0x01 to 0x2000 sub 0x04 (13:R370). -/
def effectServiceEnter (p : Path) (au : Auth) (s : State) : Host.Outcome State Fault Refusal :=
  odOutcome p cmdAwrite (payAwrite 0x2000 4 au [1]) s

/-- SERVICE_END: an AWRITE of 0x02 to 0x2000 sub 0x04 (13:R370). -/
def effectServiceEnd (p : Path) (au : Auth) (s : State) : Host.Outcome State Fault Refusal :=
  odOutcome p cmdAwrite (payAwrite 0x2000 4 au [2]) s

/-- REG_VALUE_READ: a READ of 0x2002 sub 0x02 (13:R364). -/
def effectRegValueRead (p : Path) (s : State) : Host.Outcome State Fault Refusal :=
  odOutcome p cmdRead (payRead 0x2002 2) s

/-- REG_VALUE_WRITE: a WRITE of 0x2002 sub 0x02 (13:R364). -/
def effectRegValueWrite (p : Path) (v : Word) (s : State) : Host.Outcome State Fault Refusal :=
  odOutcome p cmdWrite (payWrite 0x2002 2 (natLe v.toNat 8)) s

/-- NODE_ADDR_WRITE: a WRITE of 0x1010, answered from the old address (13:R377). -/
def effectNodeAddrWrite (p : Path) (v : BitVec 16) (s : State) : Host.Outcome State Fault Refusal :=
  odOutcome p cmdWrite (payWrite 0x1010 0 (natLe v.toNat 2)) s

/-- The data of a UNIT_CMD (13:R363). -/
def unitData (act : Nat) (unit : BitVec 16) : List Byte := natLe (act * 2 ^ 24 + unit.toNat) 4

/-- UNIT_SERVICE_ENTER (13:R365). -/
def effectUnitServiceEnter (p : Path) (au : Auth) (unit : BitVec 16) (s : State) : Host.Outcome State Fault Refusal :=
  odOutcome p cmdAwrite (payAwrite 0x5001 0 au (unitData 1 unit)) s

/-- UNIT_SERVICE_LEAVE (14:R412). -/
def effectUnitServiceLeave (p : Path) (au : Auth) (unit : BitVec 16) (s : State) : Host.Outcome State Fault Refusal :=
  odOutcome p cmdAwrite (payAwrite 0x5001 0 au (unitData 2 unit)) s

/-- UNIT_RETIRE (14:R405). -/
def effectUnitRetire (p : Path) (au : Auth) (unit : BitVec 16) (s : State) : Host.Outcome State Fault Refusal :=
  odOutcome p cmdAwrite (payAwrite 0x5001 0 au (unitData 3 unit)) s

/-- UNIT_SERVICE_ENTRY: the sub-state takes effect (14:R411). -/
def effectUnitServiceEntry (unit : BitVec 16) (s : State) : Host.Outcome State Fault Refusal :=
  .next (settle s (enterSub unit s))

/-- UNIT_TEST_COMPLETE (14:R412). -/
def effectUnitTestComplete (unit : BitVec 16) (pass : Bool) (detail : BitVec 32) (s : State) :
    Host.Outcome State Fault Refusal :=
  .next (settle s (endTest unit pass detail s))

/-- IMG_BLOCK (13:R363). -/
def effectImgBlock (p : Path) (data : List Byte) (s : State) : Host.Outcome State Fault Refusal :=
  odOutcome p cmdWrite (payWrite 0x5020 2 data) s

/-- IMG_COMMIT (13:R363). -/
def effectImgCommit (p : Path) (au : Auth) (data : List Byte) (s : State) : Host.Outcome State Fault Refusal :=
  odOutcome p cmdAwrite (payAwrite 0x5020 3 au data) s

/-- KEY_WRITE (13:R372). -/
def effectKeyWrite (p : Path) (au : Auth) (slot : Fin 4) (data : List Byte) (s : State) :
    Host.Outcome State Fault Refusal :=
  odOutcome p cmdAwrite (payAwrite 0x6000 (slot.val + 1) au data) s

/-- SPARE_MAP_WRITE (15:R436). -/
def effectSpareMapWrite (p : Path) (au : Auth) (data : List Byte) (s : State) : Host.Outcome State Fault Refusal :=
  odOutcome p cmdAwrite (payAwrite 0x5010 0 au data) s

/-- TESTMODE_WRITE (13:R363). -/
def effectTestmodeWrite (p : Path) (au : Auth) (v : BitVec 32) (s : State) : Host.Outcome State Fault Refusal :=
  odOutcome p cmdAwrite (payAwrite 0x5000 0 au (natLe v.toNat 4)) s

/-! The chain. -/

/-- CRESET, broadcast: the block holds no address and no position (13:R379). -/
def resetChain (src : BitVec 12) (seq : Byte) (s : State) : State :=
  if !chainOpen s then s else
  let s := chainSend (frameOf tyCreset toAll src seq []).bytes s
  if s.ctl.fwUp then { s with mg := { s.mg with nodeAddr := 0, chainPos := 0xFFFF } } else s

/-- CRESET (13:R379). -/
def effectCreset (src : BitVec 12) (seq : Byte) (s : State) : Host.Outcome State Fault Refusal :=
  .next (settle s (resetChain src seq s))

/-- ENUM with a position. -/
def enumFrame (src : BitVec 12) (seq : Byte) (pos : BitVec 16) : Frame := frameOf tyEnum toAll src seq (natLe pos.toNat 2)

/-- ENUM: the block takes POS and forwards POS + 1; with a bad CRC it takes none and forwards the complement of the correct
CRC. Before the firmware has started the frame is forwarded as it is (13:R360, R379). -/
def enumerate (src : BitVec 12) (seq : Byte) (crc : BitVec 32) (pos : BitVec 16) (s : State) : State :=
  let f := enumFrame src seq pos
  let next := enumFrame src seq (pos + 1)
  if !chainOpen s then s
  else if crc != f.crc then
    countCrc (chainSend (if s.ctl.fwUp then { next with crc := ~~~next.crc } else { f with crc := crc }).bytes s)
  else if s.ctl.fwUp then chainSend next.bytes { s with mg := { s.mg with chainPos := pos } }
  else chainSend f.bytes s

/-- ENUM (13:R379). -/
def effectEnum (src : BitVec 12) (seq : Byte) (crc : BitVec 32) (pos : BitVec 16) (s : State) :
    Host.Outcome State Fault Refusal :=
  .next (settle s (enumerate src seq crc pos s))

/-- ASSIGN, broadcast: forwarded, and a request of the block at POS (13:R379). -/
def assignAddress (src : BitVec 12) (seq : Byte) (crc : BitVec 32) (pos addr : BitVec 16) (s : State) : State :=
  let f : Frame := ⟨tyAssign, toAll, src, seq, natLe pos.toNat 2 ++ natLe addr.toNat 2, crc⟩
  if !chainOpen s then s else
  let s := chainSend f.bytes s
  if !f.good then countCrc s
  else if !s.ctl.fwUp || s.mg.chainPos != pos || pos == 0xFFFF then s else chainRequest f s

/-- ASSIGN (13:R379). -/
def effectAssign (src : BitVec 12) (seq : Byte) (crc : BitVec 32) (pos addr : BitVec 16) (s : State) :
    Host.Outcome State Fault Refusal :=
  .next (settle s (assignAddress src seq crc pos addr s))

/-- Frame bytes with a correct CRC, and a LEN that agrees with them (13:R375, R376). -/
def bytesGood (bs : List Byte) : Bool := 4 ≤ bs.length && (crc32 (bs.take (bs.length - 4))).toNat == leNat (bs.drop (bs.length - 4))
def lenAgrees (bs : List Byte) : Bool := 12 ≤ bs.length && leNat ((bs.drop 6).take 2) + 12 == bs.length

/-- DEST of frame bytes. -/
def bytesDest (bs : List Byte) : BitVec 12 := BitVec.ofNat 12 (leNat ((bs.drop 1).take 2))

/-- The frame is one that the commands of the dictionary or of the chain execute (13:R377). -/
def frameTaken (addressed : Bool) (bs : List Byte) : Bool :=
  let ty := (bs.headD 0).toNat
  lenAgrees bs && (if addressed then 1 ≤ ty && ty ≤ 3 else bytesDest bs == toAll && (ty == 2 || (5 ≤ ty && ty ≤ 7)))

/-- A frame that is not executed (13:R360, R377): with a bad CRC it is counted in CRC_ERR; addressed to the block with a
reserved TYPE, a LEN that disagrees or a type that the block does not take, in DISCARD; what is not addressed to the block is
passed on. A frame that is executed is a command of its own. -/
def discardFrame (bs : List Byte) (s : State) : State :=
  let addressed := chainTakes s (bytesDest bs)
  if !chainOpen s || (bytesGood bs && frameTaken addressed bs) then s
  else
    let s := if addressed then s else chainSend bs s
    if !bytesGood bs then countCrc s
    else if addressed then { s with mg := { s.mg with discard := s.mg.discard + 1 } } else s

/-- CHAIN_FRAME_DISCARDED (13:R377). -/
def effectChainFrameDiscarded (bytes : List Byte) (s : State) : Host.Outcome State Fault Refusal :=
  .next (settle s (discardFrame bytes s))

/-- CHAIN_INPUT_LOST: the output carries idle (15:R431). -/
def effectChainInputLost (s : State) : Host.Outcome State Fault Refusal :=
  .next (settle s { s with bnd := { s.bnd with chainIn := false } })

/-- CHAIN_INPUT_REGAINED (15:R431). -/
def effectChainInputRegained (s : State) : Host.Outcome State Fault Refusal :=
  .next (settle s { s with bnd := { s.bnd with chainIn := true } })

/-! Snowdrop's firmware. -/

/-- SNOWDROP_RESTART: FW_UP reads 0, and the requests in progress are lost (14:R390). -/
def restartFirmware (s : State) : State :=
  if s.ctl.fwUp then
    { s with ctl := { s.ctl with fwUp := false, fwRestart := true }
             mbox := { s.mbox with busy := false, cmd := none, ready := none }
             mg := { s.mg with chainReq := none } }
  else s

def effectSnowdropRestart (s : State) : Host.Outcome State Fault Refusal := .next (settle s (restartFirmware s))

/-- SNOWDROP_FIRMWARE_UP: the firmware that restarted runs again (14:R390). -/
def effectSnowdropFirmwareUp (s : State) : Host.Outcome State Fault Refusal :=
  .next (settle s (if s.ctl.fwRestart then { s with ctl := { s.ctl with fwUp := true, fwRestart := false } } else s))

end Sys2Proof.Machine
end

