-- ==== Sys2Proof/Machine/MemPorts.lean ====
section
/-! DEFINITION. What comes from the memory ports, the scrubber, the spare-bank copy, and page walks (08:R233 to R239,
12:R340, 15:R425, R426). -/

namespace Sys2Proof.Machine

/-! Answers (15:R425, R426). -/

/-- The outstanding request of a port that an answer names. -/
def requestOf (s : State) (port : Nat) (tag : BitVec 10) (write : Bool) : Option PortReq :=
  s.memp.out.find? fun r => r.port == port && r.tag == tag && r.write == write

/-- A request is answered. -/
def removeRequest (r : PortReq) (s : State) : State := { s with memp := { s.memp with out := s.memp.out.erase r } }

/-- Requests that wait for a port are presented while they can be. -/
def refillPort (port : Nat) (s : State) : State := presentAll port s.memp.waiting.length s

/-- An answer that names no outstanding request: a late one is discarded, any other sets MP_STRAY (15:R426). -/
def strayResponse (port : Nat) (tag : BitVec 10) (s : State) : State :=
  if s.memp.dead.contains (port, tag) then
    refillPort port { s with memp := { s.memp with dead := s.memp.dead.erase (port, tag) } }
  else setBnd 9 s

/-- The virtual address of the first byte that a request of one unit carries, va being that of its piece, which lies in one page. -/
def requestVa (r : PortReq) (va : Nat) : Nat :=
  let first := match r.old with | c :: _ => c.1 | [] => r.unit * 64
  va / 4096 * 4096 + max (va % 4096) (first % 4096)

/-- The requester of a read goes on, or has an uncorrectable read (08:R233). -/
def readAnswered (r : PortReq) (bad : Bool) (s : State) : State :=
  match r.waiter with
  | .engine q idx opnd va =>
    if bad then failDesc q.val idx (endWith dqMemerr opnd.toNat (requestVa r va.toNat) memUe) s
    else match getFlight s q.val idx with
      | some f => if dClass f.desc == 4 then rmeCheck q.val idx (releaseUnsent q.val idx s) else s
      | none => s
  | .inbound n => inboundPort n bad s
  | .command k => { s with memp := { s.memp with
      got := s.memp.got ++ [(k, r.unit, if bad then .uncorrectable else .clean)] } }
  | _ => s

/-- The status of a read is noted for the unit, and counted (08:R233, R234, log 9). -/
def noteStatus (unit : Nat) (st : ReadStat) (s : State) : State :=
  let m := s.memp
  let ue := m.ueUnits.filter (· != unit)
  let ce := m.ceUnits.filter (· != unit)
  match st with
  | .clean => { s with memp := { m with ueUnits := ue, ceUnits := ce } }
  | .corrected => countMemCe (unit * 64) { s with memp := { m with ueUnits := ue, ceUnits := unit :: ce } }
  | .uncorrectable => countMemUe (unit * 64) { s with memp := { m with ueUnits := unit :: ue, ceUnits := ce } }

/-- STAT of a read response: 0 CLEAN, 1 CORRECTED, 2 UNCORRECTABLE; the reserved status counts as UNCORRECTABLE
(15:R426). -/
def statOf (stat : BitVec 16) : ReadStat :=
  match fld stat 0 2 with
  | 0 => .clean
  | 1 => .corrected
  | _ => .uncorrectable

/-- A read response. -/
def readResponse (port : Nat) (tag : BitVec 10) (st : ReadStat) (s : State) : State :=
  match requestOf s port tag false with
  | none => strayResponse port tag s
  | some r => refillPort port (readAnswered r (st == .uncorrectable) (noteStatus r.unit st (removeRequest r s)))

/-- The byte that an answer ERROR leaves in memory behind later writes: it takes its place under the first later
request that covers it, else under a dirty line, else in memory. -/
def restoreByte (c : Host.Cell) (s : State) : State :=
  let covers (r : PortReq) : Bool := r.write && r.old.any (·.1 == c.1)
  let put (r : PortReq) : PortReq := { r with old := r.old.map fun x => if x.1 == c.1 then c else x }
  let rec first : List PortReq → List PortReq
    | [] => []
    | r :: rs => if covers r then put r :: rs else r :: first rs
  let m := s.memp
  if m.out.any covers then { s with memp := { m with out := first m.out } }
  else if m.waiting.any covers then { s with memp := { m with waiting := first m.waiting } }
  else if s.bc.lines.any fun l => l.dirty && l.line == c.1 / 128 then updateUnder [c] s
  else { s with mem := Memory.put s.mem c.1 c.2 }

/-- A write that returned ERROR: a descriptor's or a remote node's bytes each hold old or new (01:R30); of any other
write, the unit holds its old bytes or the bytes sent (08:R235). -/
def restoreOld (r : PortReq) (s : State) : State :=
  match r.waiter with
  | .engine _ _ _ _ | .inbound _ =>
    let cs := landSome s.ctl.free r.old
    cs.foldl (fun s c => restoreByte c s) { s with ctl := { s.ctl with free := s.ctl.free + r.old.length } }
  | _ =>
    let (old, s) := drawBit s
    if old then r.old.foldl (fun s c => restoreByte c s) s else s

/-- Requester of a write that nothing waits for (14:R397). -/
def writerCode (w : Waiter) : BitVec 16 :=
  match w with
  | .writeBack => 1
  | .coreStore _ => 2
  | _ => 0

/-- A completion record that could not be written: the failure is recorded, and the queue halts (06:R177). -/
def recordFailed (q : Fin 32) (idx : BitVec 32) (va : BitVec 48) (tag : Nat) (s : State) : State :=
  let s := detect dqMemerr clsQueue (BitVec.ofNat 16 (0x0700 + q.val)) memUe
    (va.setWidth 64 ||| 0x00FF000000000000) (idx.setWidth 64 ||| (w64 tag <<< (32 : Nat))) s
  if (getQ s q.val).halted then s else haltQueue q.val dqMemerr memUe idx s

/-- A write returned ERROR (08:R235). -/
def writeFailed (r : PortReq) (s : State) : State :=
  match r.waiter with
  | .engine q idx opnd va =>
    if (getFlight s q.val idx).isNone && opnd == 0xFF then
      recordFailed q idx va (leNat (Memory.gets s.mem (r.unit * 64 + va.toNat % 64) 4)) (restoreOld r s)
    else failDesc q.val idx (endWith dqMemerr opnd.toNat (requestVa r va.toNat) memUe) (restoreOld r s)
  | .inbound n => inboundPort n true (restoreOld r s)
  | w =>
    let s := restoreOld r s
    let s := mempEvent 2 { s with memp := { s.memp with ue := vmod s.memp.ue r.port (· + 1) } }
    fatal memUe (BitVec.ofNat 16 (0x0300 + r.port)) (writerCode w) (w64 (r.unit * 64)) 0 s true

/-- A write was performed. -/
def writeDone (r : PortReq) (s : State) : State :=
  match r.waiter with
  | .engine q idx _ _ => match getFlight s q.val idx with
    | some f => if dClass f.desc == 4 then rmeCheck q.val idx s else s
    | none => s
  | .inbound n => inboundPort n false s
  | _ => s

/-- A write acknowledgement. -/
def writeAck (port : Nat) (tag : BitVec 10) (err : Bool) (s : State) : State :=
  match requestOf s port tag true with
  | none => strayResponse port tag s
  | some r => refillPort port ((if err then writeFailed r else writeDone r) (removeRequest r s))

/-- A request has no answer within its limit: MP_TIMEOUT; its tag stays in use (15:R426). -/
def requestTimeout (port : Nat) (tag : BitVec 10) (s : State) : State :=
  match s.memp.out.find? fun r => r.port == port && r.tag == tag with
  | none => s
  | some r =>
    let s := setBnd 8 (removeRequest r s)
    let s := { s with memp := { s.memp with dead := s.memp.dead ++ [(port, tag)] } }
    refillPort port (if r.write then writeFailed r s else readAnswered r true (countMemUe (r.unit * 64) s))

/-- The port is built in the grade. -/
def atPort (n : Fin 16) (f : State → State) (s : State) : Host.Outcome State Fault Refusal :=
  .next (settle s (if (mpBuilt s).getLsbD n.val then f s else s))

/-- MEMORY_CREDIT (15:R425). -/
def effectMemoryCredit (n : Fin 16) (s : State) : Host.Outcome State Fault Refusal :=
  atPort n (fun s => refillPort n.val { s with memp := { s.memp with credits := vmod s.memp.credits n.val (· + 1) } }) s

/-- MEMORY_READ_RESPONSE (08:R233, 15:R425). -/
def effectMemoryReadResponse (n : Fin 16) (tag : BitVec 10) (stat : BitVec 16) (s : State) :
    Host.Outcome State Fault Refusal := atPort n (readResponse n.val tag (statOf stat)) s

/-- MEMORY_WRITE_ACK (08:R235). -/
def effectMemoryWriteAck (n : Fin 16) (tag : BitVec 10) (err : Bool) (s : State) : Host.Outcome State Fault Refusal :=
  atPort n (writeAck n.val tag err) s

/-- MEMORY_REQUEST_TIMEOUT (15:R426). -/
def effectMemoryRequestTimeout (n : Fin 16) (tag : BitVec 10) (s : State) : Host.Outcome State Fault Refusal :=
  atPort n (requestTimeout n.val tag) s

/-! Stage memory (08:R236, R238). -/

/-- The scrubber reads a word: what its code finds, and what it holds already; a corrected word is written back
(08:R234, R236, R239; 14:R404). -/
def scrubWord (word : Nat) (found : ReadStat) (s : State) : State :=
  if smBytes s ≤ word * 32 then s else
  let pa := stageBase + word * 32
  let st := if s.sm.ueWords.contains (pa / 32) then .uncorrectable
    else if s.sm.ceWords.contains (pa / 32) then worse .corrected found else found
  match st with
  | .clean => s
  | .corrected => countSmCe pa { s with sm := { s.sm with ceWords := s.sm.ceWords.erase (pa / 32) } }
  | .uncorrectable =>
    let s := countSmUe pa { s with sm := { s.sm with ueWords := addOnce (pa / 32) s.sm.ueWords } }
    detect smUe clsInfo (BitVec.ofNat 16 (0x0600 + bankOf pa)) 4 (w64 pa) 0 s true

/-- SCRUB_READ (08:R236). -/
def effectScrubRead (word : BitVec 23) (found : ReadStat) (s : State) : Host.Outcome State Fault Refusal :=
  .next (settle s (scrubWord word.toNat found s))

/-- SPARE_COPY_COMPLETE (08:R238). -/
def effectSpareCopyComplete (spare : Fin 4) (s : State) : Host.Outcome State Fault Refusal :=
  .next (settle s (endCopy spare.val s))

/-! Page walks (12:R340). -/

/-- The walker walks for a requester: a core at its running task's level, or an engine context. -/
def pageWalk (root : WalkRoot) (va : Nat) (acc : Access) (s : State) : State :=
  if xlatHeld s then s else
  match root with
  | .core c =>
    let core := getCore s c
    let (_, e, s) := walk root core.ctx va acc (match runningTask core with | some (_, k) => k | none => 7) s
    match e with
    | some e => if eA e.leaf then fillL1Tlb c e s else s
    | none => s
  | .engine ctx => (walk root ctx va acc 0 s).2.2

/-- PAGE_WALK (12:R340). -/
def effectPageWalk (root : WalkRoot) (va : Word) (access : Access) (s : State) : Host.Outcome State Fault Refusal :=
  .next (settle s (pageWalk root va.toNat access s))

end Sys2Proof.Machine
end

