-- ==== Sys2Proof/Machine/Text.lean ====
section
/-! DEFINITION. Character conversion (07:R206). -/

namespace Sys2Proof.Machine

/-- ASCII codes of a text. -/
def ascii (t : String) : List Byte := t.toList.map fun c => BitVec.ofNat 8 c.toNat

def digitChar (d : Nat) : Byte := BitVec.ofNat 8 (if d < 10 then 48 + d else 87 + d)

/-- The n low-order digits of v in a base. -/
def digitsOf (base v : Nat) : Nat → List Byte
  | 0 => []
  | n + 1 => digitsOf base (v / base) n ++ [digitChar (v % base)]

/-- Number of decimal digits of v, at least 1. -/
def decLen (v : Nat) : Nat := ((List.range (v.log2 + 2)).find? fun n => v < 10 ^ (n + 1)).getD 0 + 1

def signText (neg : Bool) : List Byte := if neg then ascii "-" else []

def expText (e : Int) (n : Nat) : List Byte :=
  (if e < 0 then ascii "-" else ascii "+") ++ digitsOf 10 e.natAbs (max n (decLen e.natAbs))

/-- The decimal exponent of a positive exact number. -/
def decExp (x : Ex) : Int :=
  let e := x.ilog * 30103 / 100000
  let le (k : Int) : Bool :=
    let y : Ex := if 0 ≤ k then ⟨false, 10 ^ k.toNat, 1, 0⟩ else ⟨false, 1, 10 ^ (-k).toNat, 0⟩
    y.cmp { x with neg := false } != .gt
  ([e + 2, e + 1, e, e - 1].find? le).getD (e - 2)

/-- Decimal text of a finite value with `dig` digits, and whether it was rounded. -/
def decText (c : Rnd) (dig : Nat) (x : Ex) : List Byte × Bool :=
  let (t, e, inexact) : Nat × Int × Bool :=
    if x.num == 0 then (0, 0, false)
    else
      let e := decExp x
      let k := e - (dig : Int) + 1
      let y : Ex := if 0 ≤ k then { x with den := x.den * 10 ^ k.toNat } else { x with num := x.num * 10 ^ (-k).toNat }
      let (n, d) := y.units 0
      let t := roundQ c x.neg n d
      if t == 10 ^ dig then (t / 10, e + 1, n % d != 0) else (t, e, n % d != 0)
  let ds := digitsOf 10 t dig
  let point := if 2 ≤ dig || Config.oneDigitPoint then ascii "." else []
  (signText x.neg ++ ds.take 1 ++ point ++ ds.drop 1 ++ ascii "e" ++ expText e 3, inexact)

/-- Bits after the point of a format's hexadecimal text: its trailing significand; of the integers, the bits below
their top; a VA64c element shows as many as it needs (log 17). -/
def hexFracBits (f : Nat) : Nat :=
  match fltOf f with
  | some l => l.p
  | none => if f == 5 then 6 else 2

/-- Hexadecimal text of a finite value (07:R206): lead digit 0 only for subnormals and zero. -/
def hexText (f : Nat) (neg : Bool) (m : Nat) (e : Int) : List Byte :=
  let flt := (fltOf f).isSome
  -- a floating-point element keeps its code's point; every other value is normalised
  let p := if flt then hexFracBits f else if f == 0x21 then m.log2 else max (hexFracBits f) m.log2
  let m' := if flt || f == 0x21 then m else m <<< (p - m.log2)
  let e' : Int := if flt || f == 0x21 then e else e - ((p - m.log2 : Nat) : Int)
  let nd := (p + 3) / 4
  let frac := (m' % 2 ^ p) <<< (4 * nd - p)
  let ex := if m == 0 then Config.hexZeroExp f else e' + p
  signText neg ++ ascii "0x" ++ [digitChar (m' >>> p)] ++ ascii "." ++ digitsOf 16 frac nd ++ ascii "p" ++ expText ex 4

/-- The text of an element and whether it was rounded: `sub` 0 decimal, 1 hexadecimal. -/
def toText (f sub dig : Nat) (c : Rnd) (v : Val) : List Byte × Bool :=
  match v with
  | .inf n => (signText n ++ ascii "inf", false)
  | .nan n s _ => (signText n ++ (if s then ascii "snan" else ascii "nan"), false)
  | .fin n m e =>
    if f == 0x14 then
      let t := shiftTo m e 0
      (signText n ++ digitsOf 10 t (decLen t), false)
    else if sub == 0 then decText c dig ⟨n, m, 1, e⟩
    else (hexText f n m e, false)

/-- The 32 bytes of a text (07:R206); those of a longer text are open (log 17). -/
def textBytes (t : List Byte) : List Byte :=
  if t.length ≤ 32 then t ++ List.replicate (32 - t.length) 0 else (List.range 32).map (Config.longText t)

/-! Reading. -/

def lower (b : Byte) : Byte := if 65 ≤ b.toNat && b.toNat ≤ 90 then b + 32 else b

def digitVal (b : Byte) : Nat :=
  let n := b.toNat
  if 48 ≤ n && n ≤ 57 then n - 48 else if 97 ≤ n && n ≤ 102 then n - 87 else 99

/-- The digits of a base at the head of a text: their value, their number, the rest. -/
def readDigits (base : Nat) : List Byte → Nat → Nat → Nat × Nat × List Byte
  | [], v, n => (v, n, [])
  | b :: bs, v, n => if digitVal b < base then readDigits base bs (base * v + digitVal b) (n + 1) else (v, n, b :: bs)

/-- An optional sign. -/
def readSign : List Byte → Bool × List Byte
  | 45 :: bs => (true, bs)
  | 43 :: bs => (false, bs)
  | bs => (false, bs)

/-- The exponent part after its letter; it ends the text. -/
def readExp (letter : Byte) (t : List Byte) : Option Int :=
  match t with
  | [] => some 0
  | b :: bs =>
    if b != letter then none else
    let (neg, bs) := readSign bs
    match readDigits 10 bs 0 0 with
    | (v, n + 1, []) => let _ := n; some (if neg then -(v : Int) else v)
    | _ => none

/-- A number in a base: digits, an optional fraction, an optional exponent. Beyond ±20000 every format saturates or
underflows alike. -/
def readNumber (base : Nat) (letter : Byte) (neg : Bool) (t : List Byte) : Option XVal :=
  let (v, n, rest) := readDigits base t 0 0
  let (v, k, rest) := match rest with
    | 46 :: r => let (v', n', r') := readDigits base r v 0; (v', n', r')
    | r => (v, 0, r)
  if n == 0 then none else
  match readExp letter rest with
  | none => none
  | some e =>
    let e := max (-20000) (min 20000 e)
    if base == 16 then some (.real ⟨neg, v, 1, e - 4 * k⟩)
    else
      let d := e - (k : Int)
      some (.real (if 0 ≤ d then ⟨neg, v * 10 ^ d.toNat, 1, 0⟩ else ⟨neg, v, 10 ^ (-d).toNat, 0⟩))

/-- The value of a text (07:R206); none: it does not parse. -/
def fromText (bs : List Byte) : Option XVal :=
  let t := (bs.takeWhile (· != 0)).map lower
  let (neg, t) := readSign t
  if t == ascii "inf" || t == ascii "infinity" then some (.inf neg)
  else if t == ascii "nan" then some (.nan neg false 0)
  else if t == ascii "snan" then some (.nan neg true 0)
  else match t with
    | 48 :: 120 :: r => readNumber 16 112 neg r
    | t => readNumber 10 101 neg t

end Sys2Proof.Machine
end

