-- ==== Sys2Proof/Machine/VeElem.lean ====
section
/-! DEFINITION. The vector engine's operation on one element, and the conversion of its results (07:R200 to R208). -/

namespace Sys2Proof.Machine

/-- How a VE descriptor computes: opcode, fields, formats, activation segments and rounding configuration. -/
structure VeCfg where
  op   : Nat
  sub  : Nat
  rnd  : Nat
  fa   : Nat
  fb   : Nat
  fc   : Nat
  segs : List ActSeg
  seed : Word
  w    : Nat
  fast : Bool
  /-- each element is rounded twice: VE_RINT SUB 5 into another format or a scaled C (02:R61, 07:R203) -/
  twice : Bool
  deriving DecidableEq, Repr

/-- What an element operation gives: an exact value that is still converted, with the mode of that conversion, or a
code of C that is written as it is. -/
inductive VeRes where
  | num (x : XVal) (e : Exc) (mode : Nat)
  | code (c : Nat) (e : Exc)
  deriving DecidableEq, Repr

/-- An operand's element: its format, value and code. -/
structure VeArg where
  fmt  : Nat
  v    : Val
  code : Nat
  deriving DecidableEq, Repr

def VeArg.x (a : VeArg) : XVal := valX a.v

/-- Rounding of the n-th draw of a lane (02:R60, R61). -/
def VeCfg.draw (k : VeCfg) (mode lane n : Nat) : Rnd :=
  { mode := mode, w := k.w, fast := k.fast, r := if mode == 4 then srBits k.seed lane n k.w else 0 }

/-- The draw of the conversion of an element in row i: the last of its roundings (02:R61). -/
def VeCfg.drawNo (k : VeCfg) (i : Nat) : Nat := if k.twice then 2 * i + 2 else i + 1

/-- The sign of an exact zero sum of operands of opposite sign. -/
def VeCfg.dn (k : VeCfg) : Bool := k.rnd == 3

/-- A value by its format's sign: a zero or NaN of a narrow format, of VA64c or of INT32 is positive (07:R203, R205). -/
def signOf (f : Nat) (v : Val) : Bool :=
  if fmtIeee f then valNeg v
  else match v with
    | .nan _ _ _ => false
    | .inf n => n
    | .fin n m _ => n && m != 0

/-- −v, |v| or a value with a sign. -/
def withSign (neg : Bool) : XVal → XVal
  | .nan n s p => .nan n s p
  | .inf _ => .inf neg
  | .real x => .real { x with neg := neg }

/-- A code of an IEEE format delivered as a result: FAST flushes a nonzero subnormal of BF16, FP16 or FP32 and gives
every NaN as the canonical quiet NaN (02:R65 D2, D3). -/
def fastCode (k : VeCfg) (c : Nat) : VeRes :=
  match k.fast, fltOf k.fa with
  | true, some l =>
    let top := 2 ^ (l.k + l.p)
    let m := c % top
    if !l.ieee then .code c 0
    else if (2 ^ l.k - 1) <<< l.p < m then .code l.nanCode 0
    else if m != 0 && m < 2 ^ l.p && k.fa != 0x13 && k.fa != 0x20 then .code (c - m) (excUnderflow ||| excInexact)
    else .code c 0
  | _, _ => .code c 0

/-- VE_SIGN (07:R203): on the bits of an IEEE format, else on the value; only INT32 raises a flag. -/
def veSign (k : VeCfg) (a b : VeArg) : VeRes :=
  let old := valNeg a.v
  let neg := match k.sub with
    | 0 => old
    | 1 => !old
    | 2 => false
    | _ => signOf k.fb b.v
  if fmtIeee k.fa then
    let top := fmtBits k.fa - 1
    fastCode k (a.code % 2 ^ top + (if neg then 2 ^ top else 0))
  else
    let (c, e) := convert k.fc ⟨0, 0, k.w, k.fast⟩ (withSign neg a.x)
    if k.fa == 0x14 then .code c e else .num (withSign neg a.x) 0 0

/-- VE_NEXT on a code (07:R203). -/
def veNext (k : VeCfg) (a : VeArg) : VeRes :=
  let up := k.sub == 0
  let bits := fmtBits k.fa
  let top := bits - 1
  let m := a.code % 2 ^ top
  let s := a.code.testBit top
  if k.fa == 5 || k.fa == 6 || k.fa == 0x14 then
    if valIsNan a.v then .code a.code 0 else
    let mx : Int := (2 ^ top : Nat) - 1
    let lo : Int := if k.fa == 0x14 then -mx - 1 else -mx
    let v := max lo (min mx (valInt a.v + if up then 1 else -1))
    .code (twos bits (v < 0) v.natAbs) 0
  else if fmtIeee k.fa then
    if valIsNan a.v then .num a.x 0 0
    else if s != up then
      -- away from zero, unless the value is the infinity of that sign
      if !valIsFinite a.v then .code a.code 0 else fastCode k (a.code + 1)
    else if m == 0 then fastCode k (if up then 1 else 2 ^ top + 1)
    else fastCode k (a.code - 1)
  else
    if valIsNan a.v then .code a.code 0
    else if m == 0 then .code (if up then 1 else 2 ^ top + 1) 0
    else if s != up then .code (if m == 2 ^ top - 1 then a.code else a.code + 1) 0
    else .code (if m == 1 then 0 else a.code - 1) 0

/-- The value lies below the normal range of its format; a narrow element by its code (07:R205). -/
def isSubnormal (a : VeArg) : Bool :=
  match a.v with
  | .fin _ m e =>
    m != 0 && (match fltOf a.fmt with
      | some l => if l.ieee then (m.log2 : Int) + e < l.emin else (a.code >>> l.p) % 2 ^ l.k == 0
      | none => a.fmt == 0x21 && (m.log2 : Int) + e < -126)
  | _ => false

/-- VE_CLASS (07:R205). -/
def veClass (a : VeArg) : Nat :=
  let s := signOf a.fmt a.v
  let c := match a.v with
    | .nan _ sig _ => if sig then 0 else 1
    | .inf n => if n then 2 else 9
    | .fin _ m _ =>
      if m == 0 then (if s then 5 else 6)
      else if isSubnormal a then (if s then 4 else 7) else (if s then 3 else 8)
  16 * (if s then 1 else 0) + c

/-- VA32 is FP32 but for its subnormal results (02:R52). -/
def ieeeName (f : Nat) : Nat := if f == 0x20 then 0x12 else f

/-- VE_TOTORD (07:R203). -/
def veTotord (k : VeCfg) (a b : VeArg) : Bool :=
  if fmtIeee k.fa && ieeeName k.fa == ieeeName k.fb then
    let bits := fmtBits k.fa
    let key (c : Nat) : Int := codeOrder bits (if k.sub == 1 then c % 2 ^ (bits - 1) else c)
    key a.code ≤ key b.code
  else if k.sub == 1 then totByValue (xAbs a.x) (xAbs b.x) else totByValue a.x b.x

/-- The directed mode towards the bracketing value that the part returns (07:R207, log 12). -/
def bracket (isLog : Bool) (k : VeCfg) (a : VeArg) : Nat := if Config.upper isLog k.fa a.v k.fc then 2 else 3

/-- VE_EXP2 (07:R207). -/
def veExp2 (k : VeCfg) (a : VeArg) : VeRes :=
  match a.x with
  | .nan n s p => .num (.nan n s p) 0 0
  | .inf n => .num (if n then .real ⟨false, 0, 1, 0⟩ else .inf false) 0 0
  | .real x => .num (.real (exp2Ex x)) 0 (bracket false k a)

/-- VE_LOG2 (07:R207). -/
def veLog2 (k : VeCfg) (a : VeArg) : VeRes :=
  match a.x with
  | .nan n s p => .num (.nan n s p) 0 0
  | .inf n => .num (if n then xBad else .inf false) 0 0
  | .real x =>
    if x.num == 0 then .num (.inf true) excDivZero 0
    else if x.neg then .num xBad 0 0
    else .num (.real (log2Ex x)) 0 (bracket true k a)

/-- VE_LOGB into INT32 (07:R203). -/
def veLogb (a : VeArg) : Nat × Exc :=
  match a.x with
  | .nan _ _ _ => (0x80000000, excInvalid)
  | .inf _ => (0x7FFFFFFF, excInvalid)
  | .real x => if x.num == 0 then (0x80000000, excInvalid) else (twos 32 (x.ilog < 0) x.ilog.natAbs, 0)

/-- The mode of VE_RINT (07:R203); 5 is ties away. -/
def rintMode (k : VeCfg) : Nat :=
  match k.sub with
  | 0 => 0 | 1 => 5 | 2 => 1 | 3 => 2 | 4 => 3 | _ => k.rnd

def bitNum (b : Bool) : XVal := .real ⟨false, if b then 1 else 0, 1, 0⟩

/-- The operation of an elementwise opcode; `c`: C's element before; `r`: the random bits of its first rounding. -/
def veElem (k : VeCfg) (a b : VeArg) (c : XVal) (r : Nat) : VeRes :=
  match k.op with
  | 0x01 => .num (xAdd k.dn a.x b.x) 0 k.rnd
  | 0x02 => .num (xAdd k.dn a.x (xNeg b.x)) 0 k.rnd
  | 0x03 => .num (xMul a.x b.x) 0 k.rnd
  | 0x04 => .num (xDiv a.x b.x).1 (xDiv a.x b.x).2 k.rnd
  | 0x05 => .num (xFma k.dn a.x b.x c) 0 k.rnd
  | 0x06 => .num (xSqrt a.x) 0 k.rnd
  | 0x07 => .num (xRem a.x b.x) 0 k.rnd
  | 0x08 => .num (xScaleb a.x (valInt b.v)) 0 k.rnd
  | 0x09 => .code (veLogb a).1 (veLogb a).2
  | 0x0A =>
    let y := xRint ⟨rintMode k, r, k.w, k.fast⟩ a.x
    .num y.1 (if k.sub == 5 && y.2 then excInexact else 0) k.rnd
  | 0x0B => veNext k a
  | 0x0C => veSign k a b
  | 0x0D =>
    if k.sub == 0 then .num a.x 0 k.rnd
    else
      let y := xRint ⟨5, 0, k.w, k.fast⟩ a.x
      let z := convInt32 rne y.1
      .code z.1 (if z.2 == 0 && y.2 then excInexact else z.2)
  | 0x0E =>
    let un := xIsNan a.x || xIsNan b.x
    .num (bitNum (k.sub % 16 &&& relation a.x b.x != 0))
      (sigExc (xSig a.x || xSig b.x || (un && k.sub.testBit 4))) 0
  | 0x0F => .code (veClass a) 0
  | 0x10 => .num (bitNum (veTotord k a b)) 0 0
  | 0x13 => .num (xMinMax (k.sub == 0) a.x b.x).1 (xMinMax (k.sub == 0) a.x b.x).2 k.rnd
  | 0x14 => .num (valX (decode32 (actEval k.segs (rne32 a.x).1))) (sigExc (xSig a.x)) k.rnd
  | 0x15 => veExp2 k a
  | _ => veLog2 k a

/-! Conversion into C (02:R56 to R58). -/

/-- The canonical pair of the exact sum of two finite FP32 values, the second no larger than a quantum of the first
(02:R53): its low word holds what is left exactly. -/
def canonPair (hi lo : Nat) : Nat :=
  match decode32 hi, decode32 lo with
  | .fin n m e, .fin n' m' e' =>
    match valX (finAdd false n m e n' m' e') with
    | .real y =>
      if y.num == 0 then hi ||| (lo <<< 32) else (convVa64c false (.real y)).1
    | _ => hi ||| (lo <<< 32)
  | _, _ => hi ||| (lo <<< 32)

/-- Conversion to VA64c of a result that the part rounds to a bracketing value (log 12), as a canonical pair. -/
def convVa64cTo (mode : Nat) (fast : Bool) (x : XVal) : Nat × Exc :=
  let near := convVa64c fast x
  match x, decode32 (near.1 % 2 ^ 32) with
  | .real y, .fin n m e =>
    if y.num == 0 then near
    else
      let lo := (convIeee flt32 false ⟨mode, 0, 12, false⟩ (.real (y.minus n m e))).1
      (canonPair (near.1 % 2 ^ 32) lo, near.2)
  | _, _ => near

/-- Flags that an opcode keeps of its conversion: VE_RINT with SUB 0 to 4 raises no inexact, VE_SIGN nothing (07:R203),
VE_RMAX only invalid for a signalling NaN (07:R208). -/
def keptExc (k : VeCfg) (e : Exc) : Exc :=
  if k.op == 0x0A && k.sub < 5 then e &&& ~~~excInexact
  else if k.op == 0x0C && k.fa != 0x14 then 0
  else if k.op == 0x21 then 0 else e

/-- The conversion of an element's result at a position; `se`: the scale exponent of its block. -/
def veConv (k : VeCfg) (se : Option Nat) (i j : Nat) : VeRes → Nat × Exc
  | .code c e => (c, e)
  | .num x e mode =>
    let c := k.draw mode j (k.drawNo i)
    let y := match se with
      | some se => convertScaled k.fc se c x
      | none => if k.fc == 0x21 && (k.op == 0x15 || k.op == 0x16) && mode != 0 then convVa64cTo mode k.fast x
        else convert k.fc c x
    (y.1, e ||| keptExc k y.2)

/-- The positions of the scale block of an element of C. -/
def cBlock (o : Operand) (r : Role) (i j : Nat) : List (Nat × Nat) :=
  if r.colLines then (List.range (min o.bs (o.rows - i / o.bs * o.bs))).map fun x => (i / o.bs * o.bs + x, j)
  else (List.range (min o.bs (o.cols - j / o.bs * o.bs))).map fun x => (i, j / o.bs * o.bs + x)

def VeRes.val : VeRes → XVal
  | .num x _ _ => x
  | .code _ _ => .real ⟨false, 0, 1, 0⟩

/-- The scale exponent of the block of an element (02:R58). -/
def cSe (k : VeCfg) (o : Operand) (r : Role) (res : Nat → Nat → VeRes) (i j : Nat) : Option Nat :=
  if o.scaled then some (chooseSe k.fc ((cBlock o r i j).map fun p => (res p.1 p.2).val)) else none

/-- The code and flags of an element of C. -/
def cCode (k : VeCfg) (o : Operand) (r : Role) (res : Nat → Nat → VeRes) (i j : Nat) : Nat × Exc :=
  veConv k (cSe k o r res i j) i j (res i j)

/-- The scale byte of block b of a scale line of C. -/
def cScale (k : VeCfg) (o : Operand) (r : Role) (res : Nat → Nat → VeRes) (x b : Nat) : Nat :=
  let p : Nat × Nat := if r.colLines then (b * o.bs, x) else (x, b * o.bs)
  scaleByte ((cSe k o r res p.1 p.2).getD 63) ((cBlock o r p.1 p.2).map fun y => (cCode k o r res y.1 y.2).1)

end Sys2Proof.Machine
end

