-- ==== Sys2Proof/Machine/VeOps.lean ====
section
/-! DEFINITION. What a VE descriptor reads and computes (07:R201 to R219; 05:R137). -/

namespace Sys2Proof.Machine

/-- What a descriptor computes: the virtual cells of C and of its scale bytes, its flags, its count, its verdict. -/
structure VeOut where
  cells   : List (Nat × List Host.Cell)
  exc     : Exc
  count   : Nat
  verdict : Option Ended
  deriving DecidableEq, Repr

/-- The positions of an m × n matrix. -/
def allPos (m n : Nat) : List (Nat × Nat) := (List.range m).flatMap fun i => (List.range n).map fun j => (i, j)

/-- The cells of C and its scale bytes, and the flags of its elements. -/
def veWrite (k : VeCfg) (o : Operand) (r : Role) (res : Nat → Nat → VeRes) : VeOut :=
  { cells := [(3, o.writeElems [] fun i j => (cCode k o r res i j).1),
      (9, if o.scaled then o.writeScales [] r (cScale k o r res) else [])],
    exc := (allPos o.rows o.cols).foldl (fun e p => e ||| (cCode k o r res p.1 p.2).2) 0,
    count := o.rows * o.cols, verdict := none }

def colRole (b : Bool) : Role := ⟨false, b⟩

/-- An operand's element as read. -/
def veArg (o : Operand) (rd : Nat → Byte) (r : Role) (i j : Nat) : VeArg :=
  ⟨o.fmt, o.value rd [] r i j, (o.code rd [] r i j).getD 0⟩

/-! Elementwise opcodes (07:R201 to R207). -/

def veMap (k : VeCfg) (d : Desc) (rd : Nat → Byte) : VeOut :=
  let a := dA d
  let b := dB d
  let c := dC d
  veWrite k c (colRole (veScolC d)) fun i j =>
    veElem k (veArg a rd (colRole (veScolA d)) i j)
      (if veHasB d then veArg b rd (colRole (veScolB d)) (if b.rows == 1 then 0 else i) (if b.cols == 1 then 0 else j)
       else ⟨0, .fin false 0 0, 0⟩)
      (if k.op == 5 then valX (c.value rd [] (colRole (veScolC d)) i j) else .real ⟨false, 0, 1, 0⟩)
      (if k.rnd == 4 then srBits k.seed j (if k.twice then 2 * i + 1 else i + 1) k.w else 0)

/-! Reductions (07:R208 to R211). -/

/-- The elements of line x of A: a row, or a column. -/
def veLine (d : Desc) (rd : Nat → Byte) (x : Nat) : List XVal :=
  let a := dA d
  let r := colRole (veScolA d)
  if veDir d then (List.range a.rows).map fun i => valX (a.value rd [] r i x)
  else (List.range a.cols).map fun j => valX (a.value rd [] r x j)

/-- Rounded additions in order: the n-th and following draws of a lane. DESIGN CHOICE (log 61): in FAST each of the
roundings, and not the last alone, delivers its subnormal result as zero (02:R65 D2). -/
def foldRounded (k : VeCfg) (lane : Nat) : List XVal → Nat → XVal → Exc → Nat × XVal × Exc
  | [], n, acc, e => (n, acc, e)
  | x :: xs, n, acc, e =>
    let y := convert k.fc (k.draw k.rnd lane n) (xAdd k.dn acc x)
    foldRounded k lane xs (n + 1) (valX (decode k.fc y.1)) (e ||| y.2)

/-- The rounded sums of runs of 8 (02:R65 D1). -/
def roundRuns (k : VeCfg) (lane : Nat) : List (List XVal) → Nat → Nat × List XVal × Exc
  | [], n => (n, [], 0)
  | r :: rs, n =>
    let y := convert k.fc (k.draw k.rnd lane n) (xSum k.dn r)
    let (m, l, e) := roundRuns k lane rs (n + 1)
    (m, valX (decode k.fc y.1) :: l, e ||| y.2)

/-- The value of a sum in a format: its code. -/
def codeOf (f : Nat) (x : XVal) : Nat := (convert f ⟨0, 0, 12, false⟩ x).1

/-- VE_RSUM of a line into BF16, FP16, FP32 or FP64, from the n-th draw of a lane on (07:R208). -/
def rsumLine (k : VeCfg) (lane n : Nat) (xs : List XVal) : VeRes :=
  if k.fast then
    let (m, l, e) := roundRuns k lane (runsOf8 xs) n
    match l with
    | [] => .code 0 0
    | y :: ys => let z := foldRounded k lane ys m y e; .code (codeOf k.fc z.2.1) z.2.2
  else match xs with
    | [] => .code 0 0
    | [x] => let y := convert k.fc (k.draw k.rnd lane n) x; .code y.1 y.2
    | x :: xs => let z := foldRounded k lane xs n x 0; .code (codeOf k.fc z.2.1) z.2.2

/-- Roundings per output of VE_RSUM (07:R208). -/
def rsumDraws (fast : Bool) (l : Nat) : Nat :=
  if fast then 2 * ((l + 7) / 8) - 1 else max 1 (l - 1)

/-- The formats into which VE_RSUM rounds every addition. -/
def rsumSteps (f : Nat) : Bool := f == 0x10 || f == 0x11 || f == 0x12 || f == 0x13

def xMost (mx : Bool) : List XVal → XVal
  | [] => .real ⟨false, 0, 1, 0⟩
  | x :: xs => xs.foldl (fun a b => (xMinMax mx a b).1) x

/-- VE_RSUM and VE_RMAX (07:R208). -/
def veReduce (k : VeCfg) (d : Desc) (rd : Nat → Byte) : VeOut :=
  veWrite k (dC d) (colRole (veScolC d)) fun i j =>
    let x := if veDir d then j else i
    let l := veLine d rd x
    if k.op == 0x21 then .num (xMost (k.sub == 0) l) (sigExc (l.any xSig)) k.rnd
    else if rsumSteps k.fc then
      rsumLine k (if veDir d then j else 0) (1 + if veDir d then 0 else x * rsumDraws k.fast l.length) l
    else .num (xSum k.dn l) 0 k.rnd

/-- VE_RSTAT (07:R209). DESIGN CHOICE (log 61): it raises no exception flag, neither for its roundings nor for a
signalling NaN among its elements. -/
def veStat (d : Desc) (rd : Nat → Byte) : VeOut :=
  let n := if veDir d then (dA d).cols else (dA d).rows
  { cells := [(3, (List.range n).flatMap fun x => cellsAt ((dC d).addr + 48 * x) (statLine (veLine d rd x)).bytes)],
    exc := 0, count := n, verdict := none }

/-- Operand A moved to partial p (07:R210). -/
def psumA (d : Desc) (p : Nat) : Operand := { dA d with addr := (dA d).addr + p * psumStride d }

/-- VE_PSUM (07:R210). -/
def vePsum (k : VeCfg) (d : Desc) (rd : Nat → Byte) : VeOut :=
  veWrite k (dC d) (colRole (veScolC d)) fun i j =>
    .num (xSum k.dn ((List.range (psumN d)).map fun p =>
      valX ((psumA d p).value rd [] (colRole (veScolA d)) i j))) 0 k.rnd

/-- Operand A of VE_WSUM with a row for each entry of its list. -/
def wsumA (d : Desc) : Operand := { dA d with rows := (dC d).rows * wsumE d }

/-- Element j of the line that entry x names; the scale lines that are columns count stored lines (log 25). -/
def wsumVal (d : Desc) (rd : Nat → Byte) (list : List (BitVec 32)) (x j : Nat) : Val :=
  let a := dA d
  if a.scaled && veScolA d then
    decodeScaled a.fmt (((wsumA d).code rd list (colRole true) x j).getD 0)
      (rd (a.scaleBase + j * a.sb (colRole true) + (lineOf list x).toNat / a.bs)).toNat
  else (wsumA d).value rd list (colRole false) x j

/-- VE_WSUM at row t and column j (07:R211): null entries contribute zero. -/
def wsumRes (k : VeCfg) (d : Desc) (list : List (BitVec 32)) (rd : Nat → Byte) (t j : Nat) : VeRes :=
  let null (e : Nat) : Bool := lineOf list (t * wsumE d + e) == nullLine
  let line (e : Nat) : XVal := valX (wsumVal d rd list (t * wsumE d + e) j)
  let gate (e : Nat) : XVal := valX ((dB d).value rd [] (colRole (veScolB d)) t e)
  let es := List.range (wsumE d)
  let used := es.filter fun e => !null e
  -- a NaN result is the first NaN operand, A before B (02:R64)
  .num ((xNanOf (used.map line ++ used.map gate)).getD
    (xSum k.dn (es.map fun e => if null e then .real ⟨false, 0, 1, 0⟩ else xMul (line e) (gate e)))) 0 k.rnd

/-- A reader for part n of a result: where a gathered source byte has been written by an earlier part, it is free
which one it reads (07:R202, log 24). -/
def mixedReader (free n : Nat) (m : PageMap) (old : Nat → Byte) (done : List Host.Cell) (va : Nat) : Byte :=
  match done.find? (·.1 == mapVa m va) with
  | some c => if Config.seesNew free n c.1 then c.2 else old va
  | none => old va

/-- Rows of C that are computed together: those of a scale block where the scale lines are columns. -/
def rowsAtOnce (o : Operand) (r : Role) : Nat :=
  if o.layout == 2 then o.rows else if o.scaled && r.colLines then o.bs else 1

/-- The cells of rows [i, i + n) of C and of the scale bytes that belong to them. -/
def rowCells (k : VeCfg) (o : Operand) (r : Role) (res : Nat → Nat → VeRes) (i n : Nat) : List Host.Cell × List Host.Cell :=
  let rows := (List.range (min n (o.rows - i))).map (· + i)
  let elems := if o.layout == 2 then o.writeElems [] fun i j => (cCode k o r res i j).1
    else rows.flatMap fun i => (List.range o.cols).flatMap fun j =>
      let p := o.place [] i j
      cellsAt (p.1 + p.2 * o.bits / 8) (natLe (cCode k o r res i j).1 ((o.bits + 7) / 8))
  let scales := if !o.scaled then []
    else if r.colLines then (List.range o.cols).map fun j =>
      (o.scaleAddr [] r i j, BitVec.ofNat 8 (cScale k o r res j (i / o.bs)))
    else rows.flatMap fun i => (List.range (o.sb r)).map fun b =>
      (o.scaleAddr [] r i (b * o.bs), BitVec.ofNat 8 (cScale k o r res i b))
  (elems, scales)

/-- The cells of VE_WSUM, its rows computed in order. -/
def wsumRows (k : VeCfg) (d : Desc) (list : List (BitVec 32)) (free : Nat) (m : PageMap) (rd : Nat → Byte) :
    Nat → Nat → List Host.Cell → Exc → List (Nat × List Host.Cell) × Exc
  | 0, _, _, e => ([], e)
  | fuel + 1, i, done, e =>
    let o := dC d
    let r := colRole (veScolC d)
    if o.rows ≤ i then ([], e) else
    let n := rowsAtOnce o r
    let res := wsumRes k d list (mixedReader free i m rd done)
    let (es, ss) := rowCells k o r res i n
    let e' := (allPos (min n (o.rows - i)) o.cols).foldl (fun e p => e ||| (cCode k o r res (i + p.1) p.2).2) e
    let (rest, e'') := wsumRows k d list free m rd fuel (i + n) (physCells m (es ++ ss) ++ done) e'
    ((3, es) :: (9, ss) :: rest, e'')

/-- VE_WSUM (07:R211). Formats of fewer than 8 bits, whose elements share bytes, are written row by row. -/
def veWsum (k : VeCfg) (d : Desc) (list : List (BitVec 32)) (free : Nat) (m : PageMap) (rd : Nat → Byte) : VeOut :=
  let o := dC d
  if o.bits % 8 != 0 then veWrite k o (colRole (veScolC d)) (wsumRes k d list rd)
  else
    let (cs, e) := wsumRows k d list free m rd o.rows 0 [] 0
    { cells := cs, exc := e, count := o.rows * o.cols, verdict := none }

/-! Sparse support (07:R212). -/

/-- a lies before b among the magnitudes of a prune: NaN first, then the larger. -/
def pruneLess (a b : XVal) : Bool :=
  if xIsNan b then !xIsNan a else if xIsNan a then false else xCmp (xAbs a) (xAbs b) == .lt

/-- The two kept positions of a group of four values (05:R137). -/
def kept (xs : List XVal) : Nat × Nat :=
  let x (i : Nat) : XVal := xs.getD i (.real ⟨false, 0, 1, 0⟩)
  let best (l : List Nat) : Nat := match l with
    | [] => 0
    | i :: is => is.foldl (fun m i => if pruneLess (x m) (x i) then i else m) i
  let p := best [0, 1, 2, 3]
  let q := best ([0, 1, 2, 3].filter (· != p))
  (min p q, max p q)

/-- VE_PRUNE (07:R212). -/
def vePrune (k : VeCfg) (d : Desc) (rd : Nat → Byte) : VeOut :=
  let a := dA d
  let o := dC d
  let x (i j : Nat) : XVal := if j < o.cols then valX (a.value rd [] (colRole (veScolA d)) i j) else .real ⟨false, 0, 1, 0⟩
  let keptAt (i g : Nat) : Nat × Nat := kept ((List.range 4).map fun t => x i (4 * g + t))
  let isKept (i j : Nat) : Bool := let p := keptAt i (j / 4); j % 4 == p.1 || j % 4 == p.2
  let res (i j : Nat) : VeRes := if isKept i j && j < o.cols then .num (x i j) 0 k.rnd else .code 0 0
  let code (i j : Nat) : Nat := (cCode k o (colRole false) res i j).1
  let chunk (i c : Nat) : List Byte :=
    let gs := (List.range 8).map fun g => (8 * c + g, keptAt i (8 * c + g))
    let meta_ := (gs.map fun g => (g.2.1 + 4 * g.2.2) * 16 ^ (g.1 % 8)).sum
    let vs := gs.flatMap fun g => [code i (4 * g.1 + g.2.1), code i (4 * g.1 + g.2.2)]
    natLe meta_ 4 ++ (packRun o.bits 0 vs).map (·.2)
  { cells := [
      (3, (List.range o.rows).flatMap fun i => (List.range ((o.cols + 31) / 32)).flatMap fun c =>
        cellsAt (o.addr + i * o.stride + c * o.chunk) (chunk i c)),
      (9, if o.scaled then o.writeScales [] (colRole false) (cScale k o (colRole false) res) else [])],
    exc := (allPos o.rows o.cols).foldl (fun e p => e ||| (cCode k o (colRole false) res p.1 p.2).2) 0,
    count := o.rows * o.cols, verdict := none }

/-- VE_MASKZ (07:R212): Z is set where a mask bit is 1. -/
def veMask (d : Desc) (rd : Nat → Byte) : VeOut :=
  let o := dC d
  let r := colRole (veScolC d)
  let nb := o.sb r
  let bit (x b : Nat) : Bool := (rd ((dA d).addr + x * maskRow nb + b / 8)).getLsbD (b % 8)
  { cells := [(9, (List.range (o.lines r)).flatMap fun x => ((List.range nb).filter (bit x)).map fun b =>
      let va := o.scaleBase + x * nb + b
      (va, rd va ||| 0x80))],
    exc := 0, count := 0, verdict := none }

/-! Text (07:R206). -/

/-- VE_TOSTR; the lane of an element is its column of A (log 17). -/
def veToStr (k : VeCfg) (d : Desc) (rd : Nat → Byte) : VeOut :=
  let a := dA d
  let o := dC d
  let text (i j : Nat) : List Byte × Bool :=
    toText a.fmt k.sub (osf d 32 6) (k.draw k.rnd j (i + 1)) (a.value rd [] (colRole (veScolA d)) i j)
  { cells := [(3, (allPos a.rows a.cols).flatMap fun p =>
      cellsAt (o.addr + p.1 * o.stride + 32 * p.2) (textBytes (text p.1 p.2).1))],
    exc := if (allPos a.rows a.cols).any fun p => (text p.1 p.2).2 then excInexact else 0,
    count := o.rows * o.cols, verdict := none }

/-- VE_FROMSTR. -/
def veFromStr (k : VeCfg) (d : Desc) (rd : Nat → Byte) : VeOut :=
  let a := dA d
  veWrite k (dC d) (colRole (veScolC d)) fun i j =>
    match fromText (readVa rd (a.addr + i * a.stride + 32 * j) 32) with
    | some x => .num x 0 k.rnd
    | none => .num (.nan false false 0) excInvalid k.rnd

/-! Digests and parity (07:R213 to R216). -/

/-- One step of CRC-64/ECMA-182, a bit at a time. -/
def crc64Bits : Nat → Word → Word
  | 0, c => c
  | n + 1, c => crc64Bits n (if c.getLsbD 63 then (c <<< 1) ^^^ 0x42F0E1EBA9EA3693 else c <<< 1)

def crc64 (bs : List Byte) : Word := bs.foldl (fun c (b : Byte) => crc64Bits 8 (c ^^^ ((b.setWidth 64 : Word) <<< (56 : Nat)))) 0

/-- The entries of a digest table. -/
def crcEntries (d : Desc) (rd : Nat → Byte) : List Word :=
  (List.range (crcChunks d)).map fun i =>
    crc64 (readVa rd ((dA d).addr + 65536 * i) (min 65536 (veLen d - 65536 * i)))

/-- The bytes of a digest table and its trailer (07:R213). -/
def crcTable (d : Desc) (rd : Nat → Byte) : List Byte × List Byte :=
  let es := (crcEntries d rd).flatMap fun e => natLe e.toNat 8
  (es, natLe (crc64 es).toNat 8 ++ natLe (veLen d) 8)

/-- VE_CRC. -/
def veCrc (d : Desc) (rd : Nat → Byte) : VeOut :=
  { cells := [(3, cellsAt (dC d).addr ((crcTable d rd).1 ++ (crcTable d rd).2))], exc := 0, count := veLen d,
    verdict := none }

/-- VE_CRCCHK: the trailer first, then the lowest differing chunk (07:R214). -/
def veCrcChk (d : Desc) (rd : Nat → Byte) : VeOut :=
  let nc := crcChunks d
  let t := crcTable d rd
  let bad := (List.range nc).find? fun i => (t.1.drop (8 * i)).take 8 != readVa rd ((dC d).addr + 8 * i) 8
  { cells := [], exc := 0, count := veLen d + (crcPiece d).2,
    verdict :=
      if readVa rd ((dC d).addr + 8 * nc) 16 != t.2 then some (endWith veDigestMismatch 0xFF 0xFFFFFFFFFFFFFFFF)
      else bad.map fun i => endWith veDigestMismatch 0xFF i }

/-- Product in GF(2^8) with the polynomial 0x11D, over n bits of b. -/
def gfMulBits (a : Byte) : Nat → Byte → Byte
  | 0, _ => 0
  | n + 1, b =>
    let t := gfMulBits (if a.getLsbD 7 then (a <<< 1) ^^^ 0x1D else a <<< 1) n (b >>> 1)
    if b.getLsbD 0 then t ^^^ a else t

def gfMul (a b : Byte) : Byte := gfMulBits a 8 b

/-- a^n. -/
def gfPow (a : Byte) : Nat → Byte
  | 0 => 1
  | n + 1 => gfMul a (gfPow a n)

def gfInv (a : Byte) : Byte := gfPow a 254

/-- Byte b of a shard (07:R215). -/
def shardByte (d : Desc) (rd : Nat → Byte) (i b : Nat) : Byte := rd ((shardPiece d i).1 + b)

def xorAll (l : List Byte) : Byte := l.foldl (· ^^^ ·) 0

/-- P and Q of data bytes. -/
def pOf (ds : List Byte) : Byte := xorAll ds
def qOf (ds : List Byte) : Byte := xorAll (ds.zipIdx.map fun x => gfMul (gfPow 2 x.2) x.1)

/-- VE_PQ (07:R215). -/
def vePq (d : Desc) (rd : Nat → Byte) : VeOut :=
  let data (b : Nat) : List Byte := (List.range (veShards d)).map fun i => shardByte d rd i b
  { cells := [(3, cellsAt (shardPiece d 16).1 ((List.range (veLen d)).map fun b => pOf (data b))),
      (3, cellsAt (shardPiece d 17).1 ((List.range (veLen d)).map fun b => qOf (data b)))],
    exc := 0, count := veShards d * veLen d, verdict := none }

/-- The data bytes at a position with the erased ones restored (07:R216); an erased shard counts as 0 where its
equation is formed. -/
def restored (d : Desc) (rd : Nat → Byte) (b : Nat) : List Byte :=
  let gone (i : Nat) : Bool := i == veE1 d || i == veE2 d
  let ds := (List.range (veShards d)).map fun i => if gone i then 0 else shardByte d rd i b
  let p := pOf ds ^^^ shardByte d rd 16 b
  let q := qOf ds ^^^ shardByte d rd 17 b
  match (List.range (veShards d)).filter gone with
  | [x] => ds.set x (if gone 16 then gfMul q (gfInv (gfPow 2 x)) else p)
  | x :: y :: _ =>
    let gx := gfPow 2 x
    let gy := gfPow 2 y
    let dx := gfMul (q ^^^ gfMul gy p) (gfInv (gx ^^^ gy))
    (ds.set x dx).set y (p ^^^ dx)
  | [] => ds

/-- VE_PQREC (07:R216). -/
def vePqrec (d : Desc) (rd : Nat → Byte) : VeOut :=
  let val (i b : Nat) : Byte :=
    let ds := restored d rd b
    if i == 16 then pOf ds else if i == 17 then qOf ds else ds.getD i 0
  { cells := (pqrecShards d true).map fun i => (if i < 16 then 1 else 3,
      cellsAt (shardPiece d i).1 ((List.range (veLen d)).map (val i))),
    exc := 0, count := (pqrecShards d false).length * veLen d, verdict := none }

/-! Reading and translating (12:R350; 08:R233; 05:R134, R142). -/

/-- A source of a descriptor: an operand with its list, pieces of a part, or pieces that are read where the scale byte
before each of them has Z = 0 (05:R134). -/
inductive VeSrc where
  | use (part : Nat) (o : Operand) (list : List (BitVec 32)) (r : Role)
  | raw (part : Nat) (ps : List (Nat × Nat))
  | unlessZero (part : Nat) (ps : List (Nat × Nat × Nat))

/-- The sources of a VE descriptor whose list has been read. -/
def veSources (d : Desc) (list : List (BitVec 32)) : List VeSrc :=
  let a := dA d
  let ra := colRole (veScolA d)
  match dOpcode d with
  | 0x41 => [.raw 1 [maskzPiece d], .raw 9 ((dC d).scalePieces [] (colRole (veScolC d)))]
  | 0x50 => [.raw 1 [(a.addr, veLen d)]]
  | 0x51 => [.raw 1 [(a.addr, veLen d)], .raw 3 [crcPiece d]]
  | 0x52 => [.raw 1 ((List.range (veShards d)).map (shardPiece d))]
  | 0x53 =>
    [.raw 1 (((pqrecShards d false).filter (· < 16)).map (shardPiece d)),
     .raw 3 (((pqrecShards d false).filter (16 ≤ ·)).map (shardPiece d))]
  | 0x30 => (List.range (psumN d)).map fun p => .use 1 (psumA d p) [] ra
  | 0x31 =>
    let lines := ((List.range ((dC d).rows * wsumE d)).filter fun x => lineOf list x != nullLine)
    (if a.scaled && veScolA d then
      [.raw 7 (lines.flatMap fun x => (List.range a.cols).map fun j =>
        (a.scaleBase + j * a.sb ra + (lineOf list x).toNat / a.bs, 1)),
       if a.skips then .unlessZero 1 (lines.flatMap fun x => (List.range a.cols).map fun j =>
         let (p, n, _) := packPlace a.bits (a.addr + (lineOf list x).toNat * a.stride) j
         (a.scaleBase + j * a.sb ra + (lineOf list x).toNat / a.bs, p, n))
       else .raw 1 (lines.map fun x => (a.addr + (lineOf list x).toNat * a.stride, runBytes a.fmt a.cols))]
     else [.use 1 (wsumA d) list ra]) ++
    [.use 2 (dB d) [] (colRole (veScolB d))]
  | _ =>
    [.use 1 a [] ra] ++ (if veHasB d then [.use 2 (dB d) [] (colRole (veScolB d))] else []) ++
      (if dOpcode d == 5 then [.use 3 (dC d) [] (colRole (veScolC d))] else [])

/-- The runs of a destination: in layout 2 the positions of absent rows are written too (06:R162). -/
def Operand.destPieces (o : Operand) (list : List (BitVec 32)) (r : Role) : List (Nat × Nat) :=
  if o.layout == 2 then (List.range (o.runs r)).map fun x => (o.addr + x * o.stride, o.runLen r) else o.runPieces list r

/-- The destinations as parts and pieces. -/
def veDests (d : Desc) : List PartReq :=
  let c := dC d
  let rc := colRole (veScolC d)
  match dOpcode d with
  | 0x22 => [⟨3, .engWrite, [(c.addr, 48 * (if veDir d then (dA d).cols else (dA d).rows))]⟩]
  | 0x41 => [⟨9, .engWrite, c.scalePieces [] rc⟩]
  | 0x50 => [⟨3, .engWrite, [crcPiece d]⟩]
  | 0x51 => []
  | 0x52 => [⟨3, .engWrite, [shardPiece d 16, shardPiece d 17]⟩]
  | 0x53 => [⟨1, .engWrite, ((pqrecShards d true).filter (· < 16)).map (shardPiece d)⟩,
      ⟨3, .engWrite, ((pqrecShards d true).filter (16 ≤ ·)).map (shardPiece d)⟩]
  | _ => [⟨3, .engWrite, c.destPieces [] rc⟩, ⟨9, .engWrite, c.scalePieces [] rc⟩]

/-- One source is translated and read: scale bytes, then the elements that are not in skipped blocks (05:R134). -/
def loadSrc (q : Nat) (idx : BitVec 32) (ctx : BitVec 16) (src : VeSrc) (m : PageMap) (s : State) : EngRes PageMap × State :=
  match src with
  | .raw part ps => loadPart q idx ctx part ps m s
  | .unlessZero part ps =>
    loadPart q idx ctx part ((ps.filter fun p => (vaReader s m p.1).toNat < 0x80).map (·.2)) m s
  | .use part o list r => match loadPart q idx ctx (part + 6) (o.scalePieces list r) m s with
    | (.ok m, s) => loadPart q idx ctx part (o.elemPieces (vaReader s m) list r) m s
    | x => x

def loadSrcs (q : Nat) (idx : BitVec 32) (ctx : BitVec 16) : List VeSrc → PageMap → State → EngRes PageMap × State
  | [], m, s => (.ok m, s)
  | x :: xs, m, s => match loadSrc q idx ctx x m s with
    | (.ok m, s) => loadSrcs q idx ctx xs m s
    | r => r

/-- Everything is translated and checked, and the sources are read: the pages and the list. -/
def vePrepare (q : Nat) (idx : BitVec 32) (ctx : BitVec 16) (d : Desc) (s : State) :
    EngRes (PageMap × List (BitVec 32)) × State :=
  match (if dOpcode d == 0x31 then loadList q idx ctx 4 (dA d) ((dC d).rows * wsumE d) s else (EngRes.ok [], s)) with
  | (.fail e, s) => (.fail e, s)
  | (.wait, s) => (.wait, s)
  | (.ok list, s) => match loadSrcs q idx ctx (veSources d list) [] s with
    | (.fail e, s) => (.fail e, s)
    | (.wait, s) => (.wait, s)
    | (.ok m, s) => match xlatReqs ctx (veDests d) m s with
      | (.fail e, s) => (.fail e, s)
      | (.wait, s) => (.wait, s)
      | (.ok m, s) => (.ok (m, list), s)

/-- What a VE descriptor computes from what it has read. -/
def veCompute (k : VeCfg) (d : Desc) (list : List (BitVec 32)) (free : Nat) (m : PageMap) (rd : Nat → Byte) : VeOut :=
  match k.op with
  | 0x11 => veToStr k d rd
  | 0x12 => veFromStr k d rd
  | 0x20 => veReduce k d rd
  | 0x21 => veReduce k d rd
  | 0x22 => veStat d rd
  | 0x30 => vePsum k d rd
  | 0x31 => veWsum k d list free m rd
  | 0x40 => vePrune k d rd
  | 0x41 => veMask d rd
  | 0x50 => veCrc d rd
  | 0x51 => veCrcChk d rd
  | 0x52 => vePq d rd
  | 0x53 => vePqrec d rd
  | _ => veMap k d rd

/-- The programmable table of VE_ACT (07:R207). -/
def veTable (s : State) (d : Desc) : Option (Nat × ActTable) :=
  if dOpcode d == 0x14 && 8 ≤ veSub d then some (veSub d - 8, vget s.opa.act (veSub d - 8) (.replicate 64 .reset)) else none

def veCfg (s : State) (q : Nat) (d : Desc) : VeCfg :=
  let e := getQ s q
  { op := dOpcode d, sub := veSub d, rnd := veRnd d, fa := (dA d).fmt, fb := (dB d).fmt, fc := (dC d).fmt,
    segs := if dOpcode d == 0x14 then actSegs (veSub d) ((veTable s d).map (·.2) |>.getD (.replicate 64 .reset)) else [],
    seed := e.seed, w := e.w.toNat, fast := e.fast,
    twice := dOpcode d == 0x0A && veSub d == 5 && ((dC d).scaled || (dC d).fmt != (dA d).fmt) }

/-- The descriptor in flight with what it has computed: EXC as 07:R200 gives it. -/
def veFlight (s : State) (q : Nat) (f : Fetched) (m : PageMap) (list : List (BitVec 32)) : InFlight :=
  let d := f.desc
  let o := veCompute (veCfg s q d) d list s.ctl.free m (vaReader s m)
  { newFlight s q f with
    writes := o.cells.flatMap fun c => engWrites c.1 m c.2,
    exc := (o.exc ||| veRaise d) &&& ~~~(veLower d), count := o.count, actTab := veTable s d, verdict := o.verdict }

/-- A VE descriptor of an opcode starts (06:R171, 07:R207, R217). -/
def startVe (q op : Nat) (s : State) : State :=
  match startHead s q 2 op with
  | none => s
  | some f =>
    let d := f.desc
    if veInService s == 0 then startFailed q f (endWith dqEngineAbsent) s
    else if !((veTable s d).all fun t => tableOk t.2) then startFailed q f (endWith dqOperand) s
    else match vePrepare q f.idx (getQ s q).ctx d s with
      | (.wait, _) => s
      | (.fail e, s) => startFailed q f e s
      | (.ok (m, list), s) =>
        let fl := veFlight s q f m list
        beginFlight q f fl { s with ctl := { s.ctl with free := s.ctl.free + 1 } }

/-- The oldest VE descriptor of a queue has finished (07:R218, R219). -/
def finishVe (q : Nat) (s : State) : State :=
  match oldestOf s q 2 with
  | some f => finishFlight q f.idx (fun s => { s with veElems := s.veElems + w64 f.count }) s
  | none => s

/-! Parity (14:R403, R404). -/

/-- A VE_PARITY detection in a slice is counted, and the slice is retired when two attempts of one descriptor failed
in it, or at the limit (14:R404). -/
def countSlice (slice : Nat) (repeated : Bool) (s : State) : State :=
  let s := { s with svc := { s.svc with veCount := vmod s.svc.veCount slice (· + 1) } }
  let n := vget s.svc.veCount slice 0
  if s.svc.auto == 1 && !s.svc.retVE.getLsbD slice && (repeated || s.svc.veLimit.toNat ≤ n) then
    retireUnit (unitOf 4 slice) (if repeated then 0x0002 else 0x0003) n s
  else s

/-- A VE_PARITY detection in the oldest VE descriptor of a queue: it runs again, up to three attempts with REPLAY, or
ends with VE_PARITY (14:R403, R397). A new attempt computes the same values. -/
def veParityMiss (q slice : Nat) (elem : Word) (s : State) : State :=
  match oldestOf s q 2 with
  | none => s
  | some f =>
    if !running s || f.posted || !(veInService s).getLsbD slice then s else
    let more := dReplay f.desc && f.attempts < 3
    let s := detect veParity (if more then clsCorrected else clsQueue) (unitOf 4 slice) (BitVec.ofNat 16 f.attempts)
      (f.idx.setWidth 64 ||| w64 (q * 2 ^ 32)) elem s
    let s := if more then
        modFlight q f.idx (fun f => { f with attempts := f.attempts + 1, replayed := true, slices := slice :: f.slices }) s
      else failFlight q f.idx (endWith veParity) s
    countSlice slice (f.slices.contains slice) s

/-- A VE slice leaves service (07:R217): it enters its sub-state, or a retired one is gone. -/
def sliceLeave (slice : Nat) (s : State) : State :=
  match transOf s (unitOf 4 slice) with
  | some .entering => enterSub (unitOf 4 slice) s
  | _ => veAbsent s

end Sys2Proof.Machine
end

