-- ==== Sys2Proof/Machine/Move.lean ====
section
/-! DEFINITION. The memory mover (07:R220 to R222). -/

namespace Sys2Proof.Machine

/-- The lists that a MOVE_COPY has read. -/
structure MoveLists where
  a : List (BitVec 32)
  c : List (BitVec 32)
  deriving DecidableEq, Repr

def moveRoleA (d : Desc) : Role := colRole (osf d 0 1 == 1)
def moveRoleC (d : Desc) : Role := colRole (osf d 1 1 == 1)

/-- The code of element (i, j) of A; 0 in a null line (05:R141). -/
def moveCode (d : Desc) (l : MoveLists) (rd : Nat → Byte) (i j : Nat) : Nat :=
  ((dA d).code rd l.a (moveRoleA d) i j).getD 0

/-- The scale byte of block b of scale line x of A; 0x80 in a null line (05:R141). -/
def moveScale (d : Desc) (l : MoveLists) (rd : Nat → Byte) (x b : Nat) : Nat :=
  let a := dA d
  let r := moveRoleA d
  if !r.colLines && a.isNull l.a x then 0x80
  else
    let y := if a.layout == 4 && !r.colLines then (lineOf l.a x).toNat else x
    (rd (a.scaleBase + y * a.sb r + b)).toNat

/-- Of the rows mapped to one stored line, the one that a 64-byte unit of it ends with (07:R220, log 26). -/
def unitRow (free : Nat) (list : List (BitVec 32)) (i va : Nat) : Nat :=
  let rows := (List.range list.length).filter fun x => lineOf list x == lineOf list i
  rows.getD (Config.rowOf free (lineOf list i).toNat (va / 64) % rows.length) i

/-- The cells of a row that remain where its stored line has other rows. -/
def keepUnits (free : Nat) (o : Operand) (list : List (BitVec 32)) (i : Nat) (cs : List Host.Cell) : List Host.Cell :=
  if o.layout == 4 then cs.filter fun c => unitRow free list i c.1 == i else cs

/-- The cells of one row of C, whose elements are whole bytes in layouts 1 and 2. -/
def moveRow (d : Desc) (l : MoveLists) (rd : Nat → Byte) (i : Nat) : List Host.Cell :=
  let o := dC d
  let codes := (List.range o.cols).map fun j => moveCode d l rd i j
  if o.layout == 1 || o.layout == 2 then
    codes.zipIdx.flatMap fun c =>
      let p := o.place l.c i c.2
      cellsAt (p.1 + p.2 * o.bits / 8) (natLe c.1 (o.bits / 8))
  else if o.isNull l.c i then [] else packRun o.bits (o.place l.c i 0).1 codes

/-- The scale bytes of one row of C, whose scale lines are its rows. -/
def moveScaleRow (d : Desc) (l : MoveLists) (rd : Nat → Byte) (i : Nat) : List Host.Cell :=
  let o := dC d
  let r := moveRoleC d
  if !o.scaled || r.colLines || o.isNull l.c i then []
  else
    let y := if o.layout == 4 then (lineOf l.c i).toNat else i
    cellsAt (o.scaleBase + y * o.sb r) ((List.range (o.sb r)).map fun b => BitVec.ofNat 8 (moveScale d l rd i b))

/-- The zeros of the absent rows of a last panel, whose elements are whole bytes (06:R162). -/
def absentCells (o : Operand) : List Host.Cell :=
  if o.layout != 2 then [] else
  ((List.range ((o.rows + 7) / 8 * 8)).filter (o.rows ≤ ·)).flatMap fun i => (List.range o.cols).flatMap fun j =>
    let p := o.place [] i j
    cellsAt (p.1 + p.2 * o.bits / 8) (natLe 0 (o.bits / 8))

/-- The rows of C in order: a gathered source may see what earlier rows have written (07:R202, log 24). The parts, and
the bytes written. -/
def moveRows (d : Desc) (l : MoveLists) (free : Nat) (m : PageMap) (rd : Nat → Byte) :
    Nat → Nat → List Host.Cell → List (Nat × List Host.Cell) × Nat
  | 0, _, _ => ([], 0)
  | fuel + 1, i, done =>
    let r := mixedReader free i m rd done
    let es := moveRow d l r i
    let ss := moveScaleRow d l r i
    let rest := moveRows d l free m rd fuel (i + 1) (physCells m (es ++ ss) ++ done)
    ((3, keepUnits free (dC d) l.c i es) :: (9, keepUnits free (dC d) l.c i ss) :: rest.1, rest.2 + es.length + ss.length)

/-- The scale bytes of a C whose scale lines are its columns. -/
def moveScaleCols (d : Desc) (l : MoveLists) (rd : Nat → Byte) : List Host.Cell :=
  let o := dC d
  if o.scaled && (moveRoleC d).colLines then o.writeScales l.c (moveRoleC d) (moveScale d l rd) else []

/-- MOVE_COPY (07:R220): its parts, and the bytes written. -/
def moveCopyCells (d : Desc) (l : MoveLists) (free : Nat) (m : PageMap) (rd : Nat → Byte) : List (Nat × List Host.Cell) × Nat :=
  let a := dA d
  let o := dC d
  let sc := moveScaleCols d l rd
  if o.layout == 3 then
    -- runs of chunks are copied byte for byte
    let es := (List.range o.rows).flatMap fun i =>
      cellsAt (o.addr + i * o.stride) (readVa rd (a.addr + i * a.stride) (a.runLen (moveRoleA d)))
    let ss := (List.range o.rows).flatMap (moveScaleRow d l rd)
    ([(3, es), (9, ss)], es.length + ss.length)
  else if (o.layout == 1 || o.layout == 2) && o.bits % 8 != 0 then
    let es := o.writeElems l.c (moveCode d l rd)
    let ss := (List.range o.rows).flatMap (moveScaleRow d l rd)
    ([(3, es), (9, ss), (9, sc)], es.length + ss.length + sc.length)
  else
    let rows := moveRows d l free m rd o.rows 0 []
    let z := absentCells o
    (rows.1 ++ [(3, z), (9, sc)], rows.2 + z.length + sc.length)

/-- MOVE_BYTES. -/
def moveByteCells (d : Desc) (rd : Nat → Byte) : List (Nat × List Host.Cell) × Nat :=
  ([(3, cellsAt (dC d).addr (readVa rd (dA d).addr (osf d 0 40)))], osf d 0 40)

/-- The bits of a layout-2 run at the positions of absent rows. -/
def absentMask (o : Operand) (x : Nat) : Nat :=
  ((List.range (8 * o.cols)).filter fun p => o.rows ≤ 8 * x + p % 8).foldl
    (fun v p => v + (2 ^ o.bits - 1) * 2 ^ (p * o.bits)) 0

/-- MOVE_FILL: byte k of a run is byte k mod 8 of PATTERN, absent rows 0, scale bytes SCFILL. -/
def moveFillCells (d : Desc) : List (Nat × List Host.Cell) × Nat :=
  let o := dC d
  let r := colRole false
  let es := (List.range (o.runs r)).flatMap fun x =>
    let n := o.runLen r
    let v := ((List.range n).map fun k => (osf d 0 64 >>> (8 * (k % 8))) % 256 * 256 ^ k).sum
    let v := if o.layout == 2 then v &&& (2 ^ (8 * n) - 1 - absentMask o x) else v
    cellsAt (o.addr + x * o.stride) (natLe v n)
  let ss := if o.scaled then o.writeScales [] r fun _ _ => osf d 64 8 else []
  ([(3, es), (9, ss)], es.length + ss.length)

/-- Everything is translated and checked, and the source is read (12:R350; 05:R142). -/
def movePrepare (q : Nat) (idx : BitVec 32) (ctx : BitVec 16) (d : Desc) (s : State) : EngRes (PageMap × MoveLists) × State :=
  let a := dA d
  let c := dC d
  match (if dOpcode d == 1 then loadList q idx ctx 4 a a.rows s else (EngRes.ok [], s)) with
  | (.fail e, s) => (.fail e, s)
  | (.wait, s) => (.wait, s)
  | (.ok la, s) => match (if dOpcode d == 1 then loadList q idx ctx 6 c c.rows s else (EngRes.ok [], s)) with
    | (.fail e, s) => (.fail e, s)
    | (.wait, s) => (.wait, s)
    | (.ok lc, s) =>
      let srcs : List VeSrc := match dOpcode d with
        | 1 => [.use 1 a la (moveRoleA d)]
        | 2 => [.raw 1 [(a.addr, osf d 0 40)]]
        | _ => []
      let dsts : List PartReq := match dOpcode d with
        | 1 => [⟨3, .engWrite, c.destPieces lc (moveRoleC d)⟩, ⟨9, .engWrite, c.scalePieces lc (moveRoleC d)⟩]
        | 2 => [⟨3, .engWrite, [(c.addr, osf d 0 40)]⟩]
        | _ => [⟨3, .engWrite, c.destPieces [] (colRole false)⟩, ⟨9, .engWrite, c.scalePieces [] (colRole false)⟩]
      match loadSrcs q idx ctx srcs [] s with
      | (.fail e, s) => (.fail e, s)
      | (.wait, s) => (.wait, s)
      | (.ok m, s) => match xlatReqs ctx dsts m s with
        | (.fail e, s) => (.fail e, s)
        | (.wait, s) => (.wait, s)
        | (.ok m, s) => (.ok (m, ⟨la, lc⟩), s)

def moveCells (d : Desc) (l : MoveLists) (free : Nat) (m : PageMap) (rd : Nat → Byte) : List (Nat × List Host.Cell) × Nat :=
  match dOpcode d with
  | 1 => moveCopyCells d l free m rd
  | 2 => moveByteCells d rd
  | _ => moveFillCells d

/-- A MOVE descriptor of an opcode starts (06:R171). -/
def startMove (q op : Nat) (s : State) : State :=
  match startHead s q 3 op with
  | none => s
  | some f => match movePrepare q f.idx (getQ s q).ctx f.desc s with
    | (.wait, _) => s
    | (.fail e, s) => startFailed q f e s
    | (.ok (m, l), s) =>
      let cs := moveCells f.desc l s.ctl.free m (vaReader s m)
      let fl := { newFlight s q f with writes := cs.1.flatMap fun c => engWrites c.1 m c.2, count := cs.2 }
      beginFlight q f fl { s with ctl := { s.ctl with free := s.ctl.free + 1 } }

/-- The oldest MOVE descriptor of a queue has finished (07:R221, R222). -/
def finishMove (q : Nat) (s : State) : State :=
  match oldestOf s q 3 with
  | some f => finishFlight q f.idx (fun s => { s with
      moveBytes := vmod s.moveBytes (dInstance f.desc) (· + w64 f.count) }) s
  | none => s

/-- MOVE_COPY (07:R220). -/
def effectMoveCopy (q : Fin 32) (s : State) : Host.Outcome State Fault Refusal := .next (settle s (startMove q.val 1 s))

/-- MOVE_BYTES (07:R220). -/
def effectMoveBytes (q : Fin 32) (s : State) : Host.Outcome State Fault Refusal := .next (settle s (startMove q.val 2 s))

/-- MOVE_FILL (07:R220). -/
def effectMoveFill (q : Fin 32) (s : State) : Host.Outcome State Fault Refusal := .next (settle s (startMove q.val 3 s))

/-- MOVE_FINISH (07:R222). -/
def effectMoveFinish (q : Fin 32) (s : State) : Host.Outcome State Fault Refusal := .next (settle s (finishMove q.val s))

end Sys2Proof.Machine
end

