-- ==== Sys2Proof/Machine/Opa.lean ====
section
/-! DEFINITION. The commands of the outer-product array (03, 04, 07:R196 to R199; 14:R391, R401, R402). -/

namespace Sys2Proof.Machine

/-- OPA_MM (07:R196). -/
def effectOpaMm (q : Fin 32) (s : State) : Host.Outcome State Fault Refusal := .next (settle s (startOpa q.val 1 s))

/-- OPA_DRAIN (07:R196). -/
def effectOpaDrain (q : Fin 32) (s : State) : Host.Outcome State Fault Refusal := .next (settle s (startOpa q.val 2 s))

/-- OPA_FORMAT_SWITCH (04:R99). -/
def effectOpaFormatSwitch (n : Fin 16) (s : State) : Host.Outcome State Fault Refusal := .next (settle s (formatSwitch n.val s))

/-- OPA_STEP_ISSUE (03:R70). -/
def effectOpaStepIssue (n : Fin 16) (s : State) : Host.Outcome State Fault Refusal := .next (settle s (opaStep n.val s))

/-- OPA_CHECKSUM_MISS (14:R391). -/
def effectOpaChecksumMiss (n : Fin 16) (g : Fin 4) (setY : Bool) (row col : BitVec 8) (dummy : Bool) (s : State) :
    Host.Outcome State Fault Refusal := .next (settle s (checksumMiss n.val g.val setY row col dummy s))

/-- OPA_ACC_PARITY_ERROR (14:R402). -/
def effectOpaAccParityError (n : Fin 16) (g : Fin 4) (setY : Bool) (row col : BitVec 8) (outside : Bool) (s : State) :
    Host.Outcome State Fault Refusal := .next (settle s (accParity n.val g.val setY row col outside s))

/-- OPA_REPLAY_ATTEMPT (14:R401). -/
def effectOpaReplayAttempt (n : Fin 16) (s : State) : Host.Outcome State Fault Refusal := .next (settle s (replayAttempt n.val s))

/-- GROUP_FINAL (03:R90). -/
def effectGroupFinal (n : Fin 16) (s : State) : Host.Outcome State Fault Refusal := .next (settle s (groupFinal n.val s))

/-- HELD_SET_DRAIN (04:R102). -/
def effectHeldSetDrain (n : Fin 16) (s : State) : Host.Outcome State Fault Refusal := .next (settle s (heldDrain n.val s))

/-- DRAIN_CUBE_ROW (04:R110). -/
def effectDrainCubeRow (n : Fin 16) (s : State) : Host.Outcome State Fault Refusal := .next (settle s (drainCube n.val s))

/-- OPA_KEEP_FINISH (04:R101). -/
def effectOpaKeepFinish (n : Fin 16) (s : State) : Host.Outcome State Fault Refusal := .next (settle s (keepFinish n.val s))

/-- OPA_DRAIN_FINISH (04:R114). -/
def effectOpaDrainFinish (n : Fin 16) (s : State) : Host.Outcome State Fault Refusal := .next (settle s (drainFinish n.val s))

/-- CG_LEAVE_BAND (03:R76). -/
def effectCgLeaveBand (g : Fin 16) (s : State) : Host.Outcome State Fault Refusal := .next (settle s (leaveBand g.val s))

/-- GAP_WINDOW_EXPIRE (03:R92). -/
def effectGapWindowExpire (n : Fin 16) (s : State) : Host.Outcome State Fault Refusal :=
  .next (settle s (smooth n.val (OpaInst.longer s.opa.fill.toNat) s))

/-- LAMBDA_DECAY (03:R92). -/
def effectLambdaDecay (n : Fin 16) (s : State) : Host.Outcome State Fault Refusal :=
  .next (settle s (smooth n.val OpaInst.decay s))

/-- LAMBDA_RAMP (03:R94). -/
def effectLambdaRamp (n : Fin 16) (s : State) : Host.Outcome State Fault Refusal :=
  .next (settle s (smooth n.val OpaInst.ramp s))

/-- DUMMY_STEP_ISSUE (03:R93): it carries zeros, writes nothing and is counted nowhere; the
partition is in a gap from then on. -/
def effectDummyStepIssue (n : Fin 16) (s : State) : Host.Outcome State Fault Refusal :=
  .next (settle s (smooth n.val (OpaInst.dummy s.opa.fill.toNat) s))

end Sys2Proof.Machine
end

