-- ==== Sys2Proof/Machine/Queues.lean ====
section
/-! DEFINITION. The commands of the queues and of the NULL engine (05:R145, 06:R168 to R189, 07:R194, R195). -/

namespace Sys2Proof.Machine

/-- DESCRIPTOR_FETCH (06:R168). -/
def effectDescriptorFetch (q : Fin 32) (s : State) : Host.Outcome State Fault Refusal := .next (settle s (fetchHead q.val s))

/-- FETCH_EVENT_COMPLETE (06:R169). -/
def effectFetchEventComplete (q : Fin 32) (s : State) : Host.Outcome State Fault Refusal :=
  .next (settle s (completeFetchEvent q.val s))

/-- PREDICATE_TEST (05:R145). -/
def effectPredicateTest (q : Fin 32) (s : State) : Host.Outcome State Fault Refusal := .next (settle s (predicateTest q.val s))

/-- BARRIER_ENTER (06:R174). -/
def effectBarrierEnter (q : Fin 32) (s : State) : Host.Outcome State Fault Refusal := .next (settle s (barrierEnter q.val s))

/-- DESCRIPTOR_COMPLETE (06:R175). -/
def effectDescriptorComplete (q : Fin 32) (s : State) : Host.Outcome State Fault Refusal :=
  .next (settle s (completeOldest q.val s))

/-- DEADLINE_MISS (06:R186). -/
def effectDeadlineMiss (q : Fin 32) (index : BitVec 32) (s : State) : Host.Outcome State Fault Refusal :=
  .next (settle s (deadlineMiss q.val index s))

/-- DEADLOCK_DECLARE (06:R189). -/
def effectDeadlockDeclare (s : State) : Host.Outcome State Fault Refusal := .next (settle s (declareDeadlock s))

/-- A NULL descriptor of an opcode starts, has no work, and completes once it is the oldest (07:R194). -/
def runNull (q op : Nat) (s : State) : State :=
  match startHead s q 0 op with
  | some f => completeOldest q (beginFlight q f { newFlight s q f with ended := some endOk } s)
  | none => s

/-- NULL_NOP (07:R194). -/
def effectNullNop (q : Fin 32) (s : State) : Host.Outcome State Fault Refusal := .next (settle s (runNull q.val 0 s))

/-- NULL_FLAGS (07:R195). -/
def effectNullFlags (q : Fin 32) (s : State) : Host.Outcome State Fault Refusal := .next (settle s (runNull q.val 1 s))

end Sys2Proof.Machine
end

