-- ==== Sys2Proof/Machine/Rme.lean ====
section
/-! DEFINITION. The commands of the remote memory engine's own side (07:R223 to R226; 08:R252, R253; 15:R427 to R429). -/

namespace Sys2Proof.Machine

/-- RME_PUT (07:R223). -/
def effectRmePut (q : Fin 32) (s : State) : Host.Outcome State Fault Refusal := .next (settle s (startRme q.val 1 s))

/-- RME_GET (07:R223). -/
def effectRmeGet (q : Fin 32) (s : State) : Host.Outcome State Fault Refusal := .next (settle s (startRme q.val 2 s))

/-- RME_PUT_FLAG (07:R223). -/
def effectRmePutFlag (q : Fin 32) (s : State) : Host.Outcome State Fault Refusal := .next (settle s (startRme q.val 3 s))

/-- RME_FLAG_ADD (07:R223). -/
def effectRmeFlagAdd (q : Fin 32) (s : State) : Host.Outcome State Fault Refusal := .next (settle s (startRme q.val 4 s))

/-- RME_FLAG_SET (07:R223). -/
def effectRmeFlagSet (q : Fin 32) (s : State) : Host.Outcome State Fault Refusal := .next (settle s (startRme q.val 5 s))

/-- RME_AADD (07:R223). -/
def effectRmeAadd (q : Fin 32) (s : State) : Host.Outcome State Fault Refusal := .next (settle s (startRme q.val 6 s))

/-- RME_FADD (07:R223). -/
def effectRmeFadd (q : Fin 32) (s : State) : Host.Outcome State Fault Refusal := .next (settle s (startRme q.val 7 s))

/-- RME_CAS (07:R223). -/
def effectRmeCas (q : Fin 32) (s : State) : Host.Outcome State Fault Refusal := .next (settle s (startRme q.val 8 s))

/-- RME_TIMEOUT (08:R253). -/
def effectRmeTimeout (q : Fin 32) (s : State) : Host.Outcome State Fault Refusal := .next (settle s (rmeTimeout q.val s))

/-- REMOTE_SIGNAL_TIMEOUT (08:R252). -/
def effectRemoteSignalTimeout (txid : BitVec 32) (s : State) : Host.Outcome State Fault Refusal :=
  .next (settle s (signalTimeout txid s))

/-- PACKET_ACK (15:R428). -/
def effectPacketAck (txid : BitVec 32) (s : State) : Host.Outcome State Fault Refusal := .next (settle s (answerAck txid (takeStream 0 s)))

/-- PACKET_DATA (15:R428). -/
def effectPacketData (txid : BitVec 32) (data : List Byte) (s : State) : Host.Outcome State Fault Refusal :=
  .next (settle s (answerData txid data (takeStream data.length s)))

/-- PACKET_REFUSE (15:R428). -/
def effectPacketRefuse (txid : BitVec 32) (reason : BitVec 16) (s : State) : Host.Outcome State Fault Refusal :=
  .next (settle s (answerRefuse txid reason (takeStream 0 s)))

/-- REMOTE_CREDIT (15:R427): the credit lets packets of the stream leave. -/
def effectRemoteCredit (s : State) : Host.Outcome State Fault Refusal :=
  .next (settle s (sendAll s.rme.txq.length { s with rme := { s.rme with txRoom := s.rme.txRoom + 1152 } }))

end Sys2Proof.Machine
end

