-- ==== Sys2Proof/Machine/Scheduler.lean ====
section
/-! DEFINITION. The hardware scheduler and the transfer engine of a control core: SCHEDULER_SELECT, TASK_SWITCH and
TRANSFER_UNIT (11:R321 to R328). -/

namespace Sys2Proof.Machine

/-! Selection (11:R321, R322). -/

/-- The task that the core runs, or is switching to. -/
def targetTask (c : Core) : Option Byte :=
  match c.switchTo with
  | some t => some t
  | none => c.running.filter fun t => (getTask c t).st == .running

/-- A switch to a task is delivered: the running task is preempted (11:R322). -/
def deliverSwitch (t : Byte) (c : Core) : Core :=
  let c := { c with switches := c.switches + 1, switchTo := some t }
  match c.running with
  | some o => modTask o (fun y => { y with st := .preempted }) { c with outgoing := some o }
  | none => c

/-- The selection of an f-cycle. -/
def schedulerSelect (c : Fin 8) (s : State) : State :=
  let core := getCore s c
  if !coreRuns s c then s else
  match selectTask core with
  | none => s
  | some t => if targetTask core == some t then s else modCore c (deliverSwitch t) s

/-- SCHEDULER_SELECT (11:R321). -/
def effectSchedulerSelect (c : Fin 8) (s : State) : Host.Outcome State Fault Refusal := .next (settle s (schedulerSelect c s))

/-! The switch (11:R322, R326, R327; 09:R282; 10:R289). -/

/-- The tag word of a register as it is saved: 0 unless it is in use (10:R289). -/
def savedTag (c : Core) (t : Nat) : List Byte :=
  natLe (if (tileAt c t).inUse then (tagWord (tileAt c t)).toNat else 0) 8

/-- The two header units of a tile save (11:R325): status word and tags. -/
def saveHeadBytes (c : Core) (second : Bool) : List Byte :=
  if second then ((List.range 6).flatMap fun i => savedTag c (6 + i)) ++ List.replicate 16 0
  else natLe (rowFaultWord c.rowFault).toNat 8 ++ List.replicate 8 0 ++ (List.range 6).flatMap (savedTag c)

/-- The tile save of a task (11:R326). -/
def saveUnits (c : Core) (o : Byte) : List XferUnit :=
  let lvl := (getTask c o).level
  let used := (List.finRange 12).filter fun t : Fin 12 => (tileAt c t.val).inUse
  ⟨.saveHead false, o, lvl, saveHeadBytes c false⟩ :: ⟨.saveHead true, o, lvl, saveHeadBytes c true⟩ ::
    used.flatMap fun t => (List.finRange 32).map fun u => ⟨.saveTile t u, o, lvl, (tileAt c t).row u 64⟩

/-- The outgoing task's tile state is saved when it owns the file and another task comes in. -/
def saveTiles (t : Byte) (c : Core) : Core :=
  match c.outgoing with
  | some o =>
    if o != t && c.tileOwner == some o then
      modTask o (fun y => { y with tilesSaved := true }) { c with xq := c.xq ++ saveUnits c o }
    else c
  | none => c

/-- The incoming task takes over: held control-register writes apply, the latches are lost. -/
def takeSwitch (t : Byte) (c : Core) : Core :=
  let c := occupyBank t (saveTiles t (applyHeld c))
  { c with running := some t, switchTo := none, outgoing := none, resumed := true, wants := [], latchS := none, latchT := none }

/-- A delivered switch is taken once every row of the core is performed (10:R311). -/
def taskSwitch (c : Fin 8) (s : State) : State :=
  if !coreRuns s c then s else
  match (getCore s c).switchTo with
  | none => s
  | some t =>
    let r := allRows c s
    if !(getCore r c).rows.isEmpty then s else modCore c (takeSwitch t) r

/-- TASK_SWITCH (11:R322). -/
def effectTaskSwitch (c : Fin 8) (s : State) : Host.Outcome State Fault Refusal := .next (settle s (taskSwitch c s))

/-! The transfer engine (11:R325, R326, R328). -/

/-- The virtual address of a unit. -/
def unitVa (c : Core) (u : XferUnit) : Nat := (getTask c u.task).save.toNat * 512 + 64 * unitOffset u.kind

/-- A unit that is written at its port, answered at once; on ERROR it holds its old bytes or the bytes sent (08:R235). -/
def portUnit (unit : Nat) (cs : List Host.Cell) (err : Bool) (s : State) : Option (BitVec 16) × State :=
  let p := portOf s (unit * 64)
  let s := { s with memp := { s.memp with wbytes := vmod s.memp.wbytes p (· + 64) } }
  if err then
    let (new, s) := drawBit s
    (some memUe, if new then storeUnit unit cs (updateUnder cs s) else s)
  else (none, storeUnit unit cs (updateUnder cs s))

/-- A unit of a save area is written (11:R326, 12:R352, 08:R236): the event with which it fails. -/
def writeXfer (attr : BitVec 3) (pa : Nat) (cs : List Host.Cell) (err : Bool) (s : State) : Option (BitVec 16) × State :=
  if region s pa != .ext then (none, (writeAccess false false .hostWrite cs s).2)
  else
    let unit := pa / 64
    let line := unit / 2
    if attr != attrWB then
      let s := bcCount ((bcFind s line).isSome || s.bc.victim.contains line) s
      portUnit unit cs err (if s.bc.victim.contains line then (bcAlloc line s).2 else s)
    else if (bcFind s line).isSome then (none, storeUnit unit cs (markDirty line (bcCount true s)))
    else
      let inVic := s.bc.victim.contains line
      let s := bcCount inVic s
      let (r, s) := if inVic then (ReadStat.clean, s) else readPortUnits [line * 2, line * 2 + 1] s
      let (ok, s) := if r == .uncorrectable then (false, s) else bcAlloc line s
      if ok then (none, storeUnit unit cs (markDirty line s))
      else portUnit unit cs err { s with bc := { s.bc with victim := s.bc.victim.erase line } }

/-- The tags of six registers from a header unit. -/
def restoreTags (first : Nat) (ws : List Byte) (c : Core) : Core :=
  (List.range 6).foldl (fun c i =>
    let tag := tileTagOf (w64 (leNat ((ws.drop (8 * i)).take 8)))
    modTile (first + i) (fun t => { t with tag := tag, inUse := tag.isSome }) c) c

/-- The units that restore the registers whose tags are in use. -/
def restoreTileUnits (t : Byte) (lvl : Fin 8) (c : Core) : List XferUnit :=
  ((List.finRange 12).filter fun i : Fin 12 => (tileAt c i.val).inUse).flatMap fun i =>
    (List.finRange 32).map fun u => ⟨.restoreTile i u, t, lvl, []⟩

/-- The last unit of a tile restore makes its task the owner of the file (11:R327). -/
def endRestore (t : Byte) (c : Core) : Core := if restoring c t then c else { c with tileOwner := some t }

/-- The bytes of a unit that was read take their place. -/
def takeUnit (u : XferUnit) (bs : List Byte) (c : Core) : Core :=
  match u.kind with
  | .fillH => modBank u.level (fillHeadReg bs) c
  | .fillGroup g => modBank u.level (fillGroupReg g bs) c
  | .restoreHead false =>
    restoreTags 0 (bs.drop 16) { c with rowFault := rowFaultOf (w64 (leNat (bs.take 8))) }
  | .restoreHead true =>
    let c := restoreTags 6 bs c
    endRestore u.task { c with xq := c.xq ++ restoreTileUnits u.task u.level c }
  | .restoreTile t r => endRestore u.task (modTile t (Tile.putRow r bs) c)
  | _ => c

/-- A written group is clean once its spill has ended: the group of the occupant that was displaced has gone (11:R313). -/
def removeUnit (u : XferUnit) (c : Core) : Core := { c with xq := c.xq.erase u, xfirst := c.xfirst.filter (· != u) }

/-- CTL_SPILLF0 and CTL_SPILLF1, unless they hold a fault (11:R330). -/
def recordSpill (u : XferUnit) (ev : BitVec 16) (va : Nat) (c : Core) : Core :=
  if c.spillf.valid then c
  else { c with spillf := ⟨true, unitKindCode u.kind, u.task, BitVec.ofNat 9 (unitOffset u.kind), ev, BitVec.ofNat 48 va⟩ }

/-- The task whose unit failed is FAULTED; the core switches away from it (11:R328). -/
def faultUnitTask (u : XferUnit) (c : Core) : Core :=
  let t := u.task
  let c := modTask t (fun y => { y with st := .faulted })
    { c with xstop := some u, switchTo := if c.switchTo == some t then none else c.switchTo }
  if c.running == some t then { c with running := none, outgoing := some t } else c

/-- A spill fault (11:R328, R329). -/
def spillFault (c : Fin 8) (u : XferUnit) (ev : BitVec 16) (va : Nat) (s : State) : State :=
  let pc := match runningTask (getCore s c) with | some (_, k) => (bankNow s c k).pc | none => 0
  let s := modCore c (fun k =>
    let k := faultUnitTask u (recordSpill u ev va k)
    { k with schstat := k.schstat.event s.ctl.fcycles (sqcBit 1) }) s
  let bound (t : Task) : Bool := t.src == 6
  if (getCore s c).tasks.toList.any fun t => t.st != .invalid && bound t then modCore c (fireWhere bound) s
  else doubleFault c u.level ccSpillFault pc s

/-- A unit at its physical address is moved. -/
def moveUnit (c : Fin 8) (u : XferUnit) (va pa : Nat) (attr : BitVec 3) (err : Bool) (s : State) : State :=
  if unitWrites u.kind then
    match writeXfer attr pa (cellsAt pa u.bytes) err s with
    | (some ev, s) => spillFault c u ev va s
    | (none, s) => modCore c (removeUnit u) s
  else
    match readAccess (attrCached attr) pa 64 s with
    | (.uncorrectable, s) => spillFault c u (if region s pa == .stage then smUe else memUe) va s
    | (_, s) => modCore c (fun k => takeUnit u (Memory.gets s.mem pa 64) (removeUnit u k)) s

/-- The next unit of a core is moved; `err`: its port write is answered ERROR. -/
def transferUnit (c : Fin 8) (err : Bool) (s : State) : State :=
  let core := getCore s c
  if !coreRuns s c || core.xstop.isSome then s else
  match nextUnit core with
  | none => s
  | some u =>
    let va := unitVa core u
    match xlatCore c va (if unitWrites u.kind then .unitWrite else .unitRead) 7 s with
    | (.wait, _) => s
    | (.fault ev, s) => spillFault c u ev va s
    | (.ok pa attr, t) =>
      if portWaits t pa 64 then s else moveUnit c u va pa attr err t

/-- TRANSFER_UNIT (11:R326). -/
def effectTransferUnit (c : Fin 8) (err : Bool) (s : State) : Host.Outcome State Fault Refusal :=
  .next (settle s (transferUnit c err s))

end Sys2Proof.Machine
end

