-- ==== Sys2Proof/Machine/Tiles.lean ====
section
/-! DEFINITION. The tile instructions (10:R292 to R310) and the row phase (10:R298). -/

namespace Sys2Proof.Machine

/-- TZERO (10:R292). -/
def effectTzero (c : Fin 8) (td : BitVec 4) (rows : BitVec 5) (rb : BitVec 6) (fmt : BitVec 4) (s : State) :
    Host.Outcome State Fault Refusal :=
  let n := rows.toNat + 1
  let m := rb.toNat + 1
  tileInstr c [] [] [td.toNat] (destLegal td.toNat m fmt)
    (fun k s => tileDone c k (writeTile td.toNat n m fmt (Tile.zeroRows n m)) s) s

/-- TLD (10:R298). -/
def effectTld (c : Fin 8) (td : BitVec 4) (ga gb : BitVec 5) (conv : Bool) (rows : BitVec 5) (rb : BitVec 6) (fmt : BitVec 4)
    (s : State) : Host.Outcome State Fault Refusal :=
  tileInstr c [] [ga, gb] [td.toNat] (destLegal td.toNat (rb.toNat + 1) fmt)
    (tileLoad c td.toNat ga gb conv (rows.toNat + 1) (rb.toNat + 1) fmt) s

/-- TST (10:R298). -/
def effectTst (c : Fin 8) (ts : BitVec 4) (ga gb : BitVec 5) (x : Bool) (rows : BitVec 5) (rb : BitVec 6) (fmt : BitVec 4)
    (s : State) : Host.Outcome State Fault Refusal :=
  tileInstr c [] [ga, gb] [ts.toNat] (isTile ts.toNat && shapeLegal (rb.toNat + 1) fmt)
    (tileStore c ⟨ts.toNat, rows.toNat + 1, rb.toNat + 1, if x then none else some fmt⟩ ga gb) s

/-- TMOV (10:R292). -/
def effectTmov (c : Fin 8) (td ts : BitVec 4) (x : Bool) (rows : BitVec 5) (rb : BitVec 6) (fmt : BitVec 4) (s : State) :
    Host.Outcome State Fault Refusal :=
  let n : Named := ⟨ts.toNat, rows.toNat + 1, rb.toNat + 1, if x then none else some fmt⟩
  tileInstr c [] [] [td.toNat, ts.toNat] (isTile ts.toNat && destLegal td.toNat n.rb fmt)
    (fun k s => match readFault (getCore s c) n with
      | some e => (e, s)
      | none => tileDone c k (writeTile td.toNat n.rows n.rb fmt (putRows (namedRows (getCore s c) n))) s) s

/-- The residue check of a tile instruction's results (14:R392): what it has become, from the state before it. -/
def tileResidue (c : Fin 8) (res : Residue) (k : Nat) (s : State) (r : Commit × State) : Commit × State :=
  match r with
  | (.done b, t) => match res with
    | .ok => (.done b, t)
    | .retried => (.done b, retryRecord c k s t)
    | .failed => (.fault ccParity 0 0, s)
  | r => r

/-- TCVT, with the residue check (10:R310, 14:R392). -/
def effectTcvt (c : Fin 8) (td ts : BitVec 4) (ga : BitVec 5) (rows : BitVec 5) (rb : BitVec 6) (fmt : BitVec 4)
    (fmt2 : Checked (BitVec 4)) (s : State) : Host.Outcome State Fault Refusal :=
  let m := rb.toNat + 1
  let src := rowSize fmt2.val (rowElems (tileFmt fmt) m)
  let n : Named := ⟨ts.toNat, rows.toNat + 1, src.getD 0, some fmt2.val⟩
  tileInstr c [] [ga] [td.toNat, ts.toNat]
    (isTile ts.toNat && destLegal td.toNat m fmt && fmtBits (tileFmt fmt2.val) != 0 && src.isSome)
    (fun k s =>
      let core := getCore s c
      if !tcfgLegal core.tcfg then (.fault ccIllegal 0 0, s)
      else match readFault core n with
        | some e => (e, s)
        | none => tileResidue c fmt2.res k s <|
          let r := tileConvert core.tcfg ((bankNow s c k).reg ga) fmt2.val fmt m (namedRows core n)
          tileDone c k (fun y => modBank k (fun b => { b with cs := csRaise b.cs r.2 })
            (writeTile td.toNat n.rows m fmt (putRows r.1) y)) s) s

/-- TMM, with the residue check (10:R304, 14:R392). -/
def effectTmm (c : Fin 8) (td ts tt : BitVec 4) (z i : Bool) (rows : BitVec 5) (rb : BitVec 6) (fmt : BitVec 4)
    (fmt2 nm1 : BitVec 4) (res : Residue) (s : State) : Host.Outcome State Fault Refusal :=
  tileInstr c [] [] [td.toNat, ts.toNat, tt.toNat] (tmmLegal td.toNat ts.toNat tt.toNat i (rb.toNat + 1) fmt fmt2)
    (fun k s => tileResidue c res k s
      (tileMultiply c td.toNat ts.toNat tt.toNat z i (rows.toNat + 1) (rb.toNat + 1) fmt fmt2 (nm1.toNat + 1) k s)) s

/-- TRDG (10:R292). -/
def effectTrdg (c : Fin 8) (ts : BitVec 4) (ga gb : BitVec 5) (s : State) : Host.Outcome State Fault Refusal :=
  tileInstr c [ga] [gb] [ts.toNat] (isTile ts.toNat)
    (fun k s =>
      let g := (bankNow s c k).reg gb
      match (sourceFault (getCore s c) [⟨ts.toNat, posRow g + 1, 8 * posUnit g + 8, none⟩]).or
          (parityFault ((tileAt (getCore s c) ts.toNat).bad.getLsbD (posRow g))) with
      | some e => (e, s)
      | none =>
        let v := w64 (leNat (Memory.gets (tileAt (getCore s c) ts.toNat).bytes (64 * posRow g + 8 * posUnit g) 8))
        tileResult c k ga v id s) s

/-- TWRG (10:R292, R296). -/
def effectTwrg (c : Fin 8) (td : BitVec 4) (ga gb : BitVec 5) (rows : BitVec 5) (rb : BitVec 6) (fmt : BitVec 4) (s : State) :
    Host.Outcome State Fault Refusal :=
  let n := rows.toNat + 1
  let m := rb.toNat + 1
  tileInstr c [] [ga, gb] [td.toNat] (destLegal td.toNat m fmt)
    (fun k s =>
      let b := bankNow s c k
      let g := b.reg gb
      if n ≤ posRow g || m < 8 * posUnit g + 8 then (.fault tileShape td.toNat 0, s)
      else tileDone c k (writeTile td.toNat n m fmt (putUnit (b.reg ga) g)) s) s

/-- TREL (10:R288). -/
def effectTrel (c : Fin 8) (td : BitVec 4) (s : State) : Host.Outcome State Fault Refusal :=
  tileInstr c [] [] [td.toNat] (isTile td.toNat)
    (fun k s => tileDone c k (fun x =>
      modTile td.toNat (fun t => { t with tag := none, inUse := false }) (writeTile td.toNat 1 1 0 id x)) s) s

/-- TTAG (10:R293). -/
def effectTtag (c : Fin 8) (ts : BitVec 4) (ga : BitVec 5) (s : State) : Host.Outcome State Fault Refusal :=
  tileInstr c [ga] [] [ts.toNat] (isTile ts.toNat)
    (fun k s => tileResult c k ga (tagWord (tileAt (getCore s c) ts.toNat)) id s) s

/-- TFSTAT (10:R303). -/
def effectTfstat (c : Fin 8) (ga : BitVec 5) (s : State) : Host.Outcome State Fault Refusal :=
  tileInstr c [ga] [] [] true
    (fun k s => tileResult c k ga (rowFaultWord (getCore s c).rowFault)
      (fun x => { x with rowFault := { x.rowFault with valid := false, more := false } }) s) s

/-- TILE_ROW: the oldest row is performed (10:R298). -/
def effectTileRow (c : Fin 8) (s : State) : Host.Outcome State Fault Refusal := .next (settle s (nextRow c s))

/-- The units that restore the tile registers whose saved tags are in use. -/
def restoreUnits (t : Byte) (lvl : Fin 8) : List XferUnit :=
  [⟨.restoreHead false, t, lvl, []⟩, ⟨.restoreHead true, t, lvl, []⟩]

/-- TILE_FILE_RESTORE: once every tile save of the core has ended, the file is cleared; the running task owns it at once,
or, where it has saved tiles, once they are restored (11:R327). -/
def tileFileRestore (c : Fin 8) (s : State) : State :=
  let core := getCore s c
  if !coreRuns s c then s else
  match core.running with
  | none => s
  | some t =>
    if core.tileOwner == some t || savingTiles core || restoring core t || !core.rows.isEmpty then s
    else modCore c (fun k =>
      let x := getTask k t
      if x.tilesSaved then { clearTiles t k with xq := (clearTiles t k).xq ++ restoreUnits t x.level }
      else claimTiles t k) s

/-- TILE_FILE_RESTORE (11:R327). -/
def effectTileFileRestore (c : Fin 8) (s : State) : Host.Outcome State Fault Refusal := .next (settle s (tileFileRestore c s))

end Sys2Proof.Machine
end

