-- ==== Sys2Proof/Machine/Ve.lean ====
section
/-! DEFINITION. The commands of the vector engine (07:R200 to R219, 14:R403). -/

namespace Sys2Proof.Machine

/-- VE_ADD (07:R201). -/
def effectVeAdd (q : Fin 32) (s : State) : Host.Outcome State Fault Refusal := .next (settle s (startVe q.val 0x01 s))

/-- VE_SUB (07:R201). -/
def effectVeSub (q : Fin 32) (s : State) : Host.Outcome State Fault Refusal := .next (settle s (startVe q.val 0x02 s))

/-- VE_MUL (07:R201). -/
def effectVeMul (q : Fin 32) (s : State) : Host.Outcome State Fault Refusal := .next (settle s (startVe q.val 0x03 s))

/-- VE_DIV (07:R201). -/
def effectVeDiv (q : Fin 32) (s : State) : Host.Outcome State Fault Refusal := .next (settle s (startVe q.val 0x04 s))

/-- VE_FMA (07:R201). -/
def effectVeFma (q : Fin 32) (s : State) : Host.Outcome State Fault Refusal := .next (settle s (startVe q.val 0x05 s))

/-- VE_SQRT (07:R201). -/
def effectVeSqrt (q : Fin 32) (s : State) : Host.Outcome State Fault Refusal := .next (settle s (startVe q.val 0x06 s))

/-- VE_REM (07:R201). -/
def effectVeRem (q : Fin 32) (s : State) : Host.Outcome State Fault Refusal := .next (settle s (startVe q.val 0x07 s))

/-- VE_SCALEB (07:R201). -/
def effectVeScaleb (q : Fin 32) (s : State) : Host.Outcome State Fault Refusal := .next (settle s (startVe q.val 0x08 s))

/-- VE_LOGB (07:R203). -/
def effectVeLogb (q : Fin 32) (s : State) : Host.Outcome State Fault Refusal := .next (settle s (startVe q.val 0x09 s))

/-- VE_RINT (07:R203). -/
def effectVeRint (q : Fin 32) (s : State) : Host.Outcome State Fault Refusal := .next (settle s (startVe q.val 0x0A s))

/-- VE_NEXT (07:R203). -/
def effectVeNext (q : Fin 32) (s : State) : Host.Outcome State Fault Refusal := .next (settle s (startVe q.val 0x0B s))

/-- VE_SIGN (07:R203). -/
def effectVeSign (q : Fin 32) (s : State) : Host.Outcome State Fault Refusal := .next (settle s (startVe q.val 0x0C s))

/-- VE_CVT (07:R201). -/
def effectVeCvt (q : Fin 32) (s : State) : Host.Outcome State Fault Refusal := .next (settle s (startVe q.val 0x0D s))

/-- VE_CMP (07:R204). -/
def effectVeCmp (q : Fin 32) (s : State) : Host.Outcome State Fault Refusal := .next (settle s (startVe q.val 0x0E s))

/-- VE_CLASS (07:R205). -/
def effectVeClass (q : Fin 32) (s : State) : Host.Outcome State Fault Refusal := .next (settle s (startVe q.val 0x0F s))

/-- VE_TOTORD (07:R203). -/
def effectVeTotord (q : Fin 32) (s : State) : Host.Outcome State Fault Refusal := .next (settle s (startVe q.val 0x10 s))

/-- VE_TOSTR (07:R206). -/
def effectVeTostr (q : Fin 32) (s : State) : Host.Outcome State Fault Refusal := .next (settle s (startVe q.val 0x11 s))

/-- VE_FROMSTR (07:R206). -/
def effectVeFromstr (q : Fin 32) (s : State) : Host.Outcome State Fault Refusal := .next (settle s (startVe q.val 0x12 s))

/-- VE_MINMAX (07:R207). -/
def effectVeMinmax (q : Fin 32) (s : State) : Host.Outcome State Fault Refusal := .next (settle s (startVe q.val 0x13 s))

/-- VE_ACT (07:R207). -/
def effectVeAct (q : Fin 32) (s : State) : Host.Outcome State Fault Refusal := .next (settle s (startVe q.val 0x14 s))

/-- VE_EXP2 (07:R207). -/
def effectVeExp2 (q : Fin 32) (s : State) : Host.Outcome State Fault Refusal := .next (settle s (startVe q.val 0x15 s))

/-- VE_LOG2 (07:R207). -/
def effectVeLog2 (q : Fin 32) (s : State) : Host.Outcome State Fault Refusal := .next (settle s (startVe q.val 0x16 s))

/-- VE_RSUM (07:R208). -/
def effectVeRsum (q : Fin 32) (s : State) : Host.Outcome State Fault Refusal := .next (settle s (startVe q.val 0x20 s))

/-- VE_RMAX (07:R208). -/
def effectVeRmax (q : Fin 32) (s : State) : Host.Outcome State Fault Refusal := .next (settle s (startVe q.val 0x21 s))

/-- VE_RSTAT (07:R209). -/
def effectVeRstat (q : Fin 32) (s : State) : Host.Outcome State Fault Refusal := .next (settle s (startVe q.val 0x22 s))

/-- VE_PSUM (07:R210). -/
def effectVePsum (q : Fin 32) (s : State) : Host.Outcome State Fault Refusal := .next (settle s (startVe q.val 0x30 s))

/-- VE_WSUM (07:R211). -/
def effectVeWsum (q : Fin 32) (s : State) : Host.Outcome State Fault Refusal := .next (settle s (startVe q.val 0x31 s))

/-- VE_PRUNE (07:R212). -/
def effectVePrune (q : Fin 32) (s : State) : Host.Outcome State Fault Refusal := .next (settle s (startVe q.val 0x40 s))

/-- VE_MASKZ (07:R212). -/
def effectVeMaskz (q : Fin 32) (s : State) : Host.Outcome State Fault Refusal := .next (settle s (startVe q.val 0x41 s))

/-- VE_CRC (07:R213). -/
def effectVeCrc (q : Fin 32) (s : State) : Host.Outcome State Fault Refusal := .next (settle s (startVe q.val 0x50 s))

/-- VE_CRCCHK (07:R214). -/
def effectVeCrcchk (q : Fin 32) (s : State) : Host.Outcome State Fault Refusal := .next (settle s (startVe q.val 0x51 s))

/-- VE_PQ (07:R215). -/
def effectVePq (q : Fin 32) (s : State) : Host.Outcome State Fault Refusal := .next (settle s (startVe q.val 0x52 s))

/-- VE_PQREC (07:R216). -/
def effectVePqrec (q : Fin 32) (s : State) : Host.Outcome State Fault Refusal := .next (settle s (startVe q.val 0x53 s))

/-- VE_FINISH (07:R219). -/
def effectVeFinish (q : Fin 32) (s : State) : Host.Outcome State Fault Refusal := .next (settle s (finishVe q.val s))

/-- VE_PARITY_REPLAY (14:R403). -/
def effectVeParityReplay (q : Fin 32) (slice : Fin 8) (elem : Word) (s : State) : Host.Outcome State Fault Refusal :=
  .next (settle s (veParityMiss q.val slice.val elem s))

/-- VE_SLICE_LEAVE (07:R217). -/
def effectVeSliceLeave (slice : Fin 8) (s : State) : Host.Outcome State Fault Refusal :=
  .next (settle s (sliceLeave slice.val s))

end Sys2Proof.Machine
end

