-- ==== Sys2Proof/Machine/Commands.lean ====
section
/-! DEFINITION. How a command takes its place in an f-cycle, its life in a reset, its reads at the memory ports, and its
effect (00:R19; 01:R29; 02:R62; 06:R178, R182; 13:R383, R386, R450, R452; 15:R418, R425; logs 1 and 9). -/

namespace Sys2Proof.Machine

/-! Places of an f-cycle (log 1): 0 a load of the beat value, 1 the tick, 2 APPLY edges, 3 hardware events, 4 doorbells,
5 writes of the host window, 6 to 13 the control cores, 14 Snowdrop, 15 starts of descriptors, 16 inbound operations, 17
writes that take effect after the starts, 18 reads. -/

/-- The place of a writer (13:R383). -/
def srcPlace (src : Src) : Nat :=
  match src with
  | .host => hostPlace
  | .core c => 6 + c.val
  | .snowdrop => 14

def cmdPlace (by_ : CmdSrc) : Nat :=
  match by_ with
  | .reg src => srcPlace src
  | .od _ => srcPlace .snowdrop

def whoPlace (who : CrWho) : Nat :=
  match who with
  | .task c => srcPlace (.core c)
  | .window src _ => srcPlace src

/-- The place of a command. -/
def placeOf (i : Instr) : Nat :=
  match i with
  | .beatLoad _ => 0
  | .beatTick _ _ => 1
  | .applyIn | .scheduledApply => 2
  | .dqDoorbell _ _ _ => 4
  | .hostWindowWrite _ _ _ _ | .hostWindowRead _ _ _ _ => srcPlace .host
  | .applyAtWrite src _ | .stagedWrite src _ _ | .registerWrite src _ _
  | .sqcClear src _ _ | .dqCfgWrite src _ _ _ | .queueFlush src _
  | .queueResume src _ | .queueHalt src _ | .flagWriteSet src _ _
  | .flagWriteAdd src _ _ | .mempCfgWrite src _ | .xlatCtxbaseWrite src _
  | .xlatInvAddress src _ _ | .xlatInvAddressWalker src _ _ | .xlatInvContext src _
  | .xlatInvBlock src | .preloadStart src _ | .wayPowerDown src _
  | .wayPowerUp src _ | .faultAckWrite src _ => srcPlace src
  | .applyNow by_ | .applyArm by_ _ | .stateRequest by_ _ => cmdPlace by_
  | .mailboxDone who _ _ | .taskEntryWrite who _ _ | .wake who _
  | .taskResume who _ | .taskKill who _ | .transferRetry who _
  | .clearPend who _ => whoPlace who
  | .schedulerSelect c | .taskSwitch c | .transferUnit c _ | .armBinding c _
  | .readCause c _ | .storeBufferDrain c | .add c _ _ _ _ | .sub c _ _ _ _
  | .and c _ _ _ | .or c _ _ _ | .xor c _ _ _ | .shl c _ _ _
  | .shr c _ _ _ | .shra c _ _ _ | .stl c _ _ _ | .stlu c _ _ _
  | .mul c _ _ _ _ | .mhi c _ _ _ _ | .mhiu c _ _ _ _ | .div c _ _ _ _
  | .divu c _ _ _ _ | .rem c _ _ _ _ | .remu c _ _ _ _ | .addf c _ _ _ _
  | .subf c _ _ _ _ | .andf c _ _ _ | .clz c _ _ | .ctz c _ _
  | .popc c _ _ | .min c _ _ _ | .max c _ _ _ | .minu c _ _ _
  | .maxu c _ _ _ | .sxb c _ _ | .sxh c _ _ | .sxw c _ _
  | .zxw c _ _ | .pick c _ _ _ _ | .addi c _ _ _ _ | .andi c _ _ _
  | .ori c _ _ _ | .xori c _ _ _ | .shli c _ _ _ | .shri c _ _ _
  | .shrai c _ _ _ | .stli c _ _ _ | .stlui c _ _ _ | .cmpi c _ _
  | .imz c _ _ _ | .imi c _ _ _ | .ld1s c _ _ _ | .ld1z c _ _ _
  | .ld2s c _ _ _ | .ld2z c _ _ _ | .ld4s c _ _ _ | .ld4z c _ _ _
  | .ld8 c _ _ _ | .st1 c _ _ _ | .st2 c _ _ _ | .st4 c _ _ _
  | .st8 c _ _ _ | .aadd c _ _ _ _ | .aswap c _ _ _ _ | .acas c _ _ _ _
  | .aand c _ _ _ _ | .aor c _ _ _ _ | .amax c _ _ _ _ | .amin c _ _ _ _
  | .breq c _ _ _ | .brne c _ _ _ | .brlt c _ _ _ | .brle c _ _ _
  | .brltu c _ _ _ | .brleu c _ _ _ | .brc c _ _ | .go c _
  | .call c _ | .gor c _ _ _ | .fadd c _ _ _ _ _ | .fsub c _ _ _ _ _
  | .fmul c _ _ _ _ _ | .fdiv c _ _ _ _ _ | .fsqrt c _ _ _ _ | .fmin c _ _ _ _
  | .fmax c _ _ _ _ | .fcmp c _ _ _ _ | .fcvt c _ _ _ | .ftoi c _ _ _
  | .itof c _ _ _ | .fneg c _ _ _ | .fabs c _ _ _ | .fma c _ _ _ _ _
  | .crr c _ _ | .crw c _ _ | .csync c | .fence c
  | .brd c _ _ | .bwr c _ _ | .tend c | .twait c
  | .trap c _ | .tlbiAddress c _ | .tlbiAddressWalker c _ | .tlbiContext c _
  | .tlbiBlock c _ | .zline c _ | .tzero c _ _ _ _ | .tld c _ _ _ _ _ _ _
  | .tst c _ _ _ _ _ _ _ | .tmov c _ _ _ _ _ _ | .tcvt c _ _ _ _ _ _ _ | .tmm c _ _ _ _ _ _ _ _ _ _ _
  | .trdg c _ _ _ | .twrg c _ _ _ _ _ _ | .trel c _ | .ttag c _ _
  | .tfstat c _ | .tileRow c | .tileFileRestore c | .undefinedEncoding c _ _
  | .instructionFetchFault c _ => srcPlace (.core c)
  | .odRead _ _ | .odWrite _ _ | .odAwrite _ _
  | .serviceEnter _ _ | .serviceEnd _ _ | .regValueRead _
  | .regValueWrite _ _ | .nodeAddrWrite _ _ | .unitServiceEnter _ _ _
  | .unitServiceLeave _ _ _ | .unitRetire _ _ _ | .imgBlock _ _
  | .imgCommit _ _ _ | .keyWrite _ _ _ _ | .spareMapWrite _ _ _
  | .testmodeWrite _ _ _ => srcPlace .snowdrop
  | .predicateTest _ | .barrierEnter _ | .nullNop _ | .nullFlags _
  | .opaMm _ | .opaDrain _ | .veAdd _ | .veSub _
  | .veMul _ | .veDiv _ | .veFma _ | .veSqrt _
  | .veRem _ | .veScaleb _ | .veLogb _ | .veRint _
  | .veNext _ | .veSign _ | .veCvt _ | .veCmp _
  | .veClass _ | .veTotord _ | .veTostr _ | .veFromstr _
  | .veMinmax _ | .veAct _ | .veExp2 _ | .veLog2 _
  | .veRsum _ | .veRmax _ | .veRstat _ | .vePsum _
  | .veWsum _ | .vePrune _ | .veMaskz _ | .veCrc _
  | .veCrcchk _ | .vePq _ | .vePqrec _ | .moveCopy _
  | .moveBytes _ | .moveFill _ | .rmePut _ | .rmeGet _
  | .rmePutFlag _ | .rmeFlagAdd _ | .rmeFlagSet _ | .rmeAadd _
  | .rmeFadd _ | .rmeCas _ | .ccmPost _ | .deadlockDeclare => 15
  | .inboundPut _ | .inboundGet _ | .inboundFlagAdd _
  | .inboundFlagSet _ | .inboundAadd _ | .inboundFadd _
  | .inboundCas _ | .inboundPacketDiscarded _ => 16
  | _ => 3

/-- The requester of a walk. -/
def walkRequester (root : WalkRoot) : Option Nat :=
  match root with
  | .core c => some (6 + c.val)
  | .engine _ => some 20

/-- The requester of the memory ports that a command is, of those that are sent again until their reads are answered
(log 9): 6 to 13 a core, 20 a walk of the engines, 21 the preload, 32 + q queue q, 64 + n OPA instance n. -/
def requester (i : Instr) : Option Nat :=
  match i with
  | .schedulerSelect c | .taskSwitch c | .transferUnit c _ | .armBinding c _
  | .readCause c _ | .storeBufferDrain c | .add c _ _ _ _ | .sub c _ _ _ _
  | .and c _ _ _ | .or c _ _ _ | .xor c _ _ _ | .shl c _ _ _
  | .shr c _ _ _ | .shra c _ _ _ | .stl c _ _ _ | .stlu c _ _ _
  | .mul c _ _ _ _ | .mhi c _ _ _ _ | .mhiu c _ _ _ _ | .div c _ _ _ _
  | .divu c _ _ _ _ | .rem c _ _ _ _ | .remu c _ _ _ _ | .addf c _ _ _ _
  | .subf c _ _ _ _ | .andf c _ _ _ | .clz c _ _ | .ctz c _ _
  | .popc c _ _ | .min c _ _ _ | .max c _ _ _ | .minu c _ _ _
  | .maxu c _ _ _ | .sxb c _ _ | .sxh c _ _ | .sxw c _ _
  | .zxw c _ _ | .pick c _ _ _ _ | .addi c _ _ _ _ | .andi c _ _ _
  | .ori c _ _ _ | .xori c _ _ _ | .shli c _ _ _ | .shri c _ _ _
  | .shrai c _ _ _ | .stli c _ _ _ | .stlui c _ _ _ | .cmpi c _ _
  | .imz c _ _ _ | .imi c _ _ _ | .ld1s c _ _ _ | .ld1z c _ _ _
  | .ld2s c _ _ _ | .ld2z c _ _ _ | .ld4s c _ _ _ | .ld4z c _ _ _
  | .ld8 c _ _ _ | .st1 c _ _ _ | .st2 c _ _ _ | .st4 c _ _ _
  | .st8 c _ _ _ | .aadd c _ _ _ _ | .aswap c _ _ _ _ | .acas c _ _ _ _
  | .aand c _ _ _ _ | .aor c _ _ _ _ | .amax c _ _ _ _ | .amin c _ _ _ _
  | .breq c _ _ _ | .brne c _ _ _ | .brlt c _ _ _ | .brle c _ _ _
  | .brltu c _ _ _ | .brleu c _ _ _ | .brc c _ _ | .go c _
  | .call c _ | .gor c _ _ _ | .fadd c _ _ _ _ _ | .fsub c _ _ _ _ _
  | .fmul c _ _ _ _ _ | .fdiv c _ _ _ _ _ | .fsqrt c _ _ _ _ | .fmin c _ _ _ _
  | .fmax c _ _ _ _ | .fcmp c _ _ _ _ | .fcvt c _ _ _ | .ftoi c _ _ _
  | .itof c _ _ _ | .fneg c _ _ _ | .fabs c _ _ _ | .fma c _ _ _ _ _
  | .crr c _ _ | .crw c _ _ | .csync c | .fence c
  | .brd c _ _ | .bwr c _ _ | .tend c | .twait c
  | .trap c _ | .tlbiAddress c _ | .tlbiAddressWalker c _ | .tlbiContext c _
  | .tlbiBlock c _ | .zline c _ | .tzero c _ _ _ _ | .tld c _ _ _ _ _ _ _
  | .tst c _ _ _ _ _ _ _ | .tmov c _ _ _ _ _ _ | .tcvt c _ _ _ _ _ _ _ | .tmm c _ _ _ _ _ _ _ _ _ _ _
  | .trdg c _ _ _ | .twrg c _ _ _ _ _ _ | .trel c _ | .ttag c _ _
  | .tfstat c _ | .tileRow c | .tileFileRestore c | .undefinedEncoding c _ _
  | .instructionFetchFault c _ => some (6 + c.val)
  | .pageWalk root _ _ => walkRequester root
  | .preloadComplete => some 21
  | .predicateTest q | .nullNop q | .nullFlags q | .opaMm q
  | .opaDrain q | .veAdd q | .veSub q | .veMul q
  | .veDiv q | .veFma q | .veSqrt q | .veRem q
  | .veScaleb q | .veLogb q | .veRint q | .veNext q
  | .veSign q | .veCvt q | .veCmp q | .veClass q
  | .veTotord q | .veTostr q | .veFromstr q | .veMinmax q
  | .veAct q | .veExp2 q | .veLog2 q | .veRsum q
  | .veRmax q | .veRstat q | .vePsum q | .veWsum q
  | .vePrune q | .veMaskz q | .veCrc q | .veCrcchk q
  | .vePq q | .vePqrec q | .moveCopy q | .moveBytes q
  | .moveFill q | .rmePut q | .rmeGet q | .rmePutFlag q
  | .rmeFlagAdd q | .rmeFlagSet q | .rmeAadd q | .rmeFadd q
  | .rmeCas q | .descriptorFetch q | .fetchEventComplete q | .descriptorComplete q
  | .veFinish q | .moveFinish q => some (32 + q.val)
  | .opaStepIssue n | .heldSetDrain n | .drainCubeRow n
  | .opaKeepFinish n | .opaDrainFinish n => some (64 + n.val)
  | _ => none

/-! Resets (13:R450, R452; 15:R418, R422, R431). -/

/-- The resets during which a command has an effect. -/
inductive Lives where
  | none | warm | both
  deriving DecidableEq, Repr

/-- The chain repeater forwards during a warm reset. -/
def pathLives (p : Path) : Lives :=
  match p with
  | .chain _ _ _ _ => .warm
  | .mailbox => .none

def cmdLives (by_ : CmdSrc) : Lives :=
  match by_ with
  | .reg _ => .none
  | .od p => pathLives p

def livesIn (i : Instr) : Lives :=
  match i with
  | .powerOnResetAssert | .powerOnResetRelease | .powerGoodFall _ | .warmResetAssert _ | .warmResetRelease
  | .aclkCurChange _ | .vackInput _ | .chainInputLost | .chainInputRegained => .both
  | .beatTick _ _ | .beatLoad _ | .mclkWatchdog | .mgAliveRise | .tapReset | .idcode | .ijtag | .bypass
  | .enum _ _ _ _ | .assign _ _ _ _ _ | .creset _ _ | .chainFrameDiscarded _ => .warm
  | .odRead p _ | .odWrite p _ | .odAwrite p _
  | .serviceEnter p _ | .serviceEnd p _ | .regValueRead p
  | .regValueWrite p _ | .nodeAddrWrite p _ | .unitServiceEnter p _ _
  | .unitServiceLeave p _ _ | .unitRetire p _ _ | .imgBlock p _
  | .imgCommit p _ _ | .keyWrite p _ _ _ | .spareMapWrite p _ _
  | .testmodeWrite p _ _ => pathLives p
  | .applyNow by_ | .applyArm by_ _ | .stateRequest by_ _ => cmdLives by_
  | _ => .none

/-- No reset that is asserted keeps a command from its effect. -/
def Lives.now (l : Lives) (s : State) : Bool :=
  match l with
  | .both => true
  | .warm => !s.ctl.por
  | .none => !s.ctl.por && !s.ctl.wres

/-! A command. -/

/-- A command of a place has its turn: the f-cycle ends first if it has gone past the place. -/
def arrive (p : Nat) (s : State) : State :=
  let s := if p < s.ctl.place then endCycle s else s
  { s with ctl := { s.ctl with place := p } }

/-- The edge of GEN_APPLY.NOW begins the next f-cycle (13:R384, R387). -/
def edgeNext (o : Host.Outcome State Fault Refusal) : Host.Outcome State Fault Refusal :=
  match o with
  | .next t => .next (if t.gen.now then endCycle t else t)
  | o => o

/-- The effect of a command in its turn. -/
def effect (i : Instr) (s : State) : Host.Outcome State Fault Refusal :=
  match i with
  | .powerOnResetAssert => Sys2Proof.Machine.effectPowerOnResetAssert s
  | .powerOnResetRelease => Sys2Proof.Machine.effectPowerOnResetRelease s
  | .warmResetAssert edges => Sys2Proof.Machine.effectWarmResetAssert edges s
  | .warmResetRelease => Sys2Proof.Machine.effectWarmResetRelease s
  | .powerGoodFall domain => Sys2Proof.Machine.effectPowerGoodFall domain s
  | .bootPhaseEnd r => Sys2Proof.Machine.effectBootPhaseEnd r s
  | .fuseReadData w => Sys2Proof.Machine.effectFuseReadData w s
  | .fuseReadTimeout => Sys2Proof.Machine.effectFuseReadTimeout s
  | .fuseProgramDone err => Sys2Proof.Machine.effectFuseProgramDone err s
  | .clockMeasureWindow fclk aclk fLost aLost => Sys2Proof.Machine.effectClockMeasureWindow fclk aclk fLost aLost s
  | .beatMeasureWindow ticks => Sys2Proof.Machine.effectBeatMeasureWindow ticks s
  | .mclkWatchdog => Sys2Proof.Machine.effectMclkWatchdog s
  | .mgAliveRise => Sys2Proof.Machine.effectMgAliveRise s
  | .beatTick since found => Sys2Proof.Machine.effectBeatTick since found s
  | .beatLoad v => Sys2Proof.Machine.effectBeatLoad v s
  | .applyIn => Sys2Proof.Machine.effectApplyIn s
  | .applyNow by_ => edgeNext (Sys2Proof.Machine.effectApplyNow by_ s)
  | .applyArm by_ beat => Sys2Proof.Machine.effectApplyArm by_ beat s
  | .applyAtWrite src v => Sys2Proof.Machine.effectApplyAtWrite src v s
  | .scheduledApply => Sys2Proof.Machine.effectScheduledApply s
  | .stateRequest by_ code => Sys2Proof.Machine.effectStateRequest by_ code s
  | .stagedWrite src off v => Sys2Proof.Machine.effectStagedWrite src off v s
  | .registerWrite src off v => Sys2Proof.Machine.effectRegisterWrite src off v s
  | .sqcClear src off v => Sys2Proof.Machine.effectSqcClear src off v s
  | .hostWindowRead tag addr be split => Sys2Proof.Machine.effectHostWindowRead tag addr be split s
  | .hostWindowWrite addr be data split => Sys2Proof.Machine.effectHostWindowWrite addr be data split s
  | .hostWindowReadTimeout tag => Sys2Proof.Machine.effectHostWindowReadTimeout tag s
  | .dqCfgWrite src q reg v => Sys2Proof.Machine.effectDqCfgWrite src q reg v s
  | .dqDoorbell src q v => Sys2Proof.Machine.effectDqDoorbell src q v s
  | .queueFlush src q => Sys2Proof.Machine.effectQueueFlush src q s
  | .queueResume src q => Sys2Proof.Machine.effectQueueResume src q s
  | .queueHalt src q => Sys2Proof.Machine.effectQueueHalt src q s
  | .flagWriteSet src f v => Sys2Proof.Machine.effectFlagWriteSet src f v s
  | .flagWriteAdd src f v => Sys2Proof.Machine.effectFlagWriteAdd src f v s
  | .descriptorFetch q => Sys2Proof.Machine.effectDescriptorFetch q s
  | .fetchEventComplete q => Sys2Proof.Machine.effectFetchEventComplete q s
  | .predicateTest q => Sys2Proof.Machine.effectPredicateTest q s
  | .barrierEnter q => Sys2Proof.Machine.effectBarrierEnter q s
  | .descriptorComplete q => Sys2Proof.Machine.effectDescriptorComplete q s
  | .deadlineMiss q index => Sys2Proof.Machine.effectDeadlineMiss q index s
  | .deadlockDeclare => Sys2Proof.Machine.effectDeadlockDeclare s
  | .nullNop q => Sys2Proof.Machine.effectNullNop q s
  | .nullFlags q => Sys2Proof.Machine.effectNullFlags q s
  | .opaMm q => Sys2Proof.Machine.effectOpaMm q s
  | .opaDrain q => Sys2Proof.Machine.effectOpaDrain q s
  | .opaFormatSwitch n => Sys2Proof.Machine.effectOpaFormatSwitch n s
  | .opaStepIssue n => Sys2Proof.Machine.effectOpaStepIssue n s
  | .opaChecksumMiss n g setY row col dummy => Sys2Proof.Machine.effectOpaChecksumMiss n g setY row col dummy s
  | .opaAccParityError n g setY row col outside => Sys2Proof.Machine.effectOpaAccParityError n g setY row col outside s
  | .opaReplayAttempt n => Sys2Proof.Machine.effectOpaReplayAttempt n s
  | .groupFinal n => Sys2Proof.Machine.effectGroupFinal n s
  | .heldSetDrain n => Sys2Proof.Machine.effectHeldSetDrain n s
  | .drainCubeRow n => Sys2Proof.Machine.effectDrainCubeRow n s
  | .opaKeepFinish n => Sys2Proof.Machine.effectOpaKeepFinish n s
  | .opaDrainFinish n => Sys2Proof.Machine.effectOpaDrainFinish n s
  | .cgLeaveBand g => Sys2Proof.Machine.effectCgLeaveBand g s
  | .gapWindowExpire n => Sys2Proof.Machine.effectGapWindowExpire n s
  | .lambdaDecay n => Sys2Proof.Machine.effectLambdaDecay n s
  | .lambdaRamp n => Sys2Proof.Machine.effectLambdaRamp n s
  | .dummyStepIssue n => Sys2Proof.Machine.effectDummyStepIssue n s
  | .veAdd q => Sys2Proof.Machine.effectVeAdd q s
  | .veSub q => Sys2Proof.Machine.effectVeSub q s
  | .veMul q => Sys2Proof.Machine.effectVeMul q s
  | .veDiv q => Sys2Proof.Machine.effectVeDiv q s
  | .veFma q => Sys2Proof.Machine.effectVeFma q s
  | .veSqrt q => Sys2Proof.Machine.effectVeSqrt q s
  | .veRem q => Sys2Proof.Machine.effectVeRem q s
  | .veScaleb q => Sys2Proof.Machine.effectVeScaleb q s
  | .veLogb q => Sys2Proof.Machine.effectVeLogb q s
  | .veRint q => Sys2Proof.Machine.effectVeRint q s
  | .veNext q => Sys2Proof.Machine.effectVeNext q s
  | .veSign q => Sys2Proof.Machine.effectVeSign q s
  | .veCvt q => Sys2Proof.Machine.effectVeCvt q s
  | .veCmp q => Sys2Proof.Machine.effectVeCmp q s
  | .veClass q => Sys2Proof.Machine.effectVeClass q s
  | .veTotord q => Sys2Proof.Machine.effectVeTotord q s
  | .veTostr q => Sys2Proof.Machine.effectVeTostr q s
  | .veFromstr q => Sys2Proof.Machine.effectVeFromstr q s
  | .veMinmax q => Sys2Proof.Machine.effectVeMinmax q s
  | .veAct q => Sys2Proof.Machine.effectVeAct q s
  | .veExp2 q => Sys2Proof.Machine.effectVeExp2 q s
  | .veLog2 q => Sys2Proof.Machine.effectVeLog2 q s
  | .veRsum q => Sys2Proof.Machine.effectVeRsum q s
  | .veRmax q => Sys2Proof.Machine.effectVeRmax q s
  | .veRstat q => Sys2Proof.Machine.effectVeRstat q s
  | .vePsum q => Sys2Proof.Machine.effectVePsum q s
  | .veWsum q => Sys2Proof.Machine.effectVeWsum q s
  | .vePrune q => Sys2Proof.Machine.effectVePrune q s
  | .veMaskz q => Sys2Proof.Machine.effectVeMaskz q s
  | .veCrc q => Sys2Proof.Machine.effectVeCrc q s
  | .veCrcchk q => Sys2Proof.Machine.effectVeCrcchk q s
  | .vePq q => Sys2Proof.Machine.effectVePq q s
  | .vePqrec q => Sys2Proof.Machine.effectVePqrec q s
  | .veFinish q => Sys2Proof.Machine.effectVeFinish q s
  | .veParityReplay q slice elem => Sys2Proof.Machine.effectVeParityReplay q slice elem s
  | .veSliceLeave slice => Sys2Proof.Machine.effectVeSliceLeave slice s
  | .moveCopy q => Sys2Proof.Machine.effectMoveCopy q s
  | .moveBytes q => Sys2Proof.Machine.effectMoveBytes q s
  | .moveFill q => Sys2Proof.Machine.effectMoveFill q s
  | .moveFinish q => Sys2Proof.Machine.effectMoveFinish q s
  | .rmePut q => Sys2Proof.Machine.effectRmePut q s
  | .rmeGet q => Sys2Proof.Machine.effectRmeGet q s
  | .rmePutFlag q => Sys2Proof.Machine.effectRmePutFlag q s
  | .rmeFlagAdd q => Sys2Proof.Machine.effectRmeFlagAdd q s
  | .rmeFlagSet q => Sys2Proof.Machine.effectRmeFlagSet q s
  | .rmeAadd q => Sys2Proof.Machine.effectRmeAadd q s
  | .rmeFadd q => Sys2Proof.Machine.effectRmeFadd q s
  | .rmeCas q => Sys2Proof.Machine.effectRmeCas q s
  | .rmeTimeout q => Sys2Proof.Machine.effectRmeTimeout q s
  | .remoteSignalTimeout txid => Sys2Proof.Machine.effectRemoteSignalTimeout txid s
  | .ccmPost q => Sys2Proof.Machine.effectCcmPost q s
  | .mailboxDone who m v => Sys2Proof.Machine.effectMailboxDone who m v s
  | .packetAck txid => Sys2Proof.Machine.effectPacketAck txid s
  | .packetData txid data => Sys2Proof.Machine.effectPacketData txid data s
  | .packetRefuse txid reason => Sys2Proof.Machine.effectPacketRefuse txid reason s
  | .inboundPut p => Sys2Proof.Machine.effectInboundPut p s
  | .inboundGet p => Sys2Proof.Machine.effectInboundGet p s
  | .inboundFlagAdd p => Sys2Proof.Machine.effectInboundFlagAdd p s
  | .inboundFlagSet p => Sys2Proof.Machine.effectInboundFlagSet p s
  | .inboundAadd p => Sys2Proof.Machine.effectInboundAadd p s
  | .inboundFadd p => Sys2Proof.Machine.effectInboundFadd p s
  | .inboundCas p => Sys2Proof.Machine.effectInboundCas p s
  | .remoteCredit => Sys2Proof.Machine.effectRemoteCredit s
  | .memoryCredit n => Sys2Proof.Machine.effectMemoryCredit n s
  | .memoryReadResponse n tag stat => Sys2Proof.Machine.effectMemoryReadResponse n tag stat s
  | .memoryWriteAck n tag err => Sys2Proof.Machine.effectMemoryWriteAck n tag err s
  | .memoryRequestTimeout n tag => Sys2Proof.Machine.effectMemoryRequestTimeout n tag s
  | .mempCfgWrite src v => Sys2Proof.Machine.effectMempCfgWrite src v s
  | .scrubRead word found => Sys2Proof.Machine.effectScrubRead word found s
  | .spareCopyComplete spare => Sys2Proof.Machine.effectSpareCopyComplete spare s
  | .pageWalk root va access => Sys2Proof.Machine.effectPageWalk root va access s
  | .xlatCtxbaseWrite src v => Sys2Proof.Machine.effectXlatCtxbaseWrite src v s
  | .xlatInvAddress src ctx va => Sys2Proof.Machine.effectXlatInvAddress src ctx va s
  | .xlatInvAddressWalker src ctx va => Sys2Proof.Machine.effectXlatInvAddressWalker src ctx va s
  | .xlatInvContext src ctx => Sys2Proof.Machine.effectXlatInvContext src ctx s
  | .xlatInvBlock src => Sys2Proof.Machine.effectXlatInvBlock src s
  | .xlatInvComplete => Sys2Proof.Machine.effectXlatInvComplete s
  | .preloadStart src v => Sys2Proof.Machine.effectPreloadStart src v s
  | .preloadComplete => Sys2Proof.Machine.effectPreloadComplete s
  | .wayPowerDown src way => Sys2Proof.Machine.effectWayPowerDown src way s
  | .wayCleanComplete way => Sys2Proof.Machine.effectWayCleanComplete way s
  | .wayPowerUp src way => Sys2Proof.Machine.effectWayPowerUp src way s
  | .wayPowerUpReady way => Sys2Proof.Machine.effectWayPowerUpReady way s
  | .faultRecordWrite => Sys2Proof.Machine.effectFaultRecordWrite s
  | .faultAckWrite src v => Sys2Proof.Machine.effectFaultAckWrite src v s
  | .parityScan off mismatch => Sys2Proof.Machine.effectParityScan off mismatch s
  | .mboxResponseReady => Sys2Proof.Machine.effectMboxResponseReady s
  | .odRead p payload => Sys2Proof.Machine.effectOdRead p payload s
  | .odWrite p payload => Sys2Proof.Machine.effectOdWrite p payload s
  | .odAwrite p payload => Sys2Proof.Machine.effectOdAwrite p payload s
  | .serviceEnter p au => Sys2Proof.Machine.effectServiceEnter p au s
  | .serviceEnd p au => Sys2Proof.Machine.effectServiceEnd p au s
  | .regValueRead p => Sys2Proof.Machine.effectRegValueRead p s
  | .regValueWrite p v => Sys2Proof.Machine.effectRegValueWrite p v s
  | .nodeAddrWrite p v => Sys2Proof.Machine.effectNodeAddrWrite p v s
  | .unitServiceEnter p au unit => Sys2Proof.Machine.effectUnitServiceEnter p au unit s
  | .unitServiceLeave p au unit => Sys2Proof.Machine.effectUnitServiceLeave p au unit s
  | .unitRetire p au unit => Sys2Proof.Machine.effectUnitRetire p au unit s
  | .unitServiceEntry unit => Sys2Proof.Machine.effectUnitServiceEntry unit s
  | .unitTestComplete unit pass detail => Sys2Proof.Machine.effectUnitTestComplete unit pass detail s
  | .imgBlock p data => Sys2Proof.Machine.effectImgBlock p data s
  | .imgCommit p au data => Sys2Proof.Machine.effectImgCommit p au data s
  | .keyWrite p au slot data => Sys2Proof.Machine.effectKeyWrite p au slot data s
  | .spareMapWrite p au data => Sys2Proof.Machine.effectSpareMapWrite p au data s
  | .testmodeWrite p au v => Sys2Proof.Machine.effectTestmodeWrite p au v s
  | .creset src seq => Sys2Proof.Machine.effectCreset src seq s
  | .enum src seq crc pos => Sys2Proof.Machine.effectEnum src seq crc pos s
  | .assign src seq crc pos addr => Sys2Proof.Machine.effectAssign src seq crc pos addr s
  | .sensorSample x => Sys2Proof.Machine.effectSensorSample x s
  | .marginReplan x => Sys2Proof.Machine.effectMarginReplan x s
  | .voltageStep => Sys2Proof.Machine.effectVoltageStep s
  | .vackInput v => Sys2Proof.Machine.effectVackInput v s
  | .vackTimeout => Sys2Proof.Machine.effectVackTimeout s
  | .aclkPipelineEmpty => Sys2Proof.Machine.effectAclkPipelineEmpty s
  | .aclkCurChange code => Sys2Proof.Machine.effectAclkCurChange code s
  | .aclkResume => Sys2Proof.Machine.effectAclkResume s
  | .aclkSwitchLate => Sys2Proof.Machine.effectAclkSwitchLate s
  | .hwComparatorTrip thermal site value => Sys2Proof.Machine.effectHwComparatorTrip thermal site value s
  | .recoveryTimer => Sys2Proof.Machine.effectRecoveryTimer s
  | .snowdropRestart => Sys2Proof.Machine.effectSnowdropRestart s
  | .tapReset => Sys2Proof.Machine.effectTapReset s
  | .idcode => Sys2Proof.Machine.effectIdcode s
  | .ijtag => Sys2Proof.Machine.effectIjtag s
  | .bypass => Sys2Proof.Machine.effectBypass s
  | .schedulerSelect c => Sys2Proof.Machine.effectSchedulerSelect c s
  | .taskSwitch c => Sys2Proof.Machine.effectTaskSwitch c s
  | .transferUnit c err => Sys2Proof.Machine.effectTransferUnit c err s
  | .taskEntryWrite who w v => Sys2Proof.Machine.effectTaskEntryWrite who w v s
  | .wake who task => Sys2Proof.Machine.effectWake who task s
  | .armBinding c a => Sys2Proof.Machine.effectArmBinding c a s
  | .readCause c d => Sys2Proof.Machine.effectReadCause c d s
  | .taskResume who task => Sys2Proof.Machine.effectTaskResume who task s
  | .taskKill who task => Sys2Proof.Machine.effectTaskKill who task s
  | .transferRetry who task => Sys2Proof.Machine.effectTransferRetry who task s
  | .clearPend who task => Sys2Proof.Machine.effectClearPend who task s
  | .storeBufferDrain c => Sys2Proof.Machine.effectStoreBufferDrain c s
  | .add c d a b res => Sys2Proof.Machine.effectAdd c d a b res s
  | .sub c d a b res => Sys2Proof.Machine.effectSub c d a b res s
  | .and c d a b => Sys2Proof.Machine.effectAnd c d a b s
  | .or c d a b => Sys2Proof.Machine.effectOr c d a b s
  | .xor c d a b => Sys2Proof.Machine.effectXor c d a b s
  | .shl c d a b => Sys2Proof.Machine.effectShl c d a b s
  | .shr c d a b => Sys2Proof.Machine.effectShr c d a b s
  | .shra c d a b => Sys2Proof.Machine.effectShra c d a b s
  | .stl c d a b => Sys2Proof.Machine.effectStl c d a b s
  | .stlu c d a b => Sys2Proof.Machine.effectStlu c d a b s
  | .mul c d a b res => Sys2Proof.Machine.effectMul c d a b res s
  | .mhi c d a b res => Sys2Proof.Machine.effectMhi c d a b res s
  | .mhiu c d a b res => Sys2Proof.Machine.effectMhiu c d a b res s
  | .div c d a b res => Sys2Proof.Machine.effectDiv c d a b res s
  | .divu c d a b res => Sys2Proof.Machine.effectDivu c d a b res s
  | .rem c d a b res => Sys2Proof.Machine.effectRem c d a b res s
  | .remu c d a b res => Sys2Proof.Machine.effectRemu c d a b res s
  | .addf c d a b res => Sys2Proof.Machine.effectAddf c d a b res s
  | .subf c d a b res => Sys2Proof.Machine.effectSubf c d a b res s
  | .andf c d a b => Sys2Proof.Machine.effectAndf c d a b s
  | .clz c d a => Sys2Proof.Machine.effectClz c d a s
  | .ctz c d a => Sys2Proof.Machine.effectCtz c d a s
  | .popc c d a => Sys2Proof.Machine.effectPopc c d a s
  | .min c d a b => Sys2Proof.Machine.effectMin c d a b s
  | .max c d a b => Sys2Proof.Machine.effectMax c d a b s
  | .minu c d a b => Sys2Proof.Machine.effectMinu c d a b s
  | .maxu c d a b => Sys2Proof.Machine.effectMaxu c d a b s
  | .sxb c d a => Sys2Proof.Machine.effectSxb c d a s
  | .sxh c d a => Sys2Proof.Machine.effectSxh c d a s
  | .sxw c d a => Sys2Proof.Machine.effectSxw c d a s
  | .zxw c d a => Sys2Proof.Machine.effectZxw c d a s
  | .pick c cond d a b => Sys2Proof.Machine.effectPick c cond d a b s
  | .addi c d a imm res => Sys2Proof.Machine.effectAddi c d a imm res s
  | .andi c d a imm => Sys2Proof.Machine.effectAndi c d a imm s
  | .ori c d a imm => Sys2Proof.Machine.effectOri c d a imm s
  | .xori c d a imm => Sys2Proof.Machine.effectXori c d a imm s
  | .shli c d a imm => Sys2Proof.Machine.effectShli c d a imm s
  | .shri c d a imm => Sys2Proof.Machine.effectShri c d a imm s
  | .shrai c d a imm => Sys2Proof.Machine.effectShrai c d a imm s
  | .stli c d a imm => Sys2Proof.Machine.effectStli c d a imm s
  | .stlui c d a imm => Sys2Proof.Machine.effectStlui c d a imm s
  | .cmpi c a imm => Sys2Proof.Machine.effectCmpi c a imm s
  | .imz c d hw imm => Sys2Proof.Machine.effectImz c d hw imm s
  | .imi c d hw imm => Sys2Proof.Machine.effectImi c d hw imm s
  | .ld1s c d a imm => Sys2Proof.Machine.effectLd1s c d a imm s
  | .ld1z c d a imm => Sys2Proof.Machine.effectLd1z c d a imm s
  | .ld2s c d a imm => Sys2Proof.Machine.effectLd2s c d a imm s
  | .ld2z c d a imm => Sys2Proof.Machine.effectLd2z c d a imm s
  | .ld4s c d a imm => Sys2Proof.Machine.effectLd4s c d a imm s
  | .ld4z c d a imm => Sys2Proof.Machine.effectLd4z c d a imm s
  | .ld8 c d a imm => Sys2Proof.Machine.effectLd8 c d a imm s
  | .st1 c d a imm => Sys2Proof.Machine.effectSt1 c d a imm s
  | .st2 c d a imm => Sys2Proof.Machine.effectSt2 c d a imm s
  | .st4 c d a imm => Sys2Proof.Machine.effectSt4 c d a imm s
  | .st8 c d a imm => Sys2Proof.Machine.effectSt8 c d a imm s
  | .aadd c wide d a b => Sys2Proof.Machine.effectAadd c wide d a b s
  | .aswap c wide d a b => Sys2Proof.Machine.effectAswap c wide d a b s
  | .acas c wide d a b => Sys2Proof.Machine.effectAcas c wide d a b s
  | .aand c wide d a b => Sys2Proof.Machine.effectAand c wide d a b s
  | .aor c wide d a b => Sys2Proof.Machine.effectAor c wide d a b s
  | .amax c wide d a b => Sys2Proof.Machine.effectAmax c wide d a b s
  | .amin c wide d a b => Sys2Proof.Machine.effectAmin c wide d a b s
  | .breq c a b off => Sys2Proof.Machine.effectBreq c a b off s
  | .brne c a b off => Sys2Proof.Machine.effectBrne c a b off s
  | .brlt c a b off => Sys2Proof.Machine.effectBrlt c a b off s
  | .brle c a b off => Sys2Proof.Machine.effectBrle c a b off s
  | .brltu c a b off => Sys2Proof.Machine.effectBrltu c a b off s
  | .brleu c a b off => Sys2Proof.Machine.effectBrleu c a b off s
  | .brc c cond off => Sys2Proof.Machine.effectBrc c cond off s
  | .go c off => Sys2Proof.Machine.effectGo c off s
  | .call c off => Sys2Proof.Machine.effectCall c off s
  | .gor c d a imm => Sys2Proof.Machine.effectGor c d a imm s
  | .fadd c dbl d a b res => Sys2Proof.Machine.effectFadd c dbl d a b res s
  | .fsub c dbl d a b res => Sys2Proof.Machine.effectFsub c dbl d a b res s
  | .fmul c dbl d a b res => Sys2Proof.Machine.effectFmul c dbl d a b res s
  | .fdiv c dbl d a b res => Sys2Proof.Machine.effectFdiv c dbl d a b res s
  | .fsqrt c dbl d a res => Sys2Proof.Machine.effectFsqrt c dbl d a res s
  | .fmin c dbl d a b => Sys2Proof.Machine.effectFmin c dbl d a b s
  | .fmax c dbl d a b => Sys2Proof.Machine.effectFmax c dbl d a b s
  | .fcmp c dbl d a b => Sys2Proof.Machine.effectFcmp c dbl d a b s
  | .fcvt c dbl d a => Sys2Proof.Machine.effectFcvt c dbl d a s
  | .ftoi c dbl d a => Sys2Proof.Machine.effectFtoi c dbl d a s
  | .itof c dbl d a => Sys2Proof.Machine.effectItof c dbl d a s
  | .fneg c dbl d a => Sys2Proof.Machine.effectFneg c dbl d a s
  | .fabs c dbl d a => Sys2Proof.Machine.effectFabs c dbl d a s
  | .fma c dbl d a b res => Sys2Proof.Machine.effectFma c dbl d a b res s
  | .crr c d cr => Sys2Proof.Machine.effectCrr c d cr s
  | .crw c a cr => Sys2Proof.Machine.effectCrw c a cr s
  | .csync c => Sys2Proof.Machine.effectCsync c s
  | .fence c => Sys2Proof.Machine.effectFence c s
  | .brd c d cr => Sys2Proof.Machine.effectBrd c d cr s
  | .bwr c a cr => Sys2Proof.Machine.effectBwr c a cr s
  | .tend c => Sys2Proof.Machine.effectTend c s
  | .twait c => Sys2Proof.Machine.effectTwait c s
  | .trap c code => Sys2Proof.Machine.effectTrap c code s
  | .tlbiAddress c a => Sys2Proof.Machine.effectTlbiAddress c a s
  | .tlbiAddressWalker c a => Sys2Proof.Machine.effectTlbiAddressWalker c a s
  | .tlbiContext c a => Sys2Proof.Machine.effectTlbiContext c a s
  | .tlbiBlock c a => Sys2Proof.Machine.effectTlbiBlock c a s
  | .zline c a => Sys2Proof.Machine.effectZline c a s
  | .tzero c td rows rb fmt => Sys2Proof.Machine.effectTzero c td rows rb fmt s
  | .tld c td ga gb conv rows rb fmt => Sys2Proof.Machine.effectTld c td ga gb conv rows rb fmt s
  | .tst c ts ga gb x rows rb fmt => Sys2Proof.Machine.effectTst c ts ga gb x rows rb fmt s
  | .tmov c td ts x rows rb fmt => Sys2Proof.Machine.effectTmov c td ts x rows rb fmt s
  | .tcvt c td ts ga rows rb fmt fmt2 => Sys2Proof.Machine.effectTcvt c td ts ga rows rb fmt fmt2 s
  | .tmm c td ts tt z int rows rb fmt fmt2 nm1 res => Sys2Proof.Machine.effectTmm c td ts tt z int rows rb fmt fmt2 nm1 res s
  | .trdg c ts ga gb => Sys2Proof.Machine.effectTrdg c ts ga gb s
  | .twrg c td ga gb rows rb fmt => Sys2Proof.Machine.effectTwrg c td ga gb rows rb fmt s
  | .trel c td => Sys2Proof.Machine.effectTrel c td s
  | .ttag c ts ga => Sys2Proof.Machine.effectTtag c ts ga s
  | .tfstat c ga => Sys2Proof.Machine.effectTfstat c ga s
  | .tileRow c => Sys2Proof.Machine.effectTileRow c s
  | .tileFileRestore c => Sys2Proof.Machine.effectTileFileRestore c s
  | .snowdropFirmwareUp => Sys2Proof.Machine.effectSnowdropFirmwareUp s
  | .chainInputLost => Sys2Proof.Machine.effectChainInputLost s
  | .chainInputRegained => Sys2Proof.Machine.effectChainInputRegained s
  | .chainFrameDiscarded bytes => Sys2Proof.Machine.effectChainFrameDiscarded bytes s
  | .inboundPacketDiscarded bad => Sys2Proof.Machine.effectInboundPacketDiscarded bad s
  | .undefinedEncoding c word0 word1 => Sys2Proof.Machine.effectUndefinedEncoding c word0 word1 s
  | .instructionFetchFault c second => Sys2Proof.Machine.effectInstructionFetchFault c second s

/-- A command in its turn: in a reset that it does not live in it has no effect; one with a requester of its own waits for
the answers of its reads (15:R425, R426). -/
def inTurn (l : Lives) (p : Nat) (k : Option Nat) (f : State → Host.Outcome State Fault Refusal) (s : State) :
    Host.Outcome State Fault Refusal :=
  if !l.now s then .next s
  else match k with
    | some k => atPorts k f (arrive p s)
    | none => f (arrive p s)

/-- The command, by its place, its requester and its effect. -/
def command (i : Instr) (s : State) : Host.Outcome State Fault Refusal :=
  inTurn (livesIn i) (placeOf i) (requester i) (effect i) s

/-! The meaning of each command. -/

/-- POWER_ON_RESET_ASSERT (R422). -/
def execPowerOnResetAssert (s : State) : Host.Outcome State Fault Refusal :=
  inTurn .both 3 none effectPowerOnResetAssert s

/-- POWER_ON_RESET_RELEASE (R422). -/
def execPowerOnResetRelease (s : State) : Host.Outcome State Fault Refusal :=
  inTurn .both 3 none effectPowerOnResetRelease s

/-- WARM_RESET_ASSERT (R422). -/
def execWarmResetAssert (edges : Nat) (s : State) : Host.Outcome State Fault Refusal :=
  inTurn .both 3 none (effectWarmResetAssert edges) s

/-- WARM_RESET_RELEASE (R422). -/
def execWarmResetRelease (s : State) : Host.Outcome State Fault Refusal :=
  inTurn .both 3 none effectWarmResetRelease s

/-- POWER_GOOD_FALL (R423). -/
def execPowerGoodFall (domain : Fin 4) (s : State) : Host.Outcome State Fault Refusal :=
  inTurn .both 3 none (effectPowerGoodFall domain) s

/-- BOOT_PHASE_END (R440). -/
def execBootPhaseEnd (r : BootChecks) (s : State) : Host.Outcome State Fault Refusal :=
  inTurn .none 3 none (effectBootPhaseEnd r) s

/-- FUSE_READ_DATA (R435). -/
def execFuseReadData (w : BitVec 32) (s : State) : Host.Outcome State Fault Refusal :=
  inTurn .none 3 none (effectFuseReadData w) s

/-- FUSE_READ_TIMEOUT (R435). -/
def execFuseReadTimeout (s : State) : Host.Outcome State Fault Refusal :=
  inTurn .none 3 none effectFuseReadTimeout s

/-- FUSE_PROGRAM_DONE (R435). -/
def execFuseProgramDone (err : Bool) (s : State) : Host.Outcome State Fault Refusal :=
  inTurn .none 3 none (effectFuseProgramDone err) s

/-- CLOCK_MEASURE_WINDOW (R420). -/
def execClockMeasureWindow (fclk aclk : Nat) (fLost aLost : Bool) (s : State) : Host.Outcome State Fault Refusal :=
  inTurn .none 3 none (effectClockMeasureWindow fclk aclk fLost aLost) s

/-- BEAT_MEASURE_WINDOW (R420). -/
def execBeatMeasureWindow (ticks : Nat) (s : State) : Host.Outcome State Fault Refusal :=
  inTurn .none 3 none (effectBeatMeasureWindow ticks) s

/-- MCLK_WATCHDOG (R431). -/
def execMclkWatchdog (s : State) : Host.Outcome State Fault Refusal :=
  inTurn .warm 3 none effectMclkWatchdog s

/-- MG_ALIVE_RISE (R431). -/
def execMgAliveRise (s : State) : Host.Outcome State Fault Refusal :=
  inTurn .warm 3 none effectMgAliveRise s

/-- BEAT_TICK (R432). -/
def execBeatTick (since : Nat) (found : List Upset) (s : State) : Host.Outcome State Fault Refusal :=
  inTurn .warm 1 none (effectBeatTick since found) s

/-- BEAT_LOAD (R187). -/
def execBeatLoad (v : Word) (s : State) : Host.Outcome State Fault Refusal :=
  inTurn .warm 0 none (effectBeatLoad v) s

/-- APPLY_IN (R433). -/
def execApplyIn (s : State) : Host.Outcome State Fault Refusal :=
  inTurn .none 2 none effectApplyIn s

/-- APPLY_NOW (R387). -/
def execApplyNow (by_ : CmdSrc) (s : State) : Host.Outcome State Fault Refusal :=
  inTurn (cmdLives by_) (cmdPlace by_) none (fun s => edgeNext (effectApplyNow by_ s)) s

/-- APPLY_ARM (R387). -/
def execApplyArm (by_ : CmdSrc) (beat : Word) (s : State) : Host.Outcome State Fault Refusal :=
  inTurn (cmdLives by_) (cmdPlace by_) none (effectApplyArm by_ beat) s

/-- APPLY_AT_WRITE (R384). -/
def execApplyAtWrite (src : Src) (v : Word) (s : State) : Host.Outcome State Fault Refusal :=
  inTurn .none (srcPlace src) none (effectApplyAtWrite src v) s

/-- SCHEDULED_APPLY (R387). -/
def execScheduledApply (s : State) : Host.Outcome State Fault Refusal :=
  inTurn .none 2 none effectScheduledApply s

/-- STATE_REQUEST (R371). -/
def execStateRequest (by_ : CmdSrc) (code : Byte) (s : State) : Host.Outcome State Fault Refusal :=
  inTurn (cmdLives by_) (cmdPlace by_) none (effectStateRequest by_ code) s

/-- STAGED_WRITE (R14). -/
def execStagedWrite (src : Src) (off : BitVec 26) (v : Word) (s : State) : Host.Outcome State Fault Refusal :=
  inTurn .none (srcPlace src) none (effectStagedWrite src off v) s

/-- REGISTER_WRITE (R14). -/
def execRegisterWrite (src : Src) (off : BitVec 26) (v : Word) (s : State) : Host.Outcome State Fault Refusal :=
  inTurn .none (srcPlace src) none (effectRegisterWrite src off v) s

/-- SQC_CLEAR (R18). -/
def execSqcClear (src : Src) (off : BitVec 26) (v : Word) (s : State) : Host.Outcome State Fault Refusal :=
  inTurn .none (srcPlace src) none (effectSqcClear src off v) s

/-- HOST_WINDOW_READ (R243). -/
def execHostWindowRead (tag : BitVec 6) (addr : BitVec 44) (be : BitVec 256) (split : Bool)
    (s : State) : Host.Outcome State Fault Refusal :=
  inTurn .none (srcPlace .host) none (effectHostWindowRead tag addr be split) s

/-- HOST_WINDOW_WRITE (R243). -/
def execHostWindowWrite (addr : BitVec 44) (be : BitVec 256) (data : BitVec 2048) (split : Bool)
    (s : State) : Host.Outcome State Fault Refusal :=
  inTurn .none (srcPlace .host) none (effectHostWindowWrite addr be data split) s

/-- HOST_WINDOW_READ_TIMEOUT (R430). -/
def execHostWindowReadTimeout (tag : BitVec 6) (s : State) : Host.Outcome State Fault Refusal :=
  inTurn .none 3 none (effectHostWindowReadTimeout tag) s

/-- DQ_CFG_WRITE (R151). -/
def execDqCfgWrite (src : Src) (q : Fin 32) (reg : Fin 3) (v : Word) (s : State) : Host.Outcome State Fault Refusal :=
  inTurn .none (srcPlace src) none (effectDqCfgWrite src q reg v) s

/-- DQ_DOORBELL (R165). -/
def execDqDoorbell (src : Src) (q : Fin 32) (v : Word) (s : State) : Host.Outcome State Fault Refusal :=
  inTurn .none 4 none (effectDqDoorbell src q v) s

/-- QUEUE_FLUSH (R178). -/
def execQueueFlush (src : Src) (q : Fin 32) (s : State) : Host.Outcome State Fault Refusal :=
  inTurn .none (srcPlace src) none (effectQueueFlush src q) s

/-- QUEUE_RESUME (R178). -/
def execQueueResume (src : Src) (q : Fin 32) (s : State) : Host.Outcome State Fault Refusal :=
  inTurn .none (srcPlace src) none (effectQueueResume src q) s

/-- QUEUE_HALT (R178). -/
def execQueueHalt (src : Src) (q : Fin 32) (s : State) : Host.Outcome State Fault Refusal :=
  inTurn .none (srcPlace src) none (effectQueueHalt src q) s

/-- FLAG_WRITE_SET (R181). -/
def execFlagWriteSet (src : Src) (f : Fin 4096) (v : BitVec 32) (s : State) : Host.Outcome State Fault Refusal :=
  inTurn .none (srcPlace src) none (effectFlagWriteSet src f v) s

/-- FLAG_WRITE_ADD (R181). -/
def execFlagWriteAdd (src : Src) (f : Fin 4096) (v : BitVec 32) (s : State) : Host.Outcome State Fault Refusal :=
  inTurn .none (srcPlace src) none (effectFlagWriteAdd src f v) s

/-- DESCRIPTOR_FETCH (R168). -/
def execDescriptorFetch (q : Fin 32) (s : State) : Host.Outcome State Fault Refusal :=
  inTurn .none 3 (some (32 + q.val)) (effectDescriptorFetch q) s

/-- FETCH_EVENT_COMPLETE (R169). -/
def execFetchEventComplete (q : Fin 32) (s : State) : Host.Outcome State Fault Refusal :=
  inTurn .none 3 (some (32 + q.val)) (effectFetchEventComplete q) s

/-- PREDICATE_TEST (R145). -/
def execPredicateTest (q : Fin 32) (s : State) : Host.Outcome State Fault Refusal :=
  inTurn .none 15 (some (32 + q.val)) (effectPredicateTest q) s

/-- BARRIER_ENTER (R174). -/
def execBarrierEnter (q : Fin 32) (s : State) : Host.Outcome State Fault Refusal :=
  inTurn .none 15 none (effectBarrierEnter q) s

/-- DESCRIPTOR_COMPLETE (R175). -/
def execDescriptorComplete (q : Fin 32) (s : State) : Host.Outcome State Fault Refusal :=
  inTurn .none 3 (some (32 + q.val)) (effectDescriptorComplete q) s

/-- DEADLINE_MISS (R186). -/
def execDeadlineMiss (q : Fin 32) (index : BitVec 32) (s : State) : Host.Outcome State Fault Refusal :=
  inTurn .none 3 none (effectDeadlineMiss q index) s

/-- DEADLOCK_DECLARE (R189). -/
def execDeadlockDeclare (s : State) : Host.Outcome State Fault Refusal :=
  inTurn .none 15 none effectDeadlockDeclare s

/-- NULL_NOP (R194). -/
def execNullNop (q : Fin 32) (s : State) : Host.Outcome State Fault Refusal :=
  inTurn .none 15 (some (32 + q.val)) (effectNullNop q) s

/-- NULL_FLAGS (R195). -/
def execNullFlags (q : Fin 32) (s : State) : Host.Outcome State Fault Refusal :=
  inTurn .none 15 (some (32 + q.val)) (effectNullFlags q) s

/-- OPA_MM (R196). -/
def execOpaMm (q : Fin 32) (s : State) : Host.Outcome State Fault Refusal :=
  inTurn .none 15 (some (32 + q.val)) (effectOpaMm q) s

/-- OPA_DRAIN (R196). -/
def execOpaDrain (q : Fin 32) (s : State) : Host.Outcome State Fault Refusal :=
  inTurn .none 15 (some (32 + q.val)) (effectOpaDrain q) s

/-- OPA_FORMAT_SWITCH (R99). -/
def execOpaFormatSwitch (n : Fin 16) (s : State) : Host.Outcome State Fault Refusal :=
  inTurn .none 3 none (effectOpaFormatSwitch n) s

/-- OPA_STEP_ISSUE (R70). -/
def execOpaStepIssue (n : Fin 16) (s : State) : Host.Outcome State Fault Refusal :=
  inTurn .none 3 (some (64 + n.val)) (effectOpaStepIssue n) s

/-- OPA_CHECKSUM_MISS (R391). -/
def execOpaChecksumMiss (n : Fin 16) (g : Fin 4) (setY : Bool) (row col : BitVec 8) (dummy : Bool)
    (s : State) : Host.Outcome State Fault Refusal :=
  inTurn .none 3 none (effectOpaChecksumMiss n g setY row col dummy) s

/-- OPA_ACC_PARITY_ERROR (R402). -/
def execOpaAccParityError (n : Fin 16) (g : Fin 4) (setY : Bool) (row col : BitVec 8) (outside : Bool)
    (s : State) : Host.Outcome State Fault Refusal :=
  inTurn .none 3 none (effectOpaAccParityError n g setY row col outside) s

/-- OPA_REPLAY_ATTEMPT (R401). -/
def execOpaReplayAttempt (n : Fin 16) (s : State) : Host.Outcome State Fault Refusal :=
  inTurn .none 3 none (effectOpaReplayAttempt n) s

/-- GROUP_FINAL (R90). -/
def execGroupFinal (n : Fin 16) (s : State) : Host.Outcome State Fault Refusal :=
  inTurn .none 3 none (effectGroupFinal n) s

/-- HELD_SET_DRAIN (R102). -/
def execHeldSetDrain (n : Fin 16) (s : State) : Host.Outcome State Fault Refusal :=
  inTurn .none 3 (some (64 + n.val)) (effectHeldSetDrain n) s

/-- DRAIN_CUBE_ROW (R110). -/
def execDrainCubeRow (n : Fin 16) (s : State) : Host.Outcome State Fault Refusal :=
  inTurn .none 3 (some (64 + n.val)) (effectDrainCubeRow n) s

/-- OPA_KEEP_FINISH (R101). -/
def execOpaKeepFinish (n : Fin 16) (s : State) : Host.Outcome State Fault Refusal :=
  inTurn .none 3 (some (64 + n.val)) (effectOpaKeepFinish n) s

/-- OPA_DRAIN_FINISH (R114). -/
def execOpaDrainFinish (n : Fin 16) (s : State) : Host.Outcome State Fault Refusal :=
  inTurn .none 3 (some (64 + n.val)) (effectOpaDrainFinish n) s

/-- CG_LEAVE_BAND (R76). -/
def execCgLeaveBand (g : Fin 16) (s : State) : Host.Outcome State Fault Refusal :=
  inTurn .none 3 none (effectCgLeaveBand g) s

/-- GAP_WINDOW_EXPIRE (R92). -/
def execGapWindowExpire (n : Fin 16) (s : State) : Host.Outcome State Fault Refusal :=
  inTurn .none 3 none (effectGapWindowExpire n) s

/-- LAMBDA_DECAY (R92). -/
def execLambdaDecay (n : Fin 16) (s : State) : Host.Outcome State Fault Refusal :=
  inTurn .none 3 none (effectLambdaDecay n) s

/-- LAMBDA_RAMP (R94). -/
def execLambdaRamp (n : Fin 16) (s : State) : Host.Outcome State Fault Refusal :=
  inTurn .none 3 none (effectLambdaRamp n) s

/-- DUMMY_STEP_ISSUE (R93). -/
def execDummyStepIssue (n : Fin 16) (s : State) : Host.Outcome State Fault Refusal :=
  inTurn .none 3 none (effectDummyStepIssue n) s

/-- VE_ADD (R201). -/
def execVeAdd (q : Fin 32) (s : State) : Host.Outcome State Fault Refusal :=
  inTurn .none 15 (some (32 + q.val)) (effectVeAdd q) s

/-- VE_SUB (R201). -/
def execVeSub (q : Fin 32) (s : State) : Host.Outcome State Fault Refusal :=
  inTurn .none 15 (some (32 + q.val)) (effectVeSub q) s

/-- VE_MUL (R201). -/
def execVeMul (q : Fin 32) (s : State) : Host.Outcome State Fault Refusal :=
  inTurn .none 15 (some (32 + q.val)) (effectVeMul q) s

/-- VE_DIV (R201). -/
def execVeDiv (q : Fin 32) (s : State) : Host.Outcome State Fault Refusal :=
  inTurn .none 15 (some (32 + q.val)) (effectVeDiv q) s

/-- VE_FMA (R201). -/
def execVeFma (q : Fin 32) (s : State) : Host.Outcome State Fault Refusal :=
  inTurn .none 15 (some (32 + q.val)) (effectVeFma q) s

/-- VE_SQRT (R201). -/
def execVeSqrt (q : Fin 32) (s : State) : Host.Outcome State Fault Refusal :=
  inTurn .none 15 (some (32 + q.val)) (effectVeSqrt q) s

/-- VE_REM (R201). -/
def execVeRem (q : Fin 32) (s : State) : Host.Outcome State Fault Refusal :=
  inTurn .none 15 (some (32 + q.val)) (effectVeRem q) s

/-- VE_SCALEB (R201). -/
def execVeScaleb (q : Fin 32) (s : State) : Host.Outcome State Fault Refusal :=
  inTurn .none 15 (some (32 + q.val)) (effectVeScaleb q) s

/-- VE_LOGB (R203). -/
def execVeLogb (q : Fin 32) (s : State) : Host.Outcome State Fault Refusal :=
  inTurn .none 15 (some (32 + q.val)) (effectVeLogb q) s

/-- VE_RINT (R203). -/
def execVeRint (q : Fin 32) (s : State) : Host.Outcome State Fault Refusal :=
  inTurn .none 15 (some (32 + q.val)) (effectVeRint q) s

/-- VE_NEXT (R203). -/
def execVeNext (q : Fin 32) (s : State) : Host.Outcome State Fault Refusal :=
  inTurn .none 15 (some (32 + q.val)) (effectVeNext q) s

/-- VE_SIGN (R203). -/
def execVeSign (q : Fin 32) (s : State) : Host.Outcome State Fault Refusal :=
  inTurn .none 15 (some (32 + q.val)) (effectVeSign q) s

/-- VE_CVT (R201). -/
def execVeCvt (q : Fin 32) (s : State) : Host.Outcome State Fault Refusal :=
  inTurn .none 15 (some (32 + q.val)) (effectVeCvt q) s

/-- VE_CMP (R204). -/
def execVeCmp (q : Fin 32) (s : State) : Host.Outcome State Fault Refusal :=
  inTurn .none 15 (some (32 + q.val)) (effectVeCmp q) s

/-- VE_CLASS (R205). -/
def execVeClass (q : Fin 32) (s : State) : Host.Outcome State Fault Refusal :=
  inTurn .none 15 (some (32 + q.val)) (effectVeClass q) s

/-- VE_TOTORD (R203). -/
def execVeTotord (q : Fin 32) (s : State) : Host.Outcome State Fault Refusal :=
  inTurn .none 15 (some (32 + q.val)) (effectVeTotord q) s

/-- VE_TOSTR (R206). -/
def execVeTostr (q : Fin 32) (s : State) : Host.Outcome State Fault Refusal :=
  inTurn .none 15 (some (32 + q.val)) (effectVeTostr q) s

/-- VE_FROMSTR (R206). -/
def execVeFromstr (q : Fin 32) (s : State) : Host.Outcome State Fault Refusal :=
  inTurn .none 15 (some (32 + q.val)) (effectVeFromstr q) s

/-- VE_MINMAX (R207). -/
def execVeMinmax (q : Fin 32) (s : State) : Host.Outcome State Fault Refusal :=
  inTurn .none 15 (some (32 + q.val)) (effectVeMinmax q) s

/-- VE_ACT (R207). -/
def execVeAct (q : Fin 32) (s : State) : Host.Outcome State Fault Refusal :=
  inTurn .none 15 (some (32 + q.val)) (effectVeAct q) s

/-- VE_EXP2 (R207). -/
def execVeExp2 (q : Fin 32) (s : State) : Host.Outcome State Fault Refusal :=
  inTurn .none 15 (some (32 + q.val)) (effectVeExp2 q) s

/-- VE_LOG2 (R207). -/
def execVeLog2 (q : Fin 32) (s : State) : Host.Outcome State Fault Refusal :=
  inTurn .none 15 (some (32 + q.val)) (effectVeLog2 q) s

/-- VE_RSUM (R208). -/
def execVeRsum (q : Fin 32) (s : State) : Host.Outcome State Fault Refusal :=
  inTurn .none 15 (some (32 + q.val)) (effectVeRsum q) s

/-- VE_RMAX (R208). -/
def execVeRmax (q : Fin 32) (s : State) : Host.Outcome State Fault Refusal :=
  inTurn .none 15 (some (32 + q.val)) (effectVeRmax q) s

/-- VE_RSTAT (R209). -/
def execVeRstat (q : Fin 32) (s : State) : Host.Outcome State Fault Refusal :=
  inTurn .none 15 (some (32 + q.val)) (effectVeRstat q) s

/-- VE_PSUM (R210). -/
def execVePsum (q : Fin 32) (s : State) : Host.Outcome State Fault Refusal :=
  inTurn .none 15 (some (32 + q.val)) (effectVePsum q) s

/-- VE_WSUM (R211). -/
def execVeWsum (q : Fin 32) (s : State) : Host.Outcome State Fault Refusal :=
  inTurn .none 15 (some (32 + q.val)) (effectVeWsum q) s

/-- VE_PRUNE (R212). -/
def execVePrune (q : Fin 32) (s : State) : Host.Outcome State Fault Refusal :=
  inTurn .none 15 (some (32 + q.val)) (effectVePrune q) s

/-- VE_MASKZ (R212). -/
def execVeMaskz (q : Fin 32) (s : State) : Host.Outcome State Fault Refusal :=
  inTurn .none 15 (some (32 + q.val)) (effectVeMaskz q) s

/-- VE_CRC (R213). -/
def execVeCrc (q : Fin 32) (s : State) : Host.Outcome State Fault Refusal :=
  inTurn .none 15 (some (32 + q.val)) (effectVeCrc q) s

/-- VE_CRCCHK (R214). -/
def execVeCrcchk (q : Fin 32) (s : State) : Host.Outcome State Fault Refusal :=
  inTurn .none 15 (some (32 + q.val)) (effectVeCrcchk q) s

/-- VE_PQ (R215). -/
def execVePq (q : Fin 32) (s : State) : Host.Outcome State Fault Refusal :=
  inTurn .none 15 (some (32 + q.val)) (effectVePq q) s

/-- VE_PQREC (R216). -/
def execVePqrec (q : Fin 32) (s : State) : Host.Outcome State Fault Refusal :=
  inTurn .none 15 (some (32 + q.val)) (effectVePqrec q) s

/-- VE_FINISH (R219). -/
def execVeFinish (q : Fin 32) (s : State) : Host.Outcome State Fault Refusal :=
  inTurn .none 3 (some (32 + q.val)) (effectVeFinish q) s

/-- VE_PARITY_REPLAY (R403). -/
def execVeParityReplay (q : Fin 32) (slice : Fin 8) (elem : Word) (s : State) : Host.Outcome State Fault Refusal :=
  inTurn .none 3 none (effectVeParityReplay q slice elem) s

/-- VE_SLICE_LEAVE (R217). -/
def execVeSliceLeave (slice : Fin 8) (s : State) : Host.Outcome State Fault Refusal :=
  inTurn .none 3 none (effectVeSliceLeave slice) s

/-- MOVE_COPY (R220). -/
def execMoveCopy (q : Fin 32) (s : State) : Host.Outcome State Fault Refusal :=
  inTurn .none 15 (some (32 + q.val)) (effectMoveCopy q) s

/-- MOVE_BYTES (R220). -/
def execMoveBytes (q : Fin 32) (s : State) : Host.Outcome State Fault Refusal :=
  inTurn .none 15 (some (32 + q.val)) (effectMoveBytes q) s

/-- MOVE_FILL (R220). -/
def execMoveFill (q : Fin 32) (s : State) : Host.Outcome State Fault Refusal :=
  inTurn .none 15 (some (32 + q.val)) (effectMoveFill q) s

/-- MOVE_FINISH (R222). -/
def execMoveFinish (q : Fin 32) (s : State) : Host.Outcome State Fault Refusal :=
  inTurn .none 3 (some (32 + q.val)) (effectMoveFinish q) s

/-- RME_PUT (R223). -/
def execRmePut (q : Fin 32) (s : State) : Host.Outcome State Fault Refusal :=
  inTurn .none 15 (some (32 + q.val)) (effectRmePut q) s

/-- RME_GET (R223). -/
def execRmeGet (q : Fin 32) (s : State) : Host.Outcome State Fault Refusal :=
  inTurn .none 15 (some (32 + q.val)) (effectRmeGet q) s

/-- RME_PUT_FLAG (R223). -/
def execRmePutFlag (q : Fin 32) (s : State) : Host.Outcome State Fault Refusal :=
  inTurn .none 15 (some (32 + q.val)) (effectRmePutFlag q) s

/-- RME_FLAG_ADD (R223). -/
def execRmeFlagAdd (q : Fin 32) (s : State) : Host.Outcome State Fault Refusal :=
  inTurn .none 15 (some (32 + q.val)) (effectRmeFlagAdd q) s

/-- RME_FLAG_SET (R223). -/
def execRmeFlagSet (q : Fin 32) (s : State) : Host.Outcome State Fault Refusal :=
  inTurn .none 15 (some (32 + q.val)) (effectRmeFlagSet q) s

/-- RME_AADD (R223). -/
def execRmeAadd (q : Fin 32) (s : State) : Host.Outcome State Fault Refusal :=
  inTurn .none 15 (some (32 + q.val)) (effectRmeAadd q) s

/-- RME_FADD (R223). -/
def execRmeFadd (q : Fin 32) (s : State) : Host.Outcome State Fault Refusal :=
  inTurn .none 15 (some (32 + q.val)) (effectRmeFadd q) s

/-- RME_CAS (R223). -/
def execRmeCas (q : Fin 32) (s : State) : Host.Outcome State Fault Refusal :=
  inTurn .none 15 (some (32 + q.val)) (effectRmeCas q) s

/-- RME_TIMEOUT (R253). -/
def execRmeTimeout (q : Fin 32) (s : State) : Host.Outcome State Fault Refusal :=
  inTurn .none 3 none (effectRmeTimeout q) s

/-- REMOTE_SIGNAL_TIMEOUT (R252). -/
def execRemoteSignalTimeout (txid : BitVec 32) (s : State) : Host.Outcome State Fault Refusal :=
  inTurn .none 3 none (effectRemoteSignalTimeout txid) s

/-- CCM_POST (R227). -/
def execCcmPost (q : Fin 32) (s : State) : Host.Outcome State Fault Refusal :=
  inTurn .none 15 none (effectCcmPost q) s

/-- MAILBOX_DONE (R333). -/
def execMailboxDone (who : CrWho) (m : Fin 16) (v : Word) (s : State) : Host.Outcome State Fault Refusal :=
  inTurn .none (whoPlace who) none (effectMailboxDone who m v) s

/-- PACKET_ACK (R428). -/
def execPacketAck (txid : BitVec 32) (s : State) : Host.Outcome State Fault Refusal :=
  inTurn .none 3 none (effectPacketAck txid) s

/-- PACKET_DATA (R428). -/
def execPacketData (txid : BitVec 32) (data : List Byte) (s : State) : Host.Outcome State Fault Refusal :=
  inTurn .none 3 none (effectPacketData txid data) s

/-- PACKET_REFUSE (R428). -/
def execPacketRefuse (txid : BitVec 32) (reason : BitVec 16) (s : State) : Host.Outcome State Fault Refusal :=
  inTurn .none 3 none (effectPacketRefuse txid reason) s

/-- INBOUND_PUT (R247). -/
def execInboundPut (p : Packet) (s : State) : Host.Outcome State Fault Refusal :=
  inTurn .none 16 none (effectInboundPut p) s

/-- INBOUND_GET (R247). -/
def execInboundGet (p : Packet) (s : State) : Host.Outcome State Fault Refusal :=
  inTurn .none 16 none (effectInboundGet p) s

/-- INBOUND_FLAG_ADD (R247). -/
def execInboundFlagAdd (p : Packet) (s : State) : Host.Outcome State Fault Refusal :=
  inTurn .none 16 none (effectInboundFlagAdd p) s

/-- INBOUND_FLAG_SET (R247). -/
def execInboundFlagSet (p : Packet) (s : State) : Host.Outcome State Fault Refusal :=
  inTurn .none 16 none (effectInboundFlagSet p) s

/-- INBOUND_AADD (R225). -/
def execInboundAadd (p : Packet) (s : State) : Host.Outcome State Fault Refusal :=
  inTurn .none 16 none (effectInboundAadd p) s

/-- INBOUND_FADD (R225). -/
def execInboundFadd (p : Packet) (s : State) : Host.Outcome State Fault Refusal :=
  inTurn .none 16 none (effectInboundFadd p) s

/-- INBOUND_CAS (R225). -/
def execInboundCas (p : Packet) (s : State) : Host.Outcome State Fault Refusal :=
  inTurn .none 16 none (effectInboundCas p) s

/-- REMOTE_CREDIT (R427). -/
def execRemoteCredit (s : State) : Host.Outcome State Fault Refusal :=
  inTurn .none 3 none effectRemoteCredit s

/-- MEMORY_CREDIT (R425). -/
def execMemoryCredit (n : Fin 16) (s : State) : Host.Outcome State Fault Refusal :=
  inTurn .none 3 none (effectMemoryCredit n) s

/-- MEMORY_READ_RESPONSE (R233). -/
def execMemoryReadResponse (n : Fin 16) (tag : BitVec 10) (stat : BitVec 16)
    (s : State) : Host.Outcome State Fault Refusal :=
  inTurn .none 3 none (effectMemoryReadResponse n tag stat) s

/-- MEMORY_WRITE_ACK (R235). -/
def execMemoryWriteAck (n : Fin 16) (tag : BitVec 10) (err : Bool) (s : State) : Host.Outcome State Fault Refusal :=
  inTurn .none 3 none (effectMemoryWriteAck n tag err) s

/-- MEMORY_REQUEST_TIMEOUT (R426). -/
def execMemoryRequestTimeout (n : Fin 16) (tag : BitVec 10) (s : State) : Host.Outcome State Fault Refusal :=
  inTurn .none 3 none (effectMemoryRequestTimeout n tag) s

/-- MEMP_CFG_WRITE (R231). -/
def execMempCfgWrite (src : Src) (v : Word) (s : State) : Host.Outcome State Fault Refusal :=
  inTurn .none (srcPlace src) none (effectMempCfgWrite src v) s

/-- SCRUB_READ (R236). -/
def execScrubRead (word : BitVec 23) (found : ReadStat) (s : State) : Host.Outcome State Fault Refusal :=
  inTurn .none 3 none (effectScrubRead word found) s

/-- SPARE_COPY_COMPLETE (R238). -/
def execSpareCopyComplete (spare : Fin 4) (s : State) : Host.Outcome State Fault Refusal :=
  inTurn .none 3 none (effectSpareCopyComplete spare) s

/-- PAGE_WALK (R340). -/
def execPageWalk (root : WalkRoot) (va : Word) (access : Access) (s : State) : Host.Outcome State Fault Refusal :=
  inTurn .none 3 (walkRequester root) (effectPageWalk root va access) s

/-- XLAT_CTXBASE_WRITE (R348). -/
def execXlatCtxbaseWrite (src : Src) (v : Word) (s : State) : Host.Outcome State Fault Refusal :=
  inTurn .none (srcPlace src) none (effectXlatCtxbaseWrite src v) s

/-- XLAT_INV_ADDRESS (R348). -/
def execXlatInvAddress (src : Src) (ctx : BitVec 16) (va : BitVec 48) (s : State) : Host.Outcome State Fault Refusal :=
  inTurn .none (srcPlace src) none (effectXlatInvAddress src ctx va) s

/-- XLAT_INV_ADDRESS_WALKER (R348). -/
def execXlatInvAddressWalker (src : Src) (ctx : BitVec 16) (va : BitVec 48) (s : State) : Host.Outcome State Fault Refusal :=
  inTurn .none (srcPlace src) none (effectXlatInvAddressWalker src ctx va) s

/-- XLAT_INV_CONTEXT (R348). -/
def execXlatInvContext (src : Src) (ctx : BitVec 16) (s : State) : Host.Outcome State Fault Refusal :=
  inTurn .none (srcPlace src) none (effectXlatInvContext src ctx) s

/-- XLAT_INV_BLOCK (R348). -/
def execXlatInvBlock (src : Src) (s : State) : Host.Outcome State Fault Refusal :=
  inTurn .none (srcPlace src) none (effectXlatInvBlock src) s

/-- XLAT_INV_COMPLETE (R347). -/
def execXlatInvComplete (s : State) : Host.Outcome State Fault Refusal :=
  inTurn .none 3 none effectXlatInvComplete s

/-- PRELOAD_START (R355). -/
def execPreloadStart (src : Src) (v : Word) (s : State) : Host.Outcome State Fault Refusal :=
  inTurn .none (srcPlace src) none (effectPreloadStart src v) s

/-- PRELOAD_COMPLETE (R355). -/
def execPreloadComplete (s : State) : Host.Outcome State Fault Refusal :=
  inTurn .none 3 (some 21) effectPreloadComplete s

/-- WAY_POWER_DOWN (R356). -/
def execWayPowerDown (src : Src) (way : Fin 16) (s : State) : Host.Outcome State Fault Refusal :=
  inTurn .none (srcPlace src) none (effectWayPowerDown src way) s

/-- WAY_CLEAN_COMPLETE (R356). -/
def execWayCleanComplete (way : Fin 16) (s : State) : Host.Outcome State Fault Refusal :=
  inTurn .none 3 none (effectWayCleanComplete way) s

/-- WAY_POWER_UP (R356). -/
def execWayPowerUp (src : Src) (way : Fin 16) (s : State) : Host.Outcome State Fault Refusal :=
  inTurn .none (srcPlace src) none (effectWayPowerUp src way) s

/-- WAY_POWER_UP_READY (R356). -/
def execWayPowerUpReady (way : Fin 16) (s : State) : Host.Outcome State Fault Refusal :=
  inTurn .none 3 none (effectWayPowerUpReady way) s

/-- FAULT_RECORD_WRITE (R399). -/
def execFaultRecordWrite (s : State) : Host.Outcome State Fault Refusal :=
  inTurn .none 3 none effectFaultRecordWrite s

/-- FAULT_ACK_WRITE (R399). -/
def execFaultAckWrite (src : Src) (v : Word) (s : State) : Host.Outcome State Fault Refusal :=
  inTurn .none (srcPlace src) none (effectFaultAckWrite src v) s

/-- PARITY_SCAN (R388). -/
def execParityScan (off : BitVec 26) (mismatch : Bool) (s : State) : Host.Outcome State Fault Refusal :=
  inTurn .none 3 none (effectParityScan off mismatch) s

/-- MBOX_RESPONSE_READY (R381). -/
def execMboxResponseReady (s : State) : Host.Outcome State Fault Refusal :=
  inTurn .none 3 none effectMboxResponseReady s

/-- OD_READ (R367). -/
def execOdRead (p : Path) (payload : List Byte) (s : State) : Host.Outcome State Fault Refusal :=
  inTurn (pathLives p) (srcPlace .snowdrop) none (effectOdRead p payload) s

/-- OD_WRITE (R367). -/
def execOdWrite (p : Path) (payload : List Byte) (s : State) : Host.Outcome State Fault Refusal :=
  inTurn (pathLives p) (srcPlace .snowdrop) none (effectOdWrite p payload) s

/-- OD_AWRITE (R373). -/
def execOdAwrite (p : Path) (payload : List Byte) (s : State) : Host.Outcome State Fault Refusal :=
  inTurn (pathLives p) (srcPlace .snowdrop) none (effectOdAwrite p payload) s

/-- SERVICE_ENTER (R370). -/
def execServiceEnter (p : Path) (au : Auth) (s : State) : Host.Outcome State Fault Refusal :=
  inTurn (pathLives p) (srcPlace .snowdrop) none (effectServiceEnter p au) s

/-- SERVICE_END (R370). -/
def execServiceEnd (p : Path) (au : Auth) (s : State) : Host.Outcome State Fault Refusal :=
  inTurn (pathLives p) (srcPlace .snowdrop) none (effectServiceEnd p au) s

/-- REG_VALUE_READ (R364). -/
def execRegValueRead (p : Path) (s : State) : Host.Outcome State Fault Refusal :=
  inTurn (pathLives p) (srcPlace .snowdrop) none (effectRegValueRead p) s

/-- REG_VALUE_WRITE (R364). -/
def execRegValueWrite (p : Path) (v : Word) (s : State) : Host.Outcome State Fault Refusal :=
  inTurn (pathLives p) (srcPlace .snowdrop) none (effectRegValueWrite p v) s

/-- NODE_ADDR_WRITE (R377). -/
def execNodeAddrWrite (p : Path) (v : BitVec 16) (s : State) : Host.Outcome State Fault Refusal :=
  inTurn (pathLives p) (srcPlace .snowdrop) none (effectNodeAddrWrite p v) s

/-- UNIT_SERVICE_ENTER (R365). -/
def execUnitServiceEnter (p : Path) (au : Auth) (unit : BitVec 16) (s : State) : Host.Outcome State Fault Refusal :=
  inTurn (pathLives p) (srcPlace .snowdrop) none (effectUnitServiceEnter p au unit) s

/-- UNIT_SERVICE_LEAVE (R412). -/
def execUnitServiceLeave (p : Path) (au : Auth) (unit : BitVec 16) (s : State) : Host.Outcome State Fault Refusal :=
  inTurn (pathLives p) (srcPlace .snowdrop) none (effectUnitServiceLeave p au unit) s

/-- UNIT_RETIRE (R405). -/
def execUnitRetire (p : Path) (au : Auth) (unit : BitVec 16) (s : State) : Host.Outcome State Fault Refusal :=
  inTurn (pathLives p) (srcPlace .snowdrop) none (effectUnitRetire p au unit) s

/-- UNIT_SERVICE_ENTRY (R411). -/
def execUnitServiceEntry (unit : BitVec 16) (s : State) : Host.Outcome State Fault Refusal :=
  inTurn .none 3 none (effectUnitServiceEntry unit) s

/-- UNIT_TEST_COMPLETE (R412). -/
def execUnitTestComplete (unit : BitVec 16) (pass : Bool) (detail : BitVec 32)
    (s : State) : Host.Outcome State Fault Refusal :=
  inTurn .none 3 none (effectUnitTestComplete unit pass detail) s

/-- IMG_BLOCK (R363). -/
def execImgBlock (p : Path) (data : List Byte) (s : State) : Host.Outcome State Fault Refusal :=
  inTurn (pathLives p) (srcPlace .snowdrop) none (effectImgBlock p data) s

/-- IMG_COMMIT (R363). -/
def execImgCommit (p : Path) (au : Auth) (data : List Byte) (s : State) : Host.Outcome State Fault Refusal :=
  inTurn (pathLives p) (srcPlace .snowdrop) none (effectImgCommit p au data) s

/-- KEY_WRITE (R372). -/
def execKeyWrite (p : Path) (au : Auth) (slot : Fin 4) (data : List Byte) (s : State) : Host.Outcome State Fault Refusal :=
  inTurn (pathLives p) (srcPlace .snowdrop) none (effectKeyWrite p au slot data) s

/-- SPARE_MAP_WRITE (R436). -/
def execSpareMapWrite (p : Path) (au : Auth) (data : List Byte) (s : State) : Host.Outcome State Fault Refusal :=
  inTurn (pathLives p) (srcPlace .snowdrop) none (effectSpareMapWrite p au data) s

/-- TESTMODE_WRITE (R363). -/
def execTestmodeWrite (p : Path) (au : Auth) (v : BitVec 32) (s : State) : Host.Outcome State Fault Refusal :=
  inTurn (pathLives p) (srcPlace .snowdrop) none (effectTestmodeWrite p au v) s

/-- CRESET (R379). -/
def execCreset (src : BitVec 12) (seq : Byte) (s : State) : Host.Outcome State Fault Refusal :=
  inTurn .warm 3 none (effectCreset src seq) s

/-- ENUM (R379). -/
def execEnum (src : BitVec 12) (seq : Byte) (crc : BitVec 32) (pos : BitVec 16)
    (s : State) : Host.Outcome State Fault Refusal :=
  inTurn .warm 3 none (effectEnum src seq crc pos) s

/-- ASSIGN (R379). -/
def execAssign (src : BitVec 12) (seq : Byte) (crc : BitVec 32) (pos addr : BitVec 16)
    (s : State) : Host.Outcome State Fault Refusal :=
  inTurn .warm 3 none (effectAssign src seq crc pos addr) s

/-- SENSOR_SAMPLE (R413). -/
def execSensorSample (x : Sample) (s : State) : Host.Outcome State Fault Refusal :=
  inTurn .none 3 none (effectSensorSample x) s

/-- MARGIN_REPLAN (R414). -/
def execMarginReplan (x : Monitors) (s : State) : Host.Outcome State Fault Refusal :=
  inTurn .none 3 none (effectMarginReplan x) s

/-- VOLTAGE_STEP (R415). -/
def execVoltageStep (s : State) : Host.Outcome State Fault Refusal :=
  inTurn .none 3 none effectVoltageStep s

/-- VACK_INPUT (R424). -/
def execVackInput (v : Bool) (s : State) : Host.Outcome State Fault Refusal :=
  inTurn .both 3 none (effectVackInput v) s

/-- VACK_TIMEOUT (R424). -/
def execVackTimeout (s : State) : Host.Outcome State Fault Refusal :=
  inTurn .none 3 none effectVackTimeout s

/-- ACLK_PIPELINE_EMPTY (R421). -/
def execAclkPipelineEmpty (s : State) : Host.Outcome State Fault Refusal :=
  inTurn .none 3 none effectAclkPipelineEmpty s

/-- ACLK_CUR_CHANGE (R421). -/
def execAclkCurChange (code : BitVec 2) (s : State) : Host.Outcome State Fault Refusal :=
  inTurn .both 3 none (effectAclkCurChange code) s

/-- ACLK_RESUME (R421). -/
def execAclkResume (s : State) : Host.Outcome State Fault Refusal :=
  inTurn .none 3 none effectAclkResume s

/-- ACLK_SWITCH_LATE (R421). -/
def execAclkSwitchLate (s : State) : Host.Outcome State Fault Refusal :=
  inTurn .none 3 none effectAclkSwitchLate s

/-- HW_COMPARATOR_TRIP (R446). -/
def execHwComparatorTrip (thermal : Bool) (site : Fin 16) (value : BitVec 32)
    (s : State) : Host.Outcome State Fault Refusal :=
  inTurn .none 3 none (effectHwComparatorTrip thermal site value) s

/-- RECOVERY_TIMER (R416). -/
def execRecoveryTimer (s : State) : Host.Outcome State Fault Refusal :=
  inTurn .none 3 none effectRecoveryTimer s

/-- SNOWDROP_RESTART (R390). -/
def execSnowdropRestart (s : State) : Host.Outcome State Fault Refusal :=
  inTurn .none 3 none effectSnowdropRestart s

/-- TAP_RESET (R438). -/
def execTapReset (s : State) : Host.Outcome State Fault Refusal :=
  inTurn .warm 3 none effectTapReset s

/-- IDCODE (R438). -/
def execIdcode (s : State) : Host.Outcome State Fault Refusal :=
  inTurn .warm 3 none effectIdcode s

/-- IJTAG (R438). -/
def execIjtag (s : State) : Host.Outcome State Fault Refusal :=
  inTurn .warm 3 none effectIjtag s

/-- BYPASS (R438). -/
def execBypass (s : State) : Host.Outcome State Fault Refusal :=
  inTurn .warm 3 none effectBypass s

/-- SCHEDULER_SELECT (R321). -/
def execSchedulerSelect (c : Fin 8) (s : State) : Host.Outcome State Fault Refusal :=
  inTurn .none (srcPlace (.core c)) (some (6 + c.val)) (effectSchedulerSelect c) s

/-- TASK_SWITCH (R322). -/
def execTaskSwitch (c : Fin 8) (s : State) : Host.Outcome State Fault Refusal :=
  inTurn .none (srcPlace (.core c)) (some (6 + c.val)) (effectTaskSwitch c) s

/-- TRANSFER_UNIT (R326). -/
def execTransferUnit (c : Fin 8) (err : Bool) (s : State) : Host.Outcome State Fault Refusal :=
  inTurn .none (srcPlace (.core c)) (some (6 + c.val)) (effectTransferUnit c err) s

/-- TASK_ENTRY_WRITE (R316). -/
def execTaskEntryWrite (who : CrWho) (w : Fin 4) (v : Word) (s : State) : Host.Outcome State Fault Refusal :=
  inTurn .none (whoPlace who) none (effectTaskEntryWrite who w v) s

/-- WAKE (R318). -/
def execWake (who : CrWho) (task : Byte) (s : State) : Host.Outcome State Fault Refusal :=
  inTurn .none (whoPlace who) none (effectWake who task) s

/-- ARM_BINDING (R320). -/
def execArmBinding (c : Fin 8) (a : BitVec 5) (s : State) : Host.Outcome State Fault Refusal :=
  inTurn .none (srcPlace (.core c)) (some (6 + c.val)) (effectArmBinding c a) s

/-- READ_CAUSE (R320). -/
def execReadCause (c : Fin 8) (d : BitVec 5) (s : State) : Host.Outcome State Fault Refusal :=
  inTurn .none (srcPlace (.core c)) (some (6 + c.val)) (effectReadCause c d) s

/-- TASK_RESUME (R320). -/
def execTaskResume (who : CrWho) (task : Byte) (s : State) : Host.Outcome State Fault Refusal :=
  inTurn .none (whoPlace who) none (effectTaskResume who task) s

/-- TASK_KILL (R320). -/
def execTaskKill (who : CrWho) (task : Byte) (s : State) : Host.Outcome State Fault Refusal :=
  inTurn .none (whoPlace who) none (effectTaskKill who task) s

/-- TRANSFER_RETRY (R328). -/
def execTransferRetry (who : CrWho) (task : Byte) (s : State) : Host.Outcome State Fault Refusal :=
  inTurn .none (whoPlace who) none (effectTransferRetry who task) s

/-- CLEAR_PEND (R320). -/
def execClearPend (who : CrWho) (task : Byte) (s : State) : Host.Outcome State Fault Refusal :=
  inTurn .none (whoPlace who) none (effectClearPend who task) s

/-- STORE_BUFFER_DRAIN (R275). -/
def execStoreBufferDrain (c : Fin 8) (s : State) : Host.Outcome State Fault Refusal :=
  inTurn .none (srcPlace (.core c)) (some (6 + c.val)) (effectStoreBufferDrain c) s

/-- ADD (R263). -/
def execAdd (c : Fin 8) (d a b : BitVec 5) (res : Residue) (s : State) : Host.Outcome State Fault Refusal :=
  inTurn .none (srcPlace (.core c)) (some (6 + c.val)) (effectAdd c d a b res) s

/-- SUB (R263). -/
def execSub (c : Fin 8) (d a b : BitVec 5) (res : Residue) (s : State) : Host.Outcome State Fault Refusal :=
  inTurn .none (srcPlace (.core c)) (some (6 + c.val)) (effectSub c d a b res) s

/-- AND (R263). -/
def execAnd (c : Fin 8) (d a b : BitVec 5) (s : State) : Host.Outcome State Fault Refusal :=
  inTurn .none (srcPlace (.core c)) (some (6 + c.val)) (effectAnd c d a b) s

/-- OR (R263). -/
def execOr (c : Fin 8) (d a b : BitVec 5) (s : State) : Host.Outcome State Fault Refusal :=
  inTurn .none (srcPlace (.core c)) (some (6 + c.val)) (effectOr c d a b) s

/-- XOR (R263). -/
def execXor (c : Fin 8) (d a b : BitVec 5) (s : State) : Host.Outcome State Fault Refusal :=
  inTurn .none (srcPlace (.core c)) (some (6 + c.val)) (effectXor c d a b) s

/-- SHL (R263). -/
def execShl (c : Fin 8) (d a b : BitVec 5) (s : State) : Host.Outcome State Fault Refusal :=
  inTurn .none (srcPlace (.core c)) (some (6 + c.val)) (effectShl c d a b) s

/-- SHR (R263). -/
def execShr (c : Fin 8) (d a b : BitVec 5) (s : State) : Host.Outcome State Fault Refusal :=
  inTurn .none (srcPlace (.core c)) (some (6 + c.val)) (effectShr c d a b) s

/-- SHRA (R263). -/
def execShra (c : Fin 8) (d a b : BitVec 5) (s : State) : Host.Outcome State Fault Refusal :=
  inTurn .none (srcPlace (.core c)) (some (6 + c.val)) (effectShra c d a b) s

/-- STL (R263). -/
def execStl (c : Fin 8) (d a b : BitVec 5) (s : State) : Host.Outcome State Fault Refusal :=
  inTurn .none (srcPlace (.core c)) (some (6 + c.val)) (effectStl c d a b) s

/-- STLU (R263). -/
def execStlu (c : Fin 8) (d a b : BitVec 5) (s : State) : Host.Outcome State Fault Refusal :=
  inTurn .none (srcPlace (.core c)) (some (6 + c.val)) (effectStlu c d a b) s

/-- MUL (R263). -/
def execMul (c : Fin 8) (d a b : BitVec 5) (res : Residue) (s : State) : Host.Outcome State Fault Refusal :=
  inTurn .none (srcPlace (.core c)) (some (6 + c.val)) (effectMul c d a b res) s

/-- MHI (R263). -/
def execMhi (c : Fin 8) (d a b : BitVec 5) (res : Residue) (s : State) : Host.Outcome State Fault Refusal :=
  inTurn .none (srcPlace (.core c)) (some (6 + c.val)) (effectMhi c d a b res) s

/-- MHIU (R263). -/
def execMhiu (c : Fin 8) (d a b : BitVec 5) (res : Residue) (s : State) : Host.Outcome State Fault Refusal :=
  inTurn .none (srcPlace (.core c)) (some (6 + c.val)) (effectMhiu c d a b res) s

/-- DIV (R263). -/
def execDiv (c : Fin 8) (d a b : BitVec 5) (res : Residue) (s : State) : Host.Outcome State Fault Refusal :=
  inTurn .none (srcPlace (.core c)) (some (6 + c.val)) (effectDiv c d a b res) s

/-- DIVU (R263). -/
def execDivu (c : Fin 8) (d a b : BitVec 5) (res : Residue) (s : State) : Host.Outcome State Fault Refusal :=
  inTurn .none (srcPlace (.core c)) (some (6 + c.val)) (effectDivu c d a b res) s

/-- REM (R263). -/
def execRem (c : Fin 8) (d a b : BitVec 5) (res : Residue) (s : State) : Host.Outcome State Fault Refusal :=
  inTurn .none (srcPlace (.core c)) (some (6 + c.val)) (effectRem c d a b res) s

/-- REMU (R263). -/
def execRemu (c : Fin 8) (d a b : BitVec 5) (res : Residue) (s : State) : Host.Outcome State Fault Refusal :=
  inTurn .none (srcPlace (.core c)) (some (6 + c.val)) (effectRemu c d a b res) s

/-- ADDF (R263). -/
def execAddf (c : Fin 8) (d a b : BitVec 5) (res : Residue) (s : State) : Host.Outcome State Fault Refusal :=
  inTurn .none (srcPlace (.core c)) (some (6 + c.val)) (effectAddf c d a b res) s

/-- SUBF (R263). -/
def execSubf (c : Fin 8) (d a b : BitVec 5) (res : Residue) (s : State) : Host.Outcome State Fault Refusal :=
  inTurn .none (srcPlace (.core c)) (some (6 + c.val)) (effectSubf c d a b res) s

/-- ANDF (R263). -/
def execAndf (c : Fin 8) (d a b : BitVec 5) (s : State) : Host.Outcome State Fault Refusal :=
  inTurn .none (srcPlace (.core c)) (some (6 + c.val)) (effectAndf c d a b) s

/-- CLZ (R263). -/
def execClz (c : Fin 8) (d a : BitVec 5) (s : State) : Host.Outcome State Fault Refusal :=
  inTurn .none (srcPlace (.core c)) (some (6 + c.val)) (effectClz c d a) s

/-- CTZ (R263). -/
def execCtz (c : Fin 8) (d a : BitVec 5) (s : State) : Host.Outcome State Fault Refusal :=
  inTurn .none (srcPlace (.core c)) (some (6 + c.val)) (effectCtz c d a) s

/-- POPC (R263). -/
def execPopc (c : Fin 8) (d a : BitVec 5) (s : State) : Host.Outcome State Fault Refusal :=
  inTurn .none (srcPlace (.core c)) (some (6 + c.val)) (effectPopc c d a) s

/-- MIN (R263). -/
def execMin (c : Fin 8) (d a b : BitVec 5) (s : State) : Host.Outcome State Fault Refusal :=
  inTurn .none (srcPlace (.core c)) (some (6 + c.val)) (effectMin c d a b) s

/-- MAX (R263). -/
def execMax (c : Fin 8) (d a b : BitVec 5) (s : State) : Host.Outcome State Fault Refusal :=
  inTurn .none (srcPlace (.core c)) (some (6 + c.val)) (effectMax c d a b) s

/-- MINU (R263). -/
def execMinu (c : Fin 8) (d a b : BitVec 5) (s : State) : Host.Outcome State Fault Refusal :=
  inTurn .none (srcPlace (.core c)) (some (6 + c.val)) (effectMinu c d a b) s

/-- MAXU (R263). -/
def execMaxu (c : Fin 8) (d a b : BitVec 5) (s : State) : Host.Outcome State Fault Refusal :=
  inTurn .none (srcPlace (.core c)) (some (6 + c.val)) (effectMaxu c d a b) s

/-- SXB (R263). -/
def execSxb (c : Fin 8) (d a : BitVec 5) (s : State) : Host.Outcome State Fault Refusal :=
  inTurn .none (srcPlace (.core c)) (some (6 + c.val)) (effectSxb c d a) s

/-- SXH (R263). -/
def execSxh (c : Fin 8) (d a : BitVec 5) (s : State) : Host.Outcome State Fault Refusal :=
  inTurn .none (srcPlace (.core c)) (some (6 + c.val)) (effectSxh c d a) s

/-- SXW (R263). -/
def execSxw (c : Fin 8) (d a : BitVec 5) (s : State) : Host.Outcome State Fault Refusal :=
  inTurn .none (srcPlace (.core c)) (some (6 + c.val)) (effectSxw c d a) s

/-- ZXW (R263). -/
def execZxw (c : Fin 8) (d a : BitVec 5) (s : State) : Host.Outcome State Fault Refusal :=
  inTurn .none (srcPlace (.core c)) (some (6 + c.val)) (effectZxw c d a) s

/-- PICK (R264). -/
def execPick (c : Fin 8) (cond : BitVec 4) (d a b : BitVec 5) (s : State) : Host.Outcome State Fault Refusal :=
  inTurn .none (srcPlace (.core c)) (some (6 + c.val)) (effectPick c cond d a b) s

/-- ADDI (R262). -/
def execAddi (c : Fin 8) (d a : BitVec 5) (imm : BitVec 16) (res : Residue) (s : State) : Host.Outcome State Fault Refusal :=
  inTurn .none (srcPlace (.core c)) (some (6 + c.val)) (effectAddi c d a imm res) s

/-- ANDI (R262). -/
def execAndi (c : Fin 8) (d a : BitVec 5) (imm : BitVec 16) (s : State) : Host.Outcome State Fault Refusal :=
  inTurn .none (srcPlace (.core c)) (some (6 + c.val)) (effectAndi c d a imm) s

/-- ORI (R262). -/
def execOri (c : Fin 8) (d a : BitVec 5) (imm : BitVec 16) (s : State) : Host.Outcome State Fault Refusal :=
  inTurn .none (srcPlace (.core c)) (some (6 + c.val)) (effectOri c d a imm) s

/-- XORI (R262). -/
def execXori (c : Fin 8) (d a : BitVec 5) (imm : BitVec 16) (s : State) : Host.Outcome State Fault Refusal :=
  inTurn .none (srcPlace (.core c)) (some (6 + c.val)) (effectXori c d a imm) s

/-- SHLI (R262). -/
def execShli (c : Fin 8) (d a : BitVec 5) (imm : BitVec 6) (s : State) : Host.Outcome State Fault Refusal :=
  inTurn .none (srcPlace (.core c)) (some (6 + c.val)) (effectShli c d a imm) s

/-- SHRI (R262). -/
def execShri (c : Fin 8) (d a : BitVec 5) (imm : BitVec 6) (s : State) : Host.Outcome State Fault Refusal :=
  inTurn .none (srcPlace (.core c)) (some (6 + c.val)) (effectShri c d a imm) s

/-- SHRAI (R262). -/
def execShrai (c : Fin 8) (d a : BitVec 5) (imm : BitVec 6) (s : State) : Host.Outcome State Fault Refusal :=
  inTurn .none (srcPlace (.core c)) (some (6 + c.val)) (effectShrai c d a imm) s

/-- STLI (R262). -/
def execStli (c : Fin 8) (d a : BitVec 5) (imm : BitVec 16) (s : State) : Host.Outcome State Fault Refusal :=
  inTurn .none (srcPlace (.core c)) (some (6 + c.val)) (effectStli c d a imm) s

/-- STLUI (R262). -/
def execStlui (c : Fin 8) (d a : BitVec 5) (imm : BitVec 16) (s : State) : Host.Outcome State Fault Refusal :=
  inTurn .none (srcPlace (.core c)) (some (6 + c.val)) (effectStlui c d a imm) s

/-- CMPI (R262). -/
def execCmpi (c : Fin 8) (a : BitVec 5) (imm : Checked (BitVec 16)) (s : State) : Host.Outcome State Fault Refusal :=
  inTurn .none (srcPlace (.core c)) (some (6 + c.val)) (effectCmpi c a imm) s

/-- IMZ (R262). -/
def execImz (c : Fin 8) (d hw : BitVec 5) (imm : BitVec 16) (s : State) : Host.Outcome State Fault Refusal :=
  inTurn .none (srcPlace (.core c)) (some (6 + c.val)) (effectImz c d hw imm) s

/-- IMI (R262). -/
def execImi (c : Fin 8) (d hw : BitVec 5) (imm : BitVec 16) (s : State) : Host.Outcome State Fault Refusal :=
  inTurn .none (srcPlace (.core c)) (some (6 + c.val)) (effectImi c d hw imm) s

/-- LD1S (R262). -/
def execLd1s (c : Fin 8) (d a : BitVec 5) (imm : BitVec 16) (s : State) : Host.Outcome State Fault Refusal :=
  inTurn .none (srcPlace (.core c)) (some (6 + c.val)) (effectLd1s c d a imm) s

/-- LD1Z (R262). -/
def execLd1z (c : Fin 8) (d a : BitVec 5) (imm : BitVec 16) (s : State) : Host.Outcome State Fault Refusal :=
  inTurn .none (srcPlace (.core c)) (some (6 + c.val)) (effectLd1z c d a imm) s

/-- LD2S (R262). -/
def execLd2s (c : Fin 8) (d a : BitVec 5) (imm : BitVec 16) (s : State) : Host.Outcome State Fault Refusal :=
  inTurn .none (srcPlace (.core c)) (some (6 + c.val)) (effectLd2s c d a imm) s

/-- LD2Z (R262). -/
def execLd2z (c : Fin 8) (d a : BitVec 5) (imm : BitVec 16) (s : State) : Host.Outcome State Fault Refusal :=
  inTurn .none (srcPlace (.core c)) (some (6 + c.val)) (effectLd2z c d a imm) s

/-- LD4S (R262). -/
def execLd4s (c : Fin 8) (d a : BitVec 5) (imm : BitVec 16) (s : State) : Host.Outcome State Fault Refusal :=
  inTurn .none (srcPlace (.core c)) (some (6 + c.val)) (effectLd4s c d a imm) s

/-- LD4Z (R262). -/
def execLd4z (c : Fin 8) (d a : BitVec 5) (imm : BitVec 16) (s : State) : Host.Outcome State Fault Refusal :=
  inTurn .none (srcPlace (.core c)) (some (6 + c.val)) (effectLd4z c d a imm) s

/-- LD8 (R262). -/
def execLd8 (c : Fin 8) (d a : BitVec 5) (imm : BitVec 16) (s : State) : Host.Outcome State Fault Refusal :=
  inTurn .none (srcPlace (.core c)) (some (6 + c.val)) (effectLd8 c d a imm) s

/-- ST1 (R262). -/
def execSt1 (c : Fin 8) (d a : BitVec 5) (imm : BitVec 16) (s : State) : Host.Outcome State Fault Refusal :=
  inTurn .none (srcPlace (.core c)) (some (6 + c.val)) (effectSt1 c d a imm) s

/-- ST2 (R262). -/
def execSt2 (c : Fin 8) (d a : BitVec 5) (imm : BitVec 16) (s : State) : Host.Outcome State Fault Refusal :=
  inTurn .none (srcPlace (.core c)) (some (6 + c.val)) (effectSt2 c d a imm) s

/-- ST4 (R262). -/
def execSt4 (c : Fin 8) (d a : BitVec 5) (imm : BitVec 16) (s : State) : Host.Outcome State Fault Refusal :=
  inTurn .none (srcPlace (.core c)) (some (6 + c.val)) (effectSt4 c d a imm) s

/-- ST8 (R262). -/
def execSt8 (c : Fin 8) (d a : BitVec 5) (imm : BitVec 16) (s : State) : Host.Outcome State Fault Refusal :=
  inTurn .none (srcPlace (.core c)) (some (6 + c.val)) (effectSt8 c d a imm) s

/-- AADD (R266). -/
def execAadd (c : Fin 8) (wide : Bool) (d a b : BitVec 5) (s : State) : Host.Outcome State Fault Refusal :=
  inTurn .none (srcPlace (.core c)) (some (6 + c.val)) (effectAadd c wide d a b) s

/-- ASWAP (R266). -/
def execAswap (c : Fin 8) (wide : Bool) (d a b : BitVec 5) (s : State) : Host.Outcome State Fault Refusal :=
  inTurn .none (srcPlace (.core c)) (some (6 + c.val)) (effectAswap c wide d a b) s

/-- ACAS (R266). -/
def execAcas (c : Fin 8) (wide : Bool) (d a b : BitVec 5) (s : State) : Host.Outcome State Fault Refusal :=
  inTurn .none (srcPlace (.core c)) (some (6 + c.val)) (effectAcas c wide d a b) s

/-- AAND (R266). -/
def execAand (c : Fin 8) (wide : Bool) (d a b : BitVec 5) (s : State) : Host.Outcome State Fault Refusal :=
  inTurn .none (srcPlace (.core c)) (some (6 + c.val)) (effectAand c wide d a b) s

/-- AOR (R266). -/
def execAor (c : Fin 8) (wide : Bool) (d a b : BitVec 5) (s : State) : Host.Outcome State Fault Refusal :=
  inTurn .none (srcPlace (.core c)) (some (6 + c.val)) (effectAor c wide d a b) s

/-- AMAX (R266). -/
def execAmax (c : Fin 8) (wide : Bool) (d a b : BitVec 5) (s : State) : Host.Outcome State Fault Refusal :=
  inTurn .none (srcPlace (.core c)) (some (6 + c.val)) (effectAmax c wide d a b) s

/-- AMIN (R266). -/
def execAmin (c : Fin 8) (wide : Bool) (d a b : BitVec 5) (s : State) : Host.Outcome State Fault Refusal :=
  inTurn .none (srcPlace (.core c)) (some (6 + c.val)) (effectAmin c wide d a b) s

/-- BREQ (R262). -/
def execBreq (c : Fin 8) (a b : BitVec 5) (off : BitVec 16) (s : State) : Host.Outcome State Fault Refusal :=
  inTurn .none (srcPlace (.core c)) (some (6 + c.val)) (effectBreq c a b off) s

/-- BRNE (R262). -/
def execBrne (c : Fin 8) (a b : BitVec 5) (off : BitVec 16) (s : State) : Host.Outcome State Fault Refusal :=
  inTurn .none (srcPlace (.core c)) (some (6 + c.val)) (effectBrne c a b off) s

/-- BRLT (R262). -/
def execBrlt (c : Fin 8) (a b : BitVec 5) (off : BitVec 16) (s : State) : Host.Outcome State Fault Refusal :=
  inTurn .none (srcPlace (.core c)) (some (6 + c.val)) (effectBrlt c a b off) s

/-- BRLE (R262). -/
def execBrle (c : Fin 8) (a b : BitVec 5) (off : BitVec 16) (s : State) : Host.Outcome State Fault Refusal :=
  inTurn .none (srcPlace (.core c)) (some (6 + c.val)) (effectBrle c a b off) s

/-- BRLTU (R262). -/
def execBrltu (c : Fin 8) (a b : BitVec 5) (off : BitVec 16) (s : State) : Host.Outcome State Fault Refusal :=
  inTurn .none (srcPlace (.core c)) (some (6 + c.val)) (effectBrltu c a b off) s

/-- BRLEU (R262). -/
def execBrleu (c : Fin 8) (a b : BitVec 5) (off : BitVec 16) (s : State) : Host.Outcome State Fault Refusal :=
  inTurn .none (srcPlace (.core c)) (some (6 + c.val)) (effectBrleu c a b off) s

/-- BRC (R264). -/
def execBrc (c : Fin 8) (cond : BitVec 4) (off : BitVec 22) (s : State) : Host.Outcome State Fault Refusal :=
  inTurn .none (srcPlace (.core c)) (some (6 + c.val)) (effectBrc c cond off) s

/-- GO (R262). -/
def execGo (c : Fin 8) (off : BitVec 26) (s : State) : Host.Outcome State Fault Refusal :=
  inTurn .none (srcPlace (.core c)) (some (6 + c.val)) (effectGo c off) s

/-- CALL (R262). -/
def execCall (c : Fin 8) (off : BitVec 26) (s : State) : Host.Outcome State Fault Refusal :=
  inTurn .none (srcPlace (.core c)) (some (6 + c.val)) (effectCall c off) s

/-- GOR (R262). -/
def execGor (c : Fin 8) (d a : BitVec 5) (imm : BitVec 16) (s : State) : Host.Outcome State Fault Refusal :=
  inTurn .none (srcPlace (.core c)) (some (6 + c.val)) (effectGor c d a imm) s

/-- FADD (R265). -/
def execFadd (c : Fin 8) (dbl : Bool) (d a b : BitVec 5) (res : Residue) (s : State) : Host.Outcome State Fault Refusal :=
  inTurn .none (srcPlace (.core c)) (some (6 + c.val)) (effectFadd c dbl d a b res) s

/-- FSUB (R265). -/
def execFsub (c : Fin 8) (dbl : Bool) (d a b : BitVec 5) (res : Residue) (s : State) : Host.Outcome State Fault Refusal :=
  inTurn .none (srcPlace (.core c)) (some (6 + c.val)) (effectFsub c dbl d a b res) s

/-- FMUL (R265). -/
def execFmul (c : Fin 8) (dbl : Bool) (d a b : BitVec 5) (res : Residue) (s : State) : Host.Outcome State Fault Refusal :=
  inTurn .none (srcPlace (.core c)) (some (6 + c.val)) (effectFmul c dbl d a b res) s

/-- FDIV (R265). -/
def execFdiv (c : Fin 8) (dbl : Bool) (d a b : BitVec 5) (res : Residue) (s : State) : Host.Outcome State Fault Refusal :=
  inTurn .none (srcPlace (.core c)) (some (6 + c.val)) (effectFdiv c dbl d a b res) s

/-- FSQRT (R265). -/
def execFsqrt (c : Fin 8) (dbl : Bool) (d a : BitVec 5) (res : Residue) (s : State) : Host.Outcome State Fault Refusal :=
  inTurn .none (srcPlace (.core c)) (some (6 + c.val)) (effectFsqrt c dbl d a res) s

/-- FMIN (R265). -/
def execFmin (c : Fin 8) (dbl : Checked Bool) (d a b : BitVec 5) (s : State) : Host.Outcome State Fault Refusal :=
  inTurn .none (srcPlace (.core c)) (some (6 + c.val)) (effectFmin c dbl d a b) s

/-- FMAX (R265). -/
def execFmax (c : Fin 8) (dbl : Checked Bool) (d a b : BitVec 5) (s : State) : Host.Outcome State Fault Refusal :=
  inTurn .none (srcPlace (.core c)) (some (6 + c.val)) (effectFmax c dbl d a b) s

/-- FCMP (R265). -/
def execFcmp (c : Fin 8) (dbl : Checked Bool) (d a b : BitVec 5) (s : State) : Host.Outcome State Fault Refusal :=
  inTurn .none (srcPlace (.core c)) (some (6 + c.val)) (effectFcmp c dbl d a b) s

/-- FCVT (R265). -/
def execFcvt (c : Fin 8) (dbl : Checked Bool) (d a : BitVec 5) (s : State) : Host.Outcome State Fault Refusal :=
  inTurn .none (srcPlace (.core c)) (some (6 + c.val)) (effectFcvt c dbl d a) s

/-- FTOI (R265). -/
def execFtoi (c : Fin 8) (dbl : Checked Bool) (d a : BitVec 5) (s : State) : Host.Outcome State Fault Refusal :=
  inTurn .none (srcPlace (.core c)) (some (6 + c.val)) (effectFtoi c dbl d a) s

/-- ITOF (R265). -/
def execItof (c : Fin 8) (dbl : Checked Bool) (d a : BitVec 5) (s : State) : Host.Outcome State Fault Refusal :=
  inTurn .none (srcPlace (.core c)) (some (6 + c.val)) (effectItof c dbl d a) s

/-- FNEG (R265). -/
def execFneg (c : Fin 8) (dbl : Bool) (d a : BitVec 5) (s : State) : Host.Outcome State Fault Refusal :=
  inTurn .none (srcPlace (.core c)) (some (6 + c.val)) (effectFneg c dbl d a) s

/-- FABS (R265). -/
def execFabs (c : Fin 8) (dbl : Bool) (d a : BitVec 5) (s : State) : Host.Outcome State Fault Refusal :=
  inTurn .none (srcPlace (.core c)) (some (6 + c.val)) (effectFabs c dbl d a) s

/-- FMA (R265). -/
def execFma (c : Fin 8) (dbl : Bool) (d a b : BitVec 5) (res : Residue) (s : State) : Host.Outcome State Fault Refusal :=
  inTurn .none (srcPlace (.core c)) (some (6 + c.val)) (effectFma c dbl d a b res) s

/-- CRR (R281). -/
def execCrr (c : Fin 8) (d : BitVec 5) (cr : BitVec 12) (s : State) : Host.Outcome State Fault Refusal :=
  inTurn .none (srcPlace (.core c)) (some (6 + c.val)) (effectCrr c d cr) s

/-- CRW (R282). -/
def execCrw (c : Fin 8) (a : BitVec 5) (cr : BitVec 12) (s : State) : Host.Outcome State Fault Refusal :=
  inTurn .none (srcPlace (.core c)) (some (6 + c.val)) (effectCrw c a cr) s

/-- CSYNC (R282). -/
def execCsync (c : Fin 8) (s : State) : Host.Outcome State Fault Refusal :=
  inTurn .none (srcPlace (.core c)) (some (6 + c.val)) (effectCsync c) s

/-- FENCE (R277). -/
def execFence (c : Fin 8) (s : State) : Host.Outcome State Fault Refusal :=
  inTurn .none (srcPlace (.core c)) (some (6 + c.val)) (effectFence c) s

/-- BRD (R332). -/
def execBrd (c : Fin 8) (d : BitVec 5) (cr : BitVec 12) (s : State) : Host.Outcome State Fault Refusal :=
  inTurn .none (srcPlace (.core c)) (some (6 + c.val)) (effectBrd c d cr) s

/-- BWR (R332). -/
def execBwr (c : Fin 8) (a : BitVec 5) (cr : BitVec 12) (s : State) : Host.Outcome State Fault Refusal :=
  inTurn .none (srcPlace (.core c)) (some (6 + c.val)) (effectBwr c a cr) s

/-- TEND (R319). -/
def execTend (c : Fin 8) (s : State) : Host.Outcome State Fault Refusal :=
  inTurn .none (srcPlace (.core c)) (some (6 + c.val)) (effectTend c) s

/-- TWAIT (R319). -/
def execTwait (c : Fin 8) (s : State) : Host.Outcome State Fault Refusal :=
  inTurn .none (srcPlace (.core c)) (some (6 + c.val)) (effectTwait c) s

/-- TRAP (R317). -/
def execTrap (c : Fin 8) (code : Byte) (s : State) : Host.Outcome State Fault Refusal :=
  inTurn .none (srcPlace (.core c)) (some (6 + c.val)) (effectTrap c code) s

/-- TLBI_ADDRESS (R346). -/
def execTlbiAddress (c : Fin 8) (a : BitVec 5) (s : State) : Host.Outcome State Fault Refusal :=
  inTurn .none (srcPlace (.core c)) (some (6 + c.val)) (effectTlbiAddress c a) s

/-- TLBI_ADDRESS_WALKER (R346). -/
def execTlbiAddressWalker (c : Fin 8) (a : BitVec 5) (s : State) : Host.Outcome State Fault Refusal :=
  inTurn .none (srcPlace (.core c)) (some (6 + c.val)) (effectTlbiAddressWalker c a) s

/-- TLBI_CONTEXT (R346). -/
def execTlbiContext (c : Fin 8) (a : BitVec 5) (s : State) : Host.Outcome State Fault Refusal :=
  inTurn .none (srcPlace (.core c)) (some (6 + c.val)) (effectTlbiContext c a) s

/-- TLBI_BLOCK (R346). -/
def execTlbiBlock (c : Fin 8) (a : BitVec 5) (s : State) : Host.Outcome State Fault Refusal :=
  inTurn .none (srcPlace (.core c)) (some (6 + c.val)) (effectTlbiBlock c a) s

/-- ZLINE (R358). -/
def execZline (c : Fin 8) (a : BitVec 5) (s : State) : Host.Outcome State Fault Refusal :=
  inTurn .none (srcPlace (.core c)) (some (6 + c.val)) (effectZline c a) s

/-- TZERO (R292). -/
def execTzero (c : Fin 8) (td : BitVec 4) (rows : BitVec 5) (rb : BitVec 6) (fmt : BitVec 4)
    (s : State) : Host.Outcome State Fault Refusal :=
  inTurn .none (srcPlace (.core c)) (some (6 + c.val)) (effectTzero c td rows rb fmt) s

/-- TLD (R298). -/
def execTld (c : Fin 8) (td : BitVec 4) (ga gb : BitVec 5) (conv : Bool) (rows : BitVec 5) (rb : BitVec 6) (fmt : BitVec 4)
    (s : State) : Host.Outcome State Fault Refusal :=
  inTurn .none (srcPlace (.core c)) (some (6 + c.val)) (effectTld c td ga gb conv rows rb fmt) s

/-- TST (R298). -/
def execTst (c : Fin 8) (ts : BitVec 4) (ga gb : BitVec 5) (x : Bool) (rows : BitVec 5) (rb : BitVec 6) (fmt : BitVec 4)
    (s : State) : Host.Outcome State Fault Refusal :=
  inTurn .none (srcPlace (.core c)) (some (6 + c.val)) (effectTst c ts ga gb x rows rb fmt) s

/-- TMOV (R292). -/
def execTmov (c : Fin 8) (td ts : BitVec 4) (x : Bool) (rows : BitVec 5) (rb : BitVec 6) (fmt : BitVec 4)
    (s : State) : Host.Outcome State Fault Refusal :=
  inTurn .none (srcPlace (.core c)) (some (6 + c.val)) (effectTmov c td ts x rows rb fmt) s

/-- TCVT (R310). -/
def execTcvt (c : Fin 8) (td ts : BitVec 4) (ga : BitVec 5) (rows : BitVec 5) (rb : BitVec 6) (fmt : BitVec 4) (fmt2 : Checked (BitVec 4))
    (s : State) : Host.Outcome State Fault Refusal :=
  inTurn .none (srcPlace (.core c)) (some (6 + c.val)) (effectTcvt c td ts ga rows rb fmt fmt2) s

/-- TMM (R304). -/
def execTmm (c : Fin 8) (td ts tt : BitVec 4) (z int : Bool) (rows : BitVec 5) (rb : BitVec 6) (fmt : BitVec 4) (fmt2 nm1 : BitVec 4) (res : Residue)
    (s : State) : Host.Outcome State Fault Refusal :=
  inTurn .none (srcPlace (.core c)) (some (6 + c.val)) (effectTmm c td ts tt z int rows rb fmt fmt2 nm1 res) s

/-- TRDG (R292). -/
def execTrdg (c : Fin 8) (ts : BitVec 4) (ga gb : BitVec 5) (s : State) : Host.Outcome State Fault Refusal :=
  inTurn .none (srcPlace (.core c)) (some (6 + c.val)) (effectTrdg c ts ga gb) s

/-- TWRG (R292). -/
def execTwrg (c : Fin 8) (td : BitVec 4) (ga gb : BitVec 5) (rows : BitVec 5) (rb : BitVec 6) (fmt : BitVec 4)
    (s : State) : Host.Outcome State Fault Refusal :=
  inTurn .none (srcPlace (.core c)) (some (6 + c.val)) (effectTwrg c td ga gb rows rb fmt) s

/-- TREL (R288). -/
def execTrel (c : Fin 8) (td : BitVec 4) (s : State) : Host.Outcome State Fault Refusal :=
  inTurn .none (srcPlace (.core c)) (some (6 + c.val)) (effectTrel c td) s

/-- TTAG (R293). -/
def execTtag (c : Fin 8) (ts : BitVec 4) (ga : BitVec 5) (s : State) : Host.Outcome State Fault Refusal :=
  inTurn .none (srcPlace (.core c)) (some (6 + c.val)) (effectTtag c ts ga) s

/-- TFSTAT (R303). -/
def execTfstat (c : Fin 8) (ga : BitVec 5) (s : State) : Host.Outcome State Fault Refusal :=
  inTurn .none (srcPlace (.core c)) (some (6 + c.val)) (effectTfstat c ga) s

/-- TILE_ROW (R298). -/
def execTileRow (c : Fin 8) (s : State) : Host.Outcome State Fault Refusal :=
  inTurn .none (srcPlace (.core c)) (some (6 + c.val)) (effectTileRow c) s

/-- TILE_FILE_RESTORE (R327). -/
def execTileFileRestore (c : Fin 8) (s : State) : Host.Outcome State Fault Refusal :=
  inTurn .none (srcPlace (.core c)) (some (6 + c.val)) (effectTileFileRestore c) s

/-- SNOWDROP_FIRMWARE_UP (R390). -/
def execSnowdropFirmwareUp (s : State) : Host.Outcome State Fault Refusal :=
  inTurn .none 3 none effectSnowdropFirmwareUp s

/-- CHAIN_INPUT_LOST (R431). -/
def execChainInputLost (s : State) : Host.Outcome State Fault Refusal :=
  inTurn .both 3 none effectChainInputLost s

/-- CHAIN_INPUT_REGAINED (R431). -/
def execChainInputRegained (s : State) : Host.Outcome State Fault Refusal :=
  inTurn .both 3 none effectChainInputRegained s

/-- CHAIN_FRAME_DISCARDED (R377). -/
def execChainFrameDiscarded (bytes : List Byte) (s : State) : Host.Outcome State Fault Refusal :=
  inTurn .warm 3 none (effectChainFrameDiscarded bytes) s

/-- INBOUND_PACKET_DISCARDED (R429). -/
def execInboundPacketDiscarded (bad : PacketFault) (s : State) : Host.Outcome State Fault Refusal :=
  inTurn .none 16 none (effectInboundPacketDiscarded bad) s

/-- UNDEFINED_ENCODING (R261). -/
def execUndefinedEncoding (c : Fin 8) (word0 word1 : BitVec 32) (s : State) : Host.Outcome State Fault Refusal :=
  inTurn .none (srcPlace (.core c)) (some (6 + c.val)) (effectUndefinedEncoding c word0 word1) s

/-- INSTRUCTION_FETCH_FAULT (R278). -/
def execInstructionFetchFault (c : Fin 8) (second : Bool) (s : State) : Host.Outcome State Fault Refusal :=
  inTurn .none (srcPlace (.core c)) (some (6 + c.val)) (effectInstructionFetchFault c second) s

end Sys2Proof.Machine
end

