-- ==== Sys2Proof/Machine/Dispatch.lean ====
section
/-! DEFINITION. Dispatch: one arm per command. -/

namespace Sys2Proof.Machine

def exec (i : Instr) (s : State) : Host.Outcome State Fault Refusal :=
  match i with
  | .powerOnResetAssert => Sys2Proof.Machine.execPowerOnResetAssert s
  | .powerOnResetRelease => Sys2Proof.Machine.execPowerOnResetRelease s
  | .warmResetAssert edges => Sys2Proof.Machine.execWarmResetAssert edges s
  | .warmResetRelease => Sys2Proof.Machine.execWarmResetRelease s
  | .powerGoodFall domain => Sys2Proof.Machine.execPowerGoodFall domain s
  | .bootPhaseEnd r => Sys2Proof.Machine.execBootPhaseEnd r s
  | .fuseReadData w => Sys2Proof.Machine.execFuseReadData w s
  | .fuseReadTimeout => Sys2Proof.Machine.execFuseReadTimeout s
  | .fuseProgramDone err => Sys2Proof.Machine.execFuseProgramDone err s
  | .clockMeasureWindow fclk aclk fLost aLost => Sys2Proof.Machine.execClockMeasureWindow fclk aclk fLost aLost s
  | .beatMeasureWindow ticks => Sys2Proof.Machine.execBeatMeasureWindow ticks s
  | .mclkWatchdog => Sys2Proof.Machine.execMclkWatchdog s
  | .mgAliveRise => Sys2Proof.Machine.execMgAliveRise s
  | .beatTick since found => Sys2Proof.Machine.execBeatTick since found s
  | .beatLoad v => Sys2Proof.Machine.execBeatLoad v s
  | .applyIn => Sys2Proof.Machine.execApplyIn s
  | .applyNow by_ => Sys2Proof.Machine.execApplyNow by_ s
  | .applyArm by_ beat => Sys2Proof.Machine.execApplyArm by_ beat s
  | .applyAtWrite src v => Sys2Proof.Machine.execApplyAtWrite src v s
  | .scheduledApply => Sys2Proof.Machine.execScheduledApply s
  | .stateRequest by_ code => Sys2Proof.Machine.execStateRequest by_ code s
  | .stagedWrite src off v => Sys2Proof.Machine.execStagedWrite src off v s
  | .registerWrite src off v => Sys2Proof.Machine.execRegisterWrite src off v s
  | .sqcClear src off v => Sys2Proof.Machine.execSqcClear src off v s
  | .hostWindowRead tag addr be split => Sys2Proof.Machine.execHostWindowRead tag addr be split s
  | .hostWindowWrite addr be data split => Sys2Proof.Machine.execHostWindowWrite addr be data split s
  | .hostWindowReadTimeout tag => Sys2Proof.Machine.execHostWindowReadTimeout tag s
  | .dqCfgWrite src q reg v => Sys2Proof.Machine.execDqCfgWrite src q reg v s
  | .dqDoorbell src q v => Sys2Proof.Machine.execDqDoorbell src q v s
  | .queueFlush src q => Sys2Proof.Machine.execQueueFlush src q s
  | .queueResume src q => Sys2Proof.Machine.execQueueResume src q s
  | .queueHalt src q => Sys2Proof.Machine.execQueueHalt src q s
  | .flagWriteSet src f v => Sys2Proof.Machine.execFlagWriteSet src f v s
  | .flagWriteAdd src f v => Sys2Proof.Machine.execFlagWriteAdd src f v s
  | .descriptorFetch q => Sys2Proof.Machine.execDescriptorFetch q s
  | .fetchEventComplete q => Sys2Proof.Machine.execFetchEventComplete q s
  | .predicateTest q => Sys2Proof.Machine.execPredicateTest q s
  | .barrierEnter q => Sys2Proof.Machine.execBarrierEnter q s
  | .descriptorComplete q => Sys2Proof.Machine.execDescriptorComplete q s
  | .deadlineMiss q index => Sys2Proof.Machine.execDeadlineMiss q index s
  | .deadlockDeclare => Sys2Proof.Machine.execDeadlockDeclare s
  | .nullNop q => Sys2Proof.Machine.execNullNop q s
  | .nullFlags q => Sys2Proof.Machine.execNullFlags q s
  | .opaMm q => Sys2Proof.Machine.execOpaMm q s
  | .opaDrain q => Sys2Proof.Machine.execOpaDrain q s
  | .opaFormatSwitch n => Sys2Proof.Machine.execOpaFormatSwitch n s
  | .opaStepIssue n => Sys2Proof.Machine.execOpaStepIssue n s
  | .opaChecksumMiss n g setY row col dummy => Sys2Proof.Machine.execOpaChecksumMiss n g setY row col dummy s
  | .opaAccParityError n g setY row col outside => Sys2Proof.Machine.execOpaAccParityError n g setY row col outside s
  | .opaReplayAttempt n => Sys2Proof.Machine.execOpaReplayAttempt n s
  | .groupFinal n => Sys2Proof.Machine.execGroupFinal n s
  | .heldSetDrain n => Sys2Proof.Machine.execHeldSetDrain n s
  | .drainCubeRow n => Sys2Proof.Machine.execDrainCubeRow n s
  | .opaKeepFinish n => Sys2Proof.Machine.execOpaKeepFinish n s
  | .opaDrainFinish n => Sys2Proof.Machine.execOpaDrainFinish n s
  | .cgLeaveBand g => Sys2Proof.Machine.execCgLeaveBand g s
  | .gapWindowExpire n => Sys2Proof.Machine.execGapWindowExpire n s
  | .lambdaDecay n => Sys2Proof.Machine.execLambdaDecay n s
  | .lambdaRamp n => Sys2Proof.Machine.execLambdaRamp n s
  | .dummyStepIssue n => Sys2Proof.Machine.execDummyStepIssue n s
  | .veAdd q => Sys2Proof.Machine.execVeAdd q s
  | .veSub q => Sys2Proof.Machine.execVeSub q s
  | .veMul q => Sys2Proof.Machine.execVeMul q s
  | .veDiv q => Sys2Proof.Machine.execVeDiv q s
  | .veFma q => Sys2Proof.Machine.execVeFma q s
  | .veSqrt q => Sys2Proof.Machine.execVeSqrt q s
  | .veRem q => Sys2Proof.Machine.execVeRem q s
  | .veScaleb q => Sys2Proof.Machine.execVeScaleb q s
  | .veLogb q => Sys2Proof.Machine.execVeLogb q s
  | .veRint q => Sys2Proof.Machine.execVeRint q s
  | .veNext q => Sys2Proof.Machine.execVeNext q s
  | .veSign q => Sys2Proof.Machine.execVeSign q s
  | .veCvt q => Sys2Proof.Machine.execVeCvt q s
  | .veCmp q => Sys2Proof.Machine.execVeCmp q s
  | .veClass q => Sys2Proof.Machine.execVeClass q s
  | .veTotord q => Sys2Proof.Machine.execVeTotord q s
  | .veTostr q => Sys2Proof.Machine.execVeTostr q s
  | .veFromstr q => Sys2Proof.Machine.execVeFromstr q s
  | .veMinmax q => Sys2Proof.Machine.execVeMinmax q s
  | .veAct q => Sys2Proof.Machine.execVeAct q s
  | .veExp2 q => Sys2Proof.Machine.execVeExp2 q s
  | .veLog2 q => Sys2Proof.Machine.execVeLog2 q s
  | .veRsum q => Sys2Proof.Machine.execVeRsum q s
  | .veRmax q => Sys2Proof.Machine.execVeRmax q s
  | .veRstat q => Sys2Proof.Machine.execVeRstat q s
  | .vePsum q => Sys2Proof.Machine.execVePsum q s
  | .veWsum q => Sys2Proof.Machine.execVeWsum q s
  | .vePrune q => Sys2Proof.Machine.execVePrune q s
  | .veMaskz q => Sys2Proof.Machine.execVeMaskz q s
  | .veCrc q => Sys2Proof.Machine.execVeCrc q s
  | .veCrcchk q => Sys2Proof.Machine.execVeCrcchk q s
  | .vePq q => Sys2Proof.Machine.execVePq q s
  | .vePqrec q => Sys2Proof.Machine.execVePqrec q s
  | .veFinish q => Sys2Proof.Machine.execVeFinish q s
  | .veParityReplay q slice elem => Sys2Proof.Machine.execVeParityReplay q slice elem s
  | .veSliceLeave slice => Sys2Proof.Machine.execVeSliceLeave slice s
  | .moveCopy q => Sys2Proof.Machine.execMoveCopy q s
  | .moveBytes q => Sys2Proof.Machine.execMoveBytes q s
  | .moveFill q => Sys2Proof.Machine.execMoveFill q s
  | .moveFinish q => Sys2Proof.Machine.execMoveFinish q s
  | .rmePut q => Sys2Proof.Machine.execRmePut q s
  | .rmeGet q => Sys2Proof.Machine.execRmeGet q s
  | .rmePutFlag q => Sys2Proof.Machine.execRmePutFlag q s
  | .rmeFlagAdd q => Sys2Proof.Machine.execRmeFlagAdd q s
  | .rmeFlagSet q => Sys2Proof.Machine.execRmeFlagSet q s
  | .rmeAadd q => Sys2Proof.Machine.execRmeAadd q s
  | .rmeFadd q => Sys2Proof.Machine.execRmeFadd q s
  | .rmeCas q => Sys2Proof.Machine.execRmeCas q s
  | .rmeTimeout q => Sys2Proof.Machine.execRmeTimeout q s
  | .remoteSignalTimeout txid => Sys2Proof.Machine.execRemoteSignalTimeout txid s
  | .ccmPost q => Sys2Proof.Machine.execCcmPost q s
  | .mailboxDone who m v => Sys2Proof.Machine.execMailboxDone who m v s
  | .packetAck txid => Sys2Proof.Machine.execPacketAck txid s
  | .packetData txid data => Sys2Proof.Machine.execPacketData txid data s
  | .packetRefuse txid reason => Sys2Proof.Machine.execPacketRefuse txid reason s
  | .inboundPut p => Sys2Proof.Machine.execInboundPut p s
  | .inboundGet p => Sys2Proof.Machine.execInboundGet p s
  | .inboundFlagAdd p => Sys2Proof.Machine.execInboundFlagAdd p s
  | .inboundFlagSet p => Sys2Proof.Machine.execInboundFlagSet p s
  | .inboundAadd p => Sys2Proof.Machine.execInboundAadd p s
  | .inboundFadd p => Sys2Proof.Machine.execInboundFadd p s
  | .inboundCas p => Sys2Proof.Machine.execInboundCas p s
  | .remoteCredit => Sys2Proof.Machine.execRemoteCredit s
  | .memoryCredit n => Sys2Proof.Machine.execMemoryCredit n s
  | .memoryReadResponse n tag stat => Sys2Proof.Machine.execMemoryReadResponse n tag stat s
  | .memoryWriteAck n tag err => Sys2Proof.Machine.execMemoryWriteAck n tag err s
  | .memoryRequestTimeout n tag => Sys2Proof.Machine.execMemoryRequestTimeout n tag s
  | .mempCfgWrite src v => Sys2Proof.Machine.execMempCfgWrite src v s
  | .scrubRead word found => Sys2Proof.Machine.execScrubRead word found s
  | .spareCopyComplete spare => Sys2Proof.Machine.execSpareCopyComplete spare s
  | .pageWalk root va access => Sys2Proof.Machine.execPageWalk root va access s
  | .xlatCtxbaseWrite src v => Sys2Proof.Machine.execXlatCtxbaseWrite src v s
  | .xlatInvAddress src ctx va => Sys2Proof.Machine.execXlatInvAddress src ctx va s
  | .xlatInvAddressWalker src ctx va => Sys2Proof.Machine.execXlatInvAddressWalker src ctx va s
  | .xlatInvContext src ctx => Sys2Proof.Machine.execXlatInvContext src ctx s
  | .xlatInvBlock src => Sys2Proof.Machine.execXlatInvBlock src s
  | .xlatInvComplete => Sys2Proof.Machine.execXlatInvComplete s
  | .preloadStart src v => Sys2Proof.Machine.execPreloadStart src v s
  | .preloadComplete => Sys2Proof.Machine.execPreloadComplete s
  | .wayPowerDown src way => Sys2Proof.Machine.execWayPowerDown src way s
  | .wayCleanComplete way => Sys2Proof.Machine.execWayCleanComplete way s
  | .wayPowerUp src way => Sys2Proof.Machine.execWayPowerUp src way s
  | .wayPowerUpReady way => Sys2Proof.Machine.execWayPowerUpReady way s
  | .faultRecordWrite => Sys2Proof.Machine.execFaultRecordWrite s
  | .faultAckWrite src v => Sys2Proof.Machine.execFaultAckWrite src v s
  | .parityScan off mismatch => Sys2Proof.Machine.execParityScan off mismatch s
  | .mboxResponseReady => Sys2Proof.Machine.execMboxResponseReady s
  | .odRead p payload => Sys2Proof.Machine.execOdRead p payload s
  | .odWrite p payload => Sys2Proof.Machine.execOdWrite p payload s
  | .odAwrite p payload => Sys2Proof.Machine.execOdAwrite p payload s
  | .serviceEnter p au => Sys2Proof.Machine.execServiceEnter p au s
  | .serviceEnd p au => Sys2Proof.Machine.execServiceEnd p au s
  | .regValueRead p => Sys2Proof.Machine.execRegValueRead p s
  | .regValueWrite p v => Sys2Proof.Machine.execRegValueWrite p v s
  | .nodeAddrWrite p v => Sys2Proof.Machine.execNodeAddrWrite p v s
  | .unitServiceEnter p au unit => Sys2Proof.Machine.execUnitServiceEnter p au unit s
  | .unitServiceLeave p au unit => Sys2Proof.Machine.execUnitServiceLeave p au unit s
  | .unitRetire p au unit => Sys2Proof.Machine.execUnitRetire p au unit s
  | .unitServiceEntry unit => Sys2Proof.Machine.execUnitServiceEntry unit s
  | .unitTestComplete unit pass detail => Sys2Proof.Machine.execUnitTestComplete unit pass detail s
  | .imgBlock p data => Sys2Proof.Machine.execImgBlock p data s
  | .imgCommit p au data => Sys2Proof.Machine.execImgCommit p au data s
  | .keyWrite p au slot data => Sys2Proof.Machine.execKeyWrite p au slot data s
  | .spareMapWrite p au data => Sys2Proof.Machine.execSpareMapWrite p au data s
  | .testmodeWrite p au v => Sys2Proof.Machine.execTestmodeWrite p au v s
  | .creset src seq => Sys2Proof.Machine.execCreset src seq s
  | .enum src seq crc pos => Sys2Proof.Machine.execEnum src seq crc pos s
  | .assign src seq crc pos addr => Sys2Proof.Machine.execAssign src seq crc pos addr s
  | .sensorSample x => Sys2Proof.Machine.execSensorSample x s
  | .marginReplan x => Sys2Proof.Machine.execMarginReplan x s
  | .voltageStep => Sys2Proof.Machine.execVoltageStep s
  | .vackInput v => Sys2Proof.Machine.execVackInput v s
  | .vackTimeout => Sys2Proof.Machine.execVackTimeout s
  | .aclkPipelineEmpty => Sys2Proof.Machine.execAclkPipelineEmpty s
  | .aclkCurChange code => Sys2Proof.Machine.execAclkCurChange code s
  | .aclkResume => Sys2Proof.Machine.execAclkResume s
  | .aclkSwitchLate => Sys2Proof.Machine.execAclkSwitchLate s
  | .hwComparatorTrip thermal site value => Sys2Proof.Machine.execHwComparatorTrip thermal site value s
  | .recoveryTimer => Sys2Proof.Machine.execRecoveryTimer s
  | .snowdropRestart => Sys2Proof.Machine.execSnowdropRestart s
  | .tapReset => Sys2Proof.Machine.execTapReset s
  | .idcode => Sys2Proof.Machine.execIdcode s
  | .ijtag => Sys2Proof.Machine.execIjtag s
  | .bypass => Sys2Proof.Machine.execBypass s
  | .schedulerSelect c => Sys2Proof.Machine.execSchedulerSelect c s
  | .taskSwitch c => Sys2Proof.Machine.execTaskSwitch c s
  | .transferUnit c err => Sys2Proof.Machine.execTransferUnit c err s
  | .taskEntryWrite who w v => Sys2Proof.Machine.execTaskEntryWrite who w v s
  | .wake who task => Sys2Proof.Machine.execWake who task s
  | .armBinding c a => Sys2Proof.Machine.execArmBinding c a s
  | .readCause c d => Sys2Proof.Machine.execReadCause c d s
  | .taskResume who task => Sys2Proof.Machine.execTaskResume who task s
  | .taskKill who task => Sys2Proof.Machine.execTaskKill who task s
  | .transferRetry who task => Sys2Proof.Machine.execTransferRetry who task s
  | .clearPend who task => Sys2Proof.Machine.execClearPend who task s
  | .storeBufferDrain c => Sys2Proof.Machine.execStoreBufferDrain c s
  | .add c d a b res => Sys2Proof.Machine.execAdd c d a b res s
  | .sub c d a b res => Sys2Proof.Machine.execSub c d a b res s
  | .and c d a b => Sys2Proof.Machine.execAnd c d a b s
  | .or c d a b => Sys2Proof.Machine.execOr c d a b s
  | .xor c d a b => Sys2Proof.Machine.execXor c d a b s
  | .shl c d a b => Sys2Proof.Machine.execShl c d a b s
  | .shr c d a b => Sys2Proof.Machine.execShr c d a b s
  | .shra c d a b => Sys2Proof.Machine.execShra c d a b s
  | .stl c d a b => Sys2Proof.Machine.execStl c d a b s
  | .stlu c d a b => Sys2Proof.Machine.execStlu c d a b s
  | .mul c d a b res => Sys2Proof.Machine.execMul c d a b res s
  | .mhi c d a b res => Sys2Proof.Machine.execMhi c d a b res s
  | .mhiu c d a b res => Sys2Proof.Machine.execMhiu c d a b res s
  | .div c d a b res => Sys2Proof.Machine.execDiv c d a b res s
  | .divu c d a b res => Sys2Proof.Machine.execDivu c d a b res s
  | .rem c d a b res => Sys2Proof.Machine.execRem c d a b res s
  | .remu c d a b res => Sys2Proof.Machine.execRemu c d a b res s
  | .addf c d a b res => Sys2Proof.Machine.execAddf c d a b res s
  | .subf c d a b res => Sys2Proof.Machine.execSubf c d a b res s
  | .andf c d a b => Sys2Proof.Machine.execAndf c d a b s
  | .clz c d a => Sys2Proof.Machine.execClz c d a s
  | .ctz c d a => Sys2Proof.Machine.execCtz c d a s
  | .popc c d a => Sys2Proof.Machine.execPopc c d a s
  | .min c d a b => Sys2Proof.Machine.execMin c d a b s
  | .max c d a b => Sys2Proof.Machine.execMax c d a b s
  | .minu c d a b => Sys2Proof.Machine.execMinu c d a b s
  | .maxu c d a b => Sys2Proof.Machine.execMaxu c d a b s
  | .sxb c d a => Sys2Proof.Machine.execSxb c d a s
  | .sxh c d a => Sys2Proof.Machine.execSxh c d a s
  | .sxw c d a => Sys2Proof.Machine.execSxw c d a s
  | .zxw c d a => Sys2Proof.Machine.execZxw c d a s
  | .pick c cond d a b => Sys2Proof.Machine.execPick c cond d a b s
  | .addi c d a imm res => Sys2Proof.Machine.execAddi c d a imm res s
  | .andi c d a imm => Sys2Proof.Machine.execAndi c d a imm s
  | .ori c d a imm => Sys2Proof.Machine.execOri c d a imm s
  | .xori c d a imm => Sys2Proof.Machine.execXori c d a imm s
  | .shli c d a imm => Sys2Proof.Machine.execShli c d a imm s
  | .shri c d a imm => Sys2Proof.Machine.execShri c d a imm s
  | .shrai c d a imm => Sys2Proof.Machine.execShrai c d a imm s
  | .stli c d a imm => Sys2Proof.Machine.execStli c d a imm s
  | .stlui c d a imm => Sys2Proof.Machine.execStlui c d a imm s
  | .cmpi c a imm => Sys2Proof.Machine.execCmpi c a imm s
  | .imz c d hw imm => Sys2Proof.Machine.execImz c d hw imm s
  | .imi c d hw imm => Sys2Proof.Machine.execImi c d hw imm s
  | .ld1s c d a imm => Sys2Proof.Machine.execLd1s c d a imm s
  | .ld1z c d a imm => Sys2Proof.Machine.execLd1z c d a imm s
  | .ld2s c d a imm => Sys2Proof.Machine.execLd2s c d a imm s
  | .ld2z c d a imm => Sys2Proof.Machine.execLd2z c d a imm s
  | .ld4s c d a imm => Sys2Proof.Machine.execLd4s c d a imm s
  | .ld4z c d a imm => Sys2Proof.Machine.execLd4z c d a imm s
  | .ld8 c d a imm => Sys2Proof.Machine.execLd8 c d a imm s
  | .st1 c d a imm => Sys2Proof.Machine.execSt1 c d a imm s
  | .st2 c d a imm => Sys2Proof.Machine.execSt2 c d a imm s
  | .st4 c d a imm => Sys2Proof.Machine.execSt4 c d a imm s
  | .st8 c d a imm => Sys2Proof.Machine.execSt8 c d a imm s
  | .aadd c wide d a b => Sys2Proof.Machine.execAadd c wide d a b s
  | .aswap c wide d a b => Sys2Proof.Machine.execAswap c wide d a b s
  | .acas c wide d a b => Sys2Proof.Machine.execAcas c wide d a b s
  | .aand c wide d a b => Sys2Proof.Machine.execAand c wide d a b s
  | .aor c wide d a b => Sys2Proof.Machine.execAor c wide d a b s
  | .amax c wide d a b => Sys2Proof.Machine.execAmax c wide d a b s
  | .amin c wide d a b => Sys2Proof.Machine.execAmin c wide d a b s
  | .breq c a b off => Sys2Proof.Machine.execBreq c a b off s
  | .brne c a b off => Sys2Proof.Machine.execBrne c a b off s
  | .brlt c a b off => Sys2Proof.Machine.execBrlt c a b off s
  | .brle c a b off => Sys2Proof.Machine.execBrle c a b off s
  | .brltu c a b off => Sys2Proof.Machine.execBrltu c a b off s
  | .brleu c a b off => Sys2Proof.Machine.execBrleu c a b off s
  | .brc c cond off => Sys2Proof.Machine.execBrc c cond off s
  | .go c off => Sys2Proof.Machine.execGo c off s
  | .call c off => Sys2Proof.Machine.execCall c off s
  | .gor c d a imm => Sys2Proof.Machine.execGor c d a imm s
  | .fadd c dbl d a b res => Sys2Proof.Machine.execFadd c dbl d a b res s
  | .fsub c dbl d a b res => Sys2Proof.Machine.execFsub c dbl d a b res s
  | .fmul c dbl d a b res => Sys2Proof.Machine.execFmul c dbl d a b res s
  | .fdiv c dbl d a b res => Sys2Proof.Machine.execFdiv c dbl d a b res s
  | .fsqrt c dbl d a res => Sys2Proof.Machine.execFsqrt c dbl d a res s
  | .fmin c dbl d a b => Sys2Proof.Machine.execFmin c dbl d a b s
  | .fmax c dbl d a b => Sys2Proof.Machine.execFmax c dbl d a b s
  | .fcmp c dbl d a b => Sys2Proof.Machine.execFcmp c dbl d a b s
  | .fcvt c dbl d a => Sys2Proof.Machine.execFcvt c dbl d a s
  | .ftoi c dbl d a => Sys2Proof.Machine.execFtoi c dbl d a s
  | .itof c dbl d a => Sys2Proof.Machine.execItof c dbl d a s
  | .fneg c dbl d a => Sys2Proof.Machine.execFneg c dbl d a s
  | .fabs c dbl d a => Sys2Proof.Machine.execFabs c dbl d a s
  | .fma c dbl d a b res => Sys2Proof.Machine.execFma c dbl d a b res s
  | .crr c d cr => Sys2Proof.Machine.execCrr c d cr s
  | .crw c a cr => Sys2Proof.Machine.execCrw c a cr s
  | .csync c => Sys2Proof.Machine.execCsync c s
  | .fence c => Sys2Proof.Machine.execFence c s
  | .brd c d cr => Sys2Proof.Machine.execBrd c d cr s
  | .bwr c a cr => Sys2Proof.Machine.execBwr c a cr s
  | .tend c => Sys2Proof.Machine.execTend c s
  | .twait c => Sys2Proof.Machine.execTwait c s
  | .trap c code => Sys2Proof.Machine.execTrap c code s
  | .tlbiAddress c a => Sys2Proof.Machine.execTlbiAddress c a s
  | .tlbiAddressWalker c a => Sys2Proof.Machine.execTlbiAddressWalker c a s
  | .tlbiContext c a => Sys2Proof.Machine.execTlbiContext c a s
  | .tlbiBlock c a => Sys2Proof.Machine.execTlbiBlock c a s
  | .zline c a => Sys2Proof.Machine.execZline c a s
  | .tzero c td rows rb fmt => Sys2Proof.Machine.execTzero c td rows rb fmt s
  | .tld c td ga gb conv rows rb fmt => Sys2Proof.Machine.execTld c td ga gb conv rows rb fmt s
  | .tst c ts ga gb x rows rb fmt => Sys2Proof.Machine.execTst c ts ga gb x rows rb fmt s
  | .tmov c td ts x rows rb fmt => Sys2Proof.Machine.execTmov c td ts x rows rb fmt s
  | .tcvt c td ts ga rows rb fmt fmt2 => Sys2Proof.Machine.execTcvt c td ts ga rows rb fmt fmt2 s
  | .tmm c td ts tt z int rows rb fmt fmt2 nm1 res => Sys2Proof.Machine.execTmm c td ts tt z int rows rb fmt fmt2 nm1 res s
  | .trdg c ts ga gb => Sys2Proof.Machine.execTrdg c ts ga gb s
  | .twrg c td ga gb rows rb fmt => Sys2Proof.Machine.execTwrg c td ga gb rows rb fmt s
  | .trel c td => Sys2Proof.Machine.execTrel c td s
  | .ttag c ts ga => Sys2Proof.Machine.execTtag c ts ga s
  | .tfstat c ga => Sys2Proof.Machine.execTfstat c ga s
  | .tileRow c => Sys2Proof.Machine.execTileRow c s
  | .tileFileRestore c => Sys2Proof.Machine.execTileFileRestore c s
  | .snowdropFirmwareUp => Sys2Proof.Machine.execSnowdropFirmwareUp s
  | .chainInputLost => Sys2Proof.Machine.execChainInputLost s
  | .chainInputRegained => Sys2Proof.Machine.execChainInputRegained s
  | .chainFrameDiscarded bytes => Sys2Proof.Machine.execChainFrameDiscarded bytes s
  | .inboundPacketDiscarded bad => Sys2Proof.Machine.execInboundPacketDiscarded bad s
  | .undefinedEncoding c word0 word1 => Sys2Proof.Machine.execUndefinedEncoding c word0 word1 s
  | .instructionFetchFault c second => Sys2Proof.Machine.execInstructionFetchFault c second s

end Sys2Proof.Machine
end

