-- ==== Sys2Proof/Safety/Block.lean ====
section
/-! DEFINITION. Vocabulary of the statements about the block as a whole: how a command ends, resets, BOOT, beats, edges and
register writes. -/

namespace Sys2Proof.Rule

open Machine

/-- The state that a command finds in its turn: the f-cycle has come to its place (log 1), and of the answers of the
memory ports it has its own (log 9). -/
def finds (i : Instr) (s : State) : State :=
  match requester i with
  | some k => portView k (arrive (placeOf i) s)
  | none => arrive (placeOf i) s

/-- What it leaves when it has come to t: the answers of its reads are used up. -/
def leaves (i : Instr) (s t : State) : State :=
  match requester i with
  | some k => portDone k (arrive (placeOf i) s) t
  | none => t

/-- Where the command finds s, the memory ports have answered every read that it makes of them (15:R425, R426; log 9). A
command without a requester of its own waits for none. -/
def Answered (i : Instr) (s : State) : Prop := requester i = none ∨ ∀ t, effect i s = .next t → t.memp.asks = []

/-- The command, where it finds s, its reads answered, and no reset keeps it from its effect, comes to t. -/
def Comes (i : Instr) (s t : State) : Prop :=
  Answered i s → ∀ s₀, (livesIn i).now s₀ = true → finds i s₀ = s → exec i s₀ = .next (leaves i s₀ t)

/-- The same, with t settled: the bindings that its changes make fire have fired (11:R317). -/
def Gives (i : Instr) (s t : State) : Prop := Comes i s (settle s t)

/-- The command stops where it finds s. -/
def Stops (i : Instr) (s : State) (f : Fault) : Prop :=
  ∀ s₀, (livesIn i).now s₀ = true → finds i s₀ = s → exec i s₀ = .fault f

/-- The command ends in some state, settled, with a property. -/
def Ends (i : Instr) (s : State) (P : State → Prop) : Prop := ∃ t, Gives i s t ∧ P t

/-- The state in which a write has come after the starts of its f-cycle (00:R19, 02:R62, 06:R178; log 1). -/
def late (s : State) : State := { s with ctl := { s.ctl with place := max s.ctl.place 17 } }

/-- No write is under way: no descriptor in flight holds one, no cache line is dirty, and no memory port holds one. -/
structure NoWrites (s : State) : Prop where
  queues : ∀ q : Fin 32, (s.dq[q]).inflight = []
  cache  : ∀ l ∈ s.bc.lines, l.dirty = false
  ports  : ∀ r ∈ s.memp.out ++ s.memp.waiting, r.write = false

/-- Every flag of BOUNDARY that stands in t stood in s, or its condition holds (15:R420). -/
def BoundaryOnly (s t : State) (cond : Nat → Prop) : Prop :=
  t = { s with bnd := { s.bnd with flags := t.bnd.flags } } ∧
  ∀ i, i < 14 → (t.bnd.flags.getLsbD i = true ↔ s.bnd.flags.getLsbD i = true ∨ cond i)

/-- The transitions that a request brings about at an edge (01:R25). -/
def transition (st : BlockState) (code : Nat) : Option BlockState :=
  match st, code with
  | .config, 2 => some .run
  | .run, 3 => some .hold
  | .hold, 2 => some .run
  | .hold, 1 => some .config
  | _, _ => none

/-- The host or a core that runs writes a register; the host does outside BOOT (15:R430, 01:R27). -/
def Writer (s : State) (src : Src) : Prop :=
  match src with
  | .host => s.ctl.state ≠ .boot
  | .core c => coreRuns s c.val = true
  | .snowdrop => False

/-- No register holds a configuration parity mismatch (13:R388). -/
def NoMismatch (s : State) : Prop := s.gen.parity = [] ∧ s.gen.parityRec = [] ∧ s.gen.latent = []

/-- The block in power-on reset, with no write under way before: every register at its reset value, external memory kept and
stage memory lost (15:R422, R423), a retired way still retired (14:R405, log 43); the f-cycle counter, the counter of free values and the queue of commands are the model's own. -/
def inPowerOnReset (s : State) (pgood : BitVec 4) : State :=
  { State.reset with
    pending := s.pending,
    ctl := { Ctl.reset with por := true, pgood := pgood, phase := .none, fcycles := s.ctl.fcycles, free := s.ctl.free },
    mem := s.mem.filter fun c => region s c.1 != .stage,
    svc := { Svc.reset with retWay := s.svc.retWay },
    bnd := { Bnd.reset with aclkCur := s.bnd.aclkCur, vack := s.bnd.vack, chainIn := s.bnd.chainIn } }

/-- The block in warm reset, with no write under way before: what 13:R450 and 13:R452 keep is kept, the rest is at its
reset value. -/
def inWarmReset (s : State) : State :=
  { State.reset with
    pending := s.pending,
    ctl := { Ctl.reset with
      wres := true, pgood := s.ctl.pgood, phase := .none, warmBoot := true, b3Done := s.ctl.b3Done,
      lostAtReset := s.flt.detected.length, fcycles := s.ctl.fcycles, free := s.ctl.free },
    flt := { s.flt with detected := [], evRec := false, evFatal := false },
    beat := { s.beat with status := .reset, misses := 0 },
    rme := { Rme.reset with
      flagin := s.rme.flagin, self := s.rme.self, tmo := s.rme.tmo, inb := s.rme.inb, win := s.rme.win },
    sm := { s.sm with ceLast := 0, ceCount := 0, ueLast := 0, ueCount := 0, ceWindow := [] },
    mem := s.mem,
    svc := { Svc.reset with
      bank := s.svc.bank, retWay := s.svc.retWay, trans := s.svc.trans.filter fun t => uClass t.1 == 6,
      tested := s.svc.tested.filter fun t => uClass t.1 == 6,
      auto := s.svc.auto, cgLimit := s.svc.cgLimit, cgWindow := s.svc.cgWindow, veLimit := s.svc.veLimit,
      smLimit := s.svc.smLimit },
    mg := { Mg.reset with
      nodeAddr := s.mg.nodeAddr, chainPos := s.mg.chainPos, img := s.mg.img, imgLen := s.mg.imgLen,
      imgDigest := s.mg.imgDigest, imgState := s.mg.imgState, imgVersion := s.mg.imgVersion, keys := s.mg.keys,
      counters := s.mg.counters, exhausted := s.mg.exhausted, nonce := s.mg.nonce, chainOut := s.mg.chainOut,
      avail := s.mg.avail, unavail := s.mg.unavail, excluded := s.mg.excluded, window := s.mg.window,
      recovery := s.mg.recovery },
    sens := { Sens.reset with
      replan := s.sens.replan, sample := s.sens.sample, replanOn := s.sens.replanOn, sampleOn := s.sens.sampleOn,
      vlimit := s.sens.vlimit, plan := s.bnd.aclkSel,
      target := s.sens.target, hold := if s.bnd.aclkCur = s.bnd.aclkSel then .none else .waiting },
    bnd := { Bnd.reset with
      aclkSel := s.bnd.aclkSel, aclkCur := s.bnd.aclkCur, vreq := s.bnd.vreq, vack := s.bnd.vack,
      mgAlive := s.bnd.mgAlive, mgRisen := s.bnd.mgRisen, chainIn := s.bnd.chainIn, flags := s.bnd.flags },
    tap := s.tap }

/-- Bit i of a vector of bits put to a value. -/
def withBit {n : Nat} (v : BitVec n) (i : Nat) (b : Bool) : BitVec n :=
  if b then v ||| (1#n <<< i) else v &&& ~~~(1#n <<< i)

/-- No descriptor uses an activation table or a profile. -/
def NoUses (s : State) : Prop :=
  (∀ n : Fin 16, (s.opa.inst[n]).jobs = []) ∧ ∀ q : Fin 32, ∀ f ∈ (s.dq[q]).inflight, f.actTab = none

/-- An APPLY edge, the first of its f-cycle, without a configuration parity mismatch and with no profile or table in use
(01:R25, 13:R386). -/
structure EdgeTaken (s t : State) : Prop where
  counted  : t.gen.applies = s.gen.applies + 1
  applied  : t.gen.status.status.getLsbD 0 = true
  one      : t.gen.edged = true
  consumed : t.gen.reqStaged = 0
  state    : t.ctl.state = match transition s.ctl.state s.gen.reqStaged.toNat with
    | some x => if s.gen.reqStaged = 1 ∧ quiet s = false then s.ctl.state else x
    | none => s.ctl.state
  fill     : t.opa.fill = s.opa.fillStaged
  profiles : t.opa.dprof = s.opa.dprofStaged
  tables   : t.opa.act = s.opa.actStaged
  others   : t = { s with
    ctl := { s.ctl with state := t.ctl.state },
    gen := { s.gen with
      reqStaged := 0, reqActive := t.gen.reqActive, reqResult := t.gen.reqResult, status := t.gen.status,
      applies := t.gen.applies, armed := t.gen.armed, edged := true },
    opa := { s.opa with
      pmode := t.opa.pmode, fill := t.opa.fill, bandmap := t.opa.bandmap, leaving := t.opa.leaving, mstatus := t.opa.mstatus,
      dstatus := t.opa.dstatus, dprof := t.opa.dprof, act := t.opa.act },
    flt := { s.flt with detected := t.flt.detected } }

/-- From s an f-cycle has ended and the next one begun, and nothing waits to begin with it (log 1; 06:R181, R182; 09:R281;
15:R424, R432, R434). -/
structure CycleEnded (s t : State) : Prop where
  ctl    : t.ctl = { s.ctl with fcycles := s.ctl.fcycles + 1, place := 0 }
  gen    : t.gen = { s.gen with now := false, edged := false }
  flags  : (∀ f : Fin 4096, t.flags.base[f] = flagVal s f.val) ∧ t.flags.next = [] ∧
    t.flags.upds = match s.ctl.state with | .config | .run | .hold => s.flags.next | _ => []
  cores  : ∀ c : Fin 8, t.cores[c] = { s.cores[c] with cycle := (s.cores[c]).cycle + 1 }
  dq     : ∀ q : Fin 32, t.dq[q] = { s.dq[q] with evNotify := false, evHalt := false }
  falls  : t.flt = { s.flt with evRec := false } ∧ t.mbox = { s.mbox with evMbox := false } ∧
    t.beat = { s.beat with loaded := false } ∧ t.arb = { s.arb with taken := [] } ∧
    t.bnd = { s.bnd with vreqStb := false, hostOut := [], hwCred := 0 } ∧
    t.rme = { s.rme with tx := [], rxCred := 0 } ∧ t.mg = { s.mg with chainOut := [] }
  others : t = { s with
    ctl := t.ctl, gen := t.gen, flags := t.flags, cores := t.cores, dq := t.dq, flt := t.flt, mbox := t.mbox,
    beat := t.beat, arb := t.arb, bnd := t.bnd, rme := t.rme, mg := t.mg }

/-- The state with queue q as given. -/
def withQ (s : State) (q : Fin 32) (d : Queue) : State := { s with dq := s.dq.set q.val d }

/-- The offset of a register of queue q. -/
def dqReg (q : Fin 32) (r : Nat) : BitVec 26 := BitVec.ofNat 26 (0x100000 + q.val * 0x1000 + r)

/-- The register of queue q with an event bit set, SEQ rising once in an f-cycle (00:R17). -/
def dqWithEvent (s : State) (q : Fin 32) (i : Nat) : State :=
  withQ s q { s.dq[q] with status := (s.dq[q]).status.event s.ctl.fcycles (BitVec.ofNat 48 (2 ^ i)) }

/-- An SQC register outside the control cores (00:R17): its offset, the register, and the state with another value in it. -/
inductive SqcAt : BitVec 26 → (State → Sqc) → (State → Sqc → State) → Prop where
  | gen : SqcAt 0x30 (fun s => s.gen.status) fun s r => { s with gen := { s.gen with status := r } }
  | dq (q : Fin 32) : SqcAt (dqReg q 0x30) (fun s => (s.dq[q]).status) fun s r => withQ s q { s.dq[q] with status := r }
  | opaM : SqcAt 0x300020 (fun s => s.opa.mstatus) fun s r => { s with opa := { s.opa with mstatus := r } }
  | opaD : SqcAt 0x300028 (fun s => s.opa.dstatus) fun s r => { s with opa := { s.opa with dstatus := r } }
  | rme : SqcAt 0x580008 (fun s => s.rme.status) fun s r => { s with rme := { s.rme with status := r } }
  | xlat : SqcAt 0x700010 (fun s => s.xlat.status) fun s r => { s with xlat := { s.xlat with status := r } }
  | bc : SqcAt 0x800020 (fun s => s.bc.status) fun s r => { s with bc := { s.bc with status := r } }
  | memp : SqcAt 0x900008 (fun s => s.memp.status) fun s r => { s with memp := { s.memp with status := r } }
  | beat : SqcAt 0xA00008 (fun s => s.beat.status) fun s r => { s with beat := { s.beat with status := r } }
  | fault : SqcAt 0xB00020 (fun s => s.flt.status) fun s r => { s with flt := { s.flt with status := r } }
  | mbox : SqcAt 0xC00008 (fun s => s.mbox.status) fun s r => { s with mbox := { s.mbox with status := r } }

/-- The distance from b to a, modulo 2^32. -/
def ahead (a b : BitVec 32) : Nat := (a - b).toNat

/-- The completion record of a descriptor of queue d (06:R176): TAG, EVENT, the flag byte, EXC, INFO, DETAIL, OPND, INDEX
and BEAT at their places in 32 bytes. -/
def record (d : Queue) (idx : BitVec 32) (desc : Desc) (e : Ended) (exc : BitVec 5) (skipped replayed halts : Bool)
    (beat : Word) : List Byte :=
  let phase := (idx.toNat / 2 ^ d.log2size.toNat + 1) % 2
  let bit (b : Bool) (n : Nat) : Nat := if b then n else 0
  let flags := phase + bit skipped 2 + bit (e.nonfin && e.event == 0) 4 + bit (replayed && e.event == 0) 8 + bit halts 16
  natLe (dTag desc + e.event.toNat * 2 ^ 32 + flags * 2 ^ 48 + (if skipped then 0 else exc.toNat) * 2 ^ 56 +
    e.info.toNat * 2 ^ 64 + e.detail.toNat * 2 ^ 128 + e.opnd.toNat * 2 ^ 144 + idx.toNat * 2 ^ 160 +
    beat.toNat * 2 ^ 192) 32

/-- The completion slot of an index can be written: its address translates to memory without an uncorrectable word; u is
the state after the translation. -/
structure SlotOpen (s u : State) (d : Queue) (idx : BitVec 32) (pa : Nat) (attr : BitVec 3) : Prop where
  xlat   : xlatEngine d.ctx (d.cbase.toNat + idx.toNat % 2 ^ d.log2size.toNat * 32) .engWrite s = (.ok pa attr, u)
  region : region s pa = .ext ∨ (region s pa = .stage ∧ s.sm.ueWords = [])

/-- Memory of t is that of s but for bytes put at an address. -/
def Stored (s t : State) (pa : Nat) (bs : List Byte) : Prop :=
  ∀ a, Memory.get t.mem a = if pa ≤ a ∧ a < pa + bs.length then bs.getD (a - pa) 0 else Memory.get s.mem a

/-- The flag updates that signals and update words on local flags bring, of queue q (06:R158, R182). -/
def signalUpds (q : Nat) (sgs : List Signal) (us : List FlagUpd) : List FlagUpd :=
  sgs.foldl (fun us sg =>
    if sg.op = 1 then insertUpd ⟨9 + q, sg.flag, .add sg.value⟩ us
    else if sg.op = 2 then insertUpd ⟨9 + q, sg.flag, .set sg.value⟩ us else us) us

/-- A descriptor's signal names a local flag, or it has none. -/
def LocalSignal (d : Desc) : Prop := (dSignal d).op = 0 ∨ ((dSignal d).op < 3 ∧ (dSignal d).node = 0xFFFF)

end Sys2Proof.Rule
end

