-- ==== Sys2Proof/Safety/Integer.lean ====
section
/-! DEFINITION. The rules of the integer instructions and branches of a control core (09:R256 to R264), as values that the
statements compare exec with: results by integer arithmetic, flags bit by bit. -/

namespace Sys2Proof.Rule

open Machine

/-! A task that can run an instruction. -/

/-- Core c runs task t at level k: the core is open and not halted, no part of the level's bank is being transferred
(11:R326), and no row fault of the task waits to be taken (10:R302). -/
structure OnCore (s : State) (c : Fin 8) (t : Byte) (k : Fin 8) : Prop where
  runs    : coreRuns s c.val = true
  running : (getCore s c.val).running = some t
  level   : (getTask (getCore s c.val) t).level = k
  still   : ∀ u ∈ (getCore s c.val).xq, u.level ≠ k
  noFault : (getTask (getCore s c.val) t).rowFault = none

/-- The bank of level k of core c. -/
def bank (s : State) (c k : Fin 8) : Bank := (s.cores[c]).banks[k]

/-- The same, and no parity error waits to be found (14:R390): no store has been lost, every register of the bank is good. -/
structure Ready (s : State) (c : Fin 8) (t : Byte) (k : Fin 8) : Prop extends OnCore s c t k where
  kept : (s.cores[c]).lost = none
  good : (bank s c k).bad = 0

/-- The state in which an instruction has committed: the bank of its level is b, and CTL_INSTRET has counted it. -/
def commit (s : State) (c k : Fin 8) (b : Bank) : State :=
  let x := s.cores[c]
  let y := { x with banks := x.banks.set k.val b, instret := x.instret + 1, resumed := false, wants := [] }
  { s with cores := s.cores.set c.val y }

/-- The bank with the PC at the next instruction. -/
def onward (b : Bank) : Bank := { b with pc := b.pc + 4 }

/-- The value of Gr: G0 reads 0 (09:R256). -/
def reg (b : Bank) (r : BitVec 5) : Word := if r = 0 then 0 else b.g[r.toNat]'r.isLt

/-- The bank with v in Gr: a write of G0 is discarded (09:R256); the group of another register becomes dirty (11:R313), and
its parity good. -/
def put (b : Bank) (r : BitVec 5) (v : Word) : Bank :=
  if r = 0 then b
  else { b with
    g := b.g.set r.toNat v (by omega), dirty := b.dirty ||| (1 : BitVec 4) <<< (r.toNat / 8),
    bad := b.bad &&& ~~~((1 : BitVec 32) <<< r.toNat) }

/-- A result: Gd, and the next instruction. -/
def result (b : Bank) (d : BitVec 5) (v : Word) : Bank := onward (put b d v)

/-! Results (09:R262, R263). -/

/-- A 64-bit word of an integer, modulo 2^64. -/
def ofInt (n : Int) : Word := BitVec.ofInt 64 n

/-- 1 where the relation holds, else 0. -/
def truth (p : Prop) [Decidable p] : Word := if p then 1 else 0

def low (n : Nat) : Word := BitVec.ofNat 64 n

/-- The low n bits of a word as a signed number. -/
def signedLow (n : Nat) (a : Word) : Int :=
  let u : Int := a.toNat % 2 ^ n
  if 2 * u < 2 ^ n then u else u - 2 ^ n

/-- The value of CS with S, Z, K and O as given and every other bit kept. -/
def withFlags (cs : CS) (s z k o : Bool) : CS :=
  cs.extractLsb' 4 9 ++ BitVec.ofBool s ++ BitVec.ofBool z ++ BitVec.ofBool k ++ BitVec.ofBool o

/-- The value of CS with O as given. -/
def withO (cs : CS) (o : Bool) : CS := cs.extractLsb' 1 12 ++ BitVec.ofBool o

/-- CS after ADDF: K is the carry out, O the signed overflow. -/
def afterAdd (cs : CS) (a b : Word) : CS :=
  withFlags cs (a + b).msb (a + b == 0) (decide (2 ^ 64 ≤ a.toNat + b.toNat))
    (decide ((a + b).toInt ≠ a.toInt + b.toInt))

/-- CS after SUBF and CMPI: K is 1 when a < b unsigned, O the signed overflow. -/
def afterSub (cs : CS) (a b : Word) : CS :=
  withFlags cs (a - b).msb (a - b == 0) (decide (a.toNat < b.toNat)) (decide ((a - b).toInt ≠ a.toInt - b.toInt))

/-- The quotient overflows: -2^63 by -1. -/
def divOverflow (a b : Word) : Bool := a.toInt == -2 ^ 63 && b.toInt == -1

/-- A condition code on CS (09:R264): bits [2:0] select a test, bit [3] negates it. -/
def condition (code : BitVec 4) (cs : CS) : Bool :=
  let s := cs.getLsbD 3
  let z := cs.getLsbD 2
  let k := cs.getLsbD 1
  let o := cs.getLsbD 0
  let test := match code.toNat % 8 with
    | 0 => z | 1 => s | 2 => k | 3 => o | 4 => k || z | 5 => s != o | 6 => z || s != o | _ => true
  test != code.getLsbD 3

/-- Instructions with a residue check, of two sources: P of each with the bank that it leaves (09:R263). -/
def checked3 (P : (Residue → Instr) → Bank → Prop) (c : Fin 8) (v : Bank) (d a b : BitVec 5) : Prop :=
  let x := reg v a
  let y := reg v b
  P (.add c d a b) (result v d (ofInt (x.toInt + y.toInt))) ∧
  P (.sub c d a b) (result v d (ofInt (x.toInt - y.toInt))) ∧
  P (.mul c d a b) (result v d (ofInt (x.toInt * y.toInt))) ∧
  P (.mhi c d a b) (result v d (ofInt (x.toInt * y.toInt / 2 ^ 64))) ∧
  P (.mhiu c d a b) (result v d (low (x.toNat * y.toNat / 2 ^ 64))) ∧
  P (.div c d a b) (result { v with cs := withO v.cs (y == 0 || divOverflow x y) } d
      (if y = 0 then 0 else ofInt (x.toInt.tdiv y.toInt))) ∧
  P (.divu c d a b) (result { v with cs := withO v.cs (y == 0) } d (if y = 0 then 0 else low (x.toNat / y.toNat))) ∧
  P (.rem c d a b) (result { v with cs := withO v.cs (y == 0) } d
      (if y = 0 then x else ofInt (x.toInt.tmod y.toInt))) ∧
  P (.remu c d a b) (result { v with cs := withO v.cs (y == 0) } d (if y = 0 then x else low (x.toNat % y.toNat))) ∧
  P (.addf c d a b) (result { v with cs := afterAdd v.cs x y } d (ofInt (x.toInt + y.toInt))) ∧
  P (.subf c d a b) (result { v with cs := afterSub v.cs x y } d (ofInt (x.toInt - y.toInt)))

/-- ADDI and CMPI, the checked instructions with an immediate (09:R262). -/
def checkedI (P : (Residue → Instr) → Bank → Prop) (c : Fin 8) (v : Bank) (d a : BitVec 5) (imm : BitVec 16) : Prop :=
  P (.addi c d a imm) (result v d (ofInt ((reg v a).toInt + imm.toInt))) ∧
  P (.cmpi c a ⟨imm, ·⟩) (onward { v with cs := afterSub v.cs (reg v a) (ofInt imm.toInt) })

/-- Register operations without a residue check: P of each with the bank that it leaves (09:R263). -/
def plain3 (P : Instr → Bank → Prop) (c : Fin 8) (v : Bank) (d a b : BitVec 5) : Prop :=
  let x := reg v a
  let y := reg v b
  let n := y.toNat % 64
  P (.and c d a b) (result v d (x &&& y)) ∧
  P (.or c d a b) (result v d (x ||| y)) ∧
  P (.xor c d a b) (result v d (x ^^^ y)) ∧
  P (.shl c d a b) (result v d (low (x.toNat * 2 ^ n))) ∧
  P (.shr c d a b) (result v d (low (x.toNat / 2 ^ n))) ∧
  P (.shra c d a b) (result v d (ofInt (x.toInt / 2 ^ n))) ∧
  P (.stl c d a b) (result v d (truth (x.toInt < y.toInt))) ∧
  P (.stlu c d a b) (result v d (truth (x.toNat < y.toNat))) ∧
  P (.andf c d a b) (result { v with cs := withFlags v.cs (x &&& y).msb (x &&& y == 0) false false } d (x &&& y)) ∧
  P (.min c d a b) (result v d (ofInt (Min.min x.toInt y.toInt))) ∧
  P (.max c d a b) (result v d (ofInt (Max.max x.toInt y.toInt))) ∧
  P (.minu c d a b) (result v d (low (Min.min x.toNat y.toNat))) ∧
  P (.maxu c d a b) (result v d (low (Max.max x.toNat y.toNat)))

/-- One source (09:R263). -/
def plain2 (P : Instr → Bank → Prop) (c : Fin 8) (v : Bank) (d a : BitVec 5) : Prop :=
  let x := reg v a
  P (.clz c d a) (result v d (if x = 0 then 64 else low (63 - x.toNat.log2))) ∧
  P (.ctz c d a) (result v d (if x = 0 then 64 else low ((x &&& (0 - x)).toNat.log2))) ∧
  P (.popc c d a) (result v d (low ((List.range 64).countP fun i => x.toNat.testBit i))) ∧
  P (.sxb c d a) (result v d (ofInt (signedLow 8 x))) ∧
  P (.sxh c d a) (result v d (ofInt (signedLow 16 x))) ∧
  P (.sxw c d a) (result v d (ofInt (signedLow 32 x))) ∧
  P (.zxw c d a) (result v d (low (x.toNat % 2 ^ 32)))

/-- Immediate operations (09:R262); of a shift the amount is imm[5:0]. -/
def plainI (P : Instr → Bank → Prop) (c : Fin 8) (v : Bank) (d a : BitVec 5) (imm : BitVec 16) : Prop :=
  let x := reg v a
  let n : BitVec 6 := imm.extractLsb' 0 6
  P (.andi c d a imm) (result v d (low (x.toNat &&& imm.toNat))) ∧
  P (.ori c d a imm) (result v d (low (x.toNat ||| imm.toNat))) ∧
  P (.xori c d a imm) (result v d (low (x.toNat ^^^ imm.toNat))) ∧
  P (.shli c d a n) (result v d (low (x.toNat * 2 ^ n.toNat))) ∧
  P (.shri c d a n) (result v d (low (x.toNat / 2 ^ n.toNat))) ∧
  P (.shrai c d a n) (result v d (ofInt (x.toInt / 2 ^ n.toNat))) ∧
  P (.stli c d a imm) (result v d (truth (x.toInt < imm.toInt))) ∧
  P (.stlui c d a imm) (result v d (truth (x.toNat < (ofInt imm.toInt).toNat)))

/-- IMZ and IMI of a halfword hw from 0 to 3 (09:R262). -/
def halfwords (P : Instr → Bank → Prop) (c : Fin 8) (v : Bank) (d : BitVec 5) (hw : Fin 4) (imm : BitVec 16) : Prop :=
  let r : BitVec 5 := BitVec.ofNat 5 hw.val
  let p := 2 ^ (16 * hw.val)
  let x := (reg v d).toNat
  P (.imz c d r imm) (result v d (low (imm.toNat * p))) ∧
  P (.imi c d r imm) (result v d (low (x - x / p % 2 ^ 16 * p + imm.toNat * p)))

/-! Branches and jumps (09:R260, R262, R264). -/

/-- The PC displaced by an offset in units of four bytes. -/
def jump (b : Bank) (off : Int) : Bank := { b with pc := BitVec.ofInt 48 (b.pc.toNat + 4 * off) }

/-- A branch: displaced when taken, else the next instruction. -/
def branch (b : Bank) (taken : Prop) [Decidable taken] (off : Int) : Bank := if taken then jump b off else onward b

/-- Compare and branch: P of each with the bank that it leaves. -/
def branches (P : Instr → Bank → Prop) (c : Fin 8) (v : Bank) (a b : BitVec 5) (off : BitVec 16) : Prop :=
  let x := reg v a
  let y := reg v b
  P (.breq c a b off) (branch v (x.toNat = y.toNat) off.toInt) ∧
  P (.brne c a b off) (branch v (x.toNat ≠ y.toNat) off.toInt) ∧
  P (.brlt c a b off) (branch v (x.toInt < y.toInt) off.toInt) ∧
  P (.brle c a b off) (branch v (x.toInt ≤ y.toInt) off.toInt) ∧
  P (.brltu c a b off) (branch v (x.toNat < y.toNat) off.toInt) ∧
  P (.brleu c a b off) (branch v (x.toNat ≤ y.toNat) off.toInt)

/-- The jumps without a register operand. -/
def jumps (P : Instr → Bank → Prop) (c : Fin 8) (v : Bank) (off : BitVec 26) : Prop :=
  P (.go c off) (jump v off.toInt) ∧
  P (.call c off) (jump (put v 31 ((v.pc + 4).setWidth 64)) off.toInt)

end Sys2Proof.Rule
end

