-- ==== Sys2Proof/Safety/Core.lean ====
section
/-! DEFINITION. Vocabulary of the statements about control cores: commits, precise faults, floating-point results, memory
accesses, control registers, tasks and tiles. -/

namespace Sys2Proof.Rule

open Machine

/-- The state with core c as given. -/
def withCore (s : State) (c : Fin 8) (x : Core) : State := { s with cores := s.cores.set c.val x }

/-- A core with its level's bank as given, and an instruction counted. -/
def counted (x : Core) (k : Fin 8) (b : Bank) : Core :=
  { x with banks := x.banks.set k.val b, instret := x.instret + 1, resumed := false, wants := [] }

/-- The other cores, the queues and the flags are as they were. -/
structure CoreOnly (s t : State) (c : Fin 8) : Prop where
  cores : ∀ j : Fin 8, j ≠ c → t.cores[j] = s.cores[j]
  dq    : t.dq = s.dq
  flags : t.flags = s.flags

/-- An instruction of task at level k has committed with bank b: nothing else of the banks, the tasks, the store buffer and
the tiles has changed. -/
structure Committed (s t : State) (c k : Fin 8) (b : Bank) : Prop where
  banks  : (t.cores[c]).banks = (s.cores[c]).banks.set k.val b
  count  : (t.cores[c]).instret = (s.cores[c]).instret + 1
  tasks  : (t.cores[c]).tasks = (s.cores[c]).tasks
  going  : (t.cores[c]).running = (s.cores[c]).running
  tiles  : (t.cores[c]).tiles = (s.cores[c]).tiles
  others : CoreOnly s t c

/-! Precise faults (09:R278, R279; 11:R319, R329). -/

/-- A valid task of the core is bound to the faults of level k. -/
def Bound (x : Core) (k : Fin 8) : Prop := ∃ j : Fin 256, (x.tasks[j]).st ≠ .invalid ∧ (x.tasks[j]).src = 5 ∧
  ((x.tasks[j]).sparam.toNat % 8 = k.val)

/-- The task has faulted at its instruction: nothing of its bank has changed, it is FAULTED and the core runs no task. -/
structure Suspended (s t : State) (c k : Fin 8) (task : Byte) : Prop where
  state   : ((t.cores[c]).tasks[task.toNat]).st = .faulted
  stopped : (t.cores[c]).running = none
  banks   : (t.cores[c]).banks = (s.cores[c]).banks
  count   : (t.cores[c]).instret = (s.cores[c]).instret
  memory  : t.mem = s.mem

/-- The fault of a level below 7 to which a task is bound: the record of the level, or its OVF, and the bound tasks
activated. -/
structure Faulted (s t : State) (c k : Fin 8) (task : Byte) (ev : BitVec 16) (addr : BitVec 48) (half : BitVec 2) : Prop where
  susp   : Suspended s t c k task
  record : ∀ h : k.val < 7, (t.cores[c]).frec = (s.cores[c]).frec.set k.val
    (if ((s.cores[c]).frec[k.val]).valid then { (s.cores[c]).frec[k.val] with ovf := true }
     else ⟨true, false, task, half, ev, addr, (bank s c k).pc⟩)
  fired  : ∀ j : Fin 256, j.val ≠ task.toNat → (t.cores[c]).tasks[j] =
    let x := (s.cores[c]).tasks[j]
    if x.st ≠ .invalid ∧ x.src = 5 ∧ x.sparam.toNat % 8 = k.val then causeTask 0 x else x
  halted : (t.cores[c]).halted = (s.cores[c]).halted

/-- The fault at L7, or of a level to whose faults no task is bound: the core halts, with a record. -/
structure DoubleFaulted (s t : State) (c k : Fin 8) (task : Byte) (ev : BitVec 16) : Prop where
  susp   : Suspended s t c k task
  halted : (t.cores[c]).halted = true ∧ (t.cores[c]).switchTo = none
  posts  : ∀ m : Fin 16, ((t.cores[c]).mbx[m]).valid = false
  record : ∃ r, (s.ctl.fcycles, r) ∈ t.flt.detected ∧ r.event = ccDoubleFault ∧ r.cls = clsUnit ∧
    r.source = BitVec.ofNat 16 (0x0200 + c.val) ∧ r.detail = BitVec.ofNat 16 k.val ∧ r.info0 = ev.setWidth 64 ∧
    r.info1 = (bank s c k).pc.setWidth 64

/-- The instructions with a residue check (14:R392). -/
inductive Residued (c : Fin 8) : (Residue → Instr) → Prop where
  | add (d a b : BitVec 5) : Residued c (.add c d a b)
  | sub (d a b : BitVec 5) : Residued c (.sub c d a b)
  | mul (d a b : BitVec 5) : Residued c (.mul c d a b)
  | mhi (d a b : BitVec 5) : Residued c (.mhi c d a b)
  | mhiu (d a b : BitVec 5) : Residued c (.mhiu c d a b)
  | div (d a b : BitVec 5) : Residued c (.div c d a b)
  | divu (d a b : BitVec 5) : Residued c (.divu c d a b)
  | rem (d a b : BitVec 5) : Residued c (.rem c d a b)
  | remu (d a b : BitVec 5) : Residued c (.remu c d a b)
  | addf (d a b : BitVec 5) : Residued c (.addf c d a b)
  | subf (d a b : BitVec 5) : Residued c (.subf c d a b)
  | addi (d a : BitVec 5) (imm : BitVec 16) : Residued c (.addi c d a imm)
  | cmpi (a : BitVec 5) (imm : BitVec 16) : Residued c (.cmpi c a ⟨imm, ·⟩)
  | fmin (w : Bool) (d a b : BitVec 5) : Residued c (.fmin c ⟨w, ·⟩ d a b)
  | fmax (w : Bool) (d a b : BitVec 5) : Residued c (.fmax c ⟨w, ·⟩ d a b)
  | fcmp (w : Bool) (d a b : BitVec 5) : Residued c (.fcmp c ⟨w, ·⟩ d a b)
  | fcvt (w : Bool) (d a : BitVec 5) : Residued c (.fcvt c ⟨w, ·⟩ d a)
  | ftoi (w : Bool) (d a : BitVec 5) : Residued c (.ftoi c ⟨w, ·⟩ d a)
  | itof (w : Bool) (d a : BitVec 5) : Residued c (.itof c ⟨w, ·⟩ d a)
  | fadd (w : Bool) (d a b : BitVec 5) : Residued c (.fadd c w d a b)
  | fsub (w : Bool) (d a b : BitVec 5) : Residued c (.fsub c w d a b)
  | fmul (w : Bool) (d a b : BitVec 5) : Residued c (.fmul c w d a b)
  | fdiv (w : Bool) (d a b : BitVec 5) : Residued c (.fdiv c w d a b)
  | fsqrt (w : Bool) (d a : BitVec 5) : Residued c (.fsqrt c w d a)
  | fma (w : Bool) (d a b : BitVec 5) : Residued c (.fma c w d a b)

/-- Instructions that fault on their own fields and registers, at level k with bank v: the event and the address of the
fault (09:R261, R262, R264, R266, R278, R281; 11:R332; 12:R346; 14:R392). -/
inductive FaultsWith (c k : Fin 8) (v : Bank) : Instr → BitVec 16 → BitVec 48 → Prop where
  | encoding (w0 w1 : BitVec 32) : encodingDefined w0 w1 = false → FaultsWith c k v (.undefinedEncoding c w0 w1) ccIllegal 0
  | residue (f : Residue → Instr) : Residued c f → FaultsWith c k v (f .failed) ccParity 0
  | imz (d h : BitVec 5) (imm : BitVec 16) : 4 ≤ h.toNat → FaultsWith c k v (.imz c d h imm) ccIllegal 0
  | imi (d h : BitVec 5) (imm : BitVec 16) : 4 ≤ h.toNat → FaultsWith c k v (.imi c d h imm) ccIllegal 0
  | pick (d a b : BitVec 5) : FaultsWith c k v (.pick c 0xF d a b) ccIllegal 0
  | brc (off : BitVec 22) : FaultsWith c k v (.brc c 0xF off) ccIllegal 0
  | gor (d a : BitVec 5) (imm : BitVec 16) : ((reg v a).toInt + imm.toInt) % 4 ≠ 0 →
      FaultsWith c k v (.gor c d a imm) ccIllegal (BitVec.ofInt 48 ((reg v a).toInt + imm.toInt))
  | crr (d : BitVec 5) (cr : BitVec 12) : crRules cr.toNat = none → FaultsWith c k v (.crr c d cr) ccIllegal 0
  | crw (a : BitVec 5) (cr : BitVec 12) : crRules cr.toNat = none → FaultsWith c k v (.crw c a cr) ccIllegal 0
  | crrPriv (d : BitVec 5) (cr : BitVec 12) (r w : Nat) : crRules cr.toNat = some (r, w) → r = 0 ∨ (r = 2 ∧ k.val < 6) →
      FaultsWith c k v (.crr c d cr) ccPriv 0
  | crwPriv (a : BitVec 5) (cr : BitVec 12) (r w : Nat) : crRules cr.toNat = some (r, w) → w = 0 ∨ (w = 2 ∧ k.val < 6) →
      FaultsWith c k v (.crw c a cr) ccPriv 0
  | brd (d : BitVec 5) (cr : BitVec 12) : cr.toNat = 0 ∨ 33 < cr.toNat → FaultsWith c k v (.brd c d cr) ccIllegal 0
  | bwr (a : BitVec 5) (cr : BitVec 12) : cr.toNat = 0 ∨ 33 < cr.toNat → FaultsWith c k v (.bwr c a cr) ccIllegal 0
  | brdPriv (d : BitVec 5) (cr : BitVec 12) : 1 ≤ cr.toNat → cr.toNat ≤ 33 → k.val < 6 →
      FaultsWith c k v (.brd c d cr) ccPriv 0
  | bwrPriv (a : BitVec 5) (cr : BitVec 12) : 1 ≤ cr.toNat → cr.toNat ≤ 33 → k.val < 6 →
      FaultsWith c k v (.bwr c a cr) ccPriv 0
  | tlbiAddress (a : BitVec 5) : k.val < 6 → FaultsWith c k v (.tlbiAddress c a) ccPriv 0
  | tlbiWalker (a : BitVec 5) : k.val < 6 → FaultsWith c k v (.tlbiAddressWalker c a) ccPriv 0
  | tlbiContext (a : BitVec 5) : k.val < 6 → FaultsWith c k v (.tlbiContext c a) ccPriv 0
  | tlbiBlock (a : BitVec 5) : k.val < 6 → FaultsWith c k v (.tlbiBlock c a) ccPriv 0

/-- Instructions that read general registers, with those that they read: one of each shape. -/
inductive Reads (c : Fin 8) : Instr → List (BitVec 5) → Prop where
  | logic (d a b : BitVec 5) : Reads c (.and c d a b) [a, b]
  | sum (d a : BitVec 5) (imm : BitVec 16) : Reads c (.addi c d a imm .ok) [a]
  | branch (a b : BitVec 5) (off : BitVec 16) : Reads c (.breq c a b off) [a, b]
  | load (d a : BitVec 5) (imm : BitVec 16) : Reads c (.ld8 c d a imm) [a]
  | store (d a : BitVec 5) (imm : BitVec 16) : Reads c (.st8 c d a imm) [d, a]
  | zline (a : BitVec 5) : Reads c (.zline c a) [a]
  | atomic (w : Bool) (d a b : BitVec 5) : Reads c (.acas c w d a b) [d, a, b]
  | real (w : Bool) (d a b : BitVec 5) : Reads c (.fma c w d a b .ok) [d, a, b]
  | sign (w : Bool) (d a : BitVec 5) : Reads c (.fneg c w d a) [a]
  | control (a : BitVec 5) (cr : BitVec 12) : Reads c (.crw c a cr) [a]
  | window (a : BitVec 5) (cr : BitVec 12) : Reads c (.bwr c a cr) [a]
  | jump (d a : BitVec 5) (imm : BitVec 16) : Reads c (.gor c d a imm) [a]

/-! Floating point (09:R265). -/

/-- A result of a precision: rounded under CS.RM, its flags with those of the operation ORed into CS. -/
def fpOut (v : Bank) (d : BitVec 5) (dbl : Bool) (z : XVal) (e : Exc) : Bank :=
  let r := convIeee (if dbl then flt64 else flt32) false ⟨v.cs.toNat / 16 % 4, 0, 12, false⟩ z
  result { v with cs := v.cs ||| ((r.2 ||| e).setWidth 13 <<< 8) } d (low r.1)

/-- The operand in a register: the image in [63:0], or in [31:0]. -/
def fpIn (dbl : Bool) (x : Word) : XVal := valX (if dbl then decode64 x.toNat else decode32 (x.toNat % 2 ^ 32))

/-- Floating-point instructions with a residue check: P of each with the bank that it leaves. -/
def fpChecked (P : (Residue → Instr) → Bank → Prop) (c : Fin 8) (v : Bank) (dbl : Bool) (d a b : BitVec 5) : Prop :=
  let x := fpIn dbl (reg v a)
  let y := fpIn dbl (reg v b)
  let down := v.cs.toNat / 16 % 4 == 3
  let signal : Exc := if xSig x || xSig y then 1 else 0
  P (.fadd c dbl d a b) (fpOut v d dbl (xAdd down x y) 0) ∧
  P (.fsub c dbl d a b) (fpOut v d dbl (xAdd down x (xNeg y)) 0) ∧
  P (.fmul c dbl d a b) (fpOut v d dbl (xMul x y) 0) ∧
  P (.fdiv c dbl d a b) (fpOut v d dbl (xDiv x y).1 (xDiv x y).2) ∧
  P (.fsqrt c dbl d a) (fpOut v d dbl (xSqrt x) 0) ∧
  P (.fma c dbl d a b) (fpOut v d dbl (xFma down x y (fpIn dbl (reg v d))) 0) ∧
  P (.fmin c ⟨dbl, ·⟩ d a b) (fpOut v d dbl (xMinMax false x y).1 (xMinMax false x y).2) ∧
  P (.fmax c ⟨dbl, ·⟩ d a b) (fpOut v d dbl (xMinMax true x y).1 (xMinMax true x y).2) ∧
  P (.fcmp c ⟨dbl, ·⟩ d a b) (result { v with cs := v.cs ||| (signal.setWidth 13 <<< 8) } d (low (relation x y))) ∧
  P (.fcvt c ⟨dbl, ·⟩ d a) (fpOut v d dbl (fpIn (!dbl) (reg v a)) 0) ∧
  P (.itof c ⟨dbl, ·⟩ d a) (fpOut v d dbl (.real ⟨decide ((reg v a).toInt < 0), (reg v a).toInt.natAbs, 1, 0⟩) 0)

/-- The others. -/
def fpPlain (P : Instr → Bank → Prop) (c : Fin 8) (v : Bank) (dbl : Bool) (d a : BitVec 5) : Prop :=
  let n := if dbl then 63 else 31
  let image := (reg v a).toNat % 2 ^ (n + 1)
  P (.fneg c dbl d a) (result v d (low ((image + 2 ^ n) % 2 ^ (n + 1)))) ∧
  P (.fabs c dbl d a) (result v d (low (image % 2 ^ n)))

/-! Memory accesses (09:R262, R266, R273 to R276). -/

/-- Loads: the bytes that they read, and whether they extend the sign. -/
inductive LoadCommand (c : Fin 8) (d a : BitVec 5) (imm : BitVec 16) : Nat → Bool → Instr → Prop where
  | ld1s : LoadCommand c d a imm 1 true (.ld1s c d a imm)
  | ld1z : LoadCommand c d a imm 1 false (.ld1z c d a imm)
  | ld2s : LoadCommand c d a imm 2 true (.ld2s c d a imm)
  | ld2z : LoadCommand c d a imm 2 false (.ld2z c d a imm)
  | ld4s : LoadCommand c d a imm 4 true (.ld4s c d a imm)
  | ld4z : LoadCommand c d a imm 4 false (.ld4z c d a imm)
  | ld8 : LoadCommand c d a imm 8 false (.ld8 c d a imm)

inductive StoreCommand (c : Fin 8) (d a : BitVec 5) (imm : BitVec 16) : Nat → Instr → Prop where
  | st1 : StoreCommand c d a imm 1 (.st1 c d a imm)
  | st2 : StoreCommand c d a imm 2 (.st2 c d a imm)
  | st4 : StoreCommand c d a imm 4 (.st4 c d a imm)
  | st8 : StoreCommand c d a imm 8 (.st8 c d a imm)

/-- The address of a load or store: the register and the signed immediate, modulo 2^64. -/
def address (v : Bank) (a : BitVec 5) (imm : BitVec 16) : Nat := (ofInt ((reg v a).toInt + imm.toInt)).toNat

/-- The number of n bytes, least significant first, sign-extended or not. -/
def loaded (n : Nat) (sext : Bool) (bs : List Byte) : Word :=
  if sext then ofInt (signedLow (8 * n) (low (leNat bs))) else low (leNat bs)

/-- Byte ranges share a byte. -/
def Overlaps (e : SbEntry) (pa n : Nat) : Prop := e.pa < pa + n ∧ pa < e.pa + e.bytes.length

/-- A load of n bytes at pa that no older store of the core gives and none holds back: none that is still in the buffer
overlaps it, or is to a device page as it is itself; none to a page that the L1 data cache does not allocate overlaps it and
is not acknowledged; and its line did not leave the L1 data cache with a word that could not be corrected (09:R276,
12:R339, 14:R390). -/
structure Unstored (s : State) (c : Fin 8) (attr : BitVec 3) (pa n : Nat) : Prop where
  buffer : ∀ e ∈ (s.cores[c]).sb, ¬ Overlaps e pa n ∧ (attr = attrDevice → e.attr ≠ attrDevice)
  posted : attrCached attr = false → ∀ r ∈ s.memp.out ++ s.memp.waiting, r.write = true → r.waiter = .coreStore c →
    ∀ x ∈ r.old, x.1 < pa ∨ pa + n ≤ x.1
  kept   : attrCached attr = true → pa / 128 ∉ (s.cores[c]).l1bad

/-- n bits as a signed number. -/
def sgn (n x : Nat) : Int := if 2 ^ (n - 1) ≤ x then (x : Int) - 2 ^ n else x

/-- Atomics: what the n bits at the address become, from the old value, b and d (09:R266). -/
inductive AtomCommand (c : Fin 8) (wide : Bool) (d a b : BitVec 5) : Instr → (Nat → Nat → Nat → Nat → Nat) → Prop where
  | add : AtomCommand c wide d a b (.aadd c wide d a b) fun n old x _ => (old + x) % 2 ^ n
  | swap : AtomCommand c wide d a b (.aswap c wide d a b) fun _ _ x _ => x
  | cas : AtomCommand c wide d a b (.acas c wide d a b) fun _ old x y => if old = y then x else old
  | and : AtomCommand c wide d a b (.aand c wide d a b) fun _ old x _ => old &&& x
  | or : AtomCommand c wide d a b (.aor c wide d a b) fun _ old x _ => old ||| x
  | max : AtomCommand c wide d a b (.amax c wide d a b) fun n old x _ => if sgn n old < sgn n x then x else old
  | min : AtomCommand c wide d a b (.amin c wide d a b) fun n old x _ => if sgn n old < sgn n x then old else x

/-! Control registers (09:R281, R282). -/

/-- A control register may be read, or written, at a level: rule 1 at every level, rule 2 at L6 and L7. -/
def Legal (rule : Nat) (k : Fin 8) : Prop := rule = 1 ∨ (rule = 2 ∧ 6 ≤ k.val)

/-- The value of the last held write to a register. -/
def lastHeld (h : List (BitVec 12 × Word)) (r : BitVec 12) : Option Word := (h.reverse.find? fun w => w.1 == r).map (·.2)

/-- A core with one task changed. -/
def withTask (x : Core) (t : Byte) (f : Task → Task) : Core := { x with tasks := x.tasks.set t.toNat (f x.tasks[t.toNat]) }

/-- A core in which every task with a property has been activated by its binding (11:R317, R318). -/
def activated (x : Core) (p : Task → Prop) [DecidablePred p] : Core :=
  { x with tasks := x.tasks.map fun y => if y.st ≠ .invalid ∧ p y then causeTask 0 y else y }

/-! Commands on the task table (11:R315 to R320). -/

/-- A command that the task t0 of core c makes at level k: it commits with the core as y. -/
def byTask (i : CrWho → Instr) (s : State) (c k : Fin 8) (y : Core) : Prop :=
  Gives (i (.task c)) s (withCore s c (counted y k (onward (bank s c k))))

/-- The same command through the CC window of the core. -/
def byWindow (i : CrWho → Instr) (s : State) (src : Src) (c : Fin 8) (y : Core) : Prop :=
  Gives (i (.window src c)) s (withCore s c y)

/-- A core that has refused a write or command: REFUSED of CTL_SCHSTAT (11:R316, R320). -/
def refusedCore (s : State) (x : Core) : Core := { x with schstat := x.schstat.event s.ctl.fcycles 1 }

/-- A task that may be written: INVALID or DORMANT (11:R316). -/
abbrev Idle (y : Task) : Prop := y.st = .invalid ∨ y.st = .dormant

/-- A ready or runnable task that the scheduler may take (11:R321, R323). -/
def Waits (x : Core) (t : Byte) : Prop :=
  let y := x.tasks[t.toNat]
  (y.st = .ready ∨ y.st = .runnable) ∧ (y.level = 7 → (x.banks[7]).occ = none ∨ (x.banks[7]).occ = some t)

/-- The occupant of the bank of a level is a candidate (11:R321). -/
def Holds (x : Core) (k : Fin 8) (t : Byte) : Prop :=
  (x.banks[k]).occ = some t ∧ (x.tasks[t.toNat]).level = k ∧
    ((x.tasks[t.toNat]).st = .running ∨ (x.tasks[t.toNat]).st = .preempted ∨ Waits x t)

/-- The core in which a task has come in (11:R322): it runs, its latches are gone. -/
def incoming (x : Core) (t : Byte) (b : Bank) (units : List XferUnit) (f : Task → Task) : Core :=
  let y := x.tasks[t.toNat]
  { withTask x t f with
    banks := x.banks.set y.level.val b, xq := x.xq ++ units, running := some t, switchTo := none, outgoing := none,
    resumed := true, wants := [], latchS := none, latchT := none }

/-- A spill fault of a unit (11:R328, R330) for which a task is bound. -/
structure SpillFaulted (s t : State) (c : Fin 8) (u : XferUnit) (ev : BitVec 16) (va : Nat) : Prop where
  state  : ((t.cores[c]).tasks[u.task.toNat]).st = .faulted
  stops  : (t.cores[c]).xstop = some u ∧ (t.cores[c]).xq = (s.cores[c]).xq
  record : (t.cores[c]).spillf = if ((s.cores[c]).spillf).valid then (s.cores[c]).spillf
    else ⟨true, unitKindCode u.kind, u.task, BitVec.ofNat 9 (unitOffset u.kind), ev, BitVec.ofNat 48 va⟩
  event  : ((t.cores[c]).schstat).status.getLsbD 1 = true
  banks  : (t.cores[c]).banks = (s.cores[c]).banks

/-! Tiles (10:R287 to R308). -/

/-- The running task owns the tile file, and no row is left. -/
structure Owns (s : State) (c : Fin 8) (t : Byte) : Prop where
  owner : (s.cores[c]).tileOwner = some t
  rows  : (s.cores[c]).rows = []

/-- No row of a tile register, and no reuse latch, has bad parity (14:R390). -/
structure Whole (s : State) (c : Fin 8) : Prop where
  rows    : ∀ r : Fin 12, ((s.cores[c]).tiles[r]).bad = 0
  latches : ∀ l, (s.cores[c]).latchS = some l ∨ (s.cores[c]).latchT = some l → l.bad = false

/-- A tile instruction has committed: the next instruction is eight bytes on; tiles, tags and rows aside nothing has changed. -/
structure TileDone (s u : State) (c k : Fin 8) (b : Bank) : Prop where
  bank  : (u.cores[c]).banks = (s.cores[c]).banks.set k.val { b with pc := b.pc + 8 }
  count : (u.cores[c]).instret = (s.cores[c]).instret + 1
  tasks : (u.cores[c]).tasks = (s.cores[c]).tasks
  mem   : u.mem = s.mem
  only  : CoreOnly s u c

/-- A tile register of the core has been written: its tag, and its rows as given; the bytes beside these rows, and the other
registers, are as they were. -/
structure TilePut (s u : State) (c : Fin 8) (td : Nat) (tag : Tag) (rows : Nat → List Byte) : Prop where
  others  : ∀ r : Fin 12, r.val ≠ td → (u.cores[c]).tiles[r] = (s.cores[c]).tiles[r]
  tagged  : (tileAt u.cores[c] td).tag = some tag ∧ (tileAt u.cores[c] td).inUse = true
  content : ∀ i, i < tag.rows → Memory.gets (tileAt u.cores[c] td).bytes (64 * i) tag.rb = rows i
  beside  : ∀ a, (a / 64 < tag.rows → tag.rb ≤ a % 64) →
    Memory.get (tileAt u.cores[c] td).bytes a = Memory.get (tileAt s.cores[c] td).bytes a

/-- The tiles are as they were. -/
def TilesKept (s u : State) (c : Fin 8) : Prop := (u.cores[c]).tiles = (s.cores[c]).tiles

/-- Row i of a tile register, its first n bytes. -/
def tileRow (s : State) (c : Fin 8) (r i n : Nat) : List Byte := Memory.gets (tileAt s.cores[c] r).bytes (64 * i) n

/-- A shape that fits the tag of a register, of the register's format. -/
def Fits (s : State) (c : Fin 8) (r rows rb : Nat) (fmt : Option (BitVec 4)) : Prop :=
  ∃ g, (tileAt s.cores[c] r).tag = some g ∧ rows ≤ g.rows ∧ rb ≤ g.rb ∧ ∀ f, fmt = some f → f = g.fmt

/-! The schedulers (11:R317). -/

/-- No armed FLAG or BEAT binding of a core that runs is due, and HOLD's quietness is noted. -/
structure NotDue (s : State) : Prop where
  flags : ∀ (c : Fin 8) (t : Fin 256), coreRuns s c.val = true →
    let x := (s.cores[c]).tasks[t]
    x.st ≠ .invalid → x.armed = true → x.src = 1 →
      waitHolds s x.smode.toNat x.sparam.toNat (x.value.setWidth 32) = false
  beats : ∀ (c : Fin 8) (t : Fin 256), coreRuns s c.val = true →
    let x := (s.cores[c]).tasks[t]
    x.st ≠ .invalid → x.armed = true → x.src = 2 → s.beat.value.toNat < x.value.toNat
  quiet_ : s.ctl.quietSeen = true ↔ s.ctl.state = .hold ∧ quiet s = true

end Sys2Proof.Rule
end

