-- ==== Sys2Proof/Safety/Engines.lean ====
section
/-! DEFINITION. Vocabulary of the statements about starts and engines: which head may start, what a start leaves, what a
finish writes, and the commands that share a shape. -/

namespace Sys2Proof.Rule

open Machine

/-- The head f of queue q can start, arbitration aside (06:R171): the queue runs, f has passed its checks, its wait word,
beat, barrier and hazard conditions hold, fewer than eight are in flight, and its engine accepts it. -/
structure MayStart (s : State) (q : Fin 32) (f : Fetched) : Prop where
  run      : s.ctl.state = .run
  enabled  : (s.dq[q]).enable = true
  goes     : (s.dq[q]).halted = false ∧ (s.dq[q]).halting = false ∧ queueHeld s q.val = false
  fetched  : (s.dq[q]).fetched = some f
  passed   : f.event = none ∧ f.idx = (s.dq[q]).head
  waits    : if dPred f.desc = true then f.tested = true
             else waitHolds s (dCmp f.desc) (dWaitFlag f.desc) (dWaitValue f.desc) = true
  notEarly : dTimed f.desc = true → dNb f.desc ≤ s.beat.value.toNat
  notLate  : dHasDeadline f.desc = true → s.beat.value.toNat ≤ dDeadline f.desc
  barriers : barrierMet s q.val f = true
  hazards  : ∀ g ∈ (s.dq[q]).inflight, hazardFree s f.desc g.desc g.prof = true
  fewer    : (s.dq[q]).inflight.length < 8
  accepts  : engineAccepts s f.desc = true

/-- How far queue p follows, cyclically, the queue that an engine took last (06:R173). -/
def after (last : Nat) (p : Fin 32) : Int := ((p.val : Int) - last - 1) % 32

/-- Two lists of ranges, of a first address and the address behind the last, share no address. -/
def Apart (xs ys : List (Nat × Nat)) : Prop :=
  ∀ x ∈ xs, ∀ y ∈ ys, ∀ a, ¬ (x.1 ≤ a ∧ a < x.2 ∧ y.1 ≤ a ∧ a < y.2)

/-- A descriptor in flight that has just started: its rounding configuration latched (02:R62), nothing finished. -/
structure Fresh (d : Queue) (f : Fetched) (x : InFlight) : Prop where
  desc     : x.idx = f.idx ∧ x.desc = f.desc
  rounding : x.seed = d.seed ∧ x.w = d.w ∧ x.fast = d.fast
  attempts : x.attempts = 1 ∧ x.replayed = false ∧ x.missed = false ∧ x.posted = false

/-- The flags after the on-start signal of a head on local flags (06:R159), performed once (06:R177). -/
def startFlags (s : State) (q : Fin 32) (f : Fetched) : Flags :=
  let d := s.dq[q]
  { s.flags with next :=
      if f.idx ∈ d.signalled ∨ (dSignal f.desc).when_ ≠ 1 then s.flags.next
      else signalUpds q.val [dSignal f.desc] s.flags.next }

/-- In t the head f of queue q has started as x (06:R171, R159): HEAD past it, x in flight behind the others, its
on-start signal performed; memory, the cores and the other queues as in s. -/
structure Starts (s t : State) (q : Fin 32) (f : Fetched) (x : InFlight) : Prop where
  fresh  : Fresh (s.dq[q]) f x
  queue  : t.dq[q] = { s.dq[q] with
    head := f.idx + 1, fetched := none, inflight := (s.dq[q]).inflight ++ [x],
    signalled := (s.dq[q]).signalled.filter (· ≠ f.idx) }
  others : ∀ p : Fin 32, p ≠ q → t.dq[p] = s.dq[p]
  flags  : t.flags = startFlags s q f
  memory : t.mem = s.mem

/-- The VE commands and their opcodes (07:R200). -/
inductive VeCommand (q : Fin 32) : Nat → Instr → Prop where
  | add : VeCommand q 0x01 (.veAdd q)
  | sub : VeCommand q 0x02 (.veSub q)
  | mul : VeCommand q 0x03 (.veMul q)
  | div : VeCommand q 0x04 (.veDiv q)
  | fma : VeCommand q 0x05 (.veFma q)
  | sqrt : VeCommand q 0x06 (.veSqrt q)
  | rem : VeCommand q 0x07 (.veRem q)
  | scaleb : VeCommand q 0x08 (.veScaleb q)
  | logb : VeCommand q 0x09 (.veLogb q)
  | rint : VeCommand q 0x0A (.veRint q)
  | next : VeCommand q 0x0B (.veNext q)
  | sign : VeCommand q 0x0C (.veSign q)
  | cvt : VeCommand q 0x0D (.veCvt q)
  | cmp : VeCommand q 0x0E (.veCmp q)
  | class_ : VeCommand q 0x0F (.veClass q)
  | totord : VeCommand q 0x10 (.veTotord q)
  | tostr : VeCommand q 0x11 (.veTostr q)
  | fromstr : VeCommand q 0x12 (.veFromstr q)
  | minmax : VeCommand q 0x13 (.veMinmax q)
  | act : VeCommand q 0x14 (.veAct q)
  | exp2 : VeCommand q 0x15 (.veExp2 q)
  | log2 : VeCommand q 0x16 (.veLog2 q)
  | rsum : VeCommand q 0x20 (.veRsum q)
  | rmax : VeCommand q 0x21 (.veRmax q)
  | rstat : VeCommand q 0x22 (.veRstat q)
  | psum : VeCommand q 0x30 (.vePsum q)
  | wsum : VeCommand q 0x31 (.veWsum q)
  | prune : VeCommand q 0x40 (.vePrune q)
  | maskz : VeCommand q 0x41 (.veMaskz q)
  | crc : VeCommand q 0x50 (.veCrc q)
  | crcchk : VeCommand q 0x51 (.veCrcchk q)
  | pq : VeCommand q 0x52 (.vePq q)
  | pqrec : VeCommand q 0x53 (.vePqrec q)

/-- The MOVE commands and their opcodes (07:R220). -/
inductive MoveCommand (q : Fin 32) : Nat → Instr → Prop where
  | copy : MoveCommand q 1 (.moveCopy q)
  | bytes : MoveCommand q 2 (.moveBytes q)
  | fill : MoveCommand q 3 (.moveFill q)

/-- The RME commands and their opcodes (07:R223). -/
inductive RmeCommand (q : Fin 32) : Nat → Instr → Prop where
  | put : RmeCommand q 1 (.rmePut q)
  | get : RmeCommand q 2 (.rmeGet q)
  | putFlag : RmeCommand q 3 (.rmePutFlag q)
  | flagAdd : RmeCommand q 4 (.rmeFlagAdd q)
  | flagSet : RmeCommand q 5 (.rmeFlagSet q)
  | aadd : RmeCommand q 6 (.rmeAadd q)
  | fadd : RmeCommand q 7 (.rmeFadd q)
  | cas : RmeCommand q 8 (.rmeCas q)

/-- The writes of a descriptor that produces cells for its parts, at the translated places of a page map. -/
def placed (m : PageMap) (cells : List (Nat × List Host.Cell)) : List EngWrite :=
  cells.flatMap fun c => engWrites c.1 m c.2

/-- Memory of t is that of s with cells put into it, in order. -/
def Wrote (s t : State) (cells : List Host.Cell) : Prop :=
  ∀ a, Memory.get t.mem a = Memory.get (Memory.puts s.mem cells) a

/-- Every cell can be written: it lies in external memory, or in stage memory without an uncorrectable word (08:R236). -/
def Writable (s : State) (cells : List Host.Cell) : Prop :=
  ∀ c ∈ cells, region s c.1 = .ext ∨ (region s c.1 = .stage ∧ s.sm.ueWords = [])

/-- A read finds no uncorrectable byte: no stage-memory word, no unit at a port, no answer of one, and no cached line is
bad (08:R233). -/
structure Sound (s : State) : Prop where
  stage : s.sm.ueWords = []
  ports : s.memp.ueUnits = [] ∧ ∀ x ∈ s.memp.got, x.2.2 ≠ .uncorrectable
  lines : ∀ l ∈ s.bc.lines, l.bad = false

/-- A queue with the limits of its descriptors in flight left aside (08:R253). -/
def noLimits (d : Queue) : Queue := { d with inflight := d.inflight.map fun g => { g with limit := none } }

/-- The descriptors in flight with index idx end with e, unless they have ended. -/
def endedAs (d : Queue) (idx : BitVec 32) (e : Ended) : List InFlight :=
  d.inflight.map fun g => if g.idx = idx ∧ g.ended = none then { g with ended := some e } else g

/-- The k-th request of a start: it takes the k-th transaction identifier from TXID on (08:R251). -/
def request (s : State) (q : Fin 32) (idx : BitVec 32) (k : Nat) (r : RmeReq) : OutReq :=
  ⟨s.rme.txid + BitVec.ofNat 32 k, r.pkt.dest, q, idx, r.kind, r.va, 0⟩

/-- Its packet (15:R428). -/
def packet (s : State) (k : Nat) (op : Byte) (p : Packet) : TxPacket :=
  ⟨op, { p with src := s.rme.self, txid := s.rme.txid + BitVec.ofNat 32 k }, 0⟩

/-- The bytes of the stream to the remote nodes: those that have left in this f-cycle, and those still to leave (15:R427). -/
def stream (s : State) : List Byte := s.rme.tx ++ (s.rme.txq.flatMap packetBytes).drop s.rme.txOff

/-- What has left of a packet is less than the packet. -/
def StreamWell (s : State) : Prop := s.rme.txOff = 0 ∨ ∃ p rest, s.rme.txq = p :: rest ∧ s.rme.txOff < (packetBytes p).length

/-- The state in which a packet with a payload of n bytes has come: 36 bytes and the payload, padded to a multiple of
4, in beats of 1,152 bytes, each of which returns a credit (15:R427). -/
def received (n : Nat) (s : State) : State :=
  let total := s.rme.rxOff + 36 + (n + 3) / 4 * 4
  { s with rme := { s.rme with rxOff := total % 1152, rxCred := s.rme.rxCred + total / 1152 } }

/-- The stream is empty and has the credits for n bytes more (15:R427). -/
def StreamOpen (s : State) (n : Nat) : Prop := s.rme.txq = [] ∧ s.rme.txOff = 0 ∧ n ≤ s.rme.txRoom

/-- The state in which a packet of no more than the credits has left (15:R427, 08:R254). -/
def sent (s : State) (p : TxPacket) : State :=
  { s with rme := { s.rme with
    tx := s.rme.tx ++ packetBytes p, txRoom := s.rme.txRoom - (packetBytes p).length,
    outbytes := s.rme.outbytes + BitVec.ofNat 64 p.hdr.payload.length } }

/-- The answer to a packet: DEST its SRC, its TXID (15:R428). -/
def answer (s : State) (p : Packet) (op : Byte) (reason : BitVec 16) (data : List Byte) : TxPacket :=
  ⟨op, { attr := 0, dest := p.src, src := s.rme.self, len := BitVec.ofNat 16 data.length, addr := 0, txid := p.txid, arg := 0,
         payload := data }, reason⟩

/-- An inbound operation that is examined: SELF is set and is DEST, no reset is asserted, the block is open, no mismatch
holds RME_CFG or an aperture (15:R429, 13:R388). -/
structure Inward (s : State) (p : Packet) : Prop where
  awake : s.ctl.por = false ∧ s.ctl.wres = false
  self  : s.rme.self ≠ 0xFFFF ∧ p.dest = s.rme.self
  state : s.ctl.state = .config ∨ s.ctl.state = .run ∨ s.ctl.state = .hold
  whole : NoMismatch s

/-- The states with an inbound operation accepted: answered at once, or waiting for the memory ports (12:R352). -/
def Accepted (s t : State) (p : Packet) (op : Byte) (data : List Byte) : Prop :=
  let n := s.rme.inNext
  let waits := (t.memp.out ++ t.memp.waiting).any (fun r => r.waiter == .inbound n) = true
  t.rme.inNext = n + 1 ∧
  (waits → t.rme.tx = s.rme.tx ∧ t.rme.inbytes = s.rme.inbytes ∧
    t.rme.inq = s.rme.inq ++ [⟨n, p.src, p.txid, op, data, p.payload.length⟩]) ∧
  (¬ waits → t.rme.tx = s.rme.tx ++ packetBytes (answer s p op 0 data) ∧ t.rme.inq = s.rme.inq ∧
    t.rme.inbytes = s.rme.inbytes + BitVec.ofNat 64 p.payload.length)

/-- An element of a packet's payload (15:R428): SIZE bytes from a place on. -/
def element (p : Packet) (k : Nat) : Nat := leNat ((p.payload.drop (atomSize p * k)).take (atomSize p))

end Sys2Proof.Rule
end

