-- ==== Sys2Proof/Safety/Management.lean ====
section
/-! DEFINITION. Vocabulary of the statements about management: commands of the object dictionary, their paths, answers and
authorisation, frames of the chain, units in service. -/

namespace Sys2Proof.Rule

open Machine

/-- The commands that carry a payload, and their types (13:R367). -/
inductive DictCommand (path : Path) (p : List Byte) : Nat → Instr → Prop where
  | read : DictCommand path p 1 (.odRead path p)
  | write : DictCommand path p 2 (.odWrite path p)
  | awrite : DictCommand path p 3 (.odAwrite path p)

/-- A command is the mailbox's command in progress (13:R381). -/
def InMailbox (s : State) (ty : Nat) (p : List Byte) : Prop :=
  s.mbox.busy = true ∧ s.mbox.ready = none ∧ ∃ r, s.mbox.cmd = some r ∧ r.ty.toNat = ty ∧ r.payload = p

/-- A mailbox request has reached Snowdrop and is not executed yet (13:R359). -/
def MailWaits (s : State) : Prop := s.mbox.cmd ≠ none ∧ s.mbox.ready = none

/-- No request of the chain is held, or one is, behind a mailbox request that is not executed yet (13:R359). -/
def Calm (s : State) : Prop := s.mg.chainReq = none ∨ MailWaits s

/-- The chain's interface passes frames on: out of power-on reset, and with valid code at its input (15:R431). -/
def Linked (s : State) : Prop := s.bnd.chainIn = true ∧ s.ctl.por = false

/-- A frame is addressed to the block, whose firmware runs (13:R360, R377). -/
def Addressed (s : State) (dest : BitVec 12) : Prop :=
  s.ctl.fwUp = true ∧ s.mg.nodeAddr ≠ 0 ∧ s.mg.nodeAddr.setWidth 12 = dest

/-- The frame is the one that the last response answered (13:R378). -/
def Again (s : State) (src : BitVec 12) (seq : Byte) (ty : Nat) (crc : BitVec 32) (response : List Byte) : Prop :=
  s.mg.lastResp = some ⟨src, seq, BitVec.ofNat 8 ty, crc, response⟩

/-- The command is executed and answered at once: it is the mailbox's command in progress (13:R381), or a frame to the block
that is no repetition of the last, no earlier request being unanswered (13:R359, R360, R377, R378). -/
def Heard (s : State) (path : Path) (ty : Nat) (p : List Byte) : Prop :=
  s.mg.chainReq = none ∧ match path with
  | .mailbox => InMailbox s ty p
  | .chain dest src seq crc => Linked s ∧ Addressed s dest ∧ dest ≠ 0xFFF ∧ ¬ MailWaits s ∧
      crc = (frameOf (BitVec.ofNat 8 ty) dest src seq p).crc ∧ ∀ r, ¬ Again s src seq ty crc r

/-- A command does not stop the model: it is no write by the register window into the enabled test range (01:R37), nor one
that changes a bit of type KEEP, which GEN_TESTCTL has (00:R16). -/
def Unstopped (s : State) (ty : Nat) (p : List Byte) : Prop :=
  ty = 2 → leNat (p.take 2) = 0x2002 → (p.drop 2).headD 0 = 2 →
    testOpen s s.mg.regOffset.toNat = false ∧
    (s.mg.regOffset = 0x50 → BitVec.ofNat 32 (leNat (p.drop 4)) = s.gen.testctl)

/-- The chain request that is held, if any, is no write by the register window. -/
def HoldsNoWrite (s : State) : Prop :=
  ∀ f, s.mg.chainReq = some f → ¬ (f.ty = 2 ∧ leNat (f.payload.take 2) = 0x2002 ∧ (f.payload.drop 2).headD 0 = 2)

/-- No store that the store buffer holds, the store of n bytes included, stops the model. -/
def StoreRuns (c : Fin 8) (d a : BitVec 5) (imm : BitVec 16) (n : Nat) (s : State) : Prop :=
  ∀ e ∈ (getCore (runInstr c [] [d, a] (coreStore c d a imm n) s) c).sb, entryStop s e = none

/-- No register that a command writes where it finds s stops the model: none in the enabled test range (01:R37), none with a
changed bit of type KEEP (00:R16). Only writes of a register by its offset, host-window writes, writes by the register window
and stores can meet one. -/
def Runs (i : Instr) (s : State) : Prop :=
  match i with
  | .registerWrite src off v => srcReaches s src off.toNat = true → regStop s off.toNat v = none
  | .hostWindowWrite addr be data split => split = false → hostStop s addr be data = none
  | .odWrite _ p => Unstopped s 2 p ∧ HoldsNoWrite s
  | .regValueWrite _ v => Unstopped s 2 (payWrite 0x2002 2 (natLe v.toNat 8)) ∧ HoldsNoWrite s
  | .odRead _ _ | .odAwrite _ _ | .serviceEnter _ _ | .serviceEnd _ _ | .regValueRead _ | .nodeAddrWrite _ _
  | .unitServiceEnter _ _ _ | .unitServiceLeave _ _ _ | .unitRetire _ _ _ | .imgBlock _ _ | .imgCommit _ _ _
  | .keyWrite _ _ _ _ | .spareMapWrite _ _ _ | .testmodeWrite _ _ _ | .applyNow (.od _) | .applyArm (.od _) _
  | .stateRequest (.od _) _ => HoldsNoWrite s
  | .st1 c d a imm => StoreRuns c d a imm 1 s
  | .st2 c d a imm => StoreRuns c d a imm 2 s
  | .st4 c d a imm => StoreRuns c d a imm 4 s
  | .st8 c d a imm => StoreRuns c d a imm 8 s
  | _ => True

/-- A state with an answer given on a path: in the mailbox's buffer, or as a frame from an address, kept for its
retransmission (13:R377, R378, R381). -/
def replied (path : Path) (ty : Nat) (own : BitVec 16) (answer : List Byte) (x : State) : State :=
  match path with
  | .mailbox => { x with mbox := { x.mbox with ready := some answer } }
  | .chain _ src seq crc =>
    let f := (frameOf 4 src (own.setWidth 12) seq answer).bytes
    { x with mg := { x.mg with
      chainOut := x.mg.chainOut ++ [f], lastResp := some ⟨src, seq, BitVec.ofNat 8 ty, crc, f⟩ } }

/-- The path of a request. -/
def requestPath : Path → ReqPath
  | .chain _ _ _ _ => .chain
  | .mailbox => .mailbox

/-- The code of a path in records (14:R394). -/
def pathCode : Path → BitVec 16
  | .chain _ _ _ _ => 0x0800
  | .mailbox => 0x0801

/-- The bytes of a frame leave on the chain's output. -/
def frameOut (s : State) (f : List Byte) : State := { s with mg := { s.mg with chainOut := s.mg.chainOut ++ [f] } }

/-- The event of an abort class (13:R368). -/
def classEvent (a : Nat) : BitVec 16 :=
  if a / 2 ^ 24 = 4 then mgStateEv else if a / 2 ^ 24 = 5 then mgAuthEv else mgReplayEv

/-- v is u with a refusal counted, and recorded unless its event has been in this beat (13:R374). -/
structure RefusalNoted (u v : State) (path : Path) (ty : Nat) (p : List Byte) (a : Nat) : Prop where
  rest   : v = { u with
    mg := { u.mg with
      mgState := u.mg.mgState + (if a / 2 ^ 24 = 4 then 1 else 0), mgAuth := u.mg.mgAuth + (if a / 2 ^ 24 = 5 then 1 else 0),
      mgReplay := u.mg.mgReplay + (if a / 2 ^ 24 = 6 then 1 else 0), suppressed := v.mg.suppressed },
    flt := { u.flt with detected := v.flt.detected }, beat := { u.beat with marks := v.beat.marks } }
  first  : (classEvent a, 0) ∉ u.beat.marks → v.mg.suppressed = u.mg.suppressed ∧
    v.flt.detected = insertDetected u.ctl.fcycles ⟨classEvent a, clsInfo, false, pathCode path, 0, u.beat.value,
      BitVec.ofNat 64 (a + leNat (p.take 2) * 2 ^ 32 + ((p.drop 2).headD 0).toNat * 2 ^ 48 + plSlot ty p * 2 ^ 56),
      BitVec.ofNat 64 (plCounter ty p)⟩ u.flt.detected
  again  : (classEvent a, 0) ∈ u.beat.marks → v.mg.suppressed = u.mg.suppressed + 1 ∧ v.flt.detected = u.flt.detected

/-- An AWRITE of an entry is heard and authorised (13:R372, R373): its slot holds a key, the key's CMAC over the die
identifier, the nonce and the payload before the tag begins with the tag, and its counter is greater than the slot's. -/
structure Authorised (s : State) (path : Path) (idx sub : Nat) (au : Auth) (data : List Byte) (slot : Fin 4)
    (key : BitVec 128) : Prop where
  heard : Heard s path 3 (payAwrite idx sub au data)
  slot_ : au.slot.toNat = slot.val ∧ s.mg.keys[slot] = some key
  own   : idx = 0x6000 → slot = 0 ∨ slot.val + 1 = sub
  tag   : (cmac (natLe key.toNat 16) (fuseBytes s 8 8 ++ natLe s.mg.nonce.toNat 8 ++
    natLe idx 2 ++ natLe sub 1 ++ [au.slot] ++ natLe au.counter.toNat 4 ++ data)).take 8 = natLe au.tag.toNat 8
  fresh : s.mg.exhausted[slot] = false ∧ (s.mg.counters[slot]).toNat < au.counter.toNat

/-- The state with the counter of an authorised AWRITE consumed (13:R374). -/
def spent (s : State) (au : Auth) (slot : Fin 4) : State :=
  { s with mg := { s.mg with
    counters := s.mg.counters.set slot.val au.counter,
    exhausted := s.mg.exhausted.set slot.val (au.counter == 0xFFFFFFFF) } }

/-- An authorised AWRITE is accepted and has an effect. -/
def Obeyed (i : Instr) (s : State) (path : Path) (x : State) : Prop :=
  Gives i s (replied path 3 s.mg.nodeAddr (natLe 0 4) x)

/-- A WRITE is accepted and has an effect. -/
def Written (i : Instr) (s : State) (path : Path) (x : State) : Prop :=
  Gives i s (replied path 2 s.mg.nodeAddr (natLe 0 4) x)

/-- The state in which SERVICE has ended (01:R25, 11:R331, 13:R363). -/
def serviceOver (s : State) : State :=
  { s with ctl := { s.ctl with state := .config }, mg := { s.mg with testmode := 0 },
           cores := Vector.ofFn fun c : Fin 8 => startEmpty s.cores[c] }

/-- A unit that a UNIT_CMD may name: built, not retired, and no memory port (13:R365, R366). -/
structure NamesUnit (s : State) (u : BitVec 16) : Prop where
  built : unitExists u = true ∧ unitBuilt s u = true
  inUse : unitRetired s u = false
  noPort : uClass u ≠ 3
  still : transOf s u = none

/-- The conditions of an enter command (13:R365, 14:R411). -/
structure MayEnter (s : State) (u : BitVec 16) : Prop where
  unit  : NamesUnit s u
  state : s.ctl.state = .run ∨ s.ctl.state = .hold
  outside : inSub s u = false
  core  : uClass u = 2 → ∀ c : Fin 8, c.val ≠ uIdx u →
    s.svc.cc.getLsbD c.val = false ∧ transOf s (BitVec.ofNat 16 (0x200 + c.val)) ≠ some .entering
  bank  : uClass u = 6 → spareOf s (uIdx u) = none ∧ freeSpare s ≠ none

/-- The conditions of a leave command (14:R412): the unit's test has passed. -/
structure MayLeave (s : State) (u : BitVec 16) : Prop where
  unit  : NamesUnit s u
  state : s.ctl.state = .run ∨ s.ctl.state = .hold
  inside : inSub s u = true
  passed : (u, true) ∈ s.svc.tested ∧ (u, false) ∉ s.svc.tested

/-- The conditions of a retire command (14:R405). -/
structure MayRetire (s : State) (u : BitVec 16) : Prop where
  unit  : NamesUnit s u
  state : s.ctl.state = .config ∨ s.ctl.state = .run ∨ s.ctl.state = .hold ∨ s.ctl.state = .service
  bank  : uClass u = 6 → spareOf s (uIdx u) ≠ none ∨ freeSpare s ≠ none

/-- The word of UNIT_CMD. -/
def unitWord (act : Nat) (u : BitVec 16) : BitVec 32 := BitVec.ofNat 32 (act * 2 ^ 24 + u.toNat)

/-- The point at which the sub-state of an entering unit takes effect (14:R411). -/
structure AtEntry (s : State) (u : BitVec 16) : Prop where
  entering : transOf s u = some .entering
  unit  : unitExists u = true ∧ uClass u ≠ 3
  group : uClass u = 1 → ∀ g : Fin 16, g.val = uIdx u → s.opa.bandmap[g] = 0xF
  way   : uClass u = 5 → s.bc.busy.getLsbD (uIdx u) = false
  bank  : uClass u = 6 → uIdx u ∈ s.sm.copied

/-- In t the sub-state of a unit has taken effect and its test runs (14:R411, R412). -/
structure Entered (s t : State) (u : BitVec 16) : Prop where
  sub  : inSub t u = true ∧ transOf t u = none
  test : t.svc.testUnit = u ∧ t.svc.testResult = 1 ∧ t.svc.testDetail = 0
  others : ∀ v, v ≠ u → transOf t v = transOf s v
  core : ∀ c : Fin 8, t.cores[c] =
    if uClass u = 2 ∧ uIdx u = c.val then { startEmpty s.cores[c] with halted := false } else s.cores[c]
  memory : uClass u ≠ 4 ∨ veInService t ≠ 0 → t.mem = s.mem

/-- Every VE descriptor in flight has ended, those that had not with DQ_ENGINE_ABSENT (07:R217). -/
def SlicesGone (s t : State) : Prop :=
  ∀ (q : Fin 32), ∀ f ∈ (t.dq[q]).inflight, dClass f.desc = 2 → f.ended ≠ none ∧
    ∀ g ∈ (s.dq[q]).inflight, g.idx = f.idx → g.ended = none → f.ended = some ⟨dqEngineAbsent, 0, 0xFF, 0, false⟩

end Sys2Proof.Rule
end

