-- ==== Sys2Proof/Safety/Memory.lean ====
section
/-! DEFINITION. Vocabulary of the statements about memory ports, translation tables, the block cache and stage memory. -/

namespace Sys2Proof.Rule

open Machine

/-- A request is the one that an answer on a port names, and nothing waits for that port (15:R426). -/
structure Named (s : State) (n : Fin 16) (tag : BitVec 10) (write : Bool) (r : PortReq) : Prop where
  built   : (mpBuilt s).getLsbD n.val = true
  pending : r ∈ s.memp.out
  isIt    : r.port = n.val ∧ r.tag = tag ∧ r.write = write
  only    : ∀ x ∈ s.memp.out, x.port = n.val → x.tag = tag → x = r
  idle    : ∀ x ∈ s.memp.waiting, x.port ≠ n.val

/-- The memory ports without a request, and with the status of its unit as read (08:R233, R234). -/
def answered (m : Memp) (r : PortReq) (bad corrected : Bool) : Memp :=
  { m with
    out := m.out.erase r,
    ueUnits := (if bad then [r.unit] else []) ++ m.ueUnits.filter (· != r.unit),
    ceUnits := (if corrected then [r.unit] else []) ++ m.ceUnits.filter (· != r.unit) }

/-- The 8-byte word in memory at an address. -/
def wordAt (s : State) (pa : Nat) : Word := BitVec.ofNat 64 (leNat (Memory.gets s.mem pa 8))

/-- A table pointer that a walk can follow, to a table in memory (12:R338, R340). -/
def Follows (s : State) (p : Word) : Prop :=
  p.getLsbD 0 = true ∧ p.getLsbD 1 = false ∧ p.getLsbD 11 = false ∧ (p.extractLsb' 2 3).toNat < 4 ∧
  (region s (eBase p) = .ext ∨ region s (eBase p) = .stage)

/-- A leaf that maps at a level: valid, no reserved bit or code, its base aligned to the page (12:R337, R338). -/
def LeafAt (e : Word) (level : Nat) : Prop :=
  e.getLsbD 0 = true ∧ e.getLsbD 1 = true ∧ e.getLsbD 11 = false ∧ e.getLsbD 55 = false ∧ (e.extractLsb' 2 3).toNat ≤ 4 ∧
  1 ≤ level ∧ eBase e % 2 ^ (39 - 9 * level) = 0

/-- The tables lead, from a pointer at a level on, to a leaf at a level (12:R337 to R340). -/
inductive Leads (s : State) (va : Nat) : Nat → Word → Nat → Word → Prop where
  | leaf (l : Nat) (p e : Word) : l < 4 → Follows s p →
      wordAt s (eBase p + 8 * (va / 2 ^ (39 - 9 * l) % 512)) = e → LeafAt e l → Leads s va l p l e
  | down (l : Nat) (p e : Word) (k : Nat) (f : Word) : l < 3 → Follows s p →
      wordAt s (eBase p + 8 * (va / 2 ^ (39 - 9 * l) % 512)) = e → e.getLsbD 0 = true → e.getLsbD 1 = false →
      Leads s va (l + 1) e k f → Leads s va l p k f

/-- The block cache with the lines of a way gone, dirty ones written back; a bad line stays (12:R356, R357). -/
def Cleaned (s t : State) (w : Fin 16) : Prop :=
  (∀ l ∈ t.bc.lines, l.way = w → l.bad = true) ∧
  (∀ l ∈ s.bc.lines, l.way ≠ w → l ∈ t.bc.lines) ∧
  (∀ l ∈ s.bc.lines, l.way = w → l.dirty = true → l.bad = false →
    ∃ a b, a ∈ t.memp.out ++ t.memp.waiting ∧ b ∈ t.memp.out ++ t.memp.waiting ∧ a.unit = l.line * 2 ∧ b.unit = l.line * 2 + 1 ∧
      a.write = true ∧ b.write = true ∧ a.waiter = .writeBack ∧ b.waiter = .writeBack)

end Sys2Proof.Rule
end

