-- ==== Sys2Proof/Safety/Numbers.lean ====
section
/-! DEFINITION. Vocabulary of the statements about number formats: the value of an exact number, the formats, nearness. -/

namespace Sys2Proof.Rule

open Machine

/-- The rational value of an exact number. -/
def value (x : Ex) : ℚ := (if x.neg then -1 else 1) * ((x.num : ℚ) / x.den) * (2 : ℚ) ^ x.exp

/-- The IEEE formats BF16, FP16, FP32 and FP64 (02:R40). -/
def LongFormat (f : Flt) : Prop := f = ⟨8, 7, 127, true⟩ ∨ f = ⟨5, 10, 15, true⟩ ∨ f = flt32 ∨ f = flt64

/-- The narrow formats VF8A, VF8B, VF6 and VF4 (02:R43). -/
def NarrowFormat (f : Flt) : Prop :=
  f = ⟨4, 3, 9, false⟩ ∨ f = ⟨5, 2, 17, false⟩ ∨ f = ⟨3, 2, 3, false⟩ ∨ f = ⟨2, 1, 2, false⟩

/-- An integer is the nearest to num / den, of two the even one. -/
def NearestEven (num den t : Nat) : Prop :=
  2 * (t * den) ≤ 2 * num + den ∧ 2 * num ≤ 2 * (t * den) + den ∧
    (2 * (t * den) = 2 * num + den ∨ 2 * num = 2 * (t * den) + den → t % 2 = 0)

end Sys2Proof.Rule
end

