-- ==== Sys2Proof/Safety/Opa.lean ====
section
/-! DEFINITION. Vocabulary of the statements about the outer-product array: its commands, an instance's jobs, groups and
sets, and what becomes of them. -/

namespace Sys2Proof.Rule

open Machine

/-- The OPA commands that start a descriptor, and their opcodes (07:R196). -/
inductive ArrayCommand (q : Fin 32) : Nat → Instr → Prop where
  | mm : ArrayCommand q 1 (.opaMm q)
  | drain : ArrayCommand q 2 (.opaDrain q)

/-- The array runs: the block is in RUN or HOLD, and no clock step holds the array (14:R415). -/
structure ArrayOn (s : State) : Prop where
  state : s.ctl.state = .run ∨ s.ctl.state = .hold
  reset : s.ctl.por = false ∧ s.ctl.wres = false
  clock : s.sens.hold = .none

/-- A job of an instance, the only one of its descriptor. -/
structure OwnJob (i : OpaInst) (j : OpaJob) : Prop where
  mem  : j ∈ i.jobs
  only : ∀ x ∈ i.jobs, x.q = j.q → x.idx = j.idx → x = j

/-- Jobs with another in the place of one. -/
def replaced (l : List OpaJob) (j j' : OpaJob) : List OpaJob := l.map fun x => if x = j then j' else x

/-- The state with OPA instance n as given. -/
def withInst (s : State) (n : Fin 16) (i : OpaInst) : State :=
  { s with opa := { s.opa with inst := s.opa.inst.set n.val i } }

/-- In t, of OPA only instance n differs from s, and of that only one group, and its other set is as it was. -/
structure OnlySet (s t : State) (n : Fin 16) (g : Nat) (y : Bool) : Prop where
  instances : ∀ k : Fin 16, k ≠ n → t.opa.inst[k] = s.opa.inst[k]
  groups    : ∀ k, k ≠ g → getGroup t.opa.inst[n] k = getGroup s.opa.inst[n] k
  shadow    : (getGroup t.opa.inst[n] g).set (!y) = (getGroup s.opa.inst[n] g).set (!y)

/-- The job after the last step of its pass (03:R87): the passes go along the columns first. -/
def passedOn (j : OpaJob) (rows cols : Nat) : OpaJob :=
  { j with
    begun := false, s := 0, issued := 0, feed := [], passNo := j.passNo + 1, setY := !j.setY, attempt := 1, lastMiss := none,
    c0 := if j.c0 + cols < j.n then j.c0 + cols else if j.r0 + rows < j.m then 0 else j.c0,
    r0 := if j.n ≤ j.c0 + cols ∧ j.r0 + rows < j.m then j.r0 + rows else j.r0,
    done := if j.n ≤ j.c0 + cols ∧ j.m ≤ j.r0 + rows then true else j.done }

/-- An instance in a gap, which begins now unless it has begun (03:R92). -/
def gapped (fill : Nat) (i : OpaInst) : OpaInst :=
  if i.activity = .full ∨ i.activity = .ramp then { i with activity := .shortGap, lambda := min 16 fill } else i

/-- An a-cycle in which an instance with work issues no step (03:R91, R92). -/
def idled (s : State) (n : Fin 16) : State :=
  withInst s n (gapped s.opa.fill.toNat { s.opa.inst[n] with interval := s.opa.inst[n].interval - 1 })

/-- Exact integers as products. -/
def exactInts (vs : List Int) : List XVal := vs.map fun v => .real ⟨decide (v < 0), v.natAbs, 1, 0⟩

/-- The oldest job of an instance with a property. -/
def First (P : OpaJob → Prop) (i : OpaInst) (j : OpaJob) : Prop :=
  P j ∧ ∃ before after, i.jobs = before ++ j :: after ∧ ∀ x ∈ before, ¬ P x

/-- A set that holds a pass of a job, in a state. -/
def OfPass (T : AccSet) (j : OpaJob) (st : SetState) : Prop := T.owner = some (j.q.val, j.idx) ∧ T.st = st

/-- The next pass of a job that ends with DRAIN has issued its last step, and the job has read its vectors and lists
(04:R102, R115). -/
def DrainsNext (s : State) (i : OpaInst) (j : OpaJob) : Prop :=
  let T := (getGroup i (opaGroupNo j.desc)).set (drainSet j)
  j.only = false ∧ opaDrains j.desc = true ∧ j.fail = none ∧ OfPass T j .settle ∧ T.pass = j.drained ∧
    readsOut s j.q.val j.idx = false

/-- A drain-only job whose held set can drain, or whose group is no longer open (04:R102). -/
def DrainsHeld (s : State) (i : OpaInst) (j : OpaJob) : Prop :=
  let g := getGroup i (opaGroupNo j.desc)
  j.only = true ∧ j.fail = none ∧ j.drained = 0 ∧
    (g.tile = none ∨ (g.open_.st = .held ∧ readsOut s j.q.val j.idx = false))

/-- A KEEP job has issued its last step, and has read all it reads (04:R101). -/
def KeepsNow (s : State) (j : OpaJob) : Prop :=
  j.only = false ∧ opaDrains j.desc = false ∧ j.done = true ∧ j.fail = none ∧ readsOut s j.q.val j.idx = false

/-- The job whose descriptor has drained, or failed, and finishes next (04:R114, R103). -/
def Drained (i : OpaInst) (j : OpaJob) : Prop :=
  i.jobs.find? (fun j => opaDrains j.desc && j.done && !drains i j.q.val j.idx &&
    (j.fail.isSome || (if j.only then j.drained == 1 else j.drained == j.passNo))) = some j

/-- In t the engine has finished with the job's descriptor (04:R101, R114): the job is gone and its outcome stands. -/
structure Finished (s t : State) (n : Fin 16) (j : OpaJob) (e : Ended) : Prop where
  job    : t.opa.inst[n].jobs = s.opa.inst[n].jobs.filter fun x => ¬ (x.q = j.q ∧ x.idx = j.idx)
  flight : ∀ g ∈ (t.dq[j.q]).inflight, g.idx = j.idx → g.exc = j.exc ∧ g.replayed = j.replayed ∧ g.ended = some e
  others : ∀ p : Fin 32, p ≠ j.q → t.dq[p] = s.dq[p]

/-- The record of a detection in the array (14:R397). -/
def arrayRecord (s : State) (n : Fin 16) (ev : BitVec 16) (cls : Byte) (source : BitVec 16) (attempt : Nat) (who : Word)
    (row col : BitVec 8) (pass : Nat) : List (Word × FRec) :=
  insertDetected s.ctl.fcycles ⟨ev, cls, false, source, BitVec.ofNat 16 (attempt + n.val * 256), s.beat.value, who,
    BitVec.ofNat 64 (row.toNat + col.toNat * 256 + pass % 65536 * 65536)⟩ s.flt.detected

/-- The counts of detections with one more in a column group (14:R404). -/
def groupCounted (s : State) (g : Nat) : Svc :=
  { s.svc with cgCount := vmod s.svc.cgCount g (· + 1) }

/-- In t the pass that set y of group g of instance n held is to run again (14:R401): its set is FREE, its job begins the
pass afresh as the next attempt. -/
structure RunsAgain (s t : State) (n : Fin 16) (g : Nat) (y : Bool) (T : AccSet) (j : OpaJob) : Prop where
  set : (getGroup t.opa.inst[n] g).set y = .reset
  job : ∃ j', t.opa.inst[n].jobs = replaced s.opa.inst[n].jobs j j' ∧
    j'.restart = true ∧ j'.begun = false ∧ j'.done = false ∧ j'.s = 0 ∧ j'.r0 = T.r0 ∧ j'.c0 = T.c0 ∧
    j'.passNo = T.pass ∧ j'.setY = y ∧ j'.attempt = T.attempt + 1 ∧ j'.desc = j.desc ∧ j'.drained = j.drained

/-- The level and activity of a partition after an event (03:R92 to R95). -/
def smoothed (s : State) (n : Fin 16) (l : Nat) (a : Activity) : State :=
  withInst s n { s.opa.inst[n] with lambda := l, activity := a }

end Sys2Proof.Rule
end

