-- ==== Sys2Proof/Safety/Sensors.lean ====
section
/-! DEFINITION. Vocabulary of the statements about sensors, the re-plan, the voltage request and the array clock. -/

namespace Sys2Proof.Rule

open Machine

/-- The hottest junction site, the lowest-numbered of several (14:R413, 16:R445); no reading is a NaN. -/
structure Hottest (tj : Vector (BitVec 32) 16) (site : Fin 16) : Prop where
  numbers : ∀ k : Fin 16, valIsNan (decode32 (tj[k]).toNat) = false
  most    : ∀ k : Fin 16, le32 (tj[k]).toNat (tj[site]).toNat = true
  first   : ∀ k : Fin 16, k < site → le32 (tj[site]).toNat (tj[k]).toNat = false

/-- The state with a record of the sensors (14:R394, R397). -/
def sensed (s : State) (ev : BitVec 16) (cls : Byte) (detail : BitVec 16) (info0 info1 : Word) : State :=
  { s with flt := { s.flt with
    detected := insertDetected s.ctl.fcycles ⟨ev, cls, false, 0x0D00, detail, s.beat.value, info0, info1⟩ s.flt.detected } }

/-- The state with a warning of a reading beyond a limit, if it is (16:R445). -/
def warned (s : State) (c : Prop) [Decidable c] (ev detail : BitVec 16) (v lim : BitVec 32) : State :=
  if c then sensed s ev clsInfo detail (v.setWidth 64) (lim.setWidth 64) else s

/-- The warnings of the current and the power of a sample (16:R445). -/
def currents (s : State) (x : Sample) : State :=
  let s := warned s (above x.iblk 0x44D48000 = true) hwCurrent 0 x.iblk 0x44D48000
  warned s (above x.pblk 0x44A50000 = true) hwCurrent 1 x.pblk 0x44A50000

/-- The slowdown d of 14:R414 as a fraction: the greatest of 0, RO0/RO − 1 and PD/PD0 − 1. -/
structure Slowdown (s : State) (ro : Vector (BitVec 32) 96) (pd : Vector (BitVec 32) 48) (d : Slow) : Prop where
  whole : 0 < d.den
  rings : ∀ i : Fin 96, (fuseNat s (0x30 + 2 * i.val) 2 - (ro[i]).toNat) * d.den ≤ d.num * (ro[i]).toNat
  paths : ∀ j : Fin 48, ((pd[j]).toNat - fuseNat s (0xF0 + 2 * j.val) 2) * d.den ≤ d.num * fuseNat s (0xF0 + 2 * j.val) 2
  least : d.num = 0 ∨
    (∃ i : Fin 96, (fuseNat s (0x30 + 2 * i.val) 2 - (ro[i]).toNat) * d.den = d.num * (ro[i]).toNat) ∨
    ∃ j : Fin 48, ((pd[j]).toNat - fuseNat s (0xF0 + 2 * j.val) 2) * d.den = d.num * fuseNat s (0xF0 + 2 * j.val) 2

/-- need(f) of 14:R414 in mV, for the code of a clock. -/
def needed (s : State) (flagged : BitVec 16) (d : Slow) (code : Nat) : Nat :=
  fuseNat s (0x20 + 2 * code) 2 + 5 * ((500 * d.num + d.den - 1) / d.den) + (if flagged = 0 then 0 else 5) + 10

/-- f is the clock that a re-plan takes (14:R414), of codes 0 to 2 from the fastest: of the clocks from the current one on
the first whose need VLIMIT meets, or the last; or the next faster one, which has had its headroom twice. -/
structure Planned (s : State) (need : Nat → Nat) (f : Nat) : Prop where
  range : f ≤ 2
  down  : s.sens.plan.toNat < f → (∀ g, s.sens.plan.toNat ≤ g → g < f → s.sens.vlimit.toNat < need g) ∧
    (need f ≤ s.sens.vlimit.toNat ∨ f = 2)
  stay  : s.sens.plan.toNat = f → (need f ≤ s.sens.vlimit.toNat ∨ f = 2) ∧
    (0 < f → ¬ (need (f - 1) + 20 ≤ s.sens.vlimit.toNat ∧ s.sens.headroom.getLsbD (f - 1) = true))
  up    : f < s.sens.plan.toNat → f + 1 = s.sens.plan.toNat ∧ need f + 20 ≤ s.sens.vlimit.toNat ∧
    s.sens.headroom.getLsbD f = true ∧ (need (f + 1) ≤ s.sens.vlimit.toNat ∨ f + 1 = 2)

/-- The code of the voltage target, of 5 mV steps from 600 mV up, no higher than that of VLIMIT (15:R424). -/
def goalCode (s : State) : Nat := min ((s.sens.target - 600 + 4) / 5) ((s.sens.vlimit.toNat - 600) / 5)

/-- The state in which a planned clock step has begun where it may (14:R415): down at once, up once the voltage has
reached its target. -/
def stepsClock (s : State) : State :=
  let p := s.sens.plan
  let c := s.bnd.aclkSel
  if s.sens.hold = .none ∧ p ≠ c ∧ (c < p ∨ (goalCode s ≤ s.bnd.vreq.toNat ∧ s.bnd.vack = true)) then
    { s with sens := { s.sens with hold := .emptying p } }
  else s

/-- The state with another hold of the array. -/
def holding (s : State) (h : ClockHold) : State := { s with sens := { s.sens with hold := h } }

/-- t is s with a HW_MARGIN record of class UNIT (14:R397): its DETAIL, and in INFO the voltage requested and a slowdown
in parts per million. -/
def MarginNoted (s t : State) (detail : BitVec 16) : Prop :=
  ∃ ppm, t = sensed s hwMargin clsUnit detail (BitVec.ofNat 64 (600 + 5 * s.bnd.vreq.toNat)) ppm

end Sys2Proof.Rule
end

