-- ==== Sys2Proof/Certificates/Slice0/Obligations.lean ====
section
/-! DEFINITION. The statements. A statement of several groups of commands is the conjunction of its parts, which stand
before it under their own names. -/

open Sys2Proof Sys2Proof.Machine

/-- 09:R262, R263, R258; 14:R392. -/
def Sys2Proof.Rule.CheckedArithmetic : Prop :=
  ∀ (s : State) (c : Fin 8) (t : Byte) (k : Fin 8), Rule.Ready s c t k →
  ∀ (d a b : BitVec 5) (imm : BitVec 16),
    let leaves (f : Residue → Instr) (v : Bank) : Prop :=
      Rule.Gives (f .ok) s (Rule.commit s c k v) ∧
      Rule.Gives (f .retried) s (detect ccParity clsCorrected (BitVec.ofNat 16 (0x200 + c.val))
        (BitVec.ofNat 16 (k.val + 256)) ((Rule.bank s c k).pc.setWidth 64) 0 (Rule.commit s c k v))
    Rule.checked3 leaves c (Rule.bank s c k) d a b ∧ Rule.checkedI leaves c (Rule.bank s c k) d a imm

/-- 09:R262, R263. -/
def Sys2Proof.Rule.RegisterOperations : Prop :=
  ∀ (s : State) (c : Fin 8) (t : Byte) (k : Fin 8), Rule.Ready s c t k →
  ∀ (d a b : BitVec 5) (imm : BitVec 16) (hw : Fin 4) (code : BitVec 4),
    let v := Rule.bank s c k
    let leaves (i : Instr) (w : Bank) : Prop := Rule.Gives i s (Rule.commit s c k w)
    Rule.plain3 leaves c v d a b ∧ Rule.plain2 leaves c v d a ∧ Rule.plainI leaves c v d a imm ∧
    Rule.halfwords leaves c v d hw imm ∧
    (code ≠ 0xF → leaves (.pick c code d a b)
      (Rule.result v d (if Rule.condition code v.cs then Rule.reg v a else Rule.reg v b)))

/-- 09:R262, R263, R258; 14:R392; 09:R262, R263. -/
def Obligations.RegisterArithmetic : Prop := Rule.CheckedArithmetic ∧ Rule.RegisterOperations

/-- 09:R260, R262, R264. -/
def Obligations.BranchesAndJumps : Prop :=
  ∀ (s : State) (c : Fin 8) (t : Byte) (k : Fin 8), Rule.Ready s c t k →
  ∀ (d a b : BitVec 5) (off : BitVec 16) (off22 : BitVec 22) (off26 : BitVec 26) (code : BitVec 4),
    let v := Rule.bank s c k
    let leaves (i : Instr) (w : Bank) : Prop := Rule.Gives i s (Rule.commit s c k w)
    Rule.branches leaves c v a b off ∧ Rule.jumps leaves c v off26 ∧
    (code ≠ 0xF → leaves (.brc c code off22) (Rule.branch v (Rule.condition code v.cs = true) off22.toInt)) ∧
    (let target := (Rule.reg v a).toInt + off.toInt
     target % 4 = 0 →
     leaves (.gor c d a off) { Rule.put v d ((v.pc + 4).setWidth 64) with pc := BitVec.ofInt 48 target })

/-- 15:R422, R423; 13:R450, R452. -/
def Sys2Proof.Rule.ResetsBegin : Prop :=
  ∀ (s : State) (domain : Fin 4) (edges : Nat),
    let rail := Rule.withBit s.ctl.pgood domain.val false
    -- writes under way leave free bytes
    let reset (w t : State) : Prop := t = { w with mem := t.mem, ctl := { w.ctl with free := t.ctl.free } }
    (s.ctl.por = false →
      Rule.Ends .powerOnResetAssert s (reset (Rule.inPowerOnReset s s.ctl.pgood)) ∧
      Rule.Ends (.powerGoodFall domain) s (reset (Rule.inPowerOnReset s rail))) ∧
    (s.ctl.por = true →
      Rule.Gives .powerOnResetAssert s s ∧
      Rule.Gives (.powerGoodFall domain) s { s with ctl := { s.ctl with pgood := rail } }) ∧
    (s.ctl.por = false → s.ctl.wres = false → 64 ≤ edges →
      Rule.Ends (.warmResetAssert edges) s (reset (Rule.inWarmReset s))) ∧
    (s.ctl.por = true ∨ s.ctl.wres = true ∨ edges < 64 → Rule.Gives (.warmResetAssert edges) s s) ∧
    (Rule.NoWrites s →
      (s.ctl.por = false →
        Rule.Gives .powerOnResetAssert s (Rule.inPowerOnReset s s.ctl.pgood) ∧
        Rule.Gives (.powerGoodFall domain) s (Rule.inPowerOnReset s rail)) ∧
      (s.ctl.por = false → s.ctl.wres = false → s.memp.ilv = 1 → 64 ≤ edges →
        Rule.Gives (.warmResetAssert edges) s (Rule.inWarmReset s)))

/-- 15:R422, 16:R440, 14:R399. -/
def Sys2Proof.Rule.ResetsEnd : Prop :=
  ∀ s : State,
    (s.ctl.por = true → Rule.Gives .powerOnResetRelease s
      { s with ctl := { s.ctl with por := false, pgood := 0xF, state := .boot, phase := .b1 } }) ∧
    (s.ctl.wres = true → Rule.Gives .warmResetRelease s
      { s with
        ctl := { s.ctl with wres := false, state := .boot, phase := .b1, lostAtReset := 0 },
        flt := { s.flt with lost := s.flt.lost + BitVec.ofNat 64 s.ctl.lostAtReset } }) ∧
    (s.ctl.por = false → Rule.Gives .powerOnResetRelease s s) ∧
    (s.ctl.wres = false → Rule.Gives .warmResetRelease s s)

/-- 15:R422, R423; 13:R450, R452; 15:R422, 16:R440, 14:R399. -/
def Obligations.Resets : Prop := Rule.ResetsBegin ∧ Rule.ResetsEnd

/-- 15:R435, 16:R441, 14:R400, R405. -/
def Sys2Proof.Rule.FuseCommands : Prop :=
  ∀ (s : State) (w : BitVec 32) (err : Bool),
    (∀ h : s.fuses.next < 1024, s.ctl.phase = .b1 →
      Rule.Gives (.fuseReadData w) s
        { s with fuses := { s.fuses with words := s.fuses.words.set s.fuses.next w, next := s.fuses.next + 1 } } ∧
      Rule.Ends .fuseReadTimeout s fun t =>
        t.ctl.state = .fault ∧ t.ctl.phase = .none ∧ t.flt.evFatal = true ∧ t.gen.reqStaged = 0 ∧ t.gen.armed = false ∧
        t.flt.detected = insertDetected s.ctl.fcycles
          ⟨hwBoot, clsFatal, false, 0x0E00, 1, s.beat.value, BitVec.ofNat 64 s.fuses.next, 0⟩ s.flt.detected ∧
        t.fuses = s.fuses ∧ t.cores = s.cores ∧ t.flags = s.flags) ∧
    (∀ (p : FuseProg) (rest : List FuseProg) (_ : p.word < 1024), s.fuses.prog = p :: rest →
      (err = false → Rule.Gives (.fuseProgramDone err) s
        { s with fuses := { s.fuses with
            words := s.fuses.words.set p.word (s.fuses.words[p.word] ||| p.bits), prog := rest } }) ∧
      (err = true → p.tries < 2 → Rule.Gives (.fuseProgramDone err) s
        { s with fuses := { s.fuses with prog := { p with tries := p.tries + 1 } :: rest } }) ∧
      (err = true → 2 ≤ p.tries → Rule.Gives (.fuseProgramDone err) s
        { s with
          fuses := { s.fuses with prog := rest },
          bnd := { s.bnd with flags := Rule.withBit s.bnd.flags 13 true } }))

/-- 16:R440, R441. -/
def Sys2Proof.Rule.BootPhases : Prop :=
  ∀ (s : State) (r : BootChecks),
    (s.ctl.phase = .b1 → s.fuses.next < 1024 → Rule.Gives (.bootPhaseEnd r) s s) ∧
    (s.ctl.phase = .b1 → 1024 ≤ s.fuses.next → (spareActive s).isSome = true →
      Rule.Ends (.bootPhaseEnd r) s fun t =>
        t.ctl = { s.ctl with phase := .b2 } ∧
        t.mg.keys[0] = some (BitVec.ofNat 128 (fuseNat s 0x10 16)) ∧
        t.gen = { s.gen with testctl := BitVec.ofNat 32 (fuseNat s 0x350 4) } ∧
        t.svc = { s.svc with
          retCG := BitVec.ofNat 16 (fuseNat s 0x310 2), retCC := BitVec.ofNat 8 (fuseNat s 0x312 1),
          retVE := BitVec.ofNat 8 (fuseNat s 0x313 1), retBank := BitVec.ofNat 128 (fuseNat s 0x314 16) } ∧
        t.mem = s.mem ∧ t.flt = s.flt) ∧
    (s.ctl.phase = .b2 → s.ctl.warmBoot = false ∨ s.mg.imgState = 0 → r.romGood = true →
      Rule.Ends (.bootPhaseEnd r) s fun t =>
        t.ctl.phase = .b3 ∧ t.ctl.fwUp = true ∧ t.mg.fwSource = 0 ∧ t.mg.fwVersion = 0x01000000 ∧
        t.mg.nonce ≠ 0 ∧ (s.mg.nonce ≠ 0 → t.mg.nonce = s.mg.nonce)) ∧
    (s.ctl.phase = .b3 → s.ctl.b3Done = false → s.ctl.state = .boot →
      Rule.Ends (.bootPhaseEnd r) s fun t =>
        (t.ctl.state = .fault ∨
          t.ctl = { s.ctl with phase := .b4, b3Done := true, free := t.ctl.free } ∧ t.sm.ueWords = [] ∧
          (∀ i ∈ r.badSpares, t.sm.spareBad[i] = true) ∧
          ∀ a, Memory.get t.mem a = if region s a = .stage then 0 else Memory.get s.mem a) ∧
        (r.badBanks = [] → (∀ i ∈ r.badSpares, s.sm.spare[i] = none) → t.ctl.state = .boot)) ∧
    (s.ctl.phase = .b3 → s.ctl.b3Done = true →
      Rule.Gives (.bootPhaseEnd r) s { s with ctl := { s.ctl with phase := .b4 } }) ∧
    (s.ctl.phase = .b4 → r.votedGood = true →
      Rule.Gives (.bootPhaseEnd r) s { s with ctl := { s.ctl with phase := .b5 } }) ∧
    (s.ctl.phase = .b5 →
      Rule.Ends (.bootPhaseEnd r) s fun t =>
        t.ctl.state = .config ∧ t.ctl.phase = .none ∧ t.bnd.aclkSel = t.sens.plan ∧
        t.mem = s.mem ∧ t.dq = s.dq ∧ t.cores = s.cores ∧ t.flags = s.flags ∧ t.svc = s.svc)

/-- 15:R435, 16:R441, 14:R400, R405; 16:R440, R441. -/
def Obligations.BringUp : Prop := Rule.FuseCommands ∧ Rule.BootPhases

/-- 15:R420, R423, R431; 14:R416. -/
def Obligations.BoundaryConditions : Prop :=
  ∀ (s : State) (fclk aclk ticks : Nat) (fLost aLost : Bool),
    Rule.Ends (.clockMeasureWindow fclk aclk fLost aLost) s (fun t => Rule.BoundaryOnly s t fun i =>
      (i = 0 ∧ fLost = true) ∨ (i = 1 ∧ aLost = true ∧ s.ctl.pgood.getLsbD 3 = true) ∨
      (i = 2 ∧ (fclk * 1000 < 140000 * 995 ∨ 140000 * 1005 < fclk * 1000)) ∨
      (i = 3 ∧ (let nominal := 100 * clockMhz s.bnd.aclkSel s.bnd.aclkCur
                aclk * 1000 < nominal * 995 ∨ nominal * 1005 < aclk * 1000))) ∧
    Rule.Ends (.beatMeasureWindow ticks) s (fun t => Rule.BoundaryOnly s t fun i =>
      i = 4 ∧ (ticks < 9900 ∨ 10100 < ticks)) ∧
    Rule.Gives .mclkWatchdog s { s with bnd := { s.bnd with mgAlive := false } } ∧
    (s.ctl.por = false → s.bnd.chainIn = true → s.bnd.mgRisen = false →
      Rule.Gives .mgAliveRise s { s with bnd := { s.bnd with mgAlive := true, mgRisen := true } }) ∧
    (s.bnd.mgRisen = true → Rule.Gives .mgAliveRise s s) ∧
    (s.ctl.state = .fault → s.mg.recovery = 1 →
      Rule.Gives .recoveryTimer s { s with bnd := { s.bnd with wrstReq := true } }) ∧
    (s.ctl.state ≠ .fault ∨ s.mg.recovery ≠ 1 → Rule.Gives .recoveryTimer s s)

/-- 15:R438. -/
def Obligations.TestAccessPort : Prop :=
  ∀ s : State,
    Rule.Gives .tapReset s { s with tap := ⟨0x01, false⟩ } ∧
    Rule.Gives .idcode s { s with tap := { s.tap with ir := 0x01 } } ∧
    Rule.Gives .ijtag s
      { s with tap := ⟨0x10, decide (s.ctl.state = .service) && s.mg.testmode.getLsbD 0⟩ } ∧
    Rule.Gives .bypass s { s with tap := { s.tap with ir := 0xFF } }

/-- 15:R432, 06:R187, 14:R416, 12:R357, 14:R404, R413 to R415. -/
def Obligations.BeatsAndLoads : Prop :=
  ∀ (s : State) (since : Nat) (v : Word), s.ctl.por = false →
    let begins (t : State) : Prop :=
      t.sens = { s.sens with stepped := false, replanOn := s.sens.replan, sampleOn := s.sens.sample } ∧
      (t.beat.value.toNat % Max.max 1 s.bc.window.toNat = 0 → t.bc.ceWin = .replicate 16 0) ∧
      (t.beat.value.toNat % Max.max 1 s.svc.cgWindow.toNat = 0 →
        t.svc.cgCount = .replicate 16 0 ∧ t.svc.veCount = .replicate 8 0)
    let only (t : State) : Prop := t = { s with
      beat := t.beat, mg := t.mg, sens := t.sens, bc := { s.bc with ceWin := t.bc.ceWin, winBeat := t.bc.winBeat },
      svc := { s.svc with cgCount := t.svc.cgCount, veCount := t.svc.veCount },
      sm := { s.sm with ceWindow := t.sm.ceWindow } }
    (since < 700 → Rule.Gives (.beatTick since []) s
      { s with bnd := { s.bnd with flags := Rule.withBit s.bnd.flags 5 true } }) ∧
    (700 ≤ since → Rule.Ends (.beatTick since []) s fun t =>
      t.beat = { s.beat with
        value := (if s.beat.loaded then s.beat.value else s.beat.value + 1), marks := t.beat.marks } ∧
      t.mg = (if s.ctl.state = .run then { s.mg with avail := s.mg.avail + 1 }
        else if s.mg.window = 1 then { s.mg with excluded := s.mg.excluded + 1 }
        else { s.mg with unavail := s.mg.unavail + 1 }) ∧
      only t ∧ (s.beat.loaded = false → begins t)) ∧
    Rule.Ends (.beatLoad v) s (fun t =>
      t.beat.value = v ∧ t.beat.loaded = true ∧ t.beat.misses = s.beat.misses ∧ t.mg = s.mg ∧
      t.beat.status.status.getLsbD 0 = true ∧ (v.toNat < s.beat.value.toNat → t.beat.status.status.getLsbD 1 = true) ∧
      only t ∧ begins t)

/-- 14:R390, R400, R406; 08:R233, R234; 12:R357; 13:R388. -/
def Sys2Proof.Rule.Upsets : Prop :=
  ∀ (s : State) (c k : Fin 8) (r : BitVec 5) (w : Fin 12) (row : BitVec 5) (i : Nat) (word : BitVec 23) (off : BitVec 26)
    (l : BcLine),
    s.ctl.por = false → s.ctl.wres = false → s.beat.loaded = true →
    let found (e : Upset) (P : State → Prop) : Prop :=
      Rule.Ends (.beatTick 700 [e]) s fun t => P t ∧ t.beat.value = s.beat.value
    let line := (stageBase + word.toNat * 32) / 32
    (r ≠ 0 → found (.register c k r) fun t =>
      ((t.cores[c]).banks[k]).bad = ((s.cores[c]).banks[k]).bad ||| (1 : BitVec 32) <<< r.toNat ∧
      (∀ x : Fin 32, x.val ≠ r.toNat → ((t.cores[c]).banks[k]).g[x] = ((s.cores[c]).banks[k]).g[x]) ∧
      (∀ j : Fin 8, j ≠ k → (t.cores[c]).banks[j] = (s.cores[c]).banks[j]) ∧ t.mem = s.mem) ∧
    found (.tileRow c w row) (fun t =>
      ((t.cores[c]).tiles[w]).bad = ((s.cores[c]).tiles[w]).bad ||| (1 : BitVec 32) <<< row.toNat ∧
      (∀ x : Fin 12, x ≠ w → (t.cores[c]).tiles[x] = (s.cores[c]).tiles[x]) ∧ (t.cores[c]).banks = (s.cores[c]).banks) ∧
    found (.tlb i) (fun t => t.xlat = { s.xlat with tlb := s.xlat.tlb.eraseIdx i } ∧ t.mem = s.mem ∧ t.flt = s.flt) ∧
    found (.voted none) (fun t => t.ctl.state = .fault ∧ t.flt.evFatal = true) ∧
    (word.toNat * 32 < smBytes s → found (.stage word .uncorrectable) fun t =>
      line ∈ t.sm.ueWords ∧ t.mem = s.mem ∧ t.flt = s.flt) ∧
    (bcFind s l.line = some l → l.bad = false → l.dirty = true → found (.uncorrectable l.line) fun t =>
      t.bc.lines = s.bc.lines.map (fun x => if x.line = l.line then { x with bad := true } else x) ∧
      t.bc.status.status.getLsbD 4 = true ∧ t.mem = s.mem) ∧
    (parityCovered off.toNat = true → off ∉ s.gen.parity → found (.config off) fun t =>
      t.gen = { s.gen with latent := t.gen.latent } ∧ off ∈ t.gen.latent ∧ t.flt = s.flt)

/-- 13:R386, R387; 15:R433; 01:R25. -/
def Sys2Proof.Rule.ApplyEdges : Prop :=
  ∀ (s : State) (src : Src), Rule.NoMismatch s → Rule.NoUses s →
    s.ctl.state = .config ∨ s.ctl.state = .run ∨ s.ctl.state = .hold →
    (s.gen.extEn = true → s.gen.edged = false → Rule.Ends .applyIn s fun t => Rule.EdgeTaken s t ∧ t.gen.armed = s.gen.armed) ∧
    (s.gen.extEn = false ∨ s.gen.edged = true → Rule.Gives .applyIn s s) ∧
    (Rule.Writer s src → s.gen.now = false → s.bnd.hostHeld = [] → s.rme.inHeld = [] →
      let asked := settle s { s with gen := { s.gen with now := true } }
      ∃ u t, Rule.CycleEnded asked u ∧ Rule.EdgeTaken u t ∧ t.gen.armed = s.gen.armed ∧
        Rule.Comes (.applyNow (.reg src)) s (settle asked t)) ∧
    (s.gen.armed = true → s.gen.applyAt.toNat ≤ s.beat.value.toNat → s.gen.edged = false →
      Rule.Ends .scheduledApply s fun t => Rule.EdgeTaken s t ∧ t.gen.armed = false) ∧
    (s.gen.armed = true → s.gen.applyAt.toNat ≤ s.beat.value.toNat → s.gen.edged = true →
      Rule.Gives .scheduledApply s { s with gen := { s.gen with armed := false } }) ∧
    (s.gen.armed = false ∨ s.beat.value.toNat < s.gen.applyAt.toNat → Rule.Gives .scheduledApply s s)

/-- 13:R371, R384, R387. -/
def Sys2Proof.Rule.RequestsAndSchedules : Prop :=
  ∀ (s : State) (src : Src) (code : Byte) (v : Word), Rule.NoMismatch s → Rule.Writer s src →
    s.ctl.state = .config ∨ s.ctl.state = .run ∨ s.ctl.state = .hold →
    (code = 0 ∨ (Rule.transition s.ctl.state code.toNat).isSome = true →
      Rule.Gives (.stateRequest (.reg src) code) s
        { s with gen := { s.gen with reqStaged := code.setWidth 3, reqPath := .register } }) ∧
    (1 ≤ code.toNat → code.toNat ≤ 3 → Rule.transition s.ctl.state code.toNat = none →
      Rule.Ends (.stateRequest (.reg src) code) s fun t =>
        t.gen.status.status.getLsbD 3 = true ∧ t.gen.reqStaged = s.gen.reqStaged ∧ t.ctl = s.ctl ∧
        t.flt.detected = insertDetected s.ctl.fcycles ⟨mgStateEv, clsInfo, false, 0x0C00, 0, s.beat.value,
          BitVec.ofNat 64 (0x04000000 + stateCode s.ctl.state), 0⟩ s.flt.detected) ∧
    Rule.Gives (.applyAtWrite src v) s { s with gen := { s.gen with applyAt := v, armed := false } } ∧
    (s.beat.value.toNat < v.toNat → Rule.Gives (.applyArm (.reg src) v) s
      { s with gen := { s.gen with applyAt := v, armed := true } }) ∧
    (v.toNat ≤ s.beat.value.toNat → Rule.Ends (.applyArm (.reg src) v) s fun t =>
      t.gen.applyAt = v ∧ t.gen.armed = false ∧ t.gen.status.status.getLsbD 1 = true ∧
      t.flt.detected = insertDetected s.ctl.fcycles
        ⟨mgApplyLate, clsInfo, false, 0x0A00, 0, s.beat.value, v, s.beat.value⟩ s.flt.detected)

/-- 13:R371, R384, R387; 13:R386, R387; 15:R433; 01:R25. -/
def Obligations.RequestsAndEdges : Prop := Rule.RequestsAndSchedules ∧ Rule.ApplyEdges

/-- 00:R18. -/
def Sys2Proof.Rule.SqcWrites : Prop :=
  ∀ (s : State) (src : Src) (off : BitVec 26) (v : Word) (get : State → Sqc) (put : State → Sqc → State),
    Rule.SqcAt off get put → Rule.Writer s src →
    ((get s).seq = v.extractLsb' 48 16 → Rule.Gives (.sqcClear src off v) s
      (Rule.late (put s { get s with status := (get s).status &&& ~~~(v.extractLsb' 0 48), stamp := 0 }))) ∧
    ((get s).seq ≠ v.extractLsb' 48 16 → Rule.Gives (.sqcClear src off v) s
      (Rule.late { s with gen := { s.gen with sqmiss := s.gen.sqmiss + 1 } }))

/-- 00:R14, R16; 06:R152, R153; 08:R246, R248, R253; 12:R355, R357; 13:R380, R384. -/
def Sys2Proof.Rule.PlainWrites : Prop :=
  ∀ (s : State) (src : Src) (v : Word), Rule.NoMismatch s → Rule.Writer s src →
    (∀ q : Fin 32,
      Rule.Gives (.registerWrite src (Rule.dqReg q 0x48) v) s (Rule.late (Rule.withQ s q { s.dq[q] with seed := v })) ∧
      Rule.Gives (.registerWrite src (Rule.dqReg q 0x50) v) s
        (Rule.late (Rule.withQ s q { s.dq[q] with w := v.extractLsb' 0 5, fast := v.getLsbD 8 })) ∧
      Rule.Gives (.registerWrite src (Rule.dqReg q 0x58) v) s
        (Rule.withQ s q { s.dq[q] with barmask := v.extractLsb' 0 32 })) ∧
    Rule.Gives (.registerWrite src 0x28 v) s { s with gen := { s.gen with extEn := v.getLsbD 0 } } ∧
    (v.extractLsb' 0 32 = s.gen.testctl → Rule.Gives (.registerWrite src 0x50 v) s s) ∧
    (v.extractLsb' 0 32 ≠ s.gen.testctl → Rule.Stops (.registerWrite src 0x50 v) s .keepBitChanged) ∧
    Rule.Gives (.registerWrite src 0x580000 v) s { s with rme := { s.rme with
      flagin := v.getLsbD 48, self := v.extractLsb' 32 16, tmo := v.extractLsb' 0 16 } } ∧
    (∀ n : Fin 8, Rule.Gives (.registerWrite src (BitVec.ofNat 26 (0x580100 + 8 * n.val)) v) s { s with rme := { s.rme with
      inb := s.rme.inb.set n.val ⟨v.getLsbD 63, v.getLsbD 62, v.extractLsb' 56 6, v.extractLsb' 20 20⟩ } }) ∧
    (∀ n : Fin 2048, Rule.Gives (.registerWrite src (BitVec.ofNat 26 (0x5A0000 + 8 * n.val)) v) s { s with rme := { s.rme with
      win := s.rme.win.set n.val ⟨v.getLsbD 16, v.extractLsb' 0 16⟩ } }) ∧
    Rule.Gives (.registerWrite src 0x800018 v) s { s with bc := { s.bc with
      window := v.extractLsb' 32 32, limit := v.extractLsb' 0 16 } } ∧
    Rule.Gives (.registerWrite src 0x800028 v) s { s with bc := { s.bc with plBase := v.extractLsb' 7 45 } } ∧
    (∀ n : Fin 130, Rule.Gives (.registerWrite src (BitVec.ofNat 26 (0xC01000 + 8 * n.val)) v) s { s with mbox := { s.mbox with
      req := s.mbox.req.set n.val v } }) ∧
    (∀ off : BitVec 26, off.toNat % 8 ≠ 0 → Rule.Comes (.registerWrite src off v) s s)

/-- 00:R14; 03:R74; 04:R119, R122. -/
def Sys2Proof.Rule.StagedWrites : Prop :=
  ∀ (s : State) (src : Src) (v : Word) (high : Bool), Rule.NoMismatch s → Rule.Writer s src →
    s.ctl.state = .config ∨ s.ctl.state = .run ∨ s.ctl.state = .hold →
    let at_ (off : Nat) : BitVec 26 := BitVec.ofNat 26 (if high then off + 0x8000 else off)
    Rule.Gives (.stagedWrite src (at_ 0x300008) v) s { s with opa := { s.opa with pmodeStaged := v.extractLsb' 0 3 } } ∧
    Rule.Gives (.stagedWrite src (at_ 0x300010) v) s { s with opa := { s.opa with fillStaged := v.extractLsb' 0 5 } } ∧
    (∀ d : Fin 16, Rule.Gives (.stagedWrite src (at_ (0x300400 + 8 * d.val)) v) s { s with opa := { s.opa with
      dprofStaged := s.opa.dprofStaged.set d.val (v.extractLsb' 0 17 &&& 0x1FFCF) } }) ∧
    (∀ (a : Fin 8) (i : Fin 64),
      let seg (g : ActSeg) : State := { s with opa := { s.opa with
        actStaged := s.opa.actStaged.set a.val ((s.opa.actStaged[a]).set i.val g) } }
      let g := (s.opa.actStaged[a])[i]
      let off := 0x302000 + a.val * 0x800 + i.val * 0x20
      Rule.Gives (.stagedWrite src (at_ off) v) s (seg { g with linear := v.getLsbD 32, b := v.extractLsb' 0 32 }) ∧
      Rule.Gives (.stagedWrite src (at_ (off + 8)) v) s (seg { g with c1 := v.extractLsb' 32 32, c0 := v.extractLsb' 0 32 }) ∧
      Rule.Gives (.stagedWrite src (at_ (off + 16)) v) s (seg { g with c3 := v.extractLsb' 32 32, c2 := v.extractLsb' 0 32 })) ∧
    (Rule.transition s.ctl.state (v.toNat % 8) ≠ none → Rule.Gives (.stagedWrite src (at_ 0x10) v) s
      { s with gen := { s.gen with reqStaged := v.extractLsb' 0 3, reqPath := .register } })

/-- 00:R18; 00:R14, R16; 06:R152, R153; 08:R246, R248, R253; 12:R355, R357; 13:R380, R384; 00:R14; 03:R74; 04:R119,
R122. -/
def Obligations.RegisterWrites : Prop := Rule.SqcWrites ∧ Rule.PlainWrites ∧ Rule.StagedWrites

/-- 06:R149, R150, R151, R165, R178, R189. -/
def Obligations.QueueControl : Prop :=
  ∀ (s : State) (src : Src) (q : Fin 32) (v : Word), Rule.NoMismatch s → Rule.Writer s src →
    let d := s.dq[q]
    let quiet := d.enable = false ∨ s.ctl.state = .config ∨ (d.halted = true ∧ d.inflight = [])
    (quiet → fld v 24 4 ≤ 5 → fld v 16 5 ≤ 16 → v.getLsbD 0 = true →
      Rule.Gives (.dqCfgWrite src q 0 v) s (Rule.withQ s q
        (let e := { d with
          ctx := v.extractLsb' 48 16, inst := v.extractLsb' 32 8, cls := v.extractLsb' 24 4,
          log2size := v.extractLsb' 16 5, enable := true, fetched := none, ahead := [] }
        if d.enable then e
        else { e with tail := 0, head := 0, done := 0, halted := false, halting := false, inflight := [], signalled := [] }))) ∧
    (quiet → fld v 24 4 ≤ 5 → fld v 16 5 ≤ 16 → v.getLsbD 0 = false → d.inflight = [] →
      Rule.Gives (.dqCfgWrite src q 0 v) s (Rule.withQ s q { d with
        ctx := v.extractLsb' 48 16, inst := v.extractLsb' 32 8, cls := v.extractLsb' 24 4,
        log2size := v.extractLsb' 16 5, enable := false, tail := d.head, fetched := none, ahead := [], signalled := [] })) ∧
    (quiet → 5 < fld v 24 4 ∨ 16 < fld v 16 5 → Rule.Gives (.dqCfgWrite src q 0 v) s (Rule.dqWithEvent s q 4)) ∧
    (quiet → Rule.Gives (.dqCfgWrite src q 1 v) s
      (Rule.withQ s q { d with rbase := v.extractLsb' 0 48 &&& 0xFFFFFFFFF000, fetched := none, ahead := [] })) ∧
    (quiet → Rule.Gives (.dqCfgWrite src q 2 v) s
      (Rule.withQ s q { d with cbase := v.extractLsb' 0 48 &&& 0xFFFFFFFFF000 })) ∧
    (¬ quiet → ∀ reg, Rule.Gives (.dqCfgWrite src q reg v) s (Rule.dqWithEvent s q 4)) ∧
    (s.ctl.state = .config ∨ s.ctl.state = .run ∨ s.ctl.state = .hold →
      let t := v.extractLsb' 0 32
      let accepted := d.enable = true ∧ Rule.ahead d.tail d.done ≤ Rule.ahead t d.done ∧
        Rule.ahead t d.done ≤ 2 ^ d.log2size.toNat
      (accepted → Rule.Gives (.dqDoorbell src q v) s (Rule.withQ s q { d with tail := t })) ∧
      (¬ accepted → Rule.Gives (.dqDoorbell src q v) s (Rule.dqWithEvent s q 3))) ∧
    (s.ctl.state = .service ∨ s.ctl.state = .fault → Rule.Gives (.dqDoorbell src q v) s s) ∧
    (d.halted = true →
      Rule.Gives (.queueFlush src q) s (Rule.late (Rule.withQ s q { d with
        tail := d.head, fetched := none, ahead := [], signalled := [], halted := decide (d.haltEvent ≠ dqDeadlock) })) ∧
      Rule.Gives (.queueResume src q) s (Rule.late (Rule.withQ s q { d with halted := false })) ∧
      Rule.Gives (.queueHalt src q) s (Rule.late s)) ∧
    (d.halted = false →
      Rule.Gives (.queueFlush src q) s (Rule.late s) ∧ Rule.Gives (.queueResume src q) s (Rule.late s) ∧
      (d.inflight ≠ [] → Rule.Gives (.queueHalt src q) s (Rule.late (Rule.withQ s q { d with halting := true }))) ∧
      (d.inflight = [] → Rule.Gives (.queueHalt src q) s (Rule.late
        (Rule.dqWithEvent (Rule.withQ s q { d with
          halted := true, halting := false, evHalt := true, haltEvent := 0, haltDetail := 0, haltIndex := d.head,
          fetched := d.fetched.filter (·.barrier), ahead := [] }) q 0))))

/-- 06:R181, R182; 01:R27. -/
def Obligations.FlagUpdates : Prop :=
  ∀ (s : State) (src : Src) (f : Fin 4096) (v : BitVec 32), Rule.NoMismatch s → Rule.Writer s src →
    s.ctl.state = .config ∨ s.ctl.state = .run ∨ s.ctl.state = .hold →
    let post (op : FlagOp) : State :=
      { s with flags := { s.flags with upds := insertUpd ⟨srcOrder src, f.val, op⟩ s.flags.upds } }
    Rule.Gives (.flagWriteSet src f v) s (post (.set v)) ∧
    Rule.Gives (.flagWriteAdd src f v) s (post (.add v)) ∧
    (s.flags.upds = [] → flagVal s f.val = s.flags.base[f] ∧
      flagVal (post (.set v)) f.val = v ∧ flagVal (post (.add v)) f.val = s.flags.base[f] + v ∧
      ∀ g : Fin 4096, g ≠ f →
        flagVal (post (.set v)) g.val = s.flags.base[g] ∧ flagVal (post (.add v)) g.val = s.flags.base[g])

/-- 08:R243, 13:R382, 15:R430, 01:R34. -/
def Obligations.HostWindow : Prop :=
  ∀ (s : State) (tag : BitVec 6) (addr : BitVec 44) (be : BitVec 256) (data : BitVec 2048),
    let pa := addr.toNat * 256
    let answer (t : State) (d : BitVec 2048) : State :=
      { t with bnd := { t.bnd with hostOut := t.bnd.hostOut ++ [(tag, d)] } }
    let ones := hostData ((maskBits be).map fun i => (i, 0xFF))
    -- the request's credit goes back, and of the answers of the memory ports the window's own are used up
    let credit : State := { s with bnd := { s.bnd with hwCred := s.bnd.hwCred + 1 } }
    let taken : State := { credit with memp := { s.memp with got := s.memp.got.filter (·.1 != 5), asks := [] } }
    let split : State := { credit with bnd := { credit.bnd with flags := Rule.withBit s.bnd.flags 12 true } }
    Rule.Gives (.hostWindowRead tag addr be true) s (answer split ones) ∧
    Rule.Gives (.hostWindowWrite addr be data true) s split ∧
    (s.bnd.hostHeld = [] → region s pa = .none ∨ region s pa = .remote →
      Rule.Gives (.hostWindowRead tag addr be false) s (answer taken ones) ∧
      Rule.Gives (.hostWindowWrite addr be data false) s taken) ∧
    (s.bnd.hostHeld = [] → s.ctl.state = .boot → Rule.Gives (.hostWindowWrite addr be data false) s taken) ∧
    (s.bnd.hostHeld = [] → s.ctl.state ≠ .boot → s.sm.ueWords = [] → s.sm.ceWords = [] → region s pa = .stage →
      Rule.Gives (.hostWindowRead tag addr be false) s
        (answer taken (hostData ((maskBits be).map fun i => (i, Memory.get s.mem (pa + i))))) ∧
      Rule.Ends (.hostWindowWrite addr be data false) s fun t =>
        (∀ a, Memory.get t.mem a =
          if pa ≤ a ∧ a < pa + 256 ∧ be.getLsbD (a - pa) = true then data.extractLsb' (8 * (a - pa)) 8
          else Memory.get s.mem a) ∧
        t = { taken with mem := t.mem }) ∧
    (∀ r rest, s.bnd.hostHeld = r :: rest → region s pa ≠ .ctl →
      let held (x : HostReq) : State := { credit with bnd := { credit.bnd with hostHeld := s.bnd.hostHeld ++ [x] } }
      let unanswered (u : State) : Prop := (hostPerform r (portView 5 u)).memp.asks ≠ []
      (unanswered (held (.read tag addr be)) → Rule.Ends (.hostWindowRead tag addr be false) s fun t =>
        t = { held (.read tag addr be) with memp := t.memp }) ∧
      (unanswered (held (.write addr be data)) → Rule.Ends (.hostWindowWrite addr be data false) s fun t =>
        t = { held (.write addr be data) with memp := t.memp })) ∧
    (∀ old a e young, s.bnd.hostHeld = old ++ .read tag a e :: young → (∀ x f, .read tag x f ∉ old ++ young) →
      Rule.Gives (.hostWindowReadTimeout tag) s (answer { s with bnd := { s.bnd with hostHeld := old ++ young } }
        (hostData ((maskBits e).map fun i => (i, 0xFF)))))

/-- 06:R168; 05:R145, R146; 06:R174. -/
def Sys2Proof.Rule.HeadsOfQueues : Prop :=
  ∀ (s : State) (q : Fin 32),
    let d := s.dq[q]
    let fetches (f : Fetched) (t : State) : Prop :=
      t.mem = s.mem ∧ (t.dq[q]).head = d.head ∧ (t.dq[q]).fetched = some f ∧ f.idx = d.head ∧
      f.tested = false ∧ f.barrier = false ∧
      ∀ x ∈ (t.dq[q]).ahead, x ∈ d.ahead ∨ ∃ k, 1 ≤ k ∧ k ≤ 8 ∧ k < Rule.ahead d.tail d.head ∧
        x.idx = d.head + BitVec.ofNat 32 k
    (canFetch s q.val = true → (∀ x ∈ d.ahead, x.idx ≠ d.head) → ∀ pa attr u,
      xlatEngine d.ctx (d.rbase.toNat + d.head.toNat % 2 ^ d.log2size.toNat * 128) .engRead s = (.ok pa attr, u) →
      (readAccess false pa 128 u).1 ≠ .uncorrectable →
      Rule.Ends (.descriptorFetch q) s fun t =>
        let desc : Desc := BitVec.ofNat 1024 (leNat (Memory.gets s.mem pa 128))
        ∃ f, fetches f t ∧ f.desc = desc ∧ (fetchChecks s d desc = none →
          (f.event = none ↔ dHasDeadline desc = false ∨ s.beat.value.toNat ≤ dDeadline desc))) ∧
    (canFetch s q.val = true → ∀ x, d.ahead.find? (·.idx == d.head) = some x →
      (x.fail = none → Rule.Ends (.descriptorFetch q) s fun t => ∃ f, fetches f t ∧ f.desc = x.desc) ∧
      (∀ e, x.fail = some e → Rule.Ends (.descriptorFetch q) s fun t => fetches ⟨x.idx, 0, some e, false, false⟩ t)) ∧
    (canFetch s q.val = false → Rule.Gives (.descriptorFetch q) s s) ∧
    (∀ f, readyHead s q.val = some f → dPred f.desc = true → f.tested = false → d.inflight = [] →
      beatMet s f.desc = true → barrierMet s q.val f = true →
      waitHolds s (dCmp f.desc) (dWaitFlag f.desc) (dWaitValue f.desc) = true →
      Rule.Gives (.predicateTest q) s (Rule.withQ s q { d with fetched := some { f with tested := true } })) ∧
    (∀ f, d.fetched = some f → canEnter s q.val = true →
      (∀ p : Fin 32, p < q → ¬ (canEnter s p.val = true ∧ barScope s p.val &&& barScope s q.val ≠ 0)) →
      Rule.Gives (.barrierEnter q) s (Rule.withQ s q { d with fetched := some { f with barrier := true } }))

/-- 06:R160, R175, R176, R177, R186. -/
def Obligations.OldestCompletes : Prop :=
  ∀ (s : State) (q : Fin 32) (f : InFlight) (rest : List InFlight) (e : Ended) (pa : Nat) (attr : BitVec 3),
    let d := s.dq[q]
    let late : Prop := dHasDeadline f.desc = true ∧ dDeadline f.desc < s.beat.value.toNat
    d.inflight = f :: rest → f.ended = some e → s.ctl.state = .run ∨ s.ctl.state = .hold → f.missed = false →
    (∀ g ∈ rest, g.idx ≠ f.idx) → d.fetched = none → d.head ≠ f.idx → Rule.NoMismatch s →
    let halts (ev : Ended) (t : State) : Prop :=
      Rule.Stored s t pa (Rule.record d f.idx f.desc ev f.exc false f.replayed true s.beat.value) ∧
      (t.dq[q]).done = f.idx + 1 ∧ (t.dq[q]).head = d.head ∧ (t.dq[q]).inflight = [] ∧
      (t.dq[q]).halted = true ∧ (t.dq[q]).haltEvent = ev.event ∧ (t.dq[q]).haltDetail = ev.detail ∧
      (t.dq[q]).haltIndex = f.idx ∧ (t.dq[q]).status.status.getLsbD 0 = true
    (¬ late → e.event = 0 → d.halting = false → Rule.LocalSignal f.desc → dClass f.desc ≠ 0 →
      ∀ u, Rule.SlotOpen s u d f.idx pa attr → Rule.Ends (.descriptorComplete q) s fun t =>
        Rule.Stored s t pa (Rule.record d f.idx f.desc e f.exc false f.replayed false s.beat.value) ∧
        (t.dq[q]).done = f.idx + 1 ∧ (t.dq[q]).head = d.head ∧ (t.dq[q]).inflight = rest ∧
        (t.dq[q]).halted = d.halted ∧ (t.dq[q]).evNotify = (d.evNotify || dNotify f.desc) ∧
        t.flags.upds = Rule.signalUpds q.val (if (dSignal f.desc).when_ = 0 then [dSignal f.desc] else []) s.flags.upds ∧
        (∀ p : Fin 32, p ≠ q → t.dq[p] = s.dq[p])) ∧
    (¬ late → e.event ≠ 0 → rest = [] → ∀ u, Rule.SlotOpen s u d f.idx pa attr →
      Rule.Ends (.descriptorComplete q) s fun t =>
        halts e t ∧ (e.event ≠ dqDeadline → t.flags.upds = s.flags.upds) ∧
        (e.event = rmeNode → t.rme.status.status.getLsbD 0 = true) ∧
        (e.event = rmeTimeoutEv → t.rme.status.status.getLsbD 1 = true)) ∧
    (late → e.event = 0 → rest = [] → ∀ u, Rule.SlotOpen (missFlight q.val f s) u d f.idx pa attr →
      Rule.Ends (.descriptorComplete q) s fun t =>
        halts { e with event := dqDeadline, info := BitVec.ofNat 64 (dDeadline f.desc), nonfin := false } t ∧
        t.beat.misses = s.beat.misses + 1 ∧ (t.dq[q]).status.status.getLsbD 2 = true)

/-- 06:R169, R177. -/
def Sys2Proof.Rule.FetchEventsComplete : Prop :=
  ∀ (s u : State) (q : Fin 32) (f : Fetched) (e : Ended) (pa : Nat) (attr : BitVec 3),
    let d := s.dq[q]
    d.fetched = some f → f.event = some e → e.event ≠ 0 → f.idx = d.head → d.inflight = [] → d.halted = false →
    s.ctl.state = .run ∨ s.ctl.state = .hold → Rule.NoMismatch s → Rule.SlotOpen s u d f.idx pa attr →
    Rule.Ends (.fetchEventComplete q) s fun t =>
      Rule.Stored s t pa (Rule.record d f.idx f.desc e 0 false false true s.beat.value) ∧
      (t.dq[q]).done = f.idx + 1 ∧ (t.dq[q]).head = f.idx + 1 ∧ (t.dq[q]).fetched = none ∧
      (t.dq[q]).halted = true ∧ (t.dq[q]).haltEvent = e.event ∧ (t.dq[q]).haltIndex = f.idx ∧
      t.flags = s.flags ∧ (∀ p : Fin 32, p ≠ q → t.dq[p] = s.dq[p])

/-- 06:R168; 05:R145, R146; 06:R174; 06:R169, R177. -/
def Obligations.QueueHeads : Prop := Rule.HeadsOfQueues ∧ Rule.FetchEventsComplete

/-- 07:R194, R195; 06:R158, R175, R182. -/
def Obligations.NullDescriptors : Prop :=
  ∀ (s u : State) (q : Fin 32) (op : Nat) (f : Fetched) (pa : Nat) (attr : BitVec 3),
    let d := s.dq[q]
    let begun := beginFlight q.val f { newFlight s q.val f with ended := some endOk } s
    op < 2 → d.cls = 0 → startHead s q.val 0 op = some f → d.inflight = [] → d.signalled = [] → Rule.NoMismatch s →
    Rule.LocalSignal f.desc → Rule.SlotOpen begun u d f.idx pa attr →
    Rule.Ends (if op = 0 then .nullNop q else .nullFlags q) s fun t =>
      Rule.Stored s t pa (Rule.record d f.idx f.desc endOk 0 false false false s.beat.value) ∧
      (t.dq[q]).done = f.idx + 1 ∧ (t.dq[q]).head = f.idx + 1 ∧ (t.dq[q]).inflight = [] ∧ (t.dq[q]).fetched = none ∧
      (t.dq[q]).halted = false ∧ t.arb.null = q.val ∧
      t.flags.upds = Rule.signalUpds q.val
        ((if (dSignal f.desc).when_ = 0 then [dSignal f.desc] else []) ++
          (if op = 1 then [signalOf (f.desc.extractLsb' 896 64), signalOf (f.desc.extractLsb' 960 64)] else []))
        s.flags.upds ∧
      t.flags.next = Rule.signalUpds q.val (if (dSignal f.desc).when_ = 1 then [dSignal f.desc] else []) s.flags.next ∧
      (∀ p : Fin 32, p ≠ q → t.dq[p] = s.dq[p])

/-- 06:R186. -/
def Sys2Proof.Rule.DeadlineMisses : Prop :=
  ∀ (s : State) (q : Fin 32) (index : BitVec 32),
    let d := s.dq[q]
    let late (x : Desc) : Prop := dHasDeadline x = true ∧ dDeadline x < s.beat.value.toNat
    let detected (x : Desc) (t : State) : Prop :=
      t.beat = { s.beat with misses := s.beat.misses + 1 } ∧ (t.dq[q]).status.status.getLsbD 2 = true ∧
      t.flt = { s.flt with detected := t.flt.detected } ∧ t.flt.detected.length = s.flt.detected.length + 1 ∧
      (t.dq[q]).head = d.head ∧ (t.dq[q]).done = d.done ∧ (t.dq[q]).halted = d.halted ∧ t.mem = s.mem ∧ t.flags = s.flags
    (∀ f ∈ d.inflight, f.idx = index → (∀ g ∈ d.inflight, g.idx = index → g = f) → late f.desc → f.missed = false →
      s.ctl.state = .run ∨ s.ctl.state = .hold →
      Rule.Ends (.deadlineMiss q index) s fun t => detected f.desc t ∧ t.dq[q].fetched = d.fetched ∧
        (t.dq[q]).inflight = d.inflight.map fun g => if g.idx = index then { g with missed := true } else g) ∧
    (∀ f, (∀ g ∈ d.inflight, g.idx ≠ index) → d.fetched = some f → f.idx = index → f.event = none → late f.desc →
      s.ctl.state = .run →
      Rule.Ends (.deadlineMiss q index) s fun t => detected f.desc t ∧ (t.dq[q]).inflight = d.inflight ∧
        (t.dq[q]).fetched = some { f with
          event := some ⟨dqDeadline, 0, 0xFF, BitVec.ofNat 64 (dDeadline f.desc), false⟩ })

/-- 06:R188, R189. -/
def Sys2Proof.Rule.Deadlocks : Prop :=
  ∀ s : State,
    (deadlocked s = [] → Rule.Gives .deadlockDeclare s s) ∧
    (deadlocked s ≠ [] → Rule.Ends .deadlockDeclare s fun t =>
      t.mem = s.mem ∧ t.flags = s.flags ∧ t.beat = s.beat ∧ t.flt.detected.length = s.flt.detected.length + 1 ∧
      ∀ q : Fin 32,
        (∀ f, (q.val, f) ∈ deadlocked s →
          (t.dq[q]).halted = true ∧ (t.dq[q]).haltEvent = dqDeadlock ∧ (t.dq[q]).haltDetail = BitVec.ofNat 16 f ∧
          (t.dq[q]).haltIndex = (s.dq[q]).head ∧ (t.dq[q]).status.status.getLsbD 0 = true ∧
          (t.dq[q]).status.status.getLsbD 5 = true ∧ (t.dq[q]).head = (s.dq[q]).head ∧ (t.dq[q]).done = (s.dq[q]).done) ∧
        ((∀ f, (q.val, f) ∉ deadlocked s) → t.dq[q] = s.dq[q]))

/-- 06:R186; 06:R188, R189. -/
def Obligations.DeadlinesAndDeadlocks : Prop := Rule.DeadlineMisses ∧ Rule.Deadlocks

/-- 06:R171, R172, R173. -/
def Obligations.StartConditions : Prop :=
  ∀ (s : State) (q : Fin 32) (cls op : Nat) (f : Fetched),
    let last := lastTaken s (s.dq[q]).cls.toNat (s.dq[q]).inst.toNat
    (startHead s q.val cls op = some f ↔
      Rule.MayStart s q f ∧ dClass f.desc = cls ∧ dOpcode f.desc = op ∧
      ((s.dq[q]).cls.toNat, (s.dq[q]).inst.toNat) ∉ s.arb.taken ∧
      ∀ (p : Fin 32) (g : Fetched), Rule.MayStart s p g → (s.dq[p]).cls = (s.dq[q]).cls →
        (s.dq[p]).inst = (s.dq[q]).inst → Rule.after last q ≤ Rule.after last p) ∧
    ∀ (d e : Desc) (prof : BitVec 17), hazardFree s d e prof = true ↔
      Rule.Apart (srcRanges d (profileOf s d) ++ dstRanges d (profileOf s d)) (dstRanges e prof) ∧
      Rule.Apart (dstRanges d (profileOf s d)) (srcRanges e prof)

/-- 06:R159, R171; 07:R200, R207; 02:R62. -/
def Sys2Proof.Rule.VectorStarts : Prop :=
  ∀ (s u : State) (q : Fin 32) (op : Nat) (i : Instr) (f : Fetched) (m : PageMap) (list : List (BitVec 32)),
    Rule.VeCommand q op i → startHead s q.val 2 op = some f → (s.dq[q]).cls = 2 → Rule.LocalSignal f.desc →
    veInService s ≠ 0 → (∀ t, veTable s f.desc = some t → tableOk t.2 = true) →
    vePrepare q.val f.idx (s.dq[q]).ctx f.desc s = (.ok (m, list), u) →
    let o := veCompute (veCfg u q.val f.desc) f.desc list u.ctl.free m fun va => Memory.get s.mem (mapVa m va)
    Rule.Ends i s fun t => ∃ x, Rule.Starts s t q f x ∧ t.arb = { s.arb with ve := q.val, taken := (2, (s.dq[q]).inst.toNat) :: s.arb.taken } ∧
      x.writes = Rule.placed m o.cells ∧ x.exc = (o.exc ||| veRaise f.desc) &&& ~~~(veLower f.desc) ∧
      x.count = o.count ∧ x.actTab = veTable s f.desc ∧ x.verdict = o.verdict ∧ x.ended = none

/-- 06:R169, R171; 07:R207, R217; 12:R350. -/
def Sys2Proof.Rule.VectorStartsFail : Prop :=
  ∀ (s u : State) (q : Fin 32) (op : Nat) (i : Instr) (f : Fetched),
    Rule.VeCommand q op i → (s.dq[q]).cls = 2 →
    (startHead s q.val 2 op = none → Rule.Gives i s s) ∧
    (startHead s q.val 2 op = some f → Rule.LocalSignal f.desc →
      let endsWith (e : Ended) (t : State) : Prop :=
        ∃ x, Rule.Starts s t q f x ∧ t.arb = { s.arb with ve := q.val, taken := (2, (s.dq[q]).inst.toNat) :: s.arb.taken } ∧ x.writes = [] ∧ x.ended = some e
      (veInService s = 0 → Rule.Ends i s (endsWith ⟨dqEngineAbsent, 0, 0xFF, 0, false⟩)) ∧
      (veInService s ≠ 0 → (∃ t, veTable s f.desc = some t ∧ tableOk t.2 = false) →
        Rule.Ends i s (endsWith ⟨dqOperand, 0, 0xFF, 0, false⟩)) ∧
      (veInService s ≠ 0 → (∀ t, veTable s f.desc = some t → tableOk t.2 = true) →
        (∀ e, vePrepare q.val f.idx (s.dq[q]).ctx f.desc s = (.fail e, u) → Rule.Ends i s (endsWith e)) ∧
        (vePrepare q.val f.idx (s.dq[q]).ctx f.desc s = (.wait, u) → Rule.Gives i s s)))

/-- 06:R159, R171; 07:R200, R207; 02:R62; 06:R169, R171; 07:R207, R217; 12:R350. -/
def Obligations.VectorCommands : Prop := Rule.VectorStarts ∧ Rule.VectorStartsFail

/-- 07:R219, R222; 06:R184; 12:R350. -/
def Sys2Proof.Rule.EngineFinishes : Prop :=
  ∀ (s u : State) (q : Fin 32) (f : InFlight) (ws : List EngWrite) (n : Fin 4),
    let cells := ws.flatMap (·.cells)
    let finished (t : State) : Prop :=
      Rule.Wrote s t cells ∧ t.flags = s.flags ∧ (∀ p : Fin 32, p ≠ q → t.dq[p] = s.dq[p]) ∧
      t.dq[q] = { s.dq[q] with inflight := (s.dq[q]).inflight.map fun g =>
        if g.idx = f.idx then { g with
          posted := true, ended := if portReqs t q.val f.idx = [] then some (f.verdict.getD endOk) else none } else g }
    f ∈ (s.dq[q]).inflight → (∀ g ∈ (s.dq[q]).inflight, g.idx = f.idx → g = f) → f.ended = none → f.posted = false →
    s.ctl.state = .run ∨ s.ctl.state = .hold → readsOut s q.val f.idx = false →
    retranslate (s.dq[q]).ctx f.writes s = (.ok ws, u) → Rule.Writable s cells →
    (oldestOf s q.val 2 = some f → Rule.Ends (.veFinish q) s fun t =>
      finished t ∧ t.veElems = s.veElems + BitVec.ofNat 64 f.count ∧ t.moveBytes = s.moveBytes) ∧
    (oldestOf s q.val 3 = some f → dInstance f.desc = n.val → Rule.Ends (.moveFinish q) s fun t =>
      finished t ∧ t.moveBytes = s.moveBytes.set n.val (s.moveBytes[n] + BitVec.ofNat 64 f.count) ∧ t.veElems = s.veElems)

/-- 14:R397, R403, R404. -/
def Sys2Proof.Rule.VectorParity : Prop :=
  ∀ (s : State) (q : Fin 32) (slice : Fin 8) (elem : Word) (f : InFlight),
    oldestOf s q.val 2 = some f → (∀ g ∈ (s.dq[q]).inflight, g.idx = f.idx → g = f) → f.posted = false →
    s.ctl.state = .run ∨ s.ctl.state = .hold → (veInService s).getLsbD slice.val = true → s.rme.held = [] →
    let more := dReplay f.desc = true ∧ f.attempts < 3
    let atLimit : Prop := slice.val ∈ f.slices ∨ s.svc.veLimit.toNat ≤ s.svc.veCount[slice] + 1
    (s.svc.auto = 1 → atLimit → Rule.Ends (.veParityReplay q slice elem) s fun t =>
      t.svc = { s.svc with
        veCount := s.svc.veCount.set slice.val (s.svc.veCount[slice] + 1), ve := t.svc.ve, trans := t.svc.trans,
        retVE := Rule.withBit s.svc.retVE slice.val true } ∧
      t.veElems = s.veElems ∧ (∀ p : Fin 32, p ≠ q → t.dq[p] = s.dq[p]) ∧
      t.flt.detected.length = s.flt.detected.length + 2) ∧
    (s.svc.auto ≠ 1 ∨ ¬ atLimit → Rule.Ends (.veParityReplay q slice elem) s fun t =>
      t.svc = { s.svc with veCount := s.svc.veCount.set slice.val (s.svc.veCount[slice] + 1) } ∧
      t.veElems = s.veElems ∧ (∀ p : Fin 32, p ≠ q → t.dq[p] = s.dq[p]) ∧
      (more → t.mem = s.mem) ∧ (∀ a, Memory.get t.mem a = Memory.get s.mem a ∨
        ∃ w ∈ f.writes, ∃ c ∈ w.cells, c.1 = a ∧ Memory.get t.mem a = c.2) ∧
      t.flt.detected = insertDetected s.ctl.fcycles
        ⟨veParity, if dReplay f.desc ∧ f.attempts < 3 then clsCorrected else clsQueue, false,
          BitVec.ofNat 16 (0x0400 + slice.val), BitVec.ofNat 16 f.attempts, s.beat.value,
          BitVec.ofNat 64 (f.idx.toNat + q.val * 2 ^ 32), elem⟩ s.flt.detected ∧
      (more → (t.dq[q]).inflight = (s.dq[q]).inflight.map fun g =>
        if g.idx = f.idx then { g with attempts := g.attempts + 1, replayed := true, slices := slice.val :: g.slices } else g) ∧
      (¬ more → ∀ g ∈ (t.dq[q]).inflight, g.idx = f.idx →
        g.ended = some ⟨veParity, 0, 0xFF, 0, false⟩ ∧ g.writes = []))

/-- 07:R219, R222; 06:R184; 12:R350; 14:R397, R403, R404. -/
def Obligations.EnginesFinish : Prop := Rule.EngineFinishes ∧ Rule.VectorParity

/-- 06:R171; 07:R220, R222. -/
def Obligations.MoveStarts : Prop :=
  ∀ (s u : State) (q : Fin 32) (n : Fin 4) (op : Nat) (i : Instr) (f : Fetched),
    Rule.MoveCommand q op i → (s.dq[q]).cls = 3 → (s.dq[q]).inst.toNat = n.val →
    (startHead s q.val 3 op = none → Rule.Gives i s s) ∧
    (startHead s q.val 3 op = some f → Rule.LocalSignal f.desc →
      (∀ m l, movePrepare q.val f.idx (s.dq[q]).ctx f.desc s = (.ok (m, l), u) →
        let cs := moveCells f.desc l u.ctl.free m fun va => Memory.get s.mem (mapVa m va)
        Rule.Ends i s fun t => ∃ x, Rule.Starts s t q f x ∧ t.arb = { s.arb with move := s.arb.move.set n.val q.val, taken := (3, n.val) :: s.arb.taken } ∧
          x.writes = Rule.placed m cs.1 ∧ x.count = cs.2 ∧ x.exc = 0 ∧ x.ended = none) ∧
      (∀ e, movePrepare q.val f.idx (s.dq[q]).ctx f.desc s = (.fail e, u) →
        Rule.Ends i s fun t => ∃ x, Rule.Starts s t q f x ∧ x.writes = [] ∧ x.ended = some e) ∧
      (movePrepare q.val f.idx (s.dq[q]).ctx f.desc s = (.wait, u) → Rule.Gives i s s))

/-- 08:R251, R253; 15:R427, R428; 06:R171; 07:R223. -/
def Sys2Proof.Rule.RemoteFlagsStart : Prop :=
  ∀ (s : State) (q : Fin 32) (set : Bool) (f : Fetched),
    let op := if set then 5 else 4
    let i : Instr := if set then .rmeFlagSet q else .rmeFlagAdd q
    let node : BitVec 16 := f.desc.extractLsb' (896 + 16) 16
    startHead s q.val 4 op = some f → (s.dq[q]).cls = 4 → Rule.LocalSignal f.desc → s.rme.self ≠ 0xFFFF →
    (∀ r ∈ s.rme.out ++ s.rme.linger, r.q = q → r.node = node → writesRemote r.kind = false) →
    (∀ r ∈ s.rme.out, r.txid ≠ s.rme.txid) → s.rme.unsent = [] →
    (∀ g ∈ (s.dq[q]).inflight, g.idx ≠ f.idx) → Rule.StreamOpen s 36 →
    Rule.Ends i s fun t =>
      (∃ x, Rule.Starts s t q f x ∧ x.limit = some (s.beat.value.toNat + Max.max 1 s.rme.tmo.toNat) ∧ x.ended = none) ∧
      t.rme = (Rule.sent { s with rme := { s.rme with
          txid := s.rme.txid + 1, out := s.rme.out ++ [⟨s.rme.txid, node, q, f.idx, .flag, 0, 0⟩] } }
        ⟨if set then 0x04 else 0x03,
         { attr := 0, dest := node, src := s.rme.self, len := 0, addr := (f.desc.extractLsb' 896 12).setWidth 64,
           txid := s.rme.txid, arg := (f.desc.extractLsb' (896 + 32) 32).setWidth 64, payload := [] }, 0⟩).rme

/-- 08:R251; 07:R223, R226; 06:R171; 05:R144. -/
def Sys2Proof.Rule.RemoteTransfersStart : Prop :=
  ∀ (s u : State) (q : Fin 32) (op : Nat) (i : Instr) (f : Fetched),
    Rule.RmeCommand q op i → (s.dq[q]).cls = 4 →
    (startHead s q.val 4 op = none → Rule.Gives i s s) ∧
    (startHead s q.val 4 op = some f → Rule.LocalSignal f.desc →
      (s.rme.self = 0xFFFF → Rule.Ends i s fun t => ∃ x, Rule.Starts s t q f x ∧
        x.ended = some ⟨rmeNode, 0, 0xFF, BitVec.ofNat 64 (rmeRemoteVa f.desc), false⟩ ∧ t.rme = s.rme) ∧
      (s.rme.self ≠ 0xFFFF → ∀ p : RmePlan, rmePlan q.val f.idx (s.dq[q]).ctx f.desc s = (.ok p, u) → p.data ≠ [] →
        (∀ c, p.flag = some c → ∀ r ∈ p.data, writesRemote r.kind = true ∧ r.pkt.dest = c.2.dest) →
        s.rme.unsent = [] → Rule.StreamWell s →
        Rule.Ends i s fun t =>
          (∃ x, Rule.Fresh (s.dq[q]) f x ∧ x.ended = none ∧
            Rule.noLimits t.dq[q] = Rule.noLimits { s.dq[q] with
              head := f.idx + 1, fetched := none, inflight := (s.dq[q]).inflight ++ [x],
              signalled := (s.dq[q]).signalled.filter (· ≠ f.idx) }) ∧
          (∀ p : Fin 32, p ≠ q → Rule.noLimits t.dq[p] = Rule.noLimits s.dq[p]) ∧
          t.mem = s.mem ∧ t.flags = Rule.startFlags s q f ∧
          t.rme.out = s.rme.out ++ p.data.mapIdx (Rule.request s q f.idx) ∧
          (let packets := p.data.mapIdx fun k r => Rule.packet s k r.op r.pkt
           if readsOut u q.val f.idx = true then t.rme.unsent = packets ∧ t.rme.tx = s.rme.tx
           else t.rme.unsent = [] ∧ Rule.stream t = Rule.stream s ++ packets.flatMap packetBytes) ∧
          (p.flag = none → t.rme.held = s.rme.held) ∧
          (∀ c, p.flag = some c → ∃ before, t.rme.held = s.rme.held ++ [⟨Rule.packet s p.data.length c.1 c.2,
              ⟨s.rme.txid + BitVec.ofNat 32 p.data.length, c.2.dest, q, f.idx, .flag, 0, 0⟩, before⟩] ∧
            ∀ k, k < p.data.length → s.rme.txid + BitVec.ofNat 32 k ∈ before)) ∧
      (s.rme.self ≠ 0xFFFF → ∀ e, rmePlan q.val f.idx (s.dq[q]).ctx f.desc s = (.fail e, u) →
        Rule.Ends i s fun t => ∃ x, Rule.Starts s t q f x ∧ x.ended = some e))

/-- 08:R251, R253; 15:R427, R428; 06:R171; 07:R223; 08:R251; 07:R223, R226; 06:R171; 05:R144. -/
def Obligations.RemoteStarts : Prop := Rule.RemoteFlagsStart ∧ Rule.RemoteTransfersStart

/-- 15:R428, R429; 08:R252, R253; 07:R226. -/
def Obligations.RemoteAnswers : Prop :=
  ∀ (s u : State) (txid : BitVec 32) (data : List Byte) (reason : BitVec 16) (r : OutReq) (ws : List EngWrite),
    let without : List OutReq := s.rme.out.filter fun o => o.txid ≠ txid
    let last : Prop := (∀ o ∈ without, ¬ (o.q = r.q ∧ o.idx = r.idx ∧ isSignal o.kind = false))
    (s.rme.out.all (fun o => o.txid ≠ txid) = true → (txid ∈ s.rme.stale → s.rme.held = []) →
      let discarded (n : Nat) : State :=
        let h := Rule.received n s
        if txid ∈ s.rme.stale then { h with rme := { h.rme with
          stale := s.rme.stale.erase txid, linger := s.rme.linger.filter fun r => r.txid ≠ txid } }
        else { h with bnd := { s.bnd with flags := Rule.withBit s.bnd.flags 11 true } }
      Rule.Gives (.packetAck txid) s (discarded 0) ∧ Rule.Gives (.packetData txid data) s (discarded data.length) ∧
      Rule.Gives (.packetRefuse txid reason) s (discarded 0)) ∧
    (s.rme.out.find? (·.txid == txid) = some r → s.rme.held = [] → s.rme.unsent = [] → s.rme.txq = [] →
      (∀ n : Fin 16, (s.opa.inst[n]).jobs = []) →
      (∀ f ∈ (s.dq[r.q]).inflight, f.idx = r.idx → dClass f.desc = 4) →
      let ends (t v : State) (e : Ended) : Prop :=
        (t.dq[r.q]).inflight = Rule.endedAs (v.dq[r.q]) r.idx e ∧ (∀ p : Fin 32, p ≠ r.q → t.dq[p] = v.dq[p])
      let stays (t : State) : Prop := t.dq = s.dq
      (r.kind = .put ∨ r.kind = .flag ∨ r.kind = .aadd → Rule.Ends (.packetAck txid) s fun t =>
        t.rme = { (Rule.received 0 s).rme with out := without } ∧ t.mem = s.mem ∧
        (last → portReqs s r.q.val r.idx = [] → (s.dq[r.q]).inflight.countP (fun f => f.idx == r.idx) ≤ 1 → ends t s endOk) ∧
        (¬ last → stays t)) ∧
      ((∃ f, r.kind = .signal f) → Rule.Gives (.packetAck txid) s
        { s with rme := { (Rule.received 0 s).rme with out := without } }) ∧
      (∀ dest, r.kind = .get dest ∨ r.kind = .old dest →
        retranslate (s.dq[r.q]).ctx (fillWrites dest data) { s with rme := { (Rule.received data.length s).rme with
          out := without, inbytes := s.rme.inbytes + BitVec.ofNat 64 data.length } } = (.ok ws, u) → Rule.Writable s (ws.flatMap (·.cells)) →
        Rule.Ends (.packetData txid data) s fun t =>
          Rule.Wrote s t (ws.flatMap (·.cells)) ∧
          t.rme = { (Rule.received data.length s).rme with
            out := without, inbytes := s.rme.inbytes + BitVec.ofNat 64 data.length } ∧
          (¬ last → stays t) ∧
          (last → portReqs t r.q.val r.idx = [] → (s.dq[r.q]).inflight.countP (fun f => f.idx == r.idx) ≤ 1 → ends t s endOk)) ∧
      ((∃ f, r.kind = .signal f) → Rule.Ends (.packetRefuse txid reason) s fun t =>
        t.dq = s.dq ∧ t.mem = s.mem ∧ t.rme = { (Rule.received 0 s).rme with out := without, status := t.rme.status } ∧
        t.rme.status.status.getLsbD 4 = true ∧ t.flt.detected.length = s.flt.detected.length + 1) ∧
      (isSignal r.kind = false →
        (s.dq[r.q]).inflight.countP (fun f => f.idx == r.idx && f.ended.isNone) = 1 →
        (s.dq[r.q]).inflight.countP (fun f => f.idx == r.idx) = 1 →
        Rule.Ends (.packetRefuse txid reason) s fun t =>
          (∀ f ∈ (t.dq[r.q]).inflight, f.idx = r.idx →
            f.ended = some ⟨rmeRemoteFault, reason, 0xFF, BitVec.ofNat 64 r.va, false⟩ ∧ f.writes = []) ∧
          (∀ o ∈ t.rme.out, o.txid ≠ txid ∧ ¬ (o.q = r.q ∧ o.idx = r.idx ∧ isSignal o.kind = false))))

/-- 08:R252, R253; 07:R226. -/
def Sys2Proof.Rule.RemoteTimeouts : Prop :=
  ∀ (s : State) (q : Fin 32) (txid : BitVec 32) (f : InFlight) (r : OutReq),
    (∀ n : Fin 16, (s.opa.inst[n]).jobs = []) → s.rme.held = [] → s.rme.txq = [] → s.rme.unsent = [] →
    let late (g : InFlight) : Prop := dClass g.desc = 4 ∧ g.ended = none ∧ ∃ l, g.limit = some l ∧ l < s.beat.value.toNat
    ((∀ g ∈ (s.dq[q]).inflight, ¬ late g) → Rule.Gives (.rmeTimeout q) s s) ∧
    ((s.dq[q]).inflight = [f] → late f → Rule.Ends (.rmeTimeout q) s fun t =>
      (∃ g, (t.dq[q]).inflight = [g] ∧ g.idx = f.idx ∧ g.writes = [] ∧ ∃ va, g.ended = some ⟨rmeTimeoutEv, 0, 0xFF, va, false⟩ ∧
        ∀ o, s.rme.out.find? (ofDescriptor q.val f.idx) = some o → va = BitVec.ofNat 64 o.va) ∧
      (∀ p : Fin 32, p ≠ q → t.dq[p] = s.dq[p]) ∧
      (let mine := s.rme.out.filter (ofDescriptor q.val f.idx)
       t.rme = { s.rme with
        out := s.rme.out.filter (fun o => !ofDescriptor q.val f.idx o), stale := s.rme.stale ++ mine.map (·.txid),
        linger := s.rme.linger ++ mine.filter fun o => writesRemote o.kind })) ∧
    (s.rme.out = [r] → r.txid = txid → isSignal r.kind = true → (∀ o ∈ s.rme.linger, isSignal o.kind = false) →
      (r.limit < s.beat.value.toNat → Rule.Ends (.remoteSignalTimeout txid) s fun t =>
        t.rme = { s.rme with out := [], stale := s.rme.stale ++ [txid], status := t.rme.status } ∧
        t.rme.status.status.getLsbD 2 = true ∧ t.dq = s.dq ∧ t.mem = s.mem ∧
        t.flt.detected.length = s.flt.detected.length + 1) ∧
      (s.beat.value.toNat ≤ r.limit → Rule.Gives (.remoteSignalTimeout txid) s s))

/-- 15:R427; 08:R253, R254. -/
def Sys2Proof.Rule.RemoteCredits : Prop :=
  ∀ (s : State) (p : TxPacket) (rest : List TxPacket),
    let room := s.rme.txRoom + 1152
    let left := (packetBytes p).drop s.rme.txOff
    -- the first packet of a descriptor starts its limit as it begins to leave
    let first (r : OutReq) : Prop := isRequest p.op = true ∧ s.rme.txOff = 0 ∧
      s.rme.out.find? (fun r => r.txid == p.hdr.txid && !isSignal r.kind) = some r
    let limits (r : OutReq) : State := Rule.withQ s r.q { s.dq[r.q] with
      inflight := (s.dq[r.q]).inflight.map fun f => if f.idx = r.idx ∧ f.limit = none
        then { f with limit := some (s.beat.value.toNat + f.tmo) } else f }
    let leaves (u t : State) : Prop :=
      if left.length ≤ room then rest = [] ∨ room = left.length → t = { u with rme := { s.rme with
        txRoom := room - left.length, txOff := 0, txq := rest, tx := s.rme.tx ++ left,
        outbytes := s.rme.outbytes + BitVec.ofNat 64 p.hdr.payload.length } }
      else t = { u with rme := { s.rme with
        txRoom := 0, txOff := s.rme.txOff + room, tx := s.rme.tx ++ left.take room } }
    (s.rme.txq = [] → Rule.Gives .remoteCredit s { s with rme := { s.rme with txRoom := room } }) ∧
    (s.rme.txq = p :: rest → (∀ r, ¬ first r) → Rule.Ends .remoteCredit s (leaves s)) ∧
    (∀ r, s.rme.txq = p :: rest → first r → Rule.Ends .remoteCredit s (leaves (limits r)))

/-- 08:R252, R253; 07:R226; 15:R427; 08:R253, R254. -/
def Obligations.RemoteTimeoutsAndCredits : Prop := Rule.RemoteTimeouts ∧ Rule.RemoteCredits

/-- 08:R247, R249; 15:R427, R428, R429; 01:R27. -/
def Sys2Proof.Rule.InboundFlags : Prop :=
  ∀ (s : State) (p : Packet), Rule.StreamOpen s 36 →
    let s' := Rule.received p.payload.length s
    (Rule.Inward s p → s.rme.flagin = true →
      let post (op : FlagOp) : State := { s' with flags := { s.flags with
        upds := insertUpd ⟨41, p.addr.toNat % 4096, op⟩ s.flags.upds } }
      let ack := Rule.answer s p 0x81 0 []
      Rule.Gives (.inboundFlagAdd p) s (Rule.sent (post (.add (p.arg.extractLsb' 0 32))) ack) ∧
      Rule.Gives (.inboundFlagSet p) s (Rule.sent (post (.set (p.arg.extractLsb' 0 32))) ack)) ∧
    (Rule.Inward s p → s.rme.flagin = false →
      let refusal := Rule.sent s' (Rule.answer s p 0x83 0x0003 [])
      let refused (t : State) : Prop := t = { refusal with rme := t.rme } ∧
        t.rme = { refusal.rme with refusals := s.rme.refusals + 1, status := t.rme.status } ∧
        t.rme.status.status.getLsbD 3 = true
      Rule.Ends (.inboundFlagAdd p) s refused ∧ Rule.Ends (.inboundFlagSet p) s refused) ∧
    (s.ctl.por = false → s.ctl.wres = false → s.rme.self ≠ 0xFFFF → p.dest ≠ s.rme.self →
      let stray := { s' with bnd := { s.bnd with flags := Rule.withBit s.bnd.flags 11 true } }
      Rule.Gives (.inboundPut p) s stray ∧ Rule.Gives (.inboundGet p) s stray ∧ Rule.Gives (.inboundFlagAdd p) s stray ∧
      Rule.Gives (.inboundFlagSet p) s stray ∧ Rule.Gives (.inboundAadd p) s stray ∧
      Rule.Gives (.inboundFadd p) s stray ∧ Rule.Gives (.inboundCas p) s stray) ∧
    -- how many bytes a discarded packet took is open
    (let discards (flag : Option Nat) (t : State) : Prop :=
      (∃ n, n ≤ 4096 ∧ t.rme = (Rule.received n s).rme) ∧ t = { s with
        ctl := { s.ctl with free := t.ctl.free }, rme := t.rme,
        bnd := { s.bnd with flags := match flag with | some k => Rule.withBit s.bnd.flags k true | none => s.bnd.flags } }
     Rule.Ends (.inboundPacketDiscarded .crc) s (discards (some 10)) ∧
     Rule.Ends (.inboundPacketDiscarded .op) s (discards (some 11)) ∧
     (s.rme.self ≠ 0xFFFF → Rule.Ends (.inboundPacketDiscarded .dest) s (discards (some 11))) ∧
     (s.rme.self = 0xFFFF → Rule.Ends (.inboundPacketDiscarded .dest) s (discards none)))

/-- 08:R247, R248; 07:R225; 15:R428; 12:R352. -/
def Sys2Proof.Rule.InboundMemory : Prop :=
  ∀ (s : State) (p : Packet), Rule.Inward s p → Rule.Sound s → Rule.StreamOpen s 4132 →
    let a := p.addr.toNat % 2 ^ 40
    let n := p.payload.length
    -- an atomic is performed in its turn, once the reads that it makes at the ports are answered
    let asks (op : Byte) : Prop := (inboundAtomic op p (portView 16 (Rule.received n s))).memp.asks ≠ []
    let first (op : Byte) : Prop := s.rme.inHeld = [] ∧ ¬ asks op
    let size := if p.attr.getLsbD 0 = true then 8 else 4
    let inMem (len : Nat) : Prop := (region s a = .ext ∨ region s a = .stage) ∧
      (∀ k, k < len → region s (a + k) = region s a)
    let old := leNat (Memory.gets s.mem a size)
    (inMem n → 0 < n → n ≤ 4096 → granted s a n true false = true →
      Rule.Ends (.inboundPut p) s fun t =>
        Rule.Wrote s t (cellsAt a p.payload) ∧ Rule.Accepted s t p 0x81 [] ∧ t.dq = s.dq ∧ t.flags = s.flags) ∧
    (let len := p.len.toNat
     inMem len → 0 < len → len ≤ 4096 → granted s a len false true = true →
      Rule.Ends (.inboundGet p) s fun t =>
        t.mem = s.mem ∧ Rule.Accepted s t p 0x82 (Memory.gets s.mem a len) ∧ t.dq = s.dq ∧ t.flags = s.flags) ∧
    (inMem n → 0 < n → n ≤ 4096 → n % size = 0 → granted s a n true true = true →
      (∀ f, flagTarget p n ≠ some f) → first 0x05 →
      Rule.Ends (.inboundAadd p) s fun t =>
        (∀ k, k < n / size → Memory.gets t.mem (a + size * k) size =
          natLe (leNat (Memory.gets s.mem (a + size * k) size) + Rule.element p k) size) ∧
        (∀ b, b < a ∨ a + n ≤ b → Memory.get t.mem b = Memory.get s.mem b) ∧
        Rule.Accepted s t p 0x81 [] ∧ t.flags = s.flags) ∧
    (inMem size → granted s a size true true = true → (∀ f, flagTarget p size ≠ some f) →
      (first 0x06 → Rule.Ends (.inboundFadd p) s fun t =>
        Rule.Wrote s t (cellsAt a (natLe (old + p.arg.toNat) size)) ∧ Rule.Accepted s t p 0x82 (natLe old size)) ∧
      (first 0x07 → Rule.Ends (.inboundCas p) s fun t =>
        Rule.Wrote s t (if old = p.arg.toNat % 2 ^ (8 * size) then cellsAt a (natLe (Rule.element p 0) size) else []) ∧
        Rule.Accepted s t p 0x82 (natLe old size))) ∧
    (s.rme.inHeld = [] →
      let waits (op : Byte) (t : State) : Prop := t = { s with
        memp := t.memp, rme := { (Rule.received n s).rme with inHeld := [(op, p)] } }
      (asks 0x05 → Rule.Ends (.inboundAadd p) s (waits 0x05)) ∧ (asks 0x06 → Rule.Ends (.inboundFadd p) s (waits 0x06)) ∧
      (asks 0x07 → Rule.Ends (.inboundCas p) s (waits 0x07)))

/-- 08:R247, R249; 15:R427, R428, R429; 01:R27; 08:R247, R248; 07:R225; 15:R428; 12:R352. -/
def Obligations.InboundOperations : Prop := Rule.InboundFlags ∧ Rule.InboundMemory

/-- 06:R171; 07:R227, R228; 11:R318. -/
def Obligations.MailboxPosts : Prop :=
  ∀ (s : State) (q : Fin 32) (n : Fin 8) (f : Fetched),
    startHead s q.val 5 1 = some f → (s.dq[q]).cls = 5 → (s.dq[q]).inst.toNat = n.val → dInstance f.desc = n.val →
    Rule.LocalSignal f.desc →
    let c := s.cores[n]
    let task : Byte := f.desc.extractLsb' 896 8
    let absent : Prop := (ccInService s).getLsbD n.val = false ∨ c.halted = true
    (absent → Rule.Ends (.ccmPost q) s fun t =>
      ∃ x, Rule.Starts s t q f x ∧ x.ended = some ⟨dqEngineAbsent, 0, 0xFF, 0, false⟩ ∧ t.cores = s.cores) ∧
    (¬ absent → (c.tasks[task.toNat]).st = .invalid → Rule.Ends (.ccmPost q) s fun t =>
      ∃ x, Rule.Starts s t q f x ∧ x.ended = some ⟨dqState, 0, 0xFF, 0, false⟩ ∧ t.cores = s.cores) ∧
    (¬ absent → (c.tasks[task.toNat]).st ≠ .invalid → Rule.Ends (.ccmPost q) s fun t =>
      ∃ (x : InFlight) (m : Fin 16), Rule.Starts s t q f x ∧ x.entry = some m.val ∧ x.ended = none ∧
        (c.mbx[m]).valid = false ∧ (∀ k : Fin 16, k < m → (c.mbx[k]).valid = true) ∧
        t.arb = { s.arb with cc := s.arb.cc.set n.val q.val, taken := (5, n.val) :: s.arb.taken } ∧
        t.cores = s.cores.set n.val { c with
          mbx := c.mbx.set m.val ⟨true, q, task, f.idx, BitVec.ofNat 32 (dTag f.desc), f.desc.extractLsb' (896 + 64) 64⟩,
          tasks := c.tasks.set task.toNat (causeTask 2 c.tasks[task.toNat]) })

/-- 09:R265, R259; 14:R392; 02:R54, R64. -/
def Obligations.FloatingPoint : Prop :=
  ∀ (s : State) (c : Fin 8) (t : Byte) (k : Fin 8), Rule.Ready s c t k → ∀ (d a b : BitVec 5) (dbl : Bool),
    let v := Rule.bank s c k
    let leaves (i : Instr) (w : Bank) : Prop := Rule.Gives i s (Rule.commit s c k w)
    let checked (f : Residue → Instr) (w : Bank) : Prop :=
      leaves (f .ok) w ∧
      Rule.Gives (f .retried) s (detect ccParity clsCorrected (BitVec.ofNat 16 (0x200 + c.val))
        (BitVec.ofNat 16 (k.val + 256)) (v.pc.setWidth 64) 0 (Rule.commit s c k w))
    Rule.fpChecked checked c v dbl d a b ∧ Rule.fpPlain leaves c v dbl d a ∧
    (∀ n sig pay, Rule.fpIn dbl (Rule.reg v a) = .nan n sig pay → checked (.ftoi c ⟨dbl, ·⟩ d a)
      (Rule.result { v with cs := v.cs ||| 0x100 } d 0x8000000000000000)) ∧
    (∀ neg, Rule.fpIn dbl (Rule.reg v a) = .inf neg → checked (.ftoi c ⟨dbl, ·⟩ d a)
      (Rule.result { v with cs := v.cs ||| 0x100 } d (if neg then 0x8000000000000000 else 0x7FFFFFFFFFFFFFFF))) ∧
    (∀ (x : Ex) (num den : Nat), Rule.fpIn dbl (Rule.reg v a) = .real x → 0 < den → |Rule.value x| * den = num →
      let t := roundQ ⟨v.cs.toNat / 16 % 4, 0, 12, false⟩ x.neg num den
      let most := if x.neg then 2 ^ 63 else 2 ^ 63 - 1
      (most < t → checked (.ftoi c ⟨dbl, ·⟩ d a) (Rule.result { v with cs := v.cs ||| 0x100 } d
        (if x.neg then 0x8000000000000000 else 0x7FFFFFFFFFFFFFFF))) ∧
      (t ≤ most → ∃ e : Exc, (e = 0 ∨ (e = 0x10 ∧ ¬ den ∣ num)) ∧ checked (.ftoi c ⟨dbl, ·⟩ d a)
        (Rule.result { v with cs := v.cs ||| (e.setWidth 13 <<< 8) } d
          (Rule.ofInt (if x.neg then -(t : Int) else (t : Int))))))

/-- 09:R261, R278, R279, R281; 11:R332; 12:R346; 14:R390, R392, R397. -/
def Sys2Proof.Rule.PreciseFaults : Prop :=
  ∀ (s : State) (c : Fin 8) (t : Byte) (k : Fin 8) (i : Instr) (ev : BitVec 16) (addr : BitVec 48),
    (Rule.Ready s c t k → Rule.FaultsWith c k (Rule.bank s c k) i ev addr →
      (k.val < 7 → Rule.Bound s.cores[c] k → Rule.Ends i s fun u =>
        Rule.Faulted s u c k t ev addr 0 ∧ Rule.CoreOnly s u c ∧
        (ev ≠ ccParity → u.flt = s.flt) ∧ (ev = ccParity → u.flt.detected.length = s.flt.detected.length + 1)) ∧
      (k = 7 ∨ ¬ Rule.Bound s.cores[c] k → Rule.Ends i s fun u =>
        Rule.DoubleFaulted s u c k t ev ∧ (∀ j : Fin 8, j ≠ c → u.cores[j] = s.cores[j]) ∧
        ∀ q : Fin 32, (s.dq[q]).cls ≠ 5 ∨ (s.dq[q]).inst.toNat ≠ c.val → u.dq[q] = s.dq[q])) ∧
    -- a store lost from the store buffer, or a register with bad parity
    (∀ rs, Rule.OnCore s c t k → Rule.Reads c i rs → (∀ e ∈ (s.cores[c]).sb, entryStop s e = none) → k.val < 7 →
      Rule.Bound s.cores[c] k →
      (∀ a, (s.cores[c]).lost = some a → Rule.Ends i s fun u =>
        Rule.Faulted s u c k t ccParity a 0 ∧ (u.cores[c]).lost = none) ∧
      ((s.cores[c]).lost = none → (∃ r ∈ rs, r ≠ 0 ∧ (Rule.bank s c k).bad.getLsbD r.toNat = true) →
        Rule.Ends i s fun u => Rule.Faulted s u c k t ccParity 0 0))

/-- 09:R261; 08:R233; 09:R278. -/
def Sys2Proof.Rule.Fetches : Prop :=
  ∀ (s u : State) (c : Fin 8) (t : Byte) (k : Fin 8) (second : Bool) (w0 w1 : BitVec 32),
    Rule.Ready s c t k → Rule.NoMismatch s →
    let va : Nat := ((Rule.bank s c k).pc + (if second then 4 else 0)).toNat
    (encodingDefined w0 w1 = true → Rule.Gives (.undefinedEncoding c w0 w1) s s) ∧
    (∀ ev, xlatCore c va .fetch k.val s = (.fault ev, u) → k.val < 7 → Rule.Bound s.cores[c] k →
      Rule.Ends (.instructionFetchFault c second) s fun v =>
        Rule.Faulted s v c k t ev (BitVec.ofNat 48 va) 0) ∧
    (∀ pa attr, xlatCore c va .fetch k.val s = (.ok pa attr, u) →
      ((readAccess (attr == attrWB || attr == attrWT) pa 4 u).1 ≠ .uncorrectable →
        Rule.Gives (.instructionFetchFault c second) s s) ∧
      ((readAccess (attr == attrWB || attr == attrWT) pa 4 u).1 = .uncorrectable → k.val < 7 → Rule.Bound s.cores[c] k →
        Rule.Ends (.instructionFetchFault c second) s fun v =>
          Rule.Faulted s v c k t ccParity (BitVec.ofNat 48 va) 0))

/-- 09:R261, R278, R279, R281; 11:R332; 12:R346; 14:R390, R392, R397; 09:R261; 08:R233; 09:R278. -/
def Obligations.FaultsAndFetches : Prop := Rule.PreciseFaults ∧ Rule.Fetches

/-- 09:R262, R272, R273, R274, R276, R278; 12:R339; 14:R390. -/
def Obligations.Loads : Prop :=
  ∀ (s u : State) (c : Fin 8) (t : Byte) (k : Fin 8) (d a : BitVec 5) (imm : BitVec 16) (n : Nat) (sext : Bool) (i : Instr),
    Rule.Ready s c t k → Rule.LoadCommand c d a imm n sext i → Rule.NoMismatch s → (s.cores[c]).rows = [] →
    let v := Rule.bank s c k
    let va := Rule.address v a imm
    let gives (bs : List Byte) (w : State) : Prop :=
      Rule.Committed s w c k (Rule.result v d (Rule.loaded n sext bs)) ∧ (w.cores[c]).sb = (s.cores[c]).sb ∧ w.mem = s.mem
    let faults (ev : BitVec 16) (at_ : Nat) (half : BitVec 2) : Prop := k.val < 7 → Rule.Bound s.cores[c] k →
      Rule.Ends i s fun w => Rule.Faulted s w c k t ev (BitVec.ofNat 48 at_) half
    (va % n = 0 → ∀ pa attr, xlatCore c va .load k.val s = (.ok pa attr, u) →
      (region s pa = .ext ∨ region s pa = .stage →
        (Rule.Unstored s c attr pa n →
          ((coreRead c.val attr pa n u).1 ≠ .uncorrectable → Rule.Ends i s (gives (Memory.gets s.mem pa n))) ∧
          ((coreRead c.val attr pa n u).1 = .uncorrectable → faults ccParity va 0)) ∧
        ((∀ e ∈ (s.cores[c]).sb, ¬ Rule.Overlaps e pa n) → attrCached attr = true → pa / 128 ∈ (s.cores[c]).l1bad →
          faults ccParity va 0) ∧
        (∀ old e young, (s.cores[c]).sb = old ++ e :: young → attr ≠ attrDevice →
          (∀ y ∈ young, ¬ Rule.Overlaps y pa n) → e.pa ≤ pa → pa + n ≤ e.pa + e.bytes.length → 0 < n →
          (e.bad = false → Rule.Ends i s (gives ((e.bytes.drop (pa - e.pa)).take n))) ∧
          (e.bad = true → faults ccParity va 0))) ∧
      (region s pa = .ctl → n = 8 → Rule.Unstored s c attr pa n → testOpen u (pa - ctlBase) = false →
        pa - ctlBase < 0x600000 ∨ 0x680000 ≤ pa - ctlBase →
        Rule.Ends i s fun w =>
          Rule.Committed s w c k (Rule.result v d (regValue u (pa - ctlBase))) ∧ w.mem = s.mem) ∧
      (region s pa = .ctl → n ≠ 8 → faults ccIllegal va 0)) ∧
    (va % n = 0 → ∀ ev, xlatCore c va .load k.val s = (.fault ev, u) → faults ev va 0) ∧
    (va % n ≠ 0 → ∀ pa attr, xlatCore c va .load k.val s = (.ok pa attr, u) →
      let m := n - va % n
      let vb := (va + m) % 2 ^ 64
      (attr = attrDevice ∨ (s.cores[c]).alchk = true → faults ccIllegal va 0) ∧
      (attr ≠ attrDevice → (s.cores[c]).alchk = false → ∀ x pb attrb, xlatCore c vb .load k.val u = (.ok pb attrb, x) →
        attrb ≠ attrDevice → (region s pa = .ext ∨ region s pa = .stage) → (region s pb = .ext ∨ region s pb = .stage) →
        Rule.Unstored s c attr pa m → Rule.Unstored s c attrb pb (n - m) →
        ∀ r1 r2 y z, coreRead c.val attr pa m x = (r1, y) → coreRead c.val attrb pb (n - m) y = (r2, z) →
          (r1 ≠ .uncorrectable → r2 ≠ .uncorrectable →
            Rule.Ends i s (gives (Memory.gets s.mem pa m ++ Memory.gets s.mem pb (n - m)))) ∧
          (r1 ≠ .uncorrectable → r2 = .uncorrectable → faults ccParity vb 2)))

/-- 09:R262, R273, R274, R275; 12:R358; 00:R16. -/
def Sys2Proof.Rule.CoreStores : Prop :=
  ∀ (s u : State) (c : Fin 8) (t : Byte) (k : Fin 8) (d a : BitVec 5) (imm : BitVec 16) (n : Nat) (i : Instr),
    Rule.Ready s c t k → Rule.NoMismatch s → (s.cores[c]).sb.length < 15 →
    -- no store that waits would change a KEEP bit
    (∀ e ∈ (s.cores[c]).sb, entryStop s e = none) →
    let v := Rule.bank s c k
    let va := Rule.address v a imm
    let bytes := natLe (Rule.reg v d).toNat n
    let holds (es : List SbEntry) (w : State) : Prop :=
      Rule.Committed s w c k (Rule.onward v) ∧ (w.cores[c]).sb = (s.cores[c]).sb ++ es ∧ w.mem = s.mem
    (Rule.StoreCommand c d a imm n i → va % n = 0 → ∀ pa attr, xlatCore c va .store k.val s = (.ok pa attr, u) →
      (region s pa ≠ .ctl → Rule.Ends i s (holds [⟨va, pa, bytes, attr, false⟩])) ∧
      (region s pa = .ctl → n = 8 → regStop s (pa - ctlBase) (Rule.reg v d) = none →
        Rule.Ends i s (holds [⟨va, pa, bytes, attr, false⟩])) ∧
      (region s pa = .ctl → n = 8 → ∀ f, regStop s (pa - ctlBase) (Rule.reg v d) = some f → Rule.Stops i s f) ∧
      (region s pa = .ctl → n ≠ 8 → k.val < 7 → Rule.Bound s.cores[c] k →
        Rule.Ends i s fun w => Rule.Faulted s w c k t ccIllegal (BitVec.ofNat 48 va) 0)) ∧
    (Rule.StoreCommand c d a imm n i → va % n ≠ 0 → ∀ pa attr x pb attrb,
      let m := n - va % n
      let vb := (va + m) % 2 ^ 64
      xlatCore c va .store k.val s = (.ok pa attr, u) → attr ≠ attrDevice → (s.cores[c]).alchk = false →
      xlatCore c vb .store k.val u = (.ok pb attrb, x) → attrb ≠ attrDevice → region s pa ≠ .ctl → region s pb ≠ .ctl →
      Rule.Ends i s (holds [⟨va, pa, bytes.take m, attr, false⟩, ⟨vb, pb, bytes.drop m, attrb, false⟩])) ∧
    (Rule.StoreCommand c d a imm n i → va % n = 0 → ∀ ev, xlatCore c va .store k.val s = (.fault ev, u) → k.val < 7 →
      Rule.Bound s.cores[c] k → Rule.Ends i s fun w => Rule.Faulted s w c k t ev (BitVec.ofNat 48 va) 0) ∧
    (∀ pa attr, xlatCore c (Rule.reg v a).toNat .rowStore k.val s = (.ok pa attr, u) →
      Rule.Ends (.zline c a) s
        (holds [⟨(Rule.reg v a).toNat / 128 * 128, pa / 128 * 128, List.replicate 128 0, attr, false⟩]))

/-- 09:R275; 08:R236, R241; 14:R390. -/
def Sys2Proof.Rule.StoreBuffers : Prop :=
  ∀ (s : State) (c : Fin 8), Rule.NoMismatch s →
    let x := s.cores[c]
    x.rows = [] → (∀ e ∈ x.sb, region s e.pa ≠ .ctl) → (∀ e ∈ x.sb, Rule.Writable s (cellsAt e.pa e.bytes)) →
    (∀ e ∈ x.sb, e.bytes.length = 128 → e.pa % 128 = 0 ∧ e.bytes = List.replicate 128 0) →
    (x.sb = [] → Rule.Gives (.storeBufferDrain c) s s) ∧
    (x.sb ≠ [] → Rule.Ends (.storeBufferDrain c) s fun t =>
      ∃ old e young, x.sb = old ++ e :: young ∧ (∀ o ∈ old, ¬ Rule.Overlaps o e.pa e.bytes.length) ∧
        (e.attr = attrWC ∨ ∀ o ∈ old, o.attr = attrWC) ∧ t.dq = s.dq ∧ t.flags = s.flags ∧
        (e.bad = false → Rule.Wrote s t (cellsAt e.pa e.bytes) ∧ t.cores = s.cores.set c.val { x with sb := x.sb.erase e }) ∧
        (e.bad = true → t.mem = s.mem ∧ t.cores = s.cores.set c.val
          { x with sb := x.sb.erase e, lost := some (BitVec.ofNat 48 e.va) }))

/-- 09:R262, R273, R274, R275; 12:R358; 00:R16; 09:R275; 08:R236, R241; 14:R390. -/
def Obligations.Stores : Prop := Rule.CoreStores ∧ Rule.StoreBuffers

/-- 09:R266, R267; 12:R352. -/
def Obligations.Atomics : Prop :=
  ∀ (s u : State) (c : Fin 8) (t : Byte) (k : Fin 8) (wide : Bool) (d a b : BitVec 5) (i : Instr)
      (f : Nat → Nat → Nat → Nat → Nat),
    Rule.Ready s c t k → Rule.NoMismatch s → Rule.AtomCommand c wide d a b i f →
    let v := Rule.bank s c k
    let n := if wide then 8 else 4
    let va := (Rule.reg v a).toNat
    (va % n ≠ 0 → k.val < 7 → Rule.Bound s.cores[c] k →
      Rule.Ends i s fun w => Rule.Faulted s w c k t ccIllegal (BitVec.ofNat 48 va) 0) ∧
    (va % n = 0 → (s.cores[c]).sb = [] → (s.cores[c]).rows = [] → ∀ pa attr,
      xlatCore c va .atomic k.val s = (.ok pa attr, u) → region s pa = .ext ∨ region s pa = .stage → (readAccess (attr == attrWB || attr == attrWT) pa n u).1 ≠ .uncorrectable →
      let old := leNat (Memory.gets s.mem pa n)
      let low (x : Word) : Nat := x.toNat % 2 ^ (8 * n)
      Rule.Ends i s fun w =>
        Rule.Committed s w c k (Rule.result v d (Rule.ofInt (Rule.sgn (8 * n) old))) ∧
        (Rule.Writable s (cellsAt pa (List.replicate n 0)) →
          Rule.Wrote s w (cellsAt pa (natLe (f (8 * n) old (low (Rule.reg v b)) (low (Rule.reg v d))) n))))

/-- 09:R281, R282, R283, R257; 11:R320, R332. -/
def Obligations.ControlRegisters : Prop :=
  ∀ (s : State) (c : Fin 8) (t : Byte) (k : Fin 8), Rule.Ready s c t k →
    let x := s.cores[c]
    let v := Rule.bank s c k
    let goes (i : Instr) (y : Core) (b : Bank) : Prop := Rule.Gives i s (Rule.withCore s c (Rule.counted y k b))
    (∀ (d : BitVec 5) (cr : BitVec 12) r w, crRules cr.toNat = some (r, w) → Rule.Legal r k → cr ≠ 0x6A →
      goes (.crr c d cr) x (Rule.result v d (crValue s c.val (.level k.val) cr.toNat))) ∧
    (∀ d : BitVec 5,
      goes (.crr c d 0x001) x (Rule.result v d (Rule.low (t.toNat * 256 + k.val))) ∧
      goes (.crr c d 0x002) x (Rule.result v d x.cycle) ∧
      goes (.crr c d 0x003) x (Rule.result v d x.instret) ∧
      goes (.crr c d 0x004) x (Rule.result v d (v.cs.setWidth 64)) ∧
      (let y := Rule.withTask x t fun z => { z with cause := 0 }
       let cause := ((x.tasks[t.toNat]).cause).setWidth 64
       goes (.crr c d 0x06A) y (Rule.result v d cause) ∧ goes (.readCause c d) y (Rule.result v d cause))) ∧
    (∀ a : BitVec 5,
      let w := Rule.reg v a
      (6 ≤ k.val → ∀ cr : BitVec 12, cr = 0x008 ∨ cr = 0x040 ∨ cr = 0x041 →
        goes (.crw c a cr) { x with held := x.held ++ [(cr, w)] } (Rule.onward v)) ∧
      goes (.crw c a 0x048) { x with held := x.held ++ [(0x048, w)] } (Rule.onward v) ∧
      goes (.crw c a 0x004) x (Rule.onward { v with cs := w.extractLsb' 0 13 &&& 0x1F3F }) ∧
      goes (.crw c a 0x062) { x with tsel := x.tsel.set k.val (w.extractLsb' 0 8) } (Rule.onward v) ∧
      (6 ≤ k.val → goes (.crw c a 0x060) { x with bankwin := Fin.ofNat 8 (w.toNat % 8) } (Rule.onward v)) ∧
      (6 ≤ k.val → ∀ j : Fin 7, goes (.crw c a (BitVec.ofNat 12 (0x20 + 4 * j.val)))
        { x with frec := x.frec.set j.val { x.frec[j] with
          valid := w.getLsbD 63, ovf := w.getLsbD 63 && (x.frec[j]).ovf } } (Rule.onward v)) ∧
      (6 ≤ k.val → goes (.crw c a 0x06C) { x with spillf := if w.getLsbD 63 = true then { x.spillf with valid := true }
        else { SpillFault.reset with va := x.spillf.va } } (Rule.onward v)) ∧
      (let y := Rule.withTask x t fun z => { z with value := w, armed := true }
       goes (.crw c a 0x069) y (Rule.onward v) ∧ goes (.armBinding c a) y (Rule.onward v))) ∧
    (x.rows = [] → Rule.Ends (.csync c) s fun u =>
      let y := u.cores[c]
      u = Rule.withCore s c (Rule.counted { x with
        held := [], alchk := y.alchk, ctx := y.ctx, ttb := y.ttb, tcfg := y.tcfg } k (Rule.onward v)) ∧
      y.alchk = (match Rule.lastHeld x.held 0x008 with | some w => w.getLsbD 0 | none => x.alchk) ∧
      y.ctx = (match Rule.lastHeld x.held 0x040 with | some w => w.extractLsb' 0 16 | none => x.ctx) ∧
      y.ttb = (match Rule.lastHeld x.held 0x041 with | some w => w &&& 0x000FFFFFFFFFF01D | none => x.ttb) ∧
      y.tcfg = (match Rule.lastHeld x.held 0x048 with
        | some w => ⟨w.extractLsb' 32 32, w.extractLsb' 16 8, w.extractLsb' 8 5, w.extractLsb' 0 3⟩ | none => x.tcfg))

/-- 09:R277, R267; 12:R346, R347; 11:R332. -/
def Obligations.OrderingAndWindows : Prop :=
  ∀ (s : State) (c : Fin 8) (t : Byte) (k : Fin 8), Rule.Ready s c t k → Rule.NoMismatch s →
    let x := s.cores[c]
    let v := Rule.bank s c k
    let goes (i : Instr) (y : Core) (b : Bank) : Prop := Rule.Gives i s (Rule.withCore s c (Rule.counted y k b))
    let waitsFor : Prop := ∃ r ∈ s.memp.out ++ s.memp.waiting, r.waiter = .coreStore c
    (x.sb = [] → x.rows = [] →
      (¬ waitsFor → goes (.fence c) x (Rule.onward v)) ∧ (waitsFor → Rule.Gives (.fence c) s s)) ∧
    (6 ≤ k.val → ∀ a : BitVec 5, (∀ j : Fin 8, (s.cores[j]).sb = [] ∧ (s.cores[j]).rows = []) →
      let ctx : BitVec 16 := (Rule.reg v a).extractLsb' 48 16
      let va := (Rule.reg v a).toNat / 2 ^ 12 % 2 ^ 36 * 4096
      let after (variant : Nat) (covers : TlbEntry → Bool) (u : State) : Prop :=
        u.mem = s.mem ∧ u.dq = s.dq ∧ u.flags = s.flags ∧
        u.xlat = { s.xlat with
          tlb := s.xlat.tlb.filter fun e => !covers e, walker := invWalker variant ctx va s.xlat.walker,
          ctxCache := invCtx variant ctx s.xlat.ctxCache } ∧
        (∀ j : Fin 8, (u.cores[j]).l1tlb = (s.cores[j]).l1tlb.filter fun e => !covers e) ∧
        (u.cores[c]).banks = x.banks.set k.val (Rule.onward v)
      -- no access translated with an entry that the variant removes has still to be performed
      let done (variant : Nat) : Prop := (∀ y ∈ ctxsOut s, variant ≠ 3 ∧ y ≠ ctx) ∧ ¬ waitsFor
      let page (e : TlbEntry) : Bool := e.ctx == ctx && va / 2 ^ (39 - 9 * e.level) == e.vbase / 2 ^ (39 - 9 * e.level)
      (done 0 → Rule.Ends (.tlbiAddress c a) s (after 0 page)) ∧ (¬ done 0 → Rule.Gives (.tlbiAddress c a) s s) ∧
      (done 1 → Rule.Ends (.tlbiAddressWalker c a) s (after 1 page)) ∧ (¬ done 1 → Rule.Gives (.tlbiAddressWalker c a) s s) ∧
      (done 2 → Rule.Ends (.tlbiContext c a) s (after 2 fun e => e.ctx == ctx)) ∧
      (¬ done 2 → Rule.Gives (.tlbiContext c a) s s) ∧
      (done 3 → Rule.Ends (.tlbiBlock c a) s (after 3 fun _ => true)) ∧ (¬ done 3 → Rule.Gives (.tlbiBlock c a) s s)) ∧
    (6 ≤ k.val → ∀ (r : BitVec 5) (cr : BitVec 12), 1 ≤ cr.toNat → cr.toNat ≤ 33 →
      let j := x.bankwin
      (∀ u ∈ x.xq, u.level ≠ j) →
      let value : Word := if h : cr.toNat < 32 then (x.banks[j]).g[cr.toNat] else
        if cr.toNat = 32 then ((x.banks[j]).pc).setWidth 64 else ((x.banks[j]).cs).setWidth 64
      let w := Rule.reg v r
      let good := cr.toNat < 32 → (x.banks[j]).bad.getLsbD cr.toNat = false
      (good → goes (.brd c r cr) x (Rule.result v r (if (x.banks[j]).occ.isSome then value else 0))) ∧
      (¬ good → k = 6 → Rule.Bound x k → Rule.Ends (.brd c r cr) s fun u => Rule.Faulted s u c k t ccParity 0 0) ∧
      (k = 6 → j = 7 → Rule.Bound x k → Rule.Ends (.bwr c r cr) s fun u => Rule.Faulted s u c k t ccPriv 0 0) ∧
      (¬ (k = 6 ∧ j = 7) → (x.banks[j]).occ = none → goes (.bwr c r cr) x (Rule.onward v)) ∧
      (¬ (k = 6 ∧ j = 7) → (x.banks[j]).occ.isSome = true → j ≠ k →
        let b := x.banks[j]
        let b' : Bank := if cr.toNat < 32 then Rule.put b (cr.setWidth 5) w
          else if cr.toNat = 32 then { b with pc := w.extractLsb' 0 48 &&& 0xFFFFFFFFFFFC }
          else { b with cs := w.extractLsb' 0 13 &&& 0x1F3F }
        goes (.bwr c r cr) { x with banks := x.banks.set j.val b' } (Rule.onward v)) ∧
      (¬ (k = 6 ∧ j = 7) → v.occ.isSome = true → j = k → goes (.bwr c r cr) x
        (if cr.toNat < 32 then Rule.onward (Rule.put v (cr.setWidth 5) w)
         else if cr.toNat = 32 then { v with pc := w.extractLsb' 0 48 &&& 0xFFFFFFFFFFFC }
         else Rule.onward { v with cs := w.extractLsb' 0 13 &&& 0x1F3F })))

/-- 11:R317, R318, R319. -/
def Sys2Proof.Rule.TaskEnds : Prop :=
  ∀ (s : State) (c : Fin 8) (t : Byte) (k : Fin 8), Rule.Ready s c t k →
    let x := s.cores[c]
    let y := x.tasks[t.toNat]
    let v := Rule.bank s c k
    (x.rows = [] → Rule.Ends (.tend c) s fun u =>
      let z := u.cores[c]
      z.running = none ∧ z.instret = x.instret + 1 ∧ Rule.CoreOnly s u c ∧
      z.tasks = x.tasks.set t.toNat { y with
        st := if y.pend then .ready else .dormant, pend := false, spilled := false, tilesSaved := false, rowFault := none } ∧
      (∀ j : Fin 8, z.banks[j] = if (x.banks[j]).occ = some t then Bank.reset else x.banks[j]) ∧
      z.xq = x.xq.filter (fun w => w.task ≠ t) ∧
      (x.tileOwner = some t → z.tileOwner = none ∧ ∀ r : Fin 12, z.tiles[r] = Tile.reset) ∧
      (x.tileOwner ≠ some t → z.tileOwner = x.tileOwner ∧ z.tiles = x.tiles)) ∧
    (y.pend = true → Rule.Gives (.twait c) s (Rule.withCore s c
      (Rule.counted (Rule.withTask x t fun z => { z with pend := false }) k (Rule.onward v)))) ∧
    (y.pend = false → Rule.Gives (.twait c) s (Rule.withCore s c
      (Rule.counted { Rule.withTask x t fun z => { z with st := .waiting } with running := none, outgoing := some t } k
        (Rule.onward v)))) ∧
    (∀ code : Byte, Rule.Gives (.trap c code) s (Rule.withCore s c (Rule.counted
      (Rule.activated x fun z => z.src = 7 ∧ (z.smode.getLsbD 0 = true ∨ z.value.extractLsb' 0 8 = code)) k
      (Rule.onward v))))

/-- 11:R315, R316, R318, R320, R333; 07:R228. -/
def Sys2Proof.Rule.TaskControl : Prop :=
  ∀ (s : State) (src : Src) (c : Fin 8) (t0 : Byte) (k : Fin 8) (t : Byte) (v : Word),
    let x := s.cores[c]
    let y := x.tasks[t.toNat]
    let task : Prop := Rule.Ready s c t0 k
    let window : Prop := Rule.Writer s src ∧ (ccBuilt s).getLsbD c.val = true
    let both (i : CrWho → Instr) (z : Core) : Prop :=
      (task → 6 ≤ k.val → Rule.byTask i s c k z) ∧ (window → Rule.byWindow i s src c z)
    let refused := Rule.refusedCore s x
    (task → Rule.byTask (.wake · t) s c k (Rule.withTask x t (causeTask 1))) ∧
    (window → Rule.byWindow (.wake · t) s src c (Rule.withTask x t (causeTask 1))) ∧
    (y.st = .faulted → both (.taskResume · t) (Rule.withTask x t fun z => { z with st := .runnable })) ∧
    (y.st ≠ .faulted → both (.taskResume · t) refused) ∧
    (x.xstop ≠ none → both (.transferRetry · t) { x with xstop := none, xfirst := x.xstop }) ∧
    (x.xstop = none → both (.transferRetry · t) refused) ∧
    (y.st ≠ .invalid → both (.clearPend · t) (Rule.withTask x t fun z => { z with pend := false })) ∧
    (y.st = .invalid → both (.clearPend · t) refused) ∧
    (y.st = .invalid ∨ y.st = .running → both (.taskKill · t) refused) ∧
    (y.st ≠ .invalid → y.st ≠ .running → x.rows = [] → x.running ≠ some t →
      let killed (n : Nat) (u : State) : Prop :=
        let z := u.cores[c]
        z.tasks = x.tasks.set t.toNat { y with st := .dormant, spilled := false, tilesSaved := false, rowFault := none } ∧
        z.xq = x.xq.filter (fun w => w.task ≠ t) ∧ z.xstop = x.xstop.filter (fun w => w.task ≠ t) ∧
        (∀ j : Fin 8, j ≠ k → z.banks[j] = if (x.banks[j]).occ = some t then Bank.reset else x.banks[j]) ∧
        (x.tileOwner = some t → z.tileOwner = none ∧ ∀ r : Fin 12, z.tiles[r] = Tile.reset) ∧
        z.running = x.running ∧ z.instret = x.instret + BitVec.ofNat 64 n ∧ Rule.CoreOnly s u c ∧ u.mem = s.mem
      (task → 6 ≤ k.val → Rule.Ends (.taskKill (.task c) t) s (killed 1)) ∧
      (window → Rule.Ends (.taskKill (.window src c) t) s (killed 0))) ∧
    (∀ w : Fin 4,
      let writes (sel : Byte) (z : Core) : Prop :=
        let o := x.tasks[sel.toNat]
        let valid := v.getLsbD 63
        let bad := bindingRefused (v.toNat / 2 ^ 28 % 16) (v.toNat / 2 ^ 24 % 8) (v.toNat / 2 ^ 12 % 4096) (v.toNat / 2 ^ 8 % 16)
        z = (match w.val with
          | 0 => if ¬ Rule.Idle o ∨ (valid = true ∧ bad = true) then refused else Rule.withTask x sel fun o => { o with
              src := v.extractLsb' 28 4, level := Fin.ofNat 8 (v.toNat / 2 ^ 24 % 8), sparam := v.extractLsb' 12 12,
              smode := v.extractLsb' 8 4, st := if valid then .dormant else .invalid,
              armed := if valid && o.st == .invalid then true else o.armed }
          | 1 => Rule.withTask x sel fun o => { o with value := v, armed := true }
          | 2 => if Rule.Idle o then Rule.withTask x sel fun o => { o with entry := v.extractLsb' 2 46 } else refused
          | _ => if Rule.Idle o then Rule.withTask x sel fun o => { o with save := v.extractLsb' 9 39 } else refused)
      (task → 6 ≤ k.val → ∃ z, writes x.tsel[k] z ∧ Rule.byTask (.taskEntryWrite · w v) s c k z) ∧
      (window → ∃ z, writes x.winsel z ∧ Rule.byWindow (.taskEntryWrite · w v) s src c z)) ∧
    (∀ m : Fin 16,
      let e := x.mbx[m]
      (window → Rule.Gives (.mailboxDone (.window src c) m v) s s) ∧
      (task → e.valid = false → Rule.byTask (.mailboxDone · m v) s c k x) ∧
      (task → e.valid = true →
        let u := Rule.withCore s c (Rule.counted { x with mbx := x.mbx.set m.val { e with valid := false } } k
          (Rule.onward (Rule.bank s c k)))
        Rule.Gives (.mailboxDone (.task c) m v) s (Rule.withQ u e.queue { s.dq[e.queue] with
          inflight := (s.dq[e.queue]).inflight.map fun f =>
            if f.idx = e.index ∧ f.ended = none then { f with ended := some ⟨0, 0, 0xFF, v, false⟩ } else f })))

/-- 11:R317, R318, R319; 11:R315, R316, R318, R320, R333; 07:R228. -/
def Obligations.TaskCommands : Prop := Rule.TaskEnds ∧ Rule.TaskControl

/-- 11:R321, R322, R323. -/
def Sys2Proof.Rule.SchedulerSelects : Prop :=
  ∀ (s : State) (c : Fin 8) (t : Byte),
    let x := s.cores[c]
    let k := (x.tasks[t.toNat]).level
    coreRuns s c.val = true →
    ((∀ u, ¬ Rule.Waits x u) → (∀ j u, ¬ Rule.Holds x j u) → Rule.Gives (.schedulerSelect c) s s) ∧
    (selectTask x = some t →
      (∀ u, Rule.Waits x u → (x.tasks[u.toNat]).level ≤ k) ∧ (∀ j u, Rule.Holds x j u → j ≤ k) ∧
      (Rule.Holds x k t ∨ (Rule.Waits x t ∧ (∀ u, ¬ Rule.Holds x k u) ∧
        ∀ u, Rule.Waits x u → (x.tasks[u.toNat]).level = k → t.toNat ≤ u.toNat))) ∧
    ((∃ u, Rule.Waits x u) ∨ (∃ j u, Rule.Holds x j u) → (selectTask x).isSome = true) ∧
    (selectTask x = some t → x.switchTo = some t → Rule.Gives (.schedulerSelect c) s s) ∧
    (selectTask x = some t → x.switchTo = none → x.running = some t → (x.tasks[t.toNat]).st = .running →
      Rule.Gives (.schedulerSelect c) s s) ∧
    (selectTask x = some t → x.switchTo ≠ some t →
      (x.running = none → Rule.Gives (.schedulerSelect c) s
        (Rule.withCore s c { x with switches := x.switches + 1, switchTo := some t })) ∧
      (∀ o, x.running = some o → o ≠ t → Rule.Gives (.schedulerSelect c) s (Rule.withCore s c
        (Rule.withTask { x with switches := x.switches + 1, switchTo := some t, outgoing := some o } o
          fun z => { z with st := .preempted }))))

/-- 11:R319, R322, R326; 09:R282. -/
def Sys2Proof.Rule.SwitchesOfTasks : Prop :=
  ∀ (s : State) (c : Fin 8) (t : Byte),
    let x := s.cores[c]
    let y := x.tasks[t.toNat]
    let b := x.banks[y.level]
    coreRuns s c.val = true → x.switchTo = some t → x.rows = [] → x.held = [] →
    (∀ o, x.outgoing = some o → o = t ∨ x.tileOwner ≠ some o) →
    let fresh : Bank := { g := .replicate 32 0, pc := (y.entry.setWidth 48) <<< 2, cs := 0, occ := some t, dirty := 0xF, bad := 0 }
    let started (z : Task) : Task := { z with st := .running, spilled := false, tilesSaved := false }
    let resumes (z : Task) : Task := { z with st := .running, spilled := false }
    (b.occ = none ∨ b.occ = some t →
      (y.st = .ready → Rule.Gives (.taskSwitch c) s (Rule.withCore s c (Rule.incoming x t fresh [] started))) ∧
      (y.st ≠ .ready → y.spilled = false → Rule.Gives (.taskSwitch c) s
        (Rule.withCore s c (Rule.incoming x t { b with occ := some t } [] resumes))) ∧
      (y.st ≠ .ready → y.spilled = true → Rule.Gives (.taskSwitch c) s
        (Rule.withCore s c (Rule.incoming x t { Bank.reset with occ := some t }
          [⟨.fillH, t, y.level, []⟩, ⟨.fillGroup 0, t, y.level, []⟩, ⟨.fillGroup 1, t, y.level, []⟩,
           ⟨.fillGroup 2, t, y.level, []⟩, ⟨.fillGroup 3, t, y.level, []⟩] resumes)))) ∧
    (∀ o, b.occ = some o → o ≠ t → (∀ u ∈ x.xq, u.task ≠ o) → y.st = .ready →
      Rule.Gives (.taskSwitch c) s (Rule.withCore s c (Rule.incoming
        (Rule.withTask x o fun z => { z with spilled := true }) t fresh
        (⟨.spillH, o, y.level, natLe b.pc.toNat 8 ++ natLe b.cs.toNat 8 ++ List.replicate 48 0⟩ ::
          ((List.finRange 4).filter fun g => b.dirty.getLsbD g.val).map fun g =>
            ⟨.spillGroup g, o, y.level, groupBytes b g.val⟩) started)))

/-- 11:R321, R322, R323; 11:R319, R322, R326; 09:R282. -/
def Obligations.TaskSwitches : Prop := Rule.SchedulerSelects ∧ Rule.SwitchesOfTasks

/-- 11:R313, R325, R326, R328, R330; 08:R233. -/
def Obligations.TransferUnits : Prop :=
  ∀ (s v : State) (c : Fin 8) (u : XferUnit) (err : Bool),
    let x := s.cores[c]
    let va := ((x.tasks[u.task.toNat]).save).toNat * 512 + 64 * unitOffset u.kind
    let t := u.task
    coreRuns s c.val = true → x.xstop = none → Rule.NoMismatch s →
    (nextUnit x = none → Rule.Gives (.transferUnit c err) s s) ∧
    (nextUnit x = some u → unitWrites u.kind = true → ∀ pa attr, xlatCore c va .unitWrite 7 s = (.ok pa attr, v) →
      Rule.Writable s (cellsAt pa u.bytes) → region s pa ≠ .ctl →
      Rule.Ends (.transferUnit c false) s fun w =>
        Rule.Wrote s w (cellsAt pa u.bytes) ∧ (w.cores[c]).xq = x.xq.erase u ∧
        (w.cores[c]).banks = x.banks ∧ (w.cores[c]).tasks = x.tasks ∧ Rule.CoreOnly s w c) ∧
    (nextUnit x = some u → unitWrites u.kind = false → ∀ pa attr, xlatCore c va .unitRead 7 s = (.ok pa attr, v) →
      region s pa ≠ .ctl → (readAccess (attr == attrWB || attr == attrWT) pa 64 v).1 ≠ .uncorrectable →
      let bs := Memory.gets s.mem pa 64
      let word (i : Nat) : Nat := leNat ((bs.drop (8 * i)).take 8)
      (u.kind = .fillH → Rule.Ends (.transferUnit c err) s fun w =>
        w.mem = s.mem ∧ (w.cores[c]).xq = x.xq.erase u ∧ (w.cores[c]).tasks = x.tasks ∧ Rule.CoreOnly s w c ∧
        (w.cores[c]).banks = x.banks.set u.level.val { x.banks[u.level] with
          pc := BitVec.ofNat 48 (word 0 / 4 * 4), cs := BitVec.ofNat 13 (word 1) &&& 0x1F3F }) ∧
      (∀ g, u.kind = .fillGroup g → Rule.Ends (.transferUnit c err) s fun w =>
        w.mem = s.mem ∧ (w.cores[c]).xq = x.xq.erase u ∧ (w.cores[c]).tasks = x.tasks ∧ Rule.CoreOnly s w c ∧
        (∀ j : Fin 8, j ≠ u.level → (w.cores[c]).banks[j] = x.banks[j]) ∧
        (let b := x.banks[u.level]
         let b' := (w.cores[c]).banks[u.level]
         b'.pc = b.pc ∧ b'.cs = b.cs ∧ b'.occ = b.occ ∧ b'.dirty.getLsbD g.val = false ∧
         ∀ r : Fin 32, r ≠ 0 → b'.g[r] = if r.val / 8 = g.val then BitVec.ofNat 64 (word (r.val % 8)) else b.g[r])) ∧
      (∀ (r : Fin 12) (i : Fin 32), u.kind = .restoreTile r i → Rule.Ends (.transferUnit c err) s fun w =>
        w.mem = s.mem ∧ (w.cores[c]).xq = x.xq.erase u ∧ (w.cores[c]).banks = x.banks ∧ Rule.CoreOnly s w c ∧
        Memory.gets (tileAt w.cores[c] r.val).bytes (64 * i.val) 64 = bs ∧
        -- its task owns the file once the last unit of the restore is there
        ((∃ y ∈ x.xq.erase u, unitClass y.kind = 6 ∧ y.task = u.task) → (w.cores[c]).tileOwner = x.tileOwner) ∧
        ((∀ y ∈ x.xq.erase u, ¬ (unitClass y.kind = 6 ∧ y.task = u.task)) → (w.cores[c]).tileOwner = some u.task))) ∧
    (nextUnit x = some u → ∀ ev, xlatCore c va (if unitWrites u.kind then .unitWrite else .unitRead) 7 s = (.fault ev, v) →
      (∃ j : Fin 256, (x.tasks[j]).st ≠ .invalid ∧ (x.tasks[j]).src = 6) →
      Rule.Ends (.transferUnit c err) s fun w => Rule.SpillFaulted s w c u ev va ∧ w.mem = s.mem)

/-- 10:R287, R288, R292, R293, R296, R303; 02:R40; 14:R390. -/
def Sys2Proof.Rule.TileRegisters : Prop :=
  ∀ (s : State) (c : Fin 8) (t : Byte) (k : Fin 8), Rule.Ready s c t k → Rule.Owns s c t → Rule.Whole s c →
  ∀ (td ts fmt : BitVec 4) (ga gb rows : BitVec 5) (rb : BitVec 6) (x : Bool),
    let v := Rule.bank s c k
    let n := rows.toNat + 1
    let m := rb.toNat + 1
    let tag : Tag := ⟨n, m, fmt⟩
    let src := ts.toNat
    let dst := td.toNat
    (destLegal dst m fmt = true → Rule.Ends (.tzero c td rows rb fmt) s fun u =>
      Rule.TileDone s u c k v ∧ Rule.TilePut s u c dst tag fun _ => List.replicate m 0) ∧
    (destLegal dst m fmt = true → src < 12 → Rule.Fits s c src n m (if x then none else some fmt) →
      Rule.Ends (.tmov c td ts x rows rb fmt) s fun u =>
        Rule.TileDone s u c k v ∧ Rule.TilePut s u c dst tag fun i => Rule.tileRow s c src i m) ∧
    (let g := Rule.reg v gb
     let row := g.toNat % 32
     let unit := g.toNat / 32 % 8
     (src < 12 → Rule.Fits s c src (row + 1) (8 * unit + 8) none → Rule.Ends (.trdg c ts ga gb) s fun u =>
        Rule.TileDone s u c k (Rule.put v ga (Rule.low
          (leNat (((Rule.tileRow s c src row 64).drop (8 * unit)).take 8)))) ∧ Rule.TilesKept s u c) ∧
     (destLegal dst m fmt = true → row < n → 8 * unit + 8 ≤ m → Rule.Ends (.twrg c td ga gb rows rb fmt) s fun u =>
        Rule.TileDone s u c k v ∧ Rule.TilePut s u c dst tag fun i =>
          let old := Rule.tileRow s c dst i m
          if i = row then old.take (8 * unit) ++ natLe (Rule.reg v ga).toNat 8 ++ old.drop (8 * unit + 8) else old)) ∧
    (dst < 12 → Rule.Ends (.trel c td) s fun u =>
      Rule.TileDone s u c k v ∧ (tileAt u.cores[c] dst).tag = none ∧ (tileAt u.cores[c] dst).inUse = false ∧
      ∀ r : Fin 12, r.val ≠ dst → (u.cores[c]).tiles[r] = (s.cores[c]).tiles[r]) ∧
    (src < 12 → Rule.Ends (.ttag c ts ga) s fun u =>
      Rule.TileDone s u c k (Rule.put v ga (match (tileAt s.cores[c] src).tag with
        | none => 0
        | some g => Rule.low ((if (tileAt s.cores[c] src).inUse then 2 ^ 63 else 0) + (g.rows - 1) * 2 ^ 27 +
            (g.rb - 1) * 2 ^ 21 + g.fmt.toNat * 2 ^ 17))) ∧ Rule.TilesKept s u c) ∧
    (let f := (s.cores[c]).rowFault
     Rule.Ends (.tfstat c ga) s fun u =>
      Rule.TileDone s u c k (Rule.put v ga (Rule.low ((if f.valid then 2 ^ 63 else 0) + (if f.more then 2 ^ 58 else 0) +
        (if f.store then 2 ^ 57 else 0) + f.tile.toNat * 2 ^ 53 + f.row.toNat * 2 ^ 48 + f.pc.toNat))) ∧
      Rule.TilesKept s u c ∧ (u.cores[c]).rowFault = { f with valid := false, more := false })

/-- 10:R294, R304, R305, R307, R309, R310; 14:R390, R392. -/
def Sys2Proof.Rule.TileComputations : Prop :=
  ∀ (s : State) (c : Fin 8) (t : Byte) (k : Fin 8), Rule.Ready s c t k → Rule.Owns s c t →
  ∀ (td ts tt fmt fmt2 nm1 : BitVec 4) (ga rows : BitVec 5) (rb : BitVec 6) (z int : Bool),
    let v := Rule.bank s c k
    let n := rows.toNat + 1
    let m := rb.toNat + 1
    let dst := td.toNat
    let faults (i : Instr) : Prop := k.val < 7 → Rule.Bound s.cores[c] k →
      Rule.Ends i s fun u => Rule.Faulted s u c k t ccParity 0 0
    (∀ m2, destLegal dst m fmt = true → ts.toNat < 12 → fmtBits (tileFmt fmt2) ≠ 0 →
      rowSize fmt2 (rowElems (tileFmt fmt) m) = some m2 → tcfgLegal (s.cores[c]).tcfg = true →
      Rule.Fits s c ts.toNat n m2 (some fmt2) →
      let row (i : Nat) : List Byte × Exc := tileConv (s.cores[c]).tcfg (Rule.reg v ga) (tileFmt fmt2) (tileFmt fmt) i m
        (Rule.tileRow s c ts.toNat i m2)
      let raised : Exc := (List.range n).foldl (fun e i => e ||| (row i).2) 0
      let result (u : State) : Prop :=
        Rule.TileDone s u c k { v with cs := v.cs ||| (raised.setWidth 13 <<< 8) } ∧
        Rule.TilePut s u c dst ⟨n, m, fmt⟩ fun i => (row i).1
      let i (res : Residue) : Instr := .tcvt c td ts ga rows rb fmt ⟨fmt2, res⟩
      (Rule.Whole s c → Rule.Ends (i .ok) s (fun u => result u ∧ u.flt = s.flt) ∧
        Rule.Ends (i .retried) s (fun u => result u ∧ u.flt.detected.length = s.flt.detected.length + 1) ∧
        faults (i .failed)) ∧
      ((∃ r, r < n ∧ (tileAt s.cores[c] ts.toNat).bad.getLsbD r = true) → faults (i .ok))) ∧
    (∀ m2, tmmLegal dst ts.toNat tt.toNat int m fmt fmt2 = true →
      let elems := rowElems (tileFmt fmt) m
      let cols := nm1.toNat + 1
      let out : BitVec 4 := if int then 0xC else 0xA
      rowSize fmt2 elems = some m2 →
      Rule.Fits s c ts.toNat n m (some fmt) → Rule.Fits s c tt.toNat cols m2 (some fmt2) →
      (z = false → Rule.Fits s c dst n (4 * cols) (some out)) →
      let cell (i j : Nat) : List Byte := natLe (tmmCell fmt fmt2 int
          (if z then 0 else BitVec.ofNat 32 (leNat (((Rule.tileRow s c dst i 64).drop (4 * j)).take 4)))
          (rowVals fmt elems (Rule.tileRow s c ts.toNat i m)) (rowVals fmt2 elems (Rule.tileRow s c tt.toNat j m2))).toNat 4
      let result (u : State) : Prop := Rule.TileDone s u c k v ∧
        Rule.TilePut s u c dst ⟨n, 4 * cols, out⟩ fun i => (List.range cols).flatMap (cell i)
      let i (res : Residue) : Instr := .tmm c td ts tt z int rows rb fmt fmt2 nm1 res
      (Rule.Whole s c → Rule.Ends (i .ok) s (fun u => result u ∧ u.flt = s.flt) ∧
        Rule.Ends (i .retried) s (fun u => result u ∧ u.flt.detected.length = s.flt.detected.length + 1) ∧
        faults (i .failed)) ∧
      ((s.cores[c]).latchS = none → (∃ r, r < n ∧ (tileAt s.cores[c] ts.toNat).bad.getLsbD r = true) → faults (i .ok)) ∧
      (∀ l, (s.cores[c]).latchS = some l → l.reg = ts.toNat → l.tag = ⟨n, m, fmt⟩ → l.bad = true → faults (i .ok)))

/-- 10:R287, R288, R292, R293, R296, R303; 02:R40; 14:R390; 10:R294, R304, R305, R307, R309, R310; 14:R390, R392. -/
def Obligations.TileInstructions : Prop := Rule.TileRegisters ∧ Rule.TileComputations

/-- 10:R298, R299, R300, R301, R302; 11:R327. -/
def Obligations.TileMemory : Prop :=
  ∀ (s w : State) (c : Fin 8) (t : Byte) (k : Fin 8), Rule.Ready s c t k → Rule.NoMismatch s →
  ∀ (td ts fmt : BitVec 4) (ga gb rows : BitVec 5) (rb : BitVec 6) (x : Bool) (rs : List (Nat × List RowPiece)),
    let v := Rule.bank s c k
    let n := rows.toNat + 1
    let m := rb.toNat + 1
    let tcfg := (s.cores[c]).tcfg
    let addresses := (List.range n).map fun i => (Rule.reg v ga + Rule.reg v gb * BitVec.ofNat 64 i).toNat
    (∀ (z : Bool) (len : Nat), Rule.Owns s c t → destLegal td.toNat m fmt = true → (s.cores[c]).sb = [] →
      (z = false → len = m) →
      (z = true → tcfgLegal tcfg = true ∧ fmtBits tcfg.cvtl.toNat ≠ 0 ∧
        8 * len = rowElems (tileFmt fmt) m * fmtBits tcfg.cvtl.toNat ∧ len ≤ 256) →
      xlatRows c k.val .rowLoad len addresses s = (.ok rs, w) →
      Rule.Ends (.tld c td ga gb z rows rb fmt) s fun u =>
        Rule.TileDone s u c k v ∧ (tileAt u.cores[c] td.toNat).tag = some ⟨n, m, fmt⟩ ∧
        (tileAt u.cores[c] td.toNat).inUse = true ∧
        (u.cores[c]).rows = rs.mapIdx fun i r =>
          ⟨false, td, i, r.1, r.2, [], if z then some (tcfg.cvtl, fmt, Rule.reg v ga, tcfg) else none, m, t, v.pc⟩) ∧
    (Rule.Owns s c t → ts.toNat < 12 → shapeLegal m fmt = true → Rule.Fits s c ts.toNat n m (if x then none else some fmt) →
      (s.cores[c]).sb = [] → Rule.Whole s c → xlatRows c k.val .rowStore m addresses s = (.ok rs, w) →
      Rule.Ends (.tst c ts ga gb x rows rb fmt) s fun u =>
        Rule.TileDone s u c k v ∧ Rule.TilesKept s u c ∧
        (u.cores[c]).rows = rs.mapIdx fun i r => ⟨true, ts, i, r.1, r.2, Rule.tileRow s c ts.toNat i m, none, m, t, v.pc⟩) ∧
    (∀ (r : RowOp) (rest : List RowOp) (p : RowPiece), (s.cores[c]).rows = r :: rest → r.pieces = [p] → r.rb ≤ 64 →
      r.row < 32 → r.tile.toNat < 12 →
      let status := (coreRead c.val p.attr p.pa p.len (Rule.withCore s c { s.cores[c] with rows := rest })).1
      (r.store = true → Rule.Sound s → r.bytes.length = p.len → Rule.Writable s (cellsAt p.pa r.bytes) →
        Rule.Ends (.tileRow c) s fun u => Rule.Wrote s u (cellsAt p.pa r.bytes) ∧ (u.cores[c]).rows = rest ∧
          Rule.TilesKept s u c ∧ (u.cores[c]).banks = (s.cores[c]).banks ∧ Rule.CoreOnly s u c) ∧
      (r.store = false → r.conv = none → p.len = r.rb → status ≠ .uncorrectable →
        Rule.Ends (.tileRow c) s fun u => u.mem = s.mem ∧ (u.cores[c]).rows = rest ∧
          Memory.gets (tileAt u.cores[c] r.tile.toNat).bytes (64 * r.row) r.rb = Memory.gets s.mem p.pa r.rb ∧
          (∀ j : Fin 12, j.val ≠ r.tile.toNat → (u.cores[c]).tiles[j] = (s.cores[c]).tiles[j]) ∧ Rule.CoreOnly s u c) ∧
      (∀ src f x cfg, r.store = false → r.conv = some (src, f, x, cfg) → status ≠ .uncorrectable →
        let out := tileConv cfg x src.toNat (tileFmt f) r.row r.rb (Memory.gets s.mem p.pa p.len)
        Rule.Ends (.tileRow c) s fun u => u.mem = s.mem ∧ (u.cores[c]).rows = rest ∧ Rule.CoreOnly s u c ∧
          Memory.gets (tileAt u.cores[c] r.tile.toNat).bytes (64 * r.row) out.1.length = out.1 ∧
          ∀ l : Fin 8, ((s.cores[c]).tasks[r.task.toNat]).level = l → (((s.cores[c]).banks[l]).occ = some r.task) →
            (u.cores[c]).banks = (s.cores[c]).banks.set l.val { (s.cores[c]).banks[l] with
              cs := ((s.cores[c]).banks[l]).cs ||| (out.2.setWidth 13 <<< 8) }) ∧
      (r.store = false → status = .uncorrectable →
        (s.cores[c]).rowFault.valid = false →
        Rule.Ends (.tileRow c) s fun u => u.mem = s.mem ∧ (u.cores[c]).rows = rest ∧
          Memory.gets (tileAt u.cores[c] r.tile.toNat).bytes (64 * r.row) r.rb = List.replicate r.rb 0 ∧
          (u.cores[c]).rowFault = ⟨true, (s.cores[c]).rowFault.more, false, r.tile, BitVec.ofNat 5 r.row, r.pc⟩)) ∧
    ((s.cores[c]).rows = [] → Rule.Gives (.tileRow c) s s) ∧
    ((s.cores[c]).tileOwner = some t → Rule.Gives (.tileFileRestore c) s s) ∧
    ((s.cores[c]).tileOwner ≠ some t → (s.cores[c]).rows = [] →
      (∀ u ∈ (s.cores[c]).xq, unitClass u.kind ≠ 4 ∧ ¬ (unitClass u.kind = 6 ∧ u.task = t)) →
      let y := (s.cores[c]).tasks[t.toNat]
      Rule.Gives (.tileFileRestore c) s (Rule.withCore s c { s.cores[c] with
        tiles := .replicate 12 .reset, latchS := none, latchT := none, rowFault := .reset,
        -- a task with saved tiles owns the file once they are restored
        tileOwner := if y.tilesSaved then none else some t,
        xq := ((s.cores[c]).xq.filter fun u => unitClass u.kind ≠ 6) ++ if y.tilesSaved then
          [⟨.restoreHead false, t, y.level, []⟩, ⟨.restoreHead true, t, y.level, []⟩] else [] }))

/-- 15:R425, R426; 08:R233, R234, R235. -/
def Sys2Proof.Rule.MemoryAnswers : Prop :=
  ∀ (s : State) (n : Fin 16) (tag : BitVec 10) (r : PortReq),
    ((mpBuilt s).getLsbD n.val = false →
      Rule.Gives (.memoryCredit n) s s ∧ Rule.Gives (.memoryReadResponse n tag 0) s s ∧
      Rule.Gives (.memoryWriteAck n tag false) s s ∧ Rule.Gives (.memoryRequestTimeout n tag) s s) ∧
    ((mpBuilt s).getLsbD n.val = true → (∀ x ∈ s.memp.waiting, x.port ≠ n.val) →
      Rule.Gives (.memoryCredit n) s { s with memp := { s.memp with
        credits := s.memp.credits.set n.val (s.memp.credits[n] + 1) } }) ∧
    ((mpBuilt s).getLsbD n.val = true → (∀ x ∈ s.memp.out, x.port = n.val → x.tag ≠ tag) →
      (∀ x ∈ s.memp.waiting, x.port ≠ n.val) →
      let discarded : State := if (n.val, tag) ∈ s.memp.dead
        then { s with memp := { s.memp with dead := s.memp.dead.erase (n.val, tag) } }
        else { s with bnd := { s.bnd with flags := Rule.withBit s.bnd.flags 9 true } }
      (∀ stat, Rule.Gives (.memoryReadResponse n tag stat) s discarded) ∧
      (∀ err, Rule.Gives (.memoryWriteAck n tag err) s discarded) ∧ Rule.Gives (.memoryRequestTimeout n tag) s s) ∧
    (Rule.Named s n tag false r → ∀ (q : Fin 32) (idx : BitVec 32) (opnd : Byte) (va : BitVec 48) (f : InFlight),
      r.waiter = .engine q idx opnd va → getFlight s q.val idx = some f → dClass f.desc = 2 ∨ dClass f.desc = 3 →
      (∀ stat : BitVec 16, stat.toNat % 4 = 0 → Rule.Gives (.memoryReadResponse n tag stat) s
        { s with memp := Rule.answered s.memp r false false }) ∧
      (∀ stat : BitVec 16, stat.toNat % 4 = 1 → Rule.Ends (.memoryReadResponse n tag stat) s fun t =>
        t.memp = { Rule.answered s.memp r false true with ce := t.memp.ce } ∧ t.dq = s.dq ∧ t.mem = s.mem ∧
        (∀ p : Fin 16, p.val = portOf s (r.unit * 64) → t.memp.ce[p] = s.memp.ce[p] + 1) ∧
        t.flt.detected.length = s.flt.detected.length + if (memCe, portOf s (r.unit * 64)) ∈ s.beat.marks then 0 else 1) ∧
      (∀ stat : BitVec 16, 2 ≤ stat.toNat % 4 → (∀ g ∈ (s.dq[q]).inflight, g.idx = idx → g = f) → f.ended = none →
        s.rme.held = [] → (∀ m : Fin 16, (s.opa.inst[m]).jobs = []) →
        Rule.Ends (.memoryReadResponse n tag stat) s fun t =>
          t.memp.status.status.getLsbD 0 = true ∧ t.memp.out = s.memp.out.erase r ∧
          (∀ g ∈ (t.dq[q]).inflight, g.idx = idx → g.writes = [] ∧
            g.ended = some ⟨dqMemerr, memUe, opnd, BitVec.ofNat 64 (va.toNat / 4096 * 4096 +
              Max.max (va.toNat % 4096) (match r.old with | c :: _ => c.1 % 4096 | [] => r.unit * 64 % 4096)), false⟩) ∧
          (∀ p : Fin 32, p ≠ q → t.dq[p] = s.dq[p]))) ∧
    (Rule.Named s n tag false r → ∀ k, r.waiter = .command k →
      (∀ stat : BitVec 16, stat.toNat % 4 = 0 → Rule.Gives (.memoryReadResponse n tag stat) s
        { s with memp := { Rule.answered s.memp r false false with got := s.memp.got ++ [(k, r.unit, .clean)] } }) ∧
      (∀ stat : BitVec 16, 2 ≤ stat.toNat % 4 → Rule.Ends (.memoryReadResponse n tag stat) s fun t =>
        t.memp = { Rule.answered s.memp r true false with
          ue := t.memp.ue, status := t.memp.status, got := s.memp.got ++ [(k, r.unit, .uncorrectable)] } ∧
        t.memp.status.status.getLsbD 0 = true ∧ t = { s with memp := t.memp })) ∧
    (Rule.Named s n tag true r →
      ((∃ c, r.waiter = .coreStore c) ∨ r.waiter = .hostWrite ∨ r.waiter = .writeBack →
        Rule.Gives (.memoryWriteAck n tag false) s { s with memp := { s.memp with out := s.memp.out.erase r } }) ∧
      ((∃ c, r.waiter = .coreStore c) ∨ r.waiter = .hostWrite ∨ r.waiter = .writeBack →
        Rule.Ends (.memoryWriteAck n tag true) s fun t =>
          t.ctl.state = .fault ∧ t.memp.status.status.getLsbD 2 = true ∧ t.flt.evFatal = true ∧
          t.flt.detected.length = s.flt.detected.length + 1 ∧ (∀ q : Fin 32, (t.dq[q]).inflight = []))) ∧
    (Rule.Named s n tag false r → ∀ (q : Fin 32) (idx : BitVec 32) (opnd : Byte) (va : BitVec 48),
      r.waiter = .engine q idx opnd va → (∀ g ∈ (s.dq[q]).inflight, g.idx ≠ idx) → (∀ m : Fin 16, (s.opa.inst[m]).jobs = []) →
      Rule.Ends (.memoryRequestTimeout n tag) s fun t =>
        t.bnd = { s.bnd with flags := Rule.withBit s.bnd.flags 8 true } ∧
        t.memp.out = s.memp.out.erase r ∧ t.memp.dead = s.memp.dead ++ [(n.val, tag)] ∧ t.mem = s.mem ∧ t.dq = s.dq)

/-- 08:R231, R232. -/
def Sys2Proof.Rule.Interleave : Prop :=
  ∀ (s : State) (src : Src) (v : Word), Rule.NoMismatch s → Rule.Writer s src →
    (s.ctl.state ≠ .config ∨ 3 < v.toNat % 8 → Rule.Ends (.mempCfgWrite src v) s fun t =>
      t = { s with memp := { s.memp with status := t.memp.status } } ∧ t.memp.status.status.getLsbD 1 = true) ∧
    (s.ctl.state = .config → v.toNat % 8 ≤ 3 → (∀ l ∈ s.bc.lines, l.dirty = false) → s.memp.waiting = [] →
      s.bnd.hostHeld = [] → Rule.Ends (.mempCfgWrite src v) s fun t =>
        t.memp.ilv = v.extractLsb' 0 3 ∧ t.dq = s.dq ∧ t.ctl = s.ctl ∧
        (∀ a b, region s a = .ext → region s b = .ext → portOf s a = portOf t b → padr s a = padr t b →
          Memory.get t.mem b = Memory.get s.mem a) ∧
        (∀ a, region s a ≠ .ext → Memory.get t.mem a = Memory.get s.mem a))

/-- 15:R425, R426; 08:R233, R234, R235; 08:R231, R232. -/
def Obligations.MemoryPorts : Prop := Rule.MemoryAnswers ∧ Rule.Interleave

/-- 08:R234, R236, R238, R239; 14:R404, R411. -/
def Obligations.StageMemory : Prop :=
  ∀ (s : State) (word : BitVec 23) (spare : Fin 4) (bank : Fin 128) (tr : Trans),
    let pa := stageBase + word.toNat * 32
    let absent : Prop := smBytes s ≤ word.toNat * 32
    let bad : Prop := pa / 32 ∈ s.sm.ueWords
    let wrong : Prop := pa / 32 ∈ s.sm.ceWords
    let atLimit : Prop := s.svc.smLimit.toNat ≤ ((s.sm.ceWindow.find? (·.1 == bankOf pa)).map (·.2)).getD 0 + 1
    (∀ found, absent → Rule.Gives (.scrubRead word found) s s) ∧
    (¬ bad → ¬ wrong → Rule.Gives (.scrubRead word .clean) s s) ∧
    (∀ found, found = .corrected ∨ (found = .clean ∧ wrong) → ¬ absent → ¬ bad → s.svc.auto ≠ 1 ∨ ¬ atLimit →
      Rule.Ends (.scrubRead word found) s fun t =>
      t.sm = { s.sm with
        ceLast := BitVec.ofNat 8 (bankOf pa), ceCount := s.sm.ceCount + 1, ceWindow := t.sm.ceWindow,
        ceWords := s.sm.ceWords.erase (pa / 32) } ∧
      t.mem = s.mem ∧ t.dq = s.dq ∧ t.svc = s.svc ∧
      t.flt.detected.length = s.flt.detected.length + if (smCe, bankOf pa) ∈ s.beat.marks then 0 else 1) ∧
    (¬ absent → ¬ bad → s.svc.auto = 1 → atLimit → s.svc.retBank.getLsbD (bankOf pa) = false → spareOf s (bankOf pa) = none →
      freeSpare s ≠ none → transOf s (BitVec.ofNat 16 (0x600 + bankOf pa)) = none →
      Rule.Ends (.scrubRead word .corrected) s fun t =>
        t.svc.retBank.getLsbD (bankOf pa) = true ∧ spareOf t (bankOf pa) = freeSpare s ∧ t.dq = s.dq ∧
        t.sm.ceCount = s.sm.ceCount + 1) ∧
    (¬ absent → ∀ found, bad ∨ found = .uncorrectable → Rule.Ends (.scrubRead word found) s fun t =>
      t.sm = { s.sm with
        ueLast := BitVec.ofNat 8 (bankOf pa), ueCount := s.sm.ueCount + 1, ueWords := t.sm.ueWords } ∧
      pa / 32 ∈ t.sm.ueWords ∧ (∀ w ∈ s.sm.ueWords, w ∈ t.sm.ueWords) ∧ t.mem = s.mem ∧ t.dq = s.dq ∧
      t.flt.detected = insertDetected s.ctl.fcycles ⟨smUe, clsInfo, true, BitVec.ofNat 16 (0x0600 + bankOf pa), 4,
        s.beat.value, BitVec.ofNat 64 pa, 0⟩ s.flt.detected) ∧
    (let u : BitVec 16 := BitVec.ofNat 16 (0x0600 + bank.val)
     (s.sm.copy = none → Rule.Gives (.spareCopyComplete spare) s s) ∧
     (∀ c, s.sm.copy = some c → c.spare ≠ spare → Rule.Gives (.spareCopyComplete spare) s s) ∧
     (s.svc.trans = [(u, tr)] →
      (s.sm.copy = some ⟨spare, bank, true, false⟩ → Rule.Gives (.spareCopyComplete spare) s
        { s with
          sm := { s.sm with copy := none, spare := s.sm.spare.set spare.val none },
          svc := { s.svc with trans := [], bank := Rule.withBit s.svc.bank bank.val false } }) ∧
      (s.sm.copy = some ⟨spare, bank, false, true⟩ → Rule.Gives (.spareCopyComplete spare) s
        { s with sm := { s.sm with copy := none }, svc := { s.svc with trans := [] } }) ∧
      (s.sm.copy = some ⟨spare, bank, false, false⟩ → tr = .entering → Rule.Gives (.spareCopyComplete spare) s
        { s with sm := { s.sm with copy := none, copied := bank.val :: s.sm.copied } })))

/-- 12:R336, R337, R338, R339, R340, R341, R342, R350. -/
def Sys2Proof.Rule.TranslationWalks : Prop :=
  ∀ (s : State) (ctx : BitVec 16) (va : BitVec 48) (acc : Access) (k : Nat) (leaf : Word) (c : Fin 8),
    s.xlat.tlb = [] → s.xlat.walker = [] → s.xlat.ctxCache = [] → Rule.Sound s → Rule.NoMismatch s →
    let base := s.xlat.basePA.toNat * 4096
    let root := Rule.wordAt s (base + 8 * ctx.toNat)
    let size := 2 ^ (39 - 9 * k)
    let pa := eBase leaf + va.toNat % size
    (s.xlat.baseV = true → s.xlat.baseAttr ≠ 4 → region s base = .ext ∨ region s base = .stage →
      Rule.Leads s va.toNat 0 root k leaf →
      ∃ t, xlatEngine ctx va.toNat acc s = (checkLeaf s acc 0 leaf pa, t) ∧ t.mem = s.mem ∧ t.dq = s.dq ∧
        t.xlat.walks = s.xlat.walks + 1 ∧
        (∀ a attr, checkLeaf s acc 0 leaf pa = .ok a attr → a = pa ∧ attr = leaf.extractLsb' 2 3 ∧
          (leaf.getLsbD 5 = true → ⟨ctx, va.toNat / size * size, k, eBase leaf, leaf⟩ ∈ t.xlat.tlb))) ∧
    (s.xlat.baseV = false → ∃ t, xlatEngine ctx va.toNat acc s = (.fault xlNotPresent, t) ∧ t.mem = s.mem) ∧
    (Rule.Leads s va.toNat 0 (s.cores[c]).ttb k leaf → (s.cores[c]).l1tlb = [] →
      ∀ level, ∃ t, xlatCore c va.toNat acc level s = (checkLeaf s acc level leaf pa, t) ∧ t.mem = s.mem)

/-- 12:R340, R343, R346, R347, R348; 13:R388. -/
def Sys2Proof.Rule.TranslationCommands : Prop :=
  ∀ (s : State) (src : Src) (v : Word) (ctx : BitVec 16) (va : BitVec 48), Rule.NoMismatch s → Rule.Writer s src →
    let page := va.toNat / 4096 * 4096
    let starts (i : Instr) (variant : Nat) (c : BitVec 16) (a : Nat) (covers : TlbEntry → Bool) : Prop :=
      (s.xlat.inv ≠ none → Rule.Ends i s fun t =>
        t = { s with xlat := { s.xlat with status := t.xlat.status } } ∧ t.xlat.status.status.getLsbD 1 = true) ∧
      (s.xlat.inv = none → Rule.Gives i s { s with
        xlat := { s.xlat with
          inv := some ⟨c, BitVec.ofNat 48 a, BitVec.ofNat 3 variant⟩, tlb := s.xlat.tlb.filter fun e => !covers e,
          walker := invWalker variant c a s.xlat.walker, ctxCache := invCtx variant c s.xlat.ctxCache },
        cores := s.cores.map fun x => { x with l1tlb := x.l1tlb.filter fun e => !covers e } })
    let inPage (e : TlbEntry) : Bool := e.ctx == ctx && page / 2 ^ (39 - 9 * e.level) == e.vbase / 2 ^ (39 - 9 * e.level)
    (s.ctl.state = .config → v.toNat / 2 ^ 12 % 128 = 0 → v.toNat / 4 % 8 ≤ 4 →
      Rule.Gives (.xlatCtxbaseWrite src v) s { s with xlat := { s.xlat with
        basePA := v.extractLsb' 12 40, baseAttr := v.extractLsb' 2 3, baseV := v.getLsbD 0, ctxCache := [] } }) ∧
    (s.ctl.state ≠ .config ∨ v.toNat / 2 ^ 12 % 128 ≠ 0 ∨ 4 < v.toNat / 4 % 8 →
      Rule.Ends (.xlatCtxbaseWrite src v) s fun t =>
        t = { s with xlat := { s.xlat with status := t.xlat.status } } ∧ t.xlat.status.status.getLsbD 2 = true) ∧
    starts (.xlatInvAddress src ctx va) 0 ctx page inPage ∧ starts (.xlatInvAddressWalker src ctx va) 1 ctx page inPage ∧
    starts (.xlatInvContext src ctx) 2 ctx 0 (fun e => e.ctx == ctx) ∧ starts (.xlatInvBlock src) 3 0 0 (fun _ => true) ∧
    (s.xlat.inv = none → Rule.Gives .xlatInvComplete s s) ∧
    (∀ inv, s.xlat.inv = some inv → (∀ c : Fin 8, (s.cores[c]).sb = [] ∧ (s.cores[c]).rows = []) →
      (∃ y ∈ ctxsOut s, inv.variant = 3 ∨ y = inv.ctx) → Rule.Gives .xlatInvComplete s s) ∧
    (∀ inv, s.xlat.inv = some inv → (∀ c : Fin 8, (s.cores[c]).sb = [] ∧ (s.cores[c]).rows = []) →
      (∀ y ∈ ctxsOut s, inv.variant ≠ 3 ∧ y ≠ inv.ctx) → Rule.Ends .xlatInvComplete s fun t =>
        t = { s with xlat := { s.xlat with inv := none, status := t.xlat.status } } ∧
        t.xlat.status.status.getLsbD 0 = true) ∧
    (∀ (root : WalkRoot) (addr : Word) (acc : Access), Rule.Ends (.pageWalk root addr acc) s fun t =>
      t.mem = s.mem ∧ t.dq = s.dq ∧ t.flags = s.flags ∧
      t.xlat.walks = s.xlat.walks + if addr.toNat < 2 ^ 48 then 1 else 0)

/-- 12:R336, R337, R338, R339, R340, R341, R342, R350; 12:R340, R343, R346, R347, R348; 13:R388. -/
def Obligations.Translation : Prop := Rule.TranslationWalks ∧ Rule.TranslationCommands

/-- 12:R353, R354, R355, R356, R357. -/
def Obligations.BlockCacheCommands : Prop :=
  ∀ (s : State) (src : Src) (v : Word) (w : Fin 16), Rule.NoMismatch s → Rule.Writer s src →
    let len := v.toNat % 2 ^ 32
    let legal : Prop := len ≠ 0 ∧ len % 128 = 0 ∧ s.bc.plBase.toNat * 128 + len ≤ memBytes s
    let on (m : BitVec 16) : BitVec 16 := Rule.withBit m w.val true
    let off (m : BitVec 16) : BitVec 16 := Rule.withBit m w.val false
    let entering : Prop := transOf s (BitVec.ofNat 16 (0x500 + w.val)) = some .entering
    (legal → s.bc.plBusy = false → Rule.Gives (.preloadStart src v) s
      { s with bc := { s.bc with plLen := v.extractLsb' 0 32, plFrom := s.bc.plBase, plBusy := true } }) ∧
    (¬ legal ∨ s.bc.plBusy = true → Rule.Ends (.preloadStart src v) s fun t =>
      t = { s with bc := { s.bc with status := t.bc.status } } ∧ t.bc.status.status.getLsbD 1 = true) ∧
    (s.bc.plBusy = false → Rule.Gives .preloadComplete s s) ∧
    (s.bc.plBusy = true → Rule.Ends .preloadComplete s fun t =>
      t.bc.plBusy = false ∧ t.bc.status.status.getLsbD 0 = true ∧ t.mem = s.mem ∧ t.dq = s.dq ∧
      (Rule.Sound s → s.bc.plLen.toNat = 128 → (bcFillable s) ≠ [] →
        (∀ l ∈ s.bc.lines, bcSet l.line ≠ bcSet s.bc.plFrom.toNat) →
        ∃ l ∈ t.bc.lines, l.line = s.bc.plFrom.toNat ∧ l.way.val ∈ bcFillable s) ∧
      (∀ l, s.bc.plLen.toNat = 128 → s.bc.lines = [l] → l.line = s.bc.plFrom.toNat → l.bad = false →
        l.way.val ∉ bcFillable s → bcFillable s ≠ [] →
        ∃ way : Fin 16, way.val ∈ bcFillable s ∧ t.bc.lines = [{ l with way := way }])) ∧
    (s.bc.off.getLsbD w.val = false → Rule.Gives (.wayPowerDown src w) s
      { s with bc := { s.bc with off := on s.bc.off, busy := on s.bc.busy } }) ∧
    (s.bc.off.getLsbD w.val = true → Rule.Gives (.wayPowerDown src w) s s) ∧
    (s.bc.off.getLsbD w.val = true → s.bc.down.getLsbD w.val = true → Rule.Gives (.wayPowerUp src w) s
      { s with bc := { s.bc with off := off s.bc.off, busy := on s.bc.busy } }) ∧
    (s.bc.off.getLsbD w.val = true → s.bc.down.getLsbD w.val = false → Rule.Gives (.wayPowerUp src w) s
      { s with bc := { s.bc with
        off := off s.bc.off, busy := if cleansAnyway s w.val then s.bc.busy else off s.bc.busy } }) ∧
    (s.bc.off.getLsbD w.val = false → Rule.Gives (.wayPowerUp src w) s s) ∧
    (s.bc.off.getLsbD w.val = false → s.bc.down.getLsbD w.val = true → Rule.Gives (.wayPowerUpReady w) s
      { s with bc := { s.bc with down := off s.bc.down, busy := off s.bc.busy } }) ∧
    (s.bc.off.getLsbD w.val = true ∨ s.bc.down.getLsbD w.val = false → Rule.Gives (.wayPowerUpReady w) s s) ∧
    (s.bc.busy.getLsbD w.val = false → Rule.Gives (.wayCleanComplete w) s s) ∧
    (s.bc.busy.getLsbD w.val = true → Rule.Ends (.wayCleanComplete w) s fun t =>
      (s.bc.lines.Pairwise (fun a b => a.line ≠ b.line) → Rule.Cleaned s t w) ∧ t.mem = s.mem ∧ t.dq = s.dq ∧ t.bc.off = s.bc.off ∧
      (s.bc.off.getLsbD w.val = true → (∀ l ∈ s.bc.lines, l.way = w → l.bad = false) →
        t.bc.down = on s.bc.down ∧ t.bc.busy = off s.bc.busy) ∧
      (s.bc.off.getLsbD w.val = true ∨ entering → (∃ l ∈ s.bc.lines, l.way = w ∧ l.bad = true) →
        t.bc.down = s.bc.down ∧ t.bc.busy = s.bc.busy) ∧
      (s.bc.off.getLsbD w.val = false → ¬ entering ∨ (∀ l ∈ s.bc.lines, l.way = w → l.bad = false) →
        t.bc.down = s.bc.down ∧ t.bc.busy = off s.bc.busy))

/-- 14:R395, R399. -/
def Sys2Proof.Rule.FaultRing : Prop :=
  ∀ (s : State) (src : Src) (v : Word) (at_ : Word) (r : FRec) (rest : List (Word × FRec)),
    let used := Rule.ahead s.flt.wr s.flt.ack
    let room : Prop := if r.cls = clsFatal then used < 256 else used < 255
    let slot := s.flt.wr.toNat % 256
    (s.flt.detected = [] → Rule.Gives .faultRecordWrite s s) ∧
    (s.flt.detected = (at_, r) :: rest → room → Rule.Ends .faultRecordWrite s fun t =>
      t = { s with flt := { s.flt with
        detected := rest, ring := t.flt.ring, wr := s.flt.wr + 1, total := s.flt.total + 1, evRec := true,
        status := t.flt.status } } ∧
      t.flt.status.status.getLsbD 0 = true ∧ (r.cls = clsFatal → t.flt.status.status.getLsbD 3 = true) ∧
      (∀ i : Fin 256, i.val ≠ slot → t.flt.ring[i] = s.flt.ring[i]) ∧
      (∀ i : Fin 256, i.val = slot →
        let word := (t.flt.ring[i])[0]
        word.extractLsb' 0 16 = r.event ∧ word.extractLsb' 16 8 = r.cls ∧
        word.getLsbD 24 = decide (s.flt.wr.toNat / 256 % 2 = 0) ∧ word.getLsbD 25 = r.avalid ∧
        word.extractLsb' 26 6 = 0 ∧ word.extractLsb' 32 16 = r.source ∧ word.extractLsb' 48 16 = r.detail ∧
        (t.flt.ring[i])[1] = r.beat ∧ (t.flt.ring[i])[2] = r.info0 ∧ (t.flt.ring[i])[3] = r.info1)) ∧
    (s.flt.detected = (at_, r) :: rest → ¬ room → Rule.Ends .faultRecordWrite s fun t =>
      t = { s with flt := { s.flt with detected := rest, lost := s.flt.lost + 1, status := t.flt.status } } ∧
      t.flt.status.status.getLsbD 2 = true) ∧
    (Rule.Writer s src →
      let ack := v.extractLsb' 0 32
      (Rule.ahead ack s.flt.ack ≤ used → Rule.Gives (.faultAckWrite src v) s { s with flt := { s.flt with ack := ack } }) ∧
      (used < Rule.ahead ack s.flt.ack → Rule.Ends (.faultAckWrite src v) s fun t =>
        t = { s with flt := { s.flt with status := t.flt.status } } ∧ t.flt.status.status.getLsbD 1 = true))

/-- 13:R381, R388. -/
def Sys2Proof.Rule.ParityAndMailbox : Prop :=
  ∀ (s : State) (off : BitVec 26) (mismatch : Bool) (bytes : List Byte),
    (mismatch = false ∨ parityCovered off.toNat = false ∨ off ∈ s.gen.parity → off ∉ s.gen.latent →
      Rule.Gives (.parityScan off mismatch) s s) ∧
    (mismatch = true ∧ parityCovered off.toNat = true ∨ mismatch = false ∧ off ∈ s.gen.latent →
      off ∉ s.gen.parity → off.toNat < 0x100000 ∨ 0x120000 ≤ off.toNat →
      Rule.Ends (.parityScan off mismatch) s fun t =>
        t = { s with
          gen := { s.gen with
            parity := s.gen.parity ++ [off], parityRec := t.gen.parityRec, status := t.gen.status,
            latent := if mismatch then s.gen.latent else s.gen.latent.erase off },
          flt := { s.flt with detected := t.flt.detected } } ∧
        t.gen.status.status.getLsbD 4 = true ∧ off ∈ t.gen.parityRec ∧
        t.flt.detected.length = s.flt.detected.length + if off ∈ s.gen.parityRec then 0 else 1) ∧
    (∀ q : Fin 32, off = Rule.dqReg q 0x48 → off ∉ s.gen.parity → (s.dq[q]).halted = false → (s.dq[q]).inflight = [] →
      Rule.Ends (.parityScan off true) s fun t =>
        (t.dq[q]).halted = true ∧ (t.dq[q]).haltEvent = mgCfgParity ∧ (t.dq[q]).status.status.getLsbD 0 = true ∧
        off ∈ t.gen.parity ∧ (∀ p : Fin 32, p ≠ q → t.dq[p] = s.dq[p])) ∧
    (s.mbox.ready = none → Rule.Gives .mboxResponseReady s s) ∧
    (s.mbox.ready = some bytes → bytes.length ≤ 1032 → Rule.Ends .mboxResponseReady s fun t =>
      t = { s with mbox := { s.mbox with
        resp := t.mbox.resp, rlen := BitVec.ofNat 16 bytes.length, rseq := t.mbox.rseq, busy := false, cmd := none,
        ready := none, evMbox := true, status := t.mbox.status } } ∧
      t.mbox.status.status.getLsbD 0 = true ∧ (∀ c, s.mbox.cmd = some c → t.mbox.rseq = c.seq) ∧
      ∀ i : Fin 129, 8 * i.val + 8 ≤ bytes.length →
        t.mbox.resp[i] = BitVec.ofNat 64 (leNat ((bytes.drop (8 * i.val)).take 8)))

/-- 14:R395, R399; 13:R381, R388. -/
def Obligations.FaultRingAndMailbox : Prop := Rule.FaultRing ∧ Rule.ParityAndMailbox

/-- 06:R171; 04:R99, R100, R118; 07:R196, R197; 14:R402. -/
def Obligations.ArrayStarts : Prop :=
  ∀ (s u : State) (q : Fin 32) (n : Fin 16) (op : Nat) (i : Instr) (f : Fetched),
    Rule.ArrayCommand q op i → (s.dq[q]).cls = 1 → (s.dq[q]).inst.toNat = n.val → dInstance f.desc = n.val →
    (startHead s q.val 1 op = none → Rule.Gives i s s) ∧
    (startHead s q.val 1 op = some f → Rule.LocalSignal f.desc →
      let d := f.desc
      let prof := profileOf s d
      let held := (getGroup s.opa.inst[n] (opaGroupNo d)).open_
      let fails (e : Ended) (t : State) : Prop :=
        ∃ x, Rule.Starts s t q f x ∧ x.writes = [] ∧ x.ended = some e ∧
          t.opa.inst[n] = { s.opa.inst[n] with lastQ := q.val } ∧ ∀ k : Fin 16, k ≠ n → t.opa.inst[k] = s.opa.inst[k]
      let profiled : Prop := opaDrains d = true → profileOk d prof (profTable s prof) (s.dq[q]).w = true
      (opaPresent s n.val = false → Rule.Ends i s (fails ⟨dqEngineAbsent, 0, 0xFF, 0, false⟩)) ∧
      (opaPresent s n.val = true → opaStateOk s n.val d = false → Rule.Ends i s (fails ⟨dqState, 0, 0xFF, 0, false⟩)) ∧
      (opaPresent s n.val = true → opaStateOk s n.val d = true → ¬ profiled →
        Rule.Ends i s (fails ⟨dqOperand, 0, 0xFF, 0, false⟩)) ∧
      (opaPresent s n.val = true → opaStateOk s n.val d = true → profiled → op = 2 → ∀ b, held.bad = some b →
        Rule.Ends i s fun t => ∃ x, Rule.Starts s t q f x ∧ x.writes = [] ∧
          x.ended = some ⟨opaAccParity, 0, 0xFF, 0, false⟩ ∧ (getGroup t.opa.inst[n] (opaGroupNo d)).tile = none) ∧
      (opaPresent s n.val = true → opaStateOk s n.val d = true → profiled → (op = 2 → held.bad = none) →
        (∀ x, opaPrepare q.val f.idx (s.dq[q]).ctx d prof s = (.ok x, u) → Rule.Ends i s fun t =>
          ∃ y, Rule.Starts s t q f y ∧ y.writes = [] ∧ y.ended = none ∧
            t.opa.inst[n] = { (if issuing s.opa.inst[n] = none then Rule.gapped s.opa.fill.toNat s.opa.inst[n]
                else s.opa.inst[n]) with
              lastQ := q.val, jobs := s.opa.inst[n].jobs ++ [newJob s q.val f x] } ∧
            ∀ k : Fin 16, k ≠ n → t.opa.inst[k] = s.opa.inst[k]) ∧
        (∀ e, opaPrepare q.val f.idx (s.dq[q]).ctx d prof s = (.fail e, u) → Rule.Ends i s (fails e)) ∧
        (opaPrepare q.val f.idx (s.dq[q]).ctx d prof s = (.wait, u) → Rule.Gives i s s)))

/-- 03:R70, R85, R87, R91, R92, R94; 04:R100, R102, R105, R107; 05:R131, R132, R133; 14:R391. -/
def Sys2Proof.Rule.StepsIssue : Prop :=
  (∀ (s u v w : State) (j : OpaJob) (rows cols at_ p : Nat) (m1 m2 m3 : PageMap) (next : Option Nat),
    let np := stepCount j.desc
    let span (x y : Nat) : List Nat := (List.range (y - x)).map (· + x)
    let rd (va : Nat) : Byte := Memory.get s.mem (mapVa m2 va)
    (scanSteps j rows cols (span at_ np) [] s = (.ok (none, m1), u) →
      readStep j rows cols at_ s = (.ok ⟨np - 1, np - 1 - at_, none, true, [], []⟩, u)) ∧
    (scanSteps j rows cols (span at_ np) [] s = (.ok (some p, m1), u) →
      feederRead j (elemReqs j rows cols p) m1 u = (.ok m2, v) →
      scanSteps j rows cols (span (p + 1) np) m2 v = (.ok (next, m3), w) →
      ∃ x, readStep j rows cols at_ s = (.ok x, w) ∧ x.pos = p ∧ x.next = next ∧ x.zero = false ∧
        x.skip = (if next = none then np - 1 - at_ else p - at_) ∧
        (∀ row, row < rows → x.a.getD row [] =
          (stepIdx j p).map (factor (opaA j.desc) rd j.listA roleA j.k (j.r0 + row))) ∧
        (∀ col, col < cols → x.b.getD col [] =
          (stepIdx j p).map (factor (opaB j.desc) rd j.listB roleB j.k (j.c0 + col))))) ∧
  (∀ (s u : State) (n : Fin 16) (j j1 : OpaJob) (g1 : Group) (x : FeedStep),
    let i := s.opa.inst[n]
    let a := opaGroupNo j.desc
    let T := g1.set j1.setY
    let now : State := Rule.withInst s n { i with interval := i.interval - 1 }
    Rule.ArrayOn s → issuing i = some j → Rule.OwnJob i j → j.restart = false →
    (j.begun = true ∧ j1 = j ∧ g1 = getGroup i a) ∨ (j.begun = false ∧ beginPass now n.val j = .ready j1 g1) →
    (listsOut s j.q.val j.idx = true → Rule.Gives (.opaStepIssue n) s
      { Rule.idled s n with opa := { (Rule.idled s n).opa with starve := s.opa.starve.set n.val (s.opa.starve[n] + 1) } }) ∧
    (listsOut s j.q.val j.idx = false →
      (∃ rest, j1.feed = x :: rest ∧ u = now) ∨ (j1.feed = [] ∧ readStep j1 T.rows T.cols j1.s now = (.ok x, u)) →
      (x.next = none → 1 < i.interval → Rule.Gives (.opaStepIssue n) s { Rule.idled s n with
        opa := { (Rule.idled s n).opa with drainwait := s.opa.drainwait.set n.val (s.opa.drainwait[n] + 1) } }) ∧
      ((x.next = none → i.interval ≤ 1) → Rule.Ends (.opaStepIssue n) s fun t =>
        let g2 := getGroup t.opa.inst[n] a
        let T2 := g2.set j1.setY
        let done : OpaJob := { j1 with s := x.next.getD (stepCount j1.desc), issued := j1.issued + 1 }
        (∀ row col, row < T.rows → col < T.cols → T2.reg row col =
          if x.zero = true then T.reg row col
          else accumulate i.fmt (T.reg row col) (List.zipWith product (x.a.getD row []) (x.b.getD col []))) ∧
        T2 = { T with regs := T2.regs, blind := T2.blind, st := if x.next = none then .settle else .accum } ∧
        (∀ c, c ∈ T2.blind ↔ c ∈ T.blind ∨ c = blindTo j1.groups x) ∧
        g2.tile = (if opaKeep j.desc then some ⟨j1.m, j1.n, opaKBase j.desc + j1.k⟩ else g1.tile) ∧
        (∃ more, (j1.feed.length ≤ 64 → (j1.feed.drop 1 ++ more).length ≤ 64) ∧
          t.opa.inst[n].jobs = Rule.replaced i.jobs j
            (if x.next = none then Rule.passedOn done T.rows T.cols else { done with feed := j1.feed.drop 1 ++ more })) ∧
        Rule.OnlySet s t n a j1.setY ∧ t.mem = s.mem ∧ t.dq = s.dq ∧
        t.opa.steps = s.opa.steps.set n.val (s.opa.steps[n] + 1) ∧
        t.opa.skip = s.opa.skip.set n.val (s.opa.skip[n] + BitVec.ofNat 64 x.skip) ∧
        t.opa.starve = s.opa.starve ∧ t.opa.drainwait = s.opa.drainwait ∧
        t.opa.inst[n].interval = (if x.next = none then modeRows (pmode s) else i.interval - 1) ∧
        t.opa.inst[n].lambda = (match i.activity with | .longGap => max i.lambda 1 | .ramp => i.lambda | _ => 16) ∧
        t.opa.inst[n].activity = (match i.activity with | .longGap => .ramp | .ramp => .ramp | _ => .full))))

/-- 03:R91; 04:R99, R102; 14:R401. -/
def Sys2Proof.Rule.PassesBegin : Prop :=
  ∀ (s : State) (n : Fin 16) (j : OpaJob),
    let i := s.opa.inst[n]
    let g := getGroup i (opaGroupNo j.desc)
    Rule.ArrayOn s → issuing i = some j → Rule.OwnJob i j →
    (j.begun = false → opaCont j.desc = false → bandGroups s n.val ≠ [] → (opaKeep j.desc = true → onePass s n.val j.desc = true) →
      j.restart = false →
      (i.fmt.toNat ≠ opaAccFmt j.desc → Rule.Gives (.opaStepIssue n) s (Rule.idled s n)) ∧
      (i.fmt.toNat = opaAccFmt j.desc → j.passNo = 0 → j.replayed = false → g.x.st ≠ .free → g.y.st ≠ .free →
        Rule.Gives (.opaStepIssue n) s
          { Rule.idled s n with
            opa := { (Rule.idled s n).opa with drainwait := s.opa.drainwait.set n.val (s.opa.drainwait[n] + 1) } }) ∧
      (i.fmt.toNat = opaAccFmt j.desc → j.passNo = 0 → j.replayed = false → g.x.st = .free ∨ g.y.st = .free →
        ∃ j1 g1, beginPass s n.val j = .ready j1 g1 ∧ (j1.setY = true ↔ g.x.st ≠ .free) ∧
          j1 = { j with begun := true, groups := bandGroups s n.val, setY := j1.setY } ∧
          (g1.set j1.setY).regs = [] ∧ (g1.set j1.setY).blind = [] ∧ (g1.set j1.setY).st = .accum ∧
          (g1.set j1.setY).rows = min (passHeight s) (j.m - j.r0) ∧
          (g1.set j1.setY).cols = min (passWidth s n.val) (j.n - j.c0))) ∧
    (j.begun = false → opaCont j.desc = false → i.fmt.toNat ≠ opaAccFmt j.desc →
      ((∀ k, k < 4 → (getGroup i k).x.st = .free ∧ (getGroup i k).y.st = .free) →
        Rule.Gives (.opaFormatSwitch n) s (Rule.withInst s n { i with fmt := BitVec.ofNat 2 (opaAccFmt j.desc) })) ∧
      ((∃ k, k < 4 ∧ ((getGroup i k).x.st ≠ .free ∨ (getGroup i k).y.st ≠ .free)) → Rule.Gives (.opaFormatSwitch n) s s)) ∧
    (j.begun = false → j.restart = false → bandGroups s n.val = [] → Rule.Gives (.opaStepIssue n) s (Rule.idled s n)) ∧
    (j.restart = true →
      Rule.Gives (.opaStepIssue n) s (Rule.idled s n) ∧
      Rule.Gives (.opaReplayAttempt n) s
        (Rule.withInst s n { i with jobs := Rule.replaced i.jobs j { j with restart := false, replayed := true } }))

/-- 03:R91; 04:R99, R102; 14:R401; 03:R70, R85, R87, R91, R92, R94; 04:R100, R102, R105, R107; 05:R131, R132, R133;
14:R391. -/
def Obligations.ArraySteps : Prop := Rule.PassesBegin ∧ Rule.StepsIssue

/-- 04:R105, R107. -/
def Obligations.AccumulatorArithmetic : Prop :=
  (∀ (r : BitVec 32 × BitVec 32) (vs : List Int), r.1 ≠ 0x80000000 → vs.sum ≠ 0 →
    (accumulate 1 r (Rule.exactInts vs)).1.toInt = max (-(2 ^ 31 - 1)) (min (2 ^ 31 - 1) (r.1.toInt + vs.sum)) ∧
    (accumulate 1 r (Rule.exactInts vs)).2 = 0) ∧
  (∀ (r : BitVec 32 × BitVec 32) (vs : List Int), vs.sum = 0 → accumulate 1 r (Rule.exactInts vs) = r) ∧
  (∀ (fmt : BitVec 2) (r : BitVec 32 × BitVec 32) (k : Nat), accumulate fmt r (Rule.exactInts (List.replicate k 0)) = r) ∧
  (∀ (r : BitVec 32 × BitVec 32) (ps : List XVal), (∃ p ∈ ps, xIsNan p = true) →
    accumulate 0 r ps = (0x7FC00000, 0) ∧ accumulate 2 r ps = (0x7FC00000, 0) ∧ accumulate 1 r ps = (0x80000000, 0)) ∧
  (∀ ps : List XVal, .inf false ∈ ps → .inf true ∈ ps → stepSum ps = some 0x7FC00000) ∧
  (∀ ps : List XVal, .inf false ∈ ps → .inf true ∉ ps → (∀ p ∈ ps, xIsNan p = false) → stepSum ps = some 0x7F800000)

/-- 03:R90; 04:R101, R102, R110, R113, R114, R125, R127. -/
def Obligations.PassesDrain : Prop :=
  ∀ (s u : State) (n : Fin 16) (j : OpaJob) (m : PageMap),
    let i := s.opa.inst[n]
    let a := opaGroupNo j.desc
    let g := getGroup i a
    Rule.ArrayOn s → Rule.OwnJob i j →
    let y := drainSet j
    let T := g.set y
    (drainingSet i = none → Rule.First (Rule.DrainsNext s i) i j → Rule.Ends (.groupFinal n) s fun t =>
        t = Rule.withInst s n { i with groups := t.opa.inst[n].groups } ∧ Rule.OnlySet s t n a y ∧
        (getGroup t.opa.inst[n] a).set y = { T with st := .drain, cubeRow := 0 } ∧
        (getGroup t.opa.inst[n] a).tile = if opaCont j.desc then none else g.tile) ∧
    ((drainingSet i).isSome = true → Rule.Gives (.groupFinal n) s s ∧ Rule.Gives (.heldSetDrain n) s s) ∧
    (drainingSet i = none → Rule.First (Rule.DrainsHeld s i) i j → g.tile ≠ none → g.open_.bad = none →
      Rule.Ends (.heldSetDrain n) s fun t =>
        t = Rule.withInst s n { i with groups := t.opa.inst[n].groups } ∧ Rule.OnlySet s t n a g.inY ∧
        (getGroup t.opa.inst[n] a).set g.inY =
          { g.open_ with st := .drain, cubeRow := 0, owner := some (j.q.val, j.idx) } ∧
        (getGroup t.opa.inst[n] a).tile = none) ∧
    (drainingSet i = none → Rule.Gives (.drainCubeRow n) s s) ∧
    (∀ z : Bool, drainingSet i = some (a, z) → (g.set z).owner = some (j.q.val, j.idx) → (dC j.desc).scaled = false →
      let D := g.set z
      let j1 := gatherRow i.fmt D D.cubeRow j
      let r := readyRect j1 D D.cubeRow
      let cells := rectCells (dC j.desc) j.listC r fun row col => (drainCode j1 row col).1
      let written := (engWrites 3 m cells).flatMap (·.cells)
      let last : Prop := modeRows (pmode s) ≤ D.cubeRow + 1
      8 * D.cubeRow < D.rows → xlatReqs j.ctx [⟨3, .engWrite, cells.map fun c => (c.1, 1)⟩] [] s = (.ok m, u) →
      Rule.Writable s written → Rule.Ends (.drainCubeRow n) s fun t =>
        Rule.Wrote s t written ∧ Rule.OnlySet s t n a z ∧ (∀ p : Fin 32, t.dq[p] = s.dq[p]) ∧
        (¬ last → (getGroup t.opa.inst[n] a).set z = { D with cubeRow := D.cubeRow + 1 } ∧
          t.opa.inst[n].jobs = Rule.replaced i.jobs j (writtenRect r j1) ∧ t.opa.inst[n].interval = i.interval) ∧
        (last → (getGroup t.opa.inst[n] a).set z = .reset ∧
          t.opa.inst[n].jobs = Rule.replaced i.jobs j { writtenRect r j1 with
            drained := j.drained + 1, passes := j.passes ++ [⟨D.r0, D.r0 + D.rows, D.c0, D.c0 + D.cols⟩] } ∧
          t.opa.inst[n].interval =
            if ∃ k : Fin 4, (t.opa.inst[n].groups[k]).x.st = .settle ∨ (t.opa.inst[n].groups[k]).y.st = .settle
            then i.interval else 0)) ∧
    ((∀ f ∈ (s.dq[j.q]).inflight, f.idx = j.idx → f.ended = none) →
      (Rule.First (Rule.KeepsNow s) i j → Rule.OfPass T j .settle → Rule.Ends (.opaKeepFinish n) s fun t =>
        Rule.Finished s t n j endOk ∧ (getGroup t.opa.inst[n] a).set y = { T with st := .held } ∧ t.mem = s.mem) ∧
      (∀ e, Rule.Drained i j → j.fail = some e → Rule.Ends (.opaDrainFinish n) s fun t =>
        Rule.Finished s t n j e ∧ t.mem = s.mem) ∧
      (∀ f, Rule.Drained i j → j.fail = none → getFlight s j.q.val j.idx = some f →
        (f.posted = true → portReqs s j.q.val j.idx = [] → Rule.Ends (.opaDrainFinish n) s fun t =>
          Rule.Finished s t n j (drainOutcome j) ∧ t.mem = s.mem) ∧
        (f.posted = true → portReqs s j.q.val j.idx ≠ [] → Rule.Gives (.opaDrainFinish n) s s) ∧
        (f.posted = false →
          let cells := statCells j ++ maskCells j
          let written := (engWrites 0xB m cells).flatMap (·.cells)
          xlatReqs j.ctx [⟨0xB, .engWrite, cells.map fun c => (c.1, 1)⟩] [] s = (.ok m, u) → Rule.Writable s written →
          Rule.Ends (.opaDrainFinish n) s fun t => Rule.Wrote s t written ∧
            (portReqs t j.q.val j.idx = [] → Rule.Finished s t n j (drainOutcome j)) ∧
            (portReqs t j.q.val j.idx ≠ [] → t.opa.inst[n].jobs = i.jobs))))

/-- 03:R93; 14:R391, R394, R401, R402, R404. -/
def Obligations.ArrayDetections : Prop :=
  ∀ (s : State) (n : Fin 16) (a : Fin 4) (y outside : Bool) (row col : BitVec 8) (j : OpaJob),
    let i := s.opa.inst[n]
    let T := (getGroup i a.val).set y
    let miss := Instr.opaChecksumMiss n a y row col false
    let bad := Instr.opaAccParityError n a y row col outside
    let source (out : Bool) : BitVec 16 := if out then 0x01FF else BitVec.ofNat 16 (0x100 + cubeGroup col)
    let counted (out : Bool) : Svc := if out then s.svc else Rule.groupCounted s (cubeGroup col)
    let checked : Prop := ∃ c ∈ T.blind, row.toNat ∉ c.1 ∧ col.toNat ∉ c.2
    let atLimit : Prop := ∃ g : Fin 16, g.val = cubeGroup col ∧ s.svc.cgLimit.toNat ≤ (s.svc.cgCount[g] + 1).toNat
    (cubeOf s n.val row col = true → s.svc.auto = 1 → atLimit → s.svc.retCG.getLsbD (cubeGroup col) = false →
      Rule.Ends (.opaChecksumMiss n a y row col true) s fun t =>
        t.svc.retCG.getLsbD (cubeGroup col) = true ∧ t.svc.cgCount = (counted false).cgCount ∧ t.dq = s.dq ∧ t.mem = s.mem ∧
        t.flt.detected.length = s.flt.detected.length + 2) ∧
    (s.svc.auto ≠ 1 ∨ (T.lastMiss ≠ some (cubeGroup col) ∧ ¬ atLimit) →
    (cubeOf s n.val row col = false → (∀ d, Rule.Gives (.opaChecksumMiss n a y row col d) s s) ∧
      (outside = false → Rule.Gives bad s s)) ∧
    (¬ checked → Rule.Gives miss s s) ∧
    (cubeOf s n.val row col = true → Rule.Gives (.opaChecksumMiss n a y row col true) s { s with
      svc := counted false,
      flt := { s.flt with
        detected := Rule.arrayRecord s n opaChecksum clsInfo (source false) 0 0xFFFFFFFFFFFFFFFF row col 0 } }) ∧
    (cubeOf s n.val row col = true →
      (T.owner = none → Rule.Gives miss s s ∧ (T.st ≠ .held → Rule.Gives bad s s)) ∧
      (T.owner = none ∨ (∀ x ∈ i.jobs, T.owner ≠ some (x.q.val, x.idx)) → T.st = .held → Rule.Ends bad s fun t =>
        t = Rule.withInst s n { i with groups := t.opa.inst[n].groups } ∧ Rule.OnlySet s t n a.val y ∧
        (getGroup t.opa.inst[n] a.val).set y = { T with bad := some (row, col, outside) })) ∧
    (∀ (ev : BitVec 16) (c : Instr) (out : Bool), (ev = opaChecksum ∧ c = miss ∧ out = false) ∨
        (ev = opaAccParity ∧ c = bad ∧ out = outside) → cubeOf s n.val row col = true ∨ out = true →
      (ev = opaChecksum → checked) →
      Rule.OwnJob i j → j.fail = none → T.owner = some (j.q.val, j.idx) → T.st ≠ .free → T.st ≠ .held →
      let who := BitVec.ofNat 64 (j.idx.toNat + j.q.val * 2 ^ 32)
      let more := dOpcode j.desc = 1 ∧ dReplay j.desc = true ∧ opaCont j.desc = false ∧ T.attempt < 3
      (more → Rule.Ends c s fun t => Rule.RunsAgain s t n a.val y T j ∧ t.svc = counted out ∧ t.mem = s.mem ∧ t.dq = s.dq ∧
        t.flt.detected = Rule.arrayRecord s n ev clsCorrected (source out) T.attempt who row col T.pass) ∧
      (¬ more → (∀ f ∈ (s.dq[j.q]).inflight, f.idx = j.idx → f.ended = none) → opaDrains j.desc = false →
        Rule.Ends c s fun t =>
          (getGroup t.opa.inst[n] a.val).set y = .reset ∧ t.svc = counted out ∧ t.mem = s.mem ∧
          t.flt.detected = Rule.arrayRecord s n ev clsQueue (source out) T.attempt who row col T.pass ∧
          ((∃ x ∈ t.opa.inst[n].jobs, x.q = j.q ∧ x.idx = j.idx ∧ x.fail = some ⟨ev, 0, 0xFF, 0, false⟩) ∨
            Rule.Finished s t n j ⟨ev, 0, 0xFF, 0, false⟩))))

/-- 03:R76, R92 to R95; 04:R103; 14:R415. -/
def Obligations.ArrayActivity : Prop :=
  ∀ (s : State) (n : Fin 16) (c : Fin 16),
    let i := s.opa.inst[n]
    let fill := min 16 s.opa.fill.toNat
    let ticked : State := Rule.withInst s n { i with interval := i.interval - 1 }
    (Rule.ArrayOn s →
      (i.activity = .full ∨ (i.activity = .ramp ∧ issuing i = none) →
        Rule.Gives (.dummyStepIssue n) s (Rule.smoothed ticked n fill .shortGap)) ∧
      (i.activity = .ramp → issuing i ≠ none → Rule.Gives (.dummyStepIssue n) s s) ∧
      (i.activity = .shortGap ∨ i.activity = .longGap → Rule.Gives (.dummyStepIssue n) s ticked) ∧
      (i.activity = .full ∨ i.activity = .ramp → Rule.Gives (.gapWindowExpire n) s (Rule.smoothed s n fill .longGap)) ∧
      (i.activity = .shortGap → Rule.Gives (.gapWindowExpire n) s (Rule.smoothed s n i.lambda .longGap)) ∧
      (i.activity = .longGap → Rule.Gives (.gapWindowExpire n) s s ∧
        Rule.Gives (.lambdaDecay n) s (Rule.smoothed s n (i.lambda - 1) .longGap)) ∧
      (i.activity = .ramp → i.lambda < 15 → Rule.Gives (.lambdaRamp n) s (Rule.smoothed s n (i.lambda + 1) .ramp)) ∧
      (i.activity = .ramp → 15 ≤ i.lambda → Rule.Gives (.lambdaRamp n) s (Rule.smoothed s n 16 .full)) ∧
      (i.activity ≠ .ramp → Rule.Gives (.lambdaRamp n) s s) ∧
      (i.activity ≠ .longGap → Rule.Gives (.lambdaDecay n) s s)) ∧
    (s.sens.hold ≠ .none → Rule.Gives (.lambdaRamp n) s s ∧ Rule.Gives (.opaStepIssue n) s s) ∧
    (let left : State := { s with opa := { s.opa with
        bandmap := s.opa.bandmap.set c.val 0xF, leaving := s.opa.leaving.filter (· ≠ c) } }
      let band := (s.opa.bandmap[c]).toNat
      let busy := ∃ k : Fin 16, k.val < modeParts (pmode s) ∧ k.val % modeBands (pmode s) = band ∧
        ∃ j ∈ s.opa.inst[k].jobs, j.begun = true ∧ j.done = false ∧ c.val ∈ j.groups
      (c ∉ s.opa.leaving ∨ busy → Rule.Gives (.cgLeaveBand c) s s) ∧
      (c ∈ s.opa.leaving → ¬ busy → s.ctl.por = false → s.ctl.wres = false →
        (∀ k : Fin 16, k.val < modeParts (pmode s) → k.val % modeBands (pmode s) = band →
          (∀ g : Fin 4, (s.opa.inst[k].groups[g]).tile = none) ∧ bandGroups left k.val ≠ []) →
        Rule.Gives (.cgLeaveBand c) s left) ∧
      (c ∈ s.opa.leaving → s.ctl.por = false → s.ctl.wres = false → s.opa.pmode = 0 → band = 0 →
        s.opa.inst[(0 : Fin 16)].jobs = [] → (∃ g : Fin 4, (s.opa.inst[(0 : Fin 16)].groups[g]).tile ≠ none) →
        Rule.Ends (.cgLeaveBand c) s fun t =>
          t.opa.bandmap = left.opa.bandmap ∧ c ∉ t.opa.leaving ∧
          (∀ g : Fin 4, (t.opa.inst[(0 : Fin 16)].groups[g]).tile = none) ∧
          (∀ k : Fin 16, k ≠ 0 → t.opa.inst[k] = s.opa.inst[k]) ∧ t.dq = s.dq ∧
          t.flt.detected = insertDetected s.ctl.fcycles
            ⟨opaGroup, clsQueue, false, BitVec.ofNat 16 (0x100 + c.val), 0, s.beat.value,
              BitVec.ofNat 64 ((openGroups s.opa.inst[(0 : Fin 16)]).map (2 ^ ·)).sum, 0⟩ s.flt.detected ∧
          t.opa.dstatus.status.getLsbD 16 = true))

/-- 13:R359, R360, R367, R368, R369, R374, R375, R377, R378, R381. -/
def Obligations.DictionaryCommands : Prop :=
  ∀ (s u w : State) (path : Path) (p data : List Byte) (ty a : Nat) (i : Instr), Rule.DictCommand path p ty i →
    let own := s.mg.nodeAddr
    let type : Byte := BitVec.ofNat 8 ty
    (path = .mailbox → ¬ Rule.InMailbox s ty p → Rule.Calm s → Rule.Gives i s s) ∧
    (∀ dest src seq crc, path = .chain dest src seq crc →
      let f : Frame := ⟨type, dest, src, seq, p, crc⟩
      let good : Prop := crc = (frameOf type dest src seq p).crc
      let passed : State := Rule.frameOut s f.bytes
      (s.bnd.chainIn = false → Rule.Calm s → Rule.Gives i s s) ∧
      (Rule.Linked s → Rule.Calm s → ¬ good →
        (¬ Rule.Addressed s dest → Rule.Gives i s { passed with mg := { passed.mg with crcErr := s.mg.crcErr + 1 } }) ∧
        (Rule.Addressed s dest → Rule.Gives i s { s with mg := { s.mg with crcErr := s.mg.crcErr + 1 } })) ∧
      (Rule.Linked s → Rule.Calm s → good → ¬ Rule.Addressed s dest → dest ≠ 0xFFF ∨ ty ≠ 2 ∨ s.ctl.fwUp = false →
        Rule.Gives i s passed) ∧
      (Rule.Linked s → good → dest = 0xFFF → ¬ Rule.Addressed s dest → ty = 2 → s.ctl.fwUp = true → s.mg.chainReq = none →
        ¬ Rule.MailWaits s → odCheck 2 p passed = (0, u) → Rule.Unstopped passed 2 p →
        odEffect .chain (leNat (p.take 2)) ((p.drop 2).headD 0).toNat (p.drop 4) u = w → Rule.Gives i s w) ∧
      (Rule.Linked s → good → Rule.Addressed s dest → dest ≠ 0xFFF →
        (∀ r, s.mg.chainReq = none → ¬ Rule.MailWaits s → Rule.Again s src seq ty crc r → Rule.Gives i s (Rule.frameOut s r)) ∧
        (s.mg.chainReq = none → Rule.MailWaits s → Rule.Gives i s { s with mg := { s.mg with chainReq := some f } }) ∧
        (∀ r, s.mg.chainReq = some r → Rule.MailWaits s →
          (r.src = src ∧ r.seq = seq ∧ r.ty = type ∧ r.crc = crc → Rule.Gives i s s) ∧
          (¬ (r.src = src ∧ r.seq = seq ∧ r.ty = type ∧ r.crc = crc) → Rule.Gives i s
            (Rule.frameOut s (frameOf 4 src (own.setWidth 12) seq (natLe 0x09000001 4)).bytes))))) ∧
    (∀ (f : Frame) (b : Nat) (first more : List Byte), path = .mailbox → Rule.InMailbox s ty p → s.mg.chainReq = some f →
      odExec .mailbox ty p s = (a, first, u) → Rule.Unstopped s ty p →
      let x : State := { u with
        mbox := { u.mbox with ready := some (natLe a 4 ++ first) }, mg := { u.mg with chainReq := none } }
      f.dest ≠ 0xFFF → 1 ≤ f.ty.toNat → f.ty.toNat ≤ 3 → Rule.Linked x → (∀ r, ¬ Rule.Again x f.src f.seq f.ty.toNat f.crc r) →
      Rule.Unstopped x f.ty.toNat f.payload → odExec .chain f.ty.toNat f.payload x = (b, more, w) →
      Rule.Gives i s (Rule.replied (.chain f.dest f.src f.seq f.crc) f.ty.toNat x.mg.nodeAddr (natLe b 4 ++ more) w)) ∧
    (Rule.Heard s path ty p →
      (p.length < (if ty = 3 then 16 else 4) → Rule.Gives i s (Rule.replied path ty own (natLe 0x02000003 4) s)) ∧
      ((if ty = 3 then 16 else 4) ≤ p.length → odEntry (leNat (p.take 2)) ((p.drop 2).headD 0).toNat = none →
        Rule.Gives i s (Rule.replied path ty own (natLe 0x01000001 4) s)) ∧
      (odCheck ty p s = (a, u) → a ≠ 0 → a / 2 ^ 24 ∉ [4, 5, 6] → Rule.Gives i s (Rule.replied path ty own (natLe a 4) u)) ∧
      (odCheck ty p s = (a, u) → a / 2 ^ 24 ∈ [4, 5, 6] → Rule.Ends i s fun t =>
        ∃ v, Rule.RefusalNoted u v path ty p a ∧ t = Rule.replied path ty own (natLe a 4) v) ∧
      (ty = 1 → odCheck ty p s = (0, u) → odReadValue (leNat (p.take 2)) ((p.drop 2).headD 0).toNat u = (data, w) →
        Rule.Gives i s (Rule.replied path ty own (natLe 0 4 ++ data) w)) ∧
      (ty ≠ 1 → odCheck ty p s = (0, u) → Rule.Unstopped s ty p →
        odEffect (Rule.requestPath path) (leNat (p.take 2)) ((p.drop 2).headD 0).toNat (plData ty p) u = w →
        Rule.Gives i s (Rule.replied path ty own (natLe 0 4) w)))

/-- 13:R363, R364, R372, R377; 15:R436. -/
def Sys2Proof.Rule.DictionaryWrites : Prop :=
  ∀ (s w : State) (path : Path) (au : Auth) (k : Fin 4) (key : BitVec 128) (data : List Byte) (v : Word) (addr : BitVec 16)
    (slot : Fin 4),
    let open_ := s.ctl.state = .config ∨ s.ctl.state = .service
    let off := s.mg.regOffset.toNat
    (Rule.Heard s path 2 (payWrite 0x1010 0 (natLe addr.toNat 2)) → addr.toNat ≤ 0xFFD →
      Rule.Written (.nodeAddrWrite path addr) s path { s with mg := { s.mg with nodeAddr := addr } }) ∧
    (Rule.Heard s path 1 (payRead 0x2002 2) → s.ctl.state ≠ .boot → parityAt s off = false →
      BitVec.ofNat 26 off ∉ s.gen.latent → regRead off s = (v, w) →
      Rule.Gives (.regValueRead path) s (Rule.replied path 1 s.mg.nodeAddr (natLe 0 4 ++ natLe v.toNat 8) w)) ∧
    (Rule.Heard s path 2 (payWrite 0x2002 2 (natLe v.toNat 8)) → off / 2 ^ 20 ∉ [1, 2, 6] → applyOpen s = true →
      (testOpen s off = false → (off = 0x50 → v.extractLsb' 0 32 = s.gen.testctl) → regWrite .snowdrop off v s = w →
        Rule.Written (.regValueWrite path v) s path w) ∧
      (testOpen s off = true → Rule.Stops (.regValueWrite path v) s .testRange) ∧
      (off = 0x50 → v.extractLsb' 0 32 ≠ s.gen.testctl → Rule.Stops (.regValueWrite path v) s .keepBitChanged)) ∧
    (Rule.Heard s path 2 (payWrite 0x5020 2 data) → data.length ≤ 1024 → open_ →
      s.mg.imgOffset.toNat + data.length ≤ 524288 → Rule.Written (.imgBlock path data) s path { s with mg := { s.mg with
        img := Memory.puts s.mg.img (cellsAt s.mg.imgOffset.toNat data),
        imgOffset := s.mg.imgOffset + BitVec.ofNat 32 data.length } }) ∧
    (Rule.Authorised s path 0x5020 3 au data k key → data.length = 36 → open_ → leNat (data.take 4) ≤ 524288 →
      sha256 (Memory.gets s.mg.img 0 (leNat (data.take 4))) = data.drop 4 →
      let x := Rule.spent s au k
      Rule.Obeyed (.imgCommit path au data) s path { x with mg := { x.mg with
        imgLen := leNat (data.take 4), imgDigest := data.drop 4, imgState := 1,
        imgVersion := BitVec.ofNat 32 (leNat (Memory.gets s.mg.img 0 4)) } }) ∧
    (Rule.Authorised s path 0x6000 (slot.val + 1) au data k key → data.length = 16 → open_ → slot ≠ 0 →
      let x := Rule.spent s au k
      Rule.Obeyed (.keyWrite path au slot data) s path { x with mg := { x.mg with
        keys := s.mg.keys.set slot.val (if leNat data = 0 then none else some (BitVec.ofNat 128 (leNat data))),
        counters := x.mg.counters.set slot.val 0, exhausted := x.mg.exhausted.set slot.val false } }) ∧
    (∀ g, Rule.Authorised s path 0x5010 0 au data k key → data.length = 64 → s.ctl.state = .service →
      odReserved 0x5010 0 data = false → spareGood data = true → spareNext s = some g →
      let word (i : Nat) : BitVec 32 := BitVec.ofNat 32 (leNat ((data.drop (4 * i)).take 4))
      Rule.Obeyed (.spareMapWrite path au data) s path { Rule.spent s au k with fuses := { s.fuses with
        prog := s.fuses.prog ++ (List.range 16).filterMap fun i =>
          if word i = 0 then none else some ⟨132 + 16 * g + i, word i, 0⟩ } })

/-- 01:R25; 11:R331; 13:R363, R370. -/
def Sys2Proof.Rule.ServiceState : Prop :=
  ∀ (s : State) (path : Path) (au : Auth) (k : Fin 4) (key : BitVec 128) (v : BitVec 32),
    let x := Rule.spent s au k
    (Rule.Authorised s path 0x2000 4 au [1] k key → s.ctl.state = .config ∨ (s.ctl.state = .hold ∧ quiet s = true) →
      Rule.Obeyed (.serviceEnter path au) s path { x with ctl := { x.ctl with state := .service } }) ∧
    (Rule.Authorised s path 0x2000 4 au [1] k key → s.ctl.state ≠ .config → s.ctl.state = .hold → quiet s = false →
      Rule.Ends (.serviceEnter path au) s fun t => t.ctl.state = .hold ∧ t.mg.mgState = s.mg.mgState + 1) ∧
    (Rule.Authorised s path 0x2000 4 au [2] k key → s.ctl.state = .service →
      Rule.Obeyed (.serviceEnd path au) s path (Rule.serviceOver x)) ∧
    (Rule.Authorised s path 0x5000 0 au (natLe v.toNat 4) k key → s.ctl.state = .service → v.toNat ≤ 1 →
      Rule.Obeyed (.testmodeWrite path au v) s path { x with mg := { x.mg with testmode := v } })

/-- 13:R363, R364, R372, R377; 15:R436; 01:R25; 11:R331; 13:R363, R370. -/
def Obligations.ManagementWrites : Prop := Rule.DictionaryWrites ∧ Rule.ServiceState

/-- 13:R365; 14:R405, R411, R412. -/
def Sys2Proof.Rule.UnitCommands : Prop :=
  ∀ (s : State) (path : Path) (au : Auth) (k : Fin 4) (key : BitVec 128) (u : BitVec 16),
    let x := Rule.spent s au k
    let at_ (act : Nat) (i : Instr) (P : State → Prop) : Prop :=
      Rule.Authorised s path 0x5001 0 au (natLe (act * 2 ^ 24 + u.toNat) 4) k key →
        Rule.Ends i s fun t => ∃ y, t = Rule.replied path 3 s.mg.nodeAddr (natLe 0 4) y ∧
          y.svc.unitCmd = Rule.unitWord act u ∧ y.mg = x.mg ∧ y.mem = s.mem ∧ y.ctl = s.ctl ∧ P y
    let bit {n : Nat} (m : BitVec n) : BitVec n := m ||| BitVec.ofNat n (2 ^ uIdx u)
    (Rule.MayEnter s u → at_ 1 (.unitServiceEnter path au u) fun y =>
      y.svc.trans = s.svc.trans ++ [(u, .entering)] ∧ inSub y u = false ∧ y.cores = s.cores ∧ y.dq = s.dq ∧
      (∀ g : Fin 16, uClass u = 1 → g.val = uIdx u → (g ∈ y.opa.leaving ↔ s.opa.bandmap[g] ≠ 0xF ∨ g ∈ s.opa.leaving)) ∧
      (uClass u ≠ 1 → y.opa = s.opa) ∧ y.bc.busy = (if uClass u = 5 then bit s.bc.busy else s.bc.busy) ∧
      (uClass u ≠ 6 → y.sm = s.sm) ∧
      (∀ i, uClass u = 6 → freeSpare s = some i → spareOf y (uIdx u) = some i)) ∧
    (Rule.MayLeave s u → at_ 2 (.unitServiceLeave path au u) fun y =>
      (∀ r, (u, r) ∉ y.svc.tested) ∧ y.dq = s.dq ∧ y.opa = s.opa ∧
      (uClass u ≠ 6 → inSub y u = false ∧ y.svc.trans = s.svc.trans ∧ y.sm = s.sm) ∧
      (uClass u = 6 → y.svc.trans = s.svc.trans ++ [(u, .leaving)]) ∧
      y.bc.disabled = (if uClass u = 5 then s.bc.disabled &&& ~~~(BitVec.ofNat 16 (2 ^ uIdx u)) else s.bc.disabled) ∧
      ∀ c : Fin 8, y.cores[c] = if uClass u = 2 ∧ uIdx u = c.val then startEmpty s.cores[c] else s.cores[c]) ∧
    (Rule.MayRetire s u → at_ 3 (.unitRetire path au u) fun y =>
      unitRetired y u = true ∧ inSub y u = false ∧
      (∃ r, (s.ctl.fcycles, r) ∈ y.flt.detected ∧ r.event = hwRetired ∧ r.cls = clsUnit ∧ r.source = u ∧ r.detail = 1) ∧
      (∀ g : Fin 16, uClass u = 1 → g.val = uIdx u → (g ∈ y.opa.leaving ↔ s.opa.bandmap[g] ≠ 0xF ∨ g ∈ s.opa.leaving)) ∧
      (uClass u = 1 → ⟨196, BitVec.ofNat 32 (2 ^ uIdx u), 0⟩ ∈ y.fuses.prog) ∧
      (uClass u = 4 → ⟨196, BitVec.ofNat 32 (2 ^ (24 + uIdx u)), 0⟩ ∈ y.fuses.prog) ∧
      (uClass u = 5 → inSub s u = false → y.bc.busy = bit s.bc.busy) ∧
      (∀ c : Fin 8, y.cores[c] =
        if uClass u = 2 ∧ uIdx u = c.val then { startEmpty s.cores[c] with halted := false } else s.cores[c]))

/-- 07:R217; 14:R411, R412. -/
def Sys2Proof.Rule.UnitsInService : Prop :=
  ∀ (s : State) (u : BitVec 16) (slice : Fin 8) (pass : Bool) (detail : BitVec 32),
    let v := BitVec.ofNat 16 (0x400 + slice.val)
    (transOf s u ≠ some .entering → Rule.Gives (.unitServiceEntry u) s s) ∧
    (Rule.AtEntry s u → Rule.Ends (.unitServiceEntry u) s fun t => Rule.Entered s t u) ∧
    (inSub s u = false ∨ (∃ r, (u, r) ∈ s.svc.tested) → Rule.Gives (.unitTestComplete u pass detail) s s) ∧
    (inSub s u = true → (∀ r, (u, r) ∉ s.svc.tested) → Rule.Gives (.unitTestComplete u pass detail) s { s with
      svc := { s.svc with
        tested := s.svc.tested ++ [(u, pass)],
        testResult := (if s.svc.testUnit = u then (if pass then 2 else 3) else s.svc.testResult),
        testDetail := (if s.svc.testUnit = u then (if pass then 0 else detail) else s.svc.testDetail) } }) ∧
    ((transOf s v = some .entering → Rule.Ends (.veSliceLeave slice) s fun t => Rule.Entered s t v ∧
        (veInService t = 0 → (∀ q : Fin 32, (s.dq[q]).inflight.Pairwise fun f g => f.idx ≠ g.idx) → Rule.SlicesGone s t)) ∧
      (transOf s v ≠ some .entering → veInService s ≠ 0 → Rule.Gives (.veSliceLeave slice) s s) ∧
      (transOf s v ≠ some .entering → veInService s = 0 →
        (∀ q : Fin 32, (s.dq[q]).inflight.Pairwise fun f g => f.idx ≠ g.idx) →
        Rule.Ends (.veSliceLeave slice) s fun t => Rule.SlicesGone s t))

/-- 13:R365; 14:R405, R411, R412; 07:R217; 14:R411, R412. -/
def Obligations.UnitService : Prop := Rule.UnitCommands ∧ Rule.UnitsInService

/-- 13:R359, R360, R369, R375, R376, R377, R378, R379; 14:R390; 15:R431. -/
def Obligations.Chain : Prop :=
  (∀ f : Frame, f.bytes = f.ty :: natLe f.dest.toNat 2 ++ natLe f.src.toNat 2 ++ f.seq :: natLe f.payload.length 2 ++
    f.payload ++ natLe f.crc.toNat 4) ∧
  ∀ (s : State) (src : BitVec 12) (seq : Byte) (crc : BitVec 32) (pos addr : BitVec 16) (bytes : List Byte),
    let up : Prop := s.ctl.fwUp = true
    let errored (x : State) : State := { x with mg := { x.mg with crcErr := x.mg.crcErr + 1 } }
    let enum_ (n : BitVec 16) : Frame := frameOf 5 0xFFF src seq (natLe n.toNat 2)
    let enum := Instr.enum src seq crc pos
    let reset := frameOf 7 0xFFF src seq []
    let a : Frame := ⟨6, 0xFFF, src, seq, natLe pos.toNat 2 ++ natLe addr.toNat 2, crc⟩
    let assign := Instr.assign src seq crc pos addr
    let s6 := Rule.frameOut s a.bytes
    let goodA : Prop := crc = (frameOf 6 0xFFF src seq a.payload).crc
    let dest : BitVec 12 := BitVec.ofNat 12 (leNat ((bytes.drop 1).take 2))
    let discarded := Instr.chainFrameDiscarded bytes
    (s.bnd.chainIn = false → Rule.Gives (.creset src seq) s s ∧ Rule.Gives enum s s ∧ Rule.Gives assign s s ∧
      Rule.Gives discarded s s) ∧
    (Rule.Linked s →
      (up → Rule.Gives (.creset src seq) s
        (Rule.frameOut { s with mg := { s.mg with nodeAddr := 0, chainPos := 0xFFFF } } reset.bytes)) ∧
      (¬ up → Rule.Gives (.creset src seq) s (Rule.frameOut s reset.bytes)) ∧
      (up → crc = (enum_ pos).crc → Rule.Gives enum s
        (Rule.frameOut { s with mg := { s.mg with chainPos := pos } } (enum_ (pos + 1)).bytes)) ∧
      (¬ up → crc = (enum_ pos).crc → Rule.Gives enum s (Rule.frameOut s (enum_ pos).bytes)) ∧
      (up → crc ≠ (enum_ pos).crc → Rule.Gives enum s
        (errored (Rule.frameOut s ({ enum_ (pos + 1) with crc := ~~~(enum_ (pos + 1)).crc } : Frame).bytes))) ∧
      (¬ up → crc ≠ (enum_ pos).crc → Rule.Gives enum s
        (errored (Rule.frameOut s ({ enum_ pos with crc := crc } : Frame).bytes))) ∧
      (¬ goodA → Rule.Gives assign s (errored s6)) ∧
      (goodA → ¬ up ∨ s.mg.chainPos ≠ pos ∨ pos = 0xFFFF → Rule.Gives assign s s6) ∧
      (goodA → up → s.mg.chainPos = pos → pos ≠ 0xFFFF →
        (s.mg.chainReq = none → ¬ Rule.MailWaits s →
          (∀ r, Rule.Again s src seq 6 crc r → Rule.Gives assign s (Rule.frameOut s6 r)) ∧
          ((∀ r, ¬ Rule.Again s src seq 6 crc r) → 1 ≤ addr.toNat → addr.toNat ≤ 0xFFD → Rule.Gives assign s
            (Rule.replied (.chain 0xFFF src seq crc) 6 addr (natLe 0 4) { s6 with mg := { s6.mg with nodeAddr := addr } })) ∧
          ((∀ r, ¬ Rule.Again s src seq 6 crc r) → addr = 0 ∨ 0xFFD < addr.toNat → Rule.Gives assign s
            (Rule.replied (.chain 0xFFF src seq crc) 6 s.mg.nodeAddr (natLe 0x03000003 4) s6))) ∧
        (s.mg.chainReq = none → Rule.MailWaits s → Rule.Gives assign s { s6 with mg := { s6.mg with chainReq := some a } }) ∧
        (∀ r, s.mg.chainReq = some r → ¬ (r.src = src ∧ r.seq = seq ∧ r.ty = 6 ∧ r.crc = crc) → Rule.Gives assign s
          (Rule.frameOut s6 (frameOf 4 src (s.mg.nodeAddr.setWidth 12) seq (natLe 0x09000001 4)).bytes))) ∧
      (bytesGood bytes = false → Rule.Addressed s dest → Rule.Gives discarded s (errored s)) ∧
      (bytesGood bytes = false → ¬ Rule.Addressed s dest → Rule.Gives discarded s (errored (Rule.frameOut s bytes))) ∧
      (bytesGood bytes = true → Rule.Addressed s dest →
        (lenAgrees bytes = true → 1 ≤ (bytes.headD 0).toNat → (bytes.headD 0).toNat ≤ 3 → Rule.Gives discarded s s) ∧
        (lenAgrees bytes = false ∨ (bytes.headD 0).toNat = 0 ∨ 3 < (bytes.headD 0).toNat → Rule.Gives discarded s
          { s with mg := { s.mg with discard := s.mg.discard + 1 } })) ∧
      (bytesGood bytes = true → ¬ Rule.Addressed s dest → frameTaken false bytes = false →
        Rule.Gives discarded s (Rule.frameOut s bytes))) ∧
    Rule.Gives .chainInputLost s { s with bnd := { s.bnd with chainIn := false } } ∧
    Rule.Gives .chainInputRegained s { s with bnd := { s.bnd with chainIn := true } } ∧
    (up → Rule.Gives .snowdropRestart s { s with
      ctl := { s.ctl with fwUp := false, fwRestart := true },
      mbox := { s.mbox with busy := false, cmd := none, ready := none },
      mg := { s.mg with chainReq := none } }) ∧
    (¬ up → Rule.Gives .snowdropRestart s s) ∧
    (s.ctl.fwRestart = true → Rule.Gives .snowdropFirmwareUp s { s with
      ctl := { s.ctl with fwUp := true, fwRestart := false } }) ∧
    (s.ctl.fwRestart = false → Rule.Gives .snowdropFirmwareUp s s)

/-- 14:R413; 16:R445, R446. -/
def Obligations.SensorReadings : Prop :=
  ∀ (s : State) (x : Sample) (site k : Fin 16) (value : BitVec 32),
    let read : State := { s with sens := { s.sens with tj := x.tj, vdd := x.vdd, iblk := x.iblk, pblk := x.pblk } }
    let trip (b : Bool) : State := { read with sens := { read.sens with tripped := b } }
    let v := x.tj[site]
    let due : Prop := s.beat.value.toNat % max 1 s.sens.sampleOn.toNat = 0
    let inFault (t : State) : Prop :=
      t.ctl.state = .fault ∧ t.gen.reqStaged = 0 ∧ t.gen.armed = false ∧ t.flt.evFatal = true ∧
        ∀ q : Fin 32, (t.dq[q]).inflight = []
    (¬ due → Rule.Gives (.sensorSample x) s s) ∧
    (due → Rule.Hottest x.tj site →
      (le32 0x42C80000 v.toNat = false → Rule.Gives (.sensorSample x) s (Rule.currents (trip false) x)) ∧
      (le32 0x42C80000 v.toNat = true → le32 0x42DC0000 v.toNat = false → Rule.Gives (.sensorSample x) s
        (Rule.currents (Rule.sensed (trip false) hwThermal clsInfo (BitVec.ofNat 16 site.val) (v.setWidth 64) 0x42C80000) x)) ∧
      (le32 0x42DC0000 v.toNat = true → s.sens.tripped = true → Rule.Gives (.sensorSample x) s (Rule.currents read x)) ∧
      (le32 0x42DC0000 v.toNat = true → s.sens.tripped = false → Rule.Ends (.sensorSample x) s fun t =>
        inFault t ∧ t.sens = (trip true).sens ∧ t.flt.detected = (Rule.currents
          (Rule.sensed s hwThermal clsFatal (BitVec.ofNat 16 site.val) (v.setWidth 64) 0x42DC0000) x).flt.detected)) ∧
    (s.sens.tripped = true → Rule.Gives (.hwComparatorTrip true k value) s s) ∧
    (s.sens.tripped = false → Rule.Ends (.hwComparatorTrip true k value) s fun t => inFault t ∧ t.sens.tripped = true ∧
      t.flt.detected = (Rule.sensed s hwThermal clsFatal (BitVec.ofNat 16 k.val) (value.setWidth 64) 0x42E60000).flt.detected) ∧
    Rule.Ends (.hwComparatorTrip false k value) s fun t => inFault t ∧ t.sens = s.sens ∧
      t.flt.detected = (Rule.sensed s hwCurrent clsFatal 0 (value.setWidth 64) 0x45034000).flt.detected

/-- 14:R413, R414, R415. -/
def Sys2Proof.Rule.Replans : Prop :=
  (∀ (s : State) (i : Nat) (raw : BitVec 32), i < 96 →
    let unit : Int := 100 * 2 ^ 149
    let coefficient : Int := (BitVec.ofNat 16 (fuseNat s (0x150 + 2 * i) 2)).toInt
    (coefficient = 0 → normalCount s i raw = raw) ∧
    (∀ temp : Int, scaled32 s.sens.tj[Config.roJunction i] = some temp →
      let exact : Int := raw.toNat * unit + coefficient * (85 * 2 ^ 149 - temp)
      0 ≤ exact → exact + unit < 2 ^ 32 * unit →
      (normalCount s i raw).toNat * unit < exact + unit ∧ exact < (normalCount s i raw).toNat * unit + unit)) ∧
  ∀ (s : State) (x : Monitors),
    let lim := s.sens.vlimit.toNat
    let ro : Vector (BitVec 32) 96 := Vector.ofFn fun i : Fin 96 => normalCount s i.val x.ro[i]
    (s.beat.value.toNat % max 1 s.sens.replanOn.toNat ≠ 0 → Rule.Gives (.marginReplan x) s s) ∧
    (s.beat.value.toNat % max 1 s.sens.replanOn.toNat = 0 → (∀ i : Fin 96, ro[i] ≠ 0) → (∀ j : Fin 48, fuseNat s (0xF0 + 2 * j.val) 2 ≠ 0) → s.sens.plan ≠ 3 →
    Rule.Ends (.marginReplan x) s fun t => ∃ (d : Slow) (u : State) (f : Nat) (ppm : Word),
      let need := Rule.needed s x.flagged d
      let noted (cls : Byte) (mhz : BitVec 16) : Prop := u.flt.detected =
        (Rule.sensed s hwMargin cls mhz (BitVec.ofNat 64 (600 + 5 * s.bnd.vreq.toNat)) ppm).flt.detected
      Rule.Slowdown s ro x.pd d ∧ Rule.Planned s need f ∧ t = Rule.stepsClock u ∧
      u = { s with
        sens := { s.sens with
          ro := ro, pd := x.pd, flagged := x.flagged, plan := BitVec.ofNat 2 f, target := min (need f) lim,
          headroom := u.sens.headroom },
        ctl := { s.ctl with free := s.ctl.free + 97 }, flt := { s.flt with detected := u.flt.detected } } ∧
      (∀ g, g < 2 → (u.sens.headroom.getLsbD g = true ↔ need g + 20 ≤ lim)) ∧
      (ppm.toNat = 1000000 * d.num / d.den % 2 ^ 64 ∨ ppm.toNat = (1000000 * d.num / d.den + 1) % 2 ^ 64) ∧
      (lim < need 2 → noted clsUnit 644) ∧
      (need 2 ≤ lim → s.sens.plan.toNat < f → noted clsInfo (if f = 1 then 672 else 644)) ∧
      (need 2 ≤ lim → f ≤ s.sens.plan.toNat → u.flt.detected = s.flt.detected))

/-- 14:R415; 15:R421, R424. -/
def Sys2Proof.Rule.VoltageAndClock : Prop :=
  ∀ (s : State) (ack : Bool) (code : BitVec 2),
    let goal := Rule.goalCode s
    let v := s.bnd.vreq
    let limit := (s.sens.vlimit.toNat - 600) / 5
    let asks (w : BitVec 7) : State :=
      { s with bnd := { s.bnd with vreq := w, vreqStb := true }, sens := { s.sens with stepped := true } }
    let drained : Prop := ∀ (n : Fin 16) (g : Fin 4), let x := s.opa.inst[n].groups[g]
      x.x.st ≠ .settle ∧ x.x.st ≠ .drain ∧ x.y.st ≠ .settle ∧ x.y.st ≠ .drain
    let awake : Prop := s.ctl.por = false ∧ s.ctl.wres = false
    let lowers := (s.sens.hold = .none ∧ s.bnd.aclkSel = s.sens.plan) ∨ limit < v.toNat
    let cur : State := { s with bnd := { s.bnd with aclkCur := code } }
    let agrees := code = s.bnd.aclkSel
    let late : State := { s with
      bnd := { s.bnd with vackHold := true, flags := s.bnd.flags ||| 0x40 }, sens := { s.sens with plan := 2 } }
    (s.bnd.vack = true → s.bnd.vackHold = false → s.sens.stepped = false →
      (v.toNat < goal → Rule.Gives .voltageStep s (Rule.stepsClock (asks (v + 1)))) ∧
      (goal < v.toNat → lowers → Rule.Gives .voltageStep s (Rule.stepsClock (asks (v - 1)))) ∧
      (goal < v.toNat → ¬ lowers → Rule.Gives .voltageStep s (Rule.stepsClock s)) ∧
      (goal = v.toNat → Rule.Gives .voltageStep s (Rule.stepsClock s))) ∧
    (s.bnd.vack = false ∨ s.bnd.vackHold = true ∨ s.sens.stepped = true → Rule.Gives .voltageStep s (Rule.stepsClock s)) ∧
    Rule.Gives (.vackInput ack) s (Rule.stepsClock { s with
      bnd := { s.bnd with vack := ack, vackHold := if ack = true then false else s.bnd.vackHold } }) ∧
    (s.bnd.vack = true ∨ s.bnd.vackHold = true → Rule.Gives .vackTimeout s s) ∧
    (s.bnd.vack = false → s.bnd.vackHold = false → Rule.Ends .vackTimeout s fun t =>
      ∃ u, Rule.MarginNoted late u 644 ∧ t = Rule.stepsClock u) ∧
    (¬ drained → Rule.Gives .aclkPipelineEmpty s s) ∧
    (∀ c, drained → s.sens.hold = .emptying c → Rule.Gives .aclkPipelineEmpty s { s with
      bnd := { s.bnd with aclkSel := c },
      sens := { s.sens with hold := if s.bnd.aclkCur = c then .resuming else .waiting } }) ∧
    ((∀ c, s.sens.hold ≠ .emptying c) → Rule.Gives .aclkPipelineEmpty s s) ∧
    (¬ awake → Rule.Gives (.aclkCurChange code) s cur) ∧
    (awake → code = s.bnd.aclkCur → Rule.Gives (.aclkCurChange code) s (Rule.stepsClock s)) ∧
    (awake → code ≠ s.bnd.aclkCur →
      (agrees → s.sens.hold = .waiting → Rule.Gives (.aclkCurChange code) s (Rule.holding cur .resuming)) ∧
      (agrees → s.sens.hold = .mismatch → Rule.Gives (.aclkCurChange code) s (Rule.stepsClock (Rule.holding cur .none))) ∧
      (agrees → s.sens.hold ≠ .waiting → s.sens.hold ≠ .mismatch →
        Rule.Gives (.aclkCurChange code) s (Rule.stepsClock cur)) ∧
      (¬ agrees → s.sens.hold = .waiting ∨ s.sens.hold = .mismatch → Rule.Gives (.aclkCurChange code) s cur) ∧
      (¬ agrees → ∀ c, s.sens.hold = .emptying c → Rule.Ends (.aclkCurChange code) s fun t => Rule.MarginNoted cur t 0) ∧
      (¬ agrees → s.sens.hold = .none ∨ s.sens.hold = .resuming →
        Rule.Ends (.aclkCurChange code) s fun t => Rule.MarginNoted (Rule.holding cur .mismatch) t 0)) ∧
    (s.sens.hold = .resuming → Rule.Gives .aclkResume s (Rule.stepsClock (Rule.holding s .none))) ∧
    (s.sens.hold ≠ .resuming → Rule.Gives .aclkResume s s) ∧
    (s.sens.hold = .waiting → Rule.Ends .aclkSwitchLate s fun t =>
      Rule.MarginNoted { s with bnd := { s.bnd with flags := s.bnd.flags ||| 0x80 } } t 0) ∧
    (s.sens.hold ≠ .waiting → Rule.Gives .aclkSwitchLate s s)

/-- 14:R413, R414, R415; 14:R415; 15:R421, R424. -/
def Obligations.MarginControl : Prop := Rule.Replans ∧ Rule.VoltageAndClock

/-- 02:R54, R55, R56. -/
def Obligations.NumberFormats : Prop :=
  (∀ (f : Flt) (flush : Bool) (c : Rnd) (code : Nat), Rule.LongFormat f → c.fast = false → code < 2 ^ (f.k + f.p + 1) →
    valIsNan (f.decode code) = false → convIeee f flush c (valX (f.decode code)) = (code, 0)) ∧
  (∀ (f : Flt) (c : Rnd) (code : Nat), Rule.NarrowFormat f → code < 2 ^ (f.k + f.p + 1) →
    valIsNan (f.decode code) = false → convNarrow f c (valX (f.decode code)) = (code, 0)) ∧
  (∀ (c : Rnd) (neg : Bool) (num den : Nat), 0 < den →
    (den ∣ num → roundQ c neg num den = num / den) ∧
    (c.mode = 0 → Rule.NearestEven num den (roundQ c neg num den)) ∧
    (c.mode = 1 → roundQ c neg num den = num / den) ∧
    (c.mode = 2 → ¬ den ∣ num → roundQ c neg num den = if neg = true then num / den else num / den + 1) ∧
    (c.mode = 3 → ¬ den ∣ num → roundQ c neg num den = if neg = true then num / den + 1 else num / den) ∧
    (c.mode = 4 → ¬ den ∣ num → c.r < 2 ^ c.w → roundQ c neg num den =
      if 2 ^ c.w ≤ num % den * 2 ^ c.w / den + c.r then num / den + 1 else num / den)) ∧
  (∀ (dn : Bool) (x y : Ex), 0 < x.den → 0 < y.den →
    Rule.value (x.add dn y) = Rule.value x + Rule.value y ∧ Rule.value (x.mul y) = Rule.value x * Rule.value y ∧
    (0 < y.num → Rule.value (x.div y) = Rule.value x / Rule.value y) ∧
    (x.cmp y = .lt ↔ Rule.value x < Rule.value y) ∧ (x.cmp y = .eq ↔ Rule.value x = Rule.value y))

/-- The step of the block. -/
def Obligations.StepRunsFront : Prop :=
  ∀ (s : State) (c : Instr) (rest : List Instr), s.pending = c :: rest → step s = exec c { s with pending := rest }

/-- 15:R418, R422, R425, R426; 13:R452: every command in its turn (logs 1 and 9). -/
def Obligations.CommandsComplete : Prop :=
  ∀ (i : Instr) (s : State),
    ((livesIn i).now s = false → exec i s = .next s) ∧
    ((livesIn i).now s = true → (livesIn i).now (arrive (placeOf i) s) = true →
      exec i s = exec i (arrive (placeOf i) s)) ∧
    (∀ k t, (livesIn i).now s = true → requester i = some k → effect i (Rule.finds i s) = .next t → t.memp.asks ≠ [] →
      exec i s = .next (askPorts k t.memp.asks (arrive (placeOf i) s))) ∧
    (Rule.Runs i (Rule.finds i s) → ∃ t, exec i s = .next t)

/-- The model's end of an f-cycle (log 1); 06:R181, R182; 09:R281; 13:R386, R387, R452; 15:R424, R432, R434. -/
def Obligations.CyclesEnd : Prop :=
  ∀ s : State, s.pending = [] →
    (s.ctl.por = true ∨ s.ctl.wres = true → step s = .next { s with
      ctl := { s.ctl with place := 0 }, beat := { s.beat with loaded := false }, mg := { s.mg with chainOut := [] } }) ∧
    (s.ctl.por = false → s.ctl.wres = false → s.bnd.hostHeld = [] → s.rme.inHeld = [] → ∃ t, Rule.CycleEnded s t ∧
      (s.gen.now = false → step s = .next (settle s t)) ∧
      (s.gen.now = true → Rule.NoMismatch s → Rule.NoUses s → s.ctl.state = .config ∨ s.ctl.state = .run ∨ s.ctl.state = .hold →
        ∃ u, Rule.EdgeTaken t u ∧ u.gen.armed = s.gen.armed ∧ step s = .next (settle s u)))

/-- 01:R25; 02:R52, R62; 03:R94; 04:R99, R122; 06:R150, R152, R153, R181; 11:R331. -/
def Sys2Proof.Rule.ResetValues : Prop :=
  State.reset.ctl.state = .boot ∧ State.reset.ctl.phase = .b1 ∧ State.reset.ctl.fwUp = false ∧
  State.reset.gen.parity = [] ∧ State.reset.gen.latent = [] ∧ State.reset.memp.out = [] ∧ State.reset.memp.waiting = [] ∧
  (∀ f : Fin 4096, flagVal State.reset f.val = 0) ∧
  (∀ q : Fin 32, let d := State.reset.dq[q]
    d.rbase = 0 ∧ d.cbase = 0 ∧ d.seed = 0 ∧ d.w = 12 ∧ d.fast = false ∧ d.barmask = 0xFFFFFFFF ∧ d.enable = false ∧
    d.halted = false ∧ d.inflight = [] ∧ regValue State.reset (0x100058 + q.val * 0x1000) = 0xFFFFFFFF) ∧
  (∀ n : Fin 16, let i := State.reset.opa.inst[n]
    i.fmt = 0 ∧ i.lambda = 0 ∧ i.activity = .longGap ∧ ∀ g : Fin 4, (i.groups[g]).x.st = .free ∧ (i.groups[g]).y.st = .free) ∧
  (∀ (t : Fin 8) (i : Fin 64), let g := (State.reset.opa.act[t])[i]
    g.linear = true ∧ g.b = 0 ∧ g.c0 = 0 ∧ g.c1 = 0x3F800000) ∧
  (∀ c : Fin 8, let x := State.reset.cores[c]
    x.halted = false ∧ x.running = none ∧ (∀ t : Fin 256, (x.tasks[t]).st = .invalid ∧ (x.tasks[t]).cause = 0) ∧
    (∀ k : Fin 8, x.tsel[k] = 0 ∧ ∀ r : Fin 32, ((x.banks[k]).g)[r] = 0) ∧ ∀ m : Fin 16, (x.mbx[m]).valid = false) ∧
  State.reset.rme.self = 0xFFFF ∧ State.reset.pending = []

/-- 11:R317. -/
def Obligations.NoDueBinding : Prop :=
  ∀ s t : State, Rule.NotDue s → step s = .next t → Rule.NotDue t

/-- 11:R317, R331. -/
def Sys2Proof.Rule.NoDueBindingAtReset : Prop :=
 Rule.NotDue State.reset

/-- 01:R25; 02:R52, R62; 03:R94; 04:R99, R122; 06:R150, R152, R153, R181; 11:R331; 11:R317, R331. -/
def Obligations.ResetState : Prop := Rule.ResetValues ∧ Rule.NoDueBindingAtReset
end

