-- ==== Sys2Proof/Laws/Commands.lean ====
section
/-! SUPPORT. What a command does in its turn: exec by the command's place, requester and effect (logs 1 and 9). -/

namespace Sys2Proof.Machine

/-- The meaning of each command is its effect in its turn. -/
theorem exec_command (i : Instr) (s : State) : exec i s = command i s := by
  cases i <;> rfl

/-! The turn. -/

@[simp] theorem arrive_place (p : Nat) (s : State) : (arrive p s).ctl.place = p := rfl

/-- A command that finds the f-cycle at its place finds the state as it is. -/
theorem arrive_of_place {p : Nat} {s : State} (h : s.ctl.place = p) : arrive p s = s := by
  subst h; simp [arrive]

@[simp] theorem portView_asks (k : Nat) (s : State) : (portView k s).memp.asks = [] := rfl
@[simp] theorem portView_ctl (k : Nat) (s : State) : (portView k s).ctl = s.ctl := rfl
@[simp] theorem portView_mem (k : Nat) (s : State) : (portView k s).mem = s.mem := rfl
@[simp] theorem portDone_mem (k : Nat) (s t : State) : (portDone k s t).mem = t.mem := rfl
@[simp] theorem portDone_cores (k : Nat) (s t : State) : (portDone k s t).cores = t.cores := rfl
@[simp] theorem portDone_dq (k : Nat) (s t : State) : (portDone k s t).dq = t.dq := rfl

/-- In a reset that a command does not live in it has no effect. -/
theorem exec_dead {i : Instr} {s : State} (h : (livesIn i).now s = false) : exec i s = .next s := by
  rw [exec_command, command]; unfold inTurn; rw [h]; rfl

/-- A live command ends as its effect does on the state that it finds: a stop is its stop, and a next state stands when
no read is missing. -/
theorem exec_live {i : Instr} {s : State} (h : (livesIn i).now s = true) :
    exec i s = match effect i (Rule.finds i s) with
      | .next t => match requester i with
        | none => .next t
        | some k =>
          if t.memp.asks.isEmpty then .next (portDone k (arrive (placeOf i) s) t)
          else .next (askPorts k t.memp.asks (arrive (placeOf i) s))
      | o => o := by
  rw [exec_command, command]
  unfold inTurn Rule.finds
  rw [h]
  cases requester i with
  | none =>
    simp only [Bool.not_true, Bool.false_eq_true, if_false]
    generalize effect i (arrive (placeOf i) s) = o
    cases o <;> rfl
  | some k =>
    simp only [Bool.not_true, Bool.false_eq_true, if_false, atPorts]
    all_goals
      generalize effect i (portView k (arrive (placeOf i) s)) = o
      cases o <;> rfl

/-- What a command comes to follows from its effect. -/
theorem comes_of_effect {i : Instr} {s t : State} (h : effect i s = .next t) : Rule.Comes i s t := by
  intro ha s₀ hl hf
  rw [exec_live hl, hf, h]
  unfold Rule.leaves
  unfold Rule.Answered at ha
  cases hr : requester i with
  | none => rfl
  | some k =>
    have hz : t.memp.asks = [] := by
      rcases ha with ha | ha
      · rw [hr] at ha; cases ha
      · exact ha _ h
    simp [hz]

theorem gives_of_effect {i : Instr} {s t : State} (h : effect i s = .next (settle s t)) : Rule.Gives i s t :=
  comes_of_effect h

theorem stops_of_effect {i : Instr} {s : State} {f : Fault} (h : effect i s = .fault f) : Rule.Stops i s f := by
  intro s₀ hl hf
  rw [exec_live hl, hf, h]

end Sys2Proof.Machine
end

