-- ==== Sys2Proof/Laws/Vectors.lean ====
section
/-! SUPPORT. Reading and changing vectors and lists of the state. -/

namespace Sys2Proof.Machine

variable {α β : Type} {n : Nat}

theorem vget_of_lt (v : Vector α n) (i : Nat) (d : α) (h : i < n) : vget v i d = v[i] := by
  simp [vget, Vector.getD, h]

@[simp] theorem vget_fin (v : Vector α n) (i : Fin n) (d : α) : vget v i.val d = v[i] :=
  vget_of_lt v i.val d i.isLt

theorem vget_of_le (v : Vector α n) (i : Nat) (d : α) (h : n ≤ i) : vget v i d = d := by
  simp [vget, Vector.getD, Nat.not_lt.mpr h]

theorem vmod_of_lt (v : Vector α n) (i : Nat) (f : α → α) (h : i < n) : vmod v i f = v.set i (f v[i]) := by
  simp [vmod, h]

@[simp] theorem vmod_fin (v : Vector α n) (i : Fin n) (f : α → α) : vmod v i.val f = v.set i.val (f v[i]) :=
  vmod_of_lt v i.val f i.isLt

theorem vget_vmod_same (v : Vector α n) (i : Nat) (f : α → α) (d : α) (h : i < n) :
    vget (vmod v i f) i d = f (vget v i d) := by
  rw [vget_of_lt _ _ _ h, vget_of_lt _ _ _ h, vmod_of_lt _ _ _ h]; simp

theorem vget_vmod_other (v : Vector α n) (i j : Nat) (f : α → α) (d : α) (h : i ≠ j) :
    vget (vmod v i f) j d = vget v j d := by
  by_cases hj : j < n
  · rw [vget_of_lt _ _ _ hj, vget_of_lt _ _ _ hj]
    by_cases hi : i < n
    · rw [vmod_of_lt _ _ _ hi]; simp [h]
    · simp [vmod, hi]
  · rw [vget_of_le _ _ _ (Nat.le_of_not_lt hj), vget_of_le _ _ _ (Nat.le_of_not_lt hj)]

@[simp] theorem vmap_getElem (f : α → β) (v : Vector α n) (i : Nat) (h : i < n) : (vmap f v)[i] = f v[i] := by
  simp [vmap]

@[simp] theorem vmapIdx_getElem (f : Nat → α → β) (v : Vector α n) (i : Nat) (h : i < n) :
    (vmapIdx f v)[i] = f i v[i] := by
  simp [vmapIdx]

end Sys2Proof.Machine
end

