-- ==== Sys2Proof/Laws/Core.lean ====
section
/-! SUPPORT. What the shared operations of a control core's instructions do to a core that is ready. -/

namespace Sys2Proof.Machine

open Rule (Ready)

@[simp] theorem getCore_fin (s : State) (c : Fin 8) : getCore s c.val = s.cores[c.val] := vget_fin _ c _

@[simp] theorem modCore_fin (s : State) (c : Fin 8) (f : Core → Core) :
    modCore c.val f s = { s with cores := s.cores.set c.val (f s.cores[c.val]) } := by
  simp [modCore, vmod_of_lt _ _ _ c.isLt]

theorem bankNow_eq (s : State) (c k : Fin 8) : bankNow s c k.val = Rule.bank s c k := by
  simp [bankNow, getBank, Rule.bank]

theorem reg_eq (b : Bank) (r : BitVec 5) : b.reg r = Rule.reg b r := by
  unfold Bank.reg Rule.reg
  by_cases h : r = 0
  · simp [h]
  · simp [vget_of_lt _ _ _ (show r.toNat < 32 from r.isLt)]

theorem setReg_eq (b : Bank) (d : BitVec 5) (v : Word) : b.setReg d v = Rule.put b d v := by
  unfold Bank.setReg Rule.put
  by_cases h : d = 0
  · simp [h]
  · have hd : (BitVec.ofNat 4 (2 ^ (groupOf d.toNat)) : BitVec 4) = (1 : BitVec 4) <<< (d.toNat / 8) := by
      apply BitVec.eq_of_toNat_eq
      simp [groupOf, BitVec.toNat_shiftLeft, Nat.shiftLeft_eq]
    have hb : (BitVec.ofNat 32 (2 ^ d.toNat) : BitVec 32) = (1 : BitVec 32) <<< d.toNat := by
      apply BitVec.eq_of_toNat_eq
      simp [BitVec.toNat_shiftLeft, Nat.shiftLeft_eq]
    simp [vmod_of_lt _ _ _ (show d.toNat < 32 from d.isLt), hd, hb]

theorem result_eq (b : Bank) (d : BitVec 5) (v : Word) : b.result d v = .done (Rule.result b d v) := by
  simp [Bank.result, Rule.result, Rule.onward, Bank.advance, setReg_eq]

theorem advance_eq (b : Bank) : b.advance 4 = Rule.onward b := rfl

theorem partsReady_of_ready {s : State} {c : Fin 8} {t : Byte} {k : Fin 8} (h : Ready s c t k) (regs : List (BitVec 5)) :
    partsReady s.cores[c.val] k.val regs = true := by
  have hs := h.still
  rw [getCore_fin] at hs
  have hn : ∀ p : XferUnit → Bool, (s.cores[c.val].xq.any fun u => u.level.val == k.val && p u) = false := by
    intro p
    rw [List.any_eq_false]
    intro u hu
    have := hs u hu
    simp [Fin.val_inj, this]
  simp [partsReady, groupPending, hn]

/-- An instruction of a ready core: what its function answers is what ends it. -/
theorem runInstr_ready {s : State} {c : Fin 8} {t : Byte} {k : Fin 8} (h : Ready s c t k) (dst src : List (BitVec 5))
    (f : Nat → State → Commit × State) : runInstr c dst src f s = endInstr c k.val (f k.val s) := by
  have hr : s.cores[c.val].running = some t := by simpa using h.running
  have hl : (getTask s.cores[c.val] t).level = k := by simpa using h.level
  have hf : (getTask s.cores[c.val] t).rowFault = none := by simpa using h.noFault
  have hp := partsReady_of_ready h (dst ++ src)
  have hb : (Rule.bank s c k).parityBad src = false := by simp [Bank.parityBad, h.good]
  have hg : parityCheck c src f k.val s = f k.val s := by
    simp [parityCheck, bankNow_eq, hb, show s.cores[c.val].lost = none from h.kept]
  have hc : rowCheck c (parityCheck c src f k.val) s = f k.val s := by simp [rowCheck, pendingRow, hr, hf, hg]
  unfold runInstr
  simp only [h.runs, Bool.not_true, Bool.false_eq_true, if_false, getCore_fin]
  simp only [runningTask, hr, hl, Option.map_some, hp, Bool.not_true, Bool.false_eq_true, if_false]
  split
  · rw [hc]
  · rw [hg]

@[simp] theorem endInstr_done (u : State) (c k : Fin 8) (b : Bank) :
    endInstr c k.val (.done b, u) = Rule.commit u c k b := by
  simp [endInstr, Rule.commit, modBank]

theorem runPlain_ready {s : State} {c : Fin 8} {t : Byte} {k : Fin 8} (h : Ready s c t k) (dst src : List (BitVec 5))
    (f : Bank → Commit) (b : Bank) (hb : f (Rule.bank s c k) = .done b) :
    runPlain c dst src f s = Rule.commit s c k b := by
  simp [runPlain, runInstr_ready h, bankNow_eq, hb]

theorem runArith_ready {s : State} {c : Fin 8} {t : Byte} {k : Fin 8} (h : Ready s c t k) (dst src : List (BitVec 5))
    (f : Bank → Commit) (b : Bank) (hb : f (Rule.bank s c k) = .done b) :
    runArith c dst src .ok f s = Rule.commit s c k b ∧
    runArith c dst src .retried f s = Rule.commit (retryRecord c k.val s s) c k b := by
  simp [runArith, runInstr_ready h, withResidue, bankNow_eq, hb]

end Sys2Proof.Machine
end

