-- ==== Sys2Proof/Laws/Keeps.lean ====
section
/-! SUPPORT. What reads of memory and translations leave alone: everything but the memory ports, the block cache, the
counts of stage-memory errors and the retirement of a bank that these bring about, the translation structures, the records
that wait, and the counter of free values. -/

namespace Sys2Proof.Machine

/-- t is s but for what reading and translating change. -/
structure Kept (s t : State) : Prop where
  pending : t.pending = s.pending
  ctl   : t.ctl = { s.ctl with free := t.ctl.free }
  gen   : t.gen = s.gen
  fuses : t.fuses = { s.fuses with prog := t.fuses.prog }
  flt   : t.flt = { s.flt with detected := t.flt.detected }
  beat  : t.beat = { s.beat with marks := t.beat.marks }
  flags : t.flags = s.flags
  dq    : t.dq = s.dq
  opa   : t.opa = s.opa
  veElems : t.veElems = s.veElems
  moveBytes : t.moveBytes = s.moveBytes
  arb   : t.arb = s.arb
  rme   : t.rme = s.rme
  sm    : t.sm = { s.sm with
    ceLast := t.sm.ceLast, ceCount := t.sm.ceCount, ueLast := t.sm.ueLast, ueCount := t.sm.ueCount,
    ceWindow := t.sm.ceWindow, spare := t.sm.spare, copy := t.sm.copy }
  mem   : t.mem = s.mem
  svc   : t.svc = { s.svc with bank := t.svc.bank, retBank := t.svc.retBank, trans := t.svc.trans }
  cores : ∀ (c : Nat) (h : c < 8), t.cores[c] = { s.cores[c] with l1tlb := t.cores[c].l1tlb }
  mbox  : t.mbox = s.mbox
  mg    : t.mg = s.mg
  sens  : t.sens = s.sens
  bnd   : t.bnd = s.bnd
  tap   : t.tap = s.tap

theorem Kept.refl (s : State) : Kept s s := by constructor <;> intros <;> rfl

theorem Kept.trans {s t u : State} (h : Kept s t) (k : Kept t u) : Kept s u where
  pending := k.pending.trans h.pending
  ctl := by rw [k.ctl, h.ctl]
  gen := k.gen.trans h.gen
  fuses := by rw [k.fuses, h.fuses]
  flt := by rw [k.flt, h.flt]
  beat := by rw [k.beat, h.beat]
  flags := k.flags.trans h.flags
  dq := k.dq.trans h.dq
  opa := k.opa.trans h.opa
  veElems := k.veElems.trans h.veElems
  moveBytes := k.moveBytes.trans h.moveBytes
  arb := k.arb.trans h.arb
  rme := k.rme.trans h.rme
  sm := by rw [k.sm, h.sm]
  mem := k.mem.trans h.mem
  svc := by rw [k.svc, h.svc]
  cores := fun c hc => by rw [k.cores c hc, h.cores c hc]
  mbox := k.mbox.trans h.mbox
  mg := k.mg.trans h.mg
  sens := k.sens.trans h.sens
  bnd := k.bnd.trans h.bnd
  tap := k.tap.trans h.tap

/-! Single changes. -/

theorem kept_memp (s : State) (m : Memp) : Kept s { s with memp := m } := by constructor <;> intros <;> rfl
theorem kept_bc (s : State) (b : Bc) : Kept s { s with bc := b } := by constructor <;> intros <;> rfl
theorem kept_xlat (s : State) (x : Xlat) : Kept s { s with xlat := x } := by constructor <;> intros <;> rfl
theorem kept_drawNat (n : Nat) (s : State) : Kept s (drawNat n s).2 := by constructor <;> intros <;> rfl
theorem kept_bcCount (h : Bool) (s : State) : Kept s (bcCount h s) := by cases h <;> exact kept_bc ..
theorem kept_smUe (s : State) (b : Byte) (n : BitVec 56) :
    Kept s { s with sm := { s.sm with ueLast := b, ueCount := n } } := by constructor <;> intros <;> rfl
theorem kept_countSmUe (pa : Nat) (s : State) : Kept s (countSmUe pa s) := kept_smUe ..
theorem kept_detect (ev : BitVec 16) (cls : Byte) (src d : BitVec 16) (a b : Word) (v : Bool) (s : State) :
    Kept s (detect ev cls src d a b s v) := by constructor <;> intros <;> rfl
theorem kept_firstInBeat (ev : BitVec 16) (u : Nat) (s : State) : Kept s (firstInBeat ev u s).2 := by
  unfold firstInBeat; split <;> constructor <;> intros <;> rfl

/-! A corrected stage-memory word, and the retirement of its bank. -/

theorem kept_programFuse (w : Nat) (b : BitVec 32) (s : State) : Kept s (programFuse w b s) := by
  unfold programFuse; split
  · exact .refl s
  · constructor <;> intros <;> rfl

theorem kept_setSub (b : Nat) (h : uClass (unitOf 6 b) = 6) (s : State) : Kept s (setSub (unitOf 6 b) false s) := by
  unfold setSub; rw [h]; constructor <;> intros <;> rfl
theorem kept_setRetired (b : Nat) (h : uClass (unitOf 6 b) = 6) (s : State) : Kept s (setRetired (unitOf 6 b) s) := by
  unfold setRetired; rw [h]; constructor <;> intros <;> rfl
theorem kept_endTrans (u : BitVec 16) (s : State) : Kept s (endTrans u s) := by constructor <;> intros <;> rfl
theorem kept_addTrans (u : BitVec 16) (x : Trans) (s : State) : Kept s (addTrans u x s) := by
  constructor <;> intros <;> rfl
theorem kept_takeSpare (i : Fin 4) (b : Nat) (s : State) : Kept s (takeSpare i b s) := by constructor <;> intros <;> rfl

theorem kept_nextCopy (s : State) : Kept s (nextCopy s) := by
  unfold nextCopy
  repeat' split
  all_goals first | exact .refl s | (constructor <;> intros <;> rfl)

theorem kept_bankToSpare (b : Nat) (s : State) : Kept s (bankToSpare b s) := by
  unfold bankToSpare
  repeat' split
  · exact .refl s
  · exact ((kept_takeSpare ..).trans (kept_addTrans ..)).trans (kept_nextCopy _)
  · exact .refl s

theorem kept_programRetire (u : BitVec 16) (s : State) : Kept s (programRetire u s) := by
  unfold programRetire
  dsimp only
  repeat' split
  all_goals first | exact .refl s | exact kept_programFuse .. | exact (kept_programFuse ..).trans (kept_programFuse ..)

theorem kept_retireBank (b : Nat) (h : uClass (unitOf 6 b) = 6) (cause : BitVec 16) (n : Nat) (s : State) :
    Kept s (retireBank b cause n s) :=
  (((((kept_endTrans ..).trans (kept_setSub b h _)).trans (kept_setRetired b h _)).trans (kept_bankToSpare ..)).trans
    (kept_detect ..)).trans (kept_programRetire ..)

theorem bankOf_lt (pa : Nat) : bankOf pa < 128 := Nat.xor_lt_two_pow (n := 7) (Nat.mod_lt _ (by decide)) (Nat.mod_lt _ (by decide))

theorem kept_smWindow (b : Nat) (h : uClass (unitOf 6 b) = 6) (s : State) : Kept s (smWindow b s) := by
  unfold smWindow
  dsimp only
  split
  · refine Kept.trans ?_ (kept_retireBank b h ..)
    constructor <;> intros <;> rfl
  · constructor <;> intros <;> rfl

theorem kept_countSmCe (pa : Nat) (s : State) : Kept s (countSmCe pa s) := by
  have hb := bankOf_lt pa
  have hu : uClass (unitOf 6 (bankOf pa)) = 6 := by
    simp only [uClass, unitOf, BitVec.toNat_ofNat]; omega
  have k1 : Kept s { s with sm := { s.sm with ceLast := BitVec.ofNat 8 (bankOf pa), ceCount := s.sm.ceCount + 1 } } := by
    constructor <;> intros <;> rfl
  have k := k1.trans (kept_firstInBeat smCe (bankOf pa) _)
  unfold countSmCe
  dsimp only
  refine Kept.trans ?_ (kept_smWindow _ hu _)
  split
  · exact k.trans (kept_detect ..)
  · exact k

theorem kept_presentReq (r : PortReq) (t : Nat) (s : State) : Kept s (presentReq r t s) := kept_memp ..

theorem kept_postReq (u : Nat) (w : Bool) (x : Waiter) (o : List Host.Cell) (s : State) : Kept s (postReq u w x o s) := by
  unfold postReq
  dsimp only
  split
  · exact kept_presentReq ..
  · exact kept_memp ..

theorem kept_countMemUe (pa : Nat) (s : State) : Kept s (countMemUe pa s) := kept_memp ..

theorem kept_countMemCe (pa : Nat) (s : State) : Kept s (countMemCe pa s) := by
  have k := (kept_memp s { s.memp with ce := vmod s.memp.ce (portOf s pa) (· + 1) }).trans
    (kept_firstInBeat memCe (portOf s pa) _)
  unfold countMemCe
  dsimp only
  split
  · exact k.trans (kept_detect ..)
  · exact k

theorem kept_readBad (l : BcLine) (s : State) : Kept s (readBad l s) := kept_detect ..

/-! Reads. -/

theorem kept_readSmWord (w : Nat) (s : State) : Kept s (readSmWord w s).2 := by
  unfold readSmWord; split
  · exact kept_countSmUe ..
  · split
    · exact kept_countSmCe ..
    · exact .refl s

theorem kept_readSmWords (ws : List Nat) (s : State) : Kept s (readSmWords ws s).2 := by
  induction ws generalizing s with
  | nil => exact .refl s
  | cons w ws ih => exact (kept_readSmWord w s).trans (ih _)

theorem kept_readPortUnit (u : Nat) (s : State) : Kept s (readPortUnit u s).2 := by
  unfold readPortUnit
  split
  · exact .refl s
  · dsimp only
    split
    · exact (kept_memp ..).trans (kept_countMemUe ..)
    · split
      · exact (kept_memp ..).trans (kept_countMemCe ..)
      · exact kept_memp ..

theorem kept_readPortUnits (us : List Nat) (s : State) : Kept s (readPortUnits us s).2 := by
  induction us generalizing s with
  | nil => exact .refl s
  | cons u us ih => exact (kept_readPortUnit u s).trans (ih _)

theorem kept_writeBack (l : BcLine) (s : State) : Kept s (writeBack l s) :=
  ((kept_postReq ..).trans (kept_postReq ..)).trans (kept_bc ..)

theorem kept_evictLine (l : BcLine) (s : State) : Kept s (evictLine l s) := by
  have k : Kept s (if l.dirty then writeBack l s else s) := by
    split
    · exact kept_writeBack l s
    · exact .refl s
  unfold evictLine
  generalize (if l.dirty then writeBack l s else s) = t at k
  dsimp only
  split
  · exact k.trans (kept_bc ..)
  · exact ((k.trans (kept_bc ..)).trans (kept_drawNat ..)).trans (kept_bc ..)

theorem kept_bcAlloc (line : Nat) (s : State) : Kept s (bcAlloc line s).2 := by
  unfold bcAlloc
  by_cases hb : bcHeld s = true
  · rw [if_pos hb]; exact .refl s
  · rw [if_neg hb]
    extract_lets inSet ways empty usable
    by_cases hu : usable.isEmpty = true
    · rw [if_pos hu]; exact .refl s
    · rw [if_neg hu]
      split
      rename_i i t ht
      have k := kept_drawNat usable.length s
      rw [ht] at k
      dsimp only
      split
      · exact (k.trans (kept_evictLine ..)).trans (kept_bc ..)
      · exact k.trans (kept_bc ..)

theorem kept_readLine (al : Bool) (line : Nat) (us : List Nat) (s : State) : Kept s (readLine al line us s).2 := by
  unfold readLine
  split
  · split
    · exact (kept_bcCount true s).trans (kept_readBad ..)
    · exact kept_bcCount true s
  · split
    · exact (kept_bcCount true s).trans (kept_bcAlloc ..)
    · have k := (kept_bcCount false s).trans (kept_readPortUnits us _)
      dsimp only
      split
      · exact k
      · have k := k.trans (kept_readPortUnits ([line * 2, line * 2 + 1].filter fun u => !us.contains u) _)
        dsimp only
        split
        · exact k
        · exact k.trans (kept_bcAlloc ..)

theorem kept_readLines (al : Bool) (a n : Nat) (ls : List Nat) (s : State) : Kept s (readLines al a n ls s).2 := by
  induction ls generalizing s with
  | nil => exact .refl s
  | cons l ls ih => exact (kept_readLine ..).trans (ih _)

/-- A read that is answered at once. -/
theorem kept_readAccess (al : Bool) (pa n : Nat) (s : State) : Kept s (readAccess al pa n s).2 := by
  unfold readAccess
  generalize region s pa = r
  cases r
  case ext => exact kept_readLines ..
  case stage => exact kept_readSmWords ..
  all_goals exact .refl s

theorem kept_engReadUnits (w : Waiter) (us : List Nat) (s : State) : Kept s (engReadUnits w us s).2 := by
  induction us generalizing s with
  | nil => exact .refl s
  | cons u us ih =>
    have k : Kept s (match bcFind s (u / 2) with
        | some l => if l.bad then (ReadStat.uncorrectable, readBad l (bcCount true s)) else (.clean, bcCount true s)
        | none =>
          if s.bc.victim.contains (u / 2) then (.clean, (bcAlloc (u / 2) (bcCount true s)).2)
          else (.clean, postReq u false w [] (bcCount false s))).2 := by
      split
      · split
        · exact (kept_bcCount true s).trans (kept_readBad ..)
        · exact kept_bcCount true s
      · split
        · exact (kept_bcCount true s).trans (kept_bcAlloc ..)
        · exact (kept_bcCount false s).trans (kept_postReq ..)
    exact k.trans (ih _)

/-- An engine's read. -/
theorem kept_engRead (w : Waiter) (pa n : Nat) (s : State) : Kept s (engRead w pa n s).2 := by
  unfold engRead
  generalize region s pa = r
  cases r
  case ext => exact kept_engReadUnits ..
  case stage => exact kept_readSmWords ..
  all_goals exact .refl s

/-! Translations. -/

theorem kept_walkRead (a : BitVec 3) (pa : Nat) (s : State) : Kept s (walkRead a pa s).2 := by
  have k := kept_readAccess (a == attrWB || a == attrWT) pa 8 s
  unfold walkRead
  dsimp only
  split <;> exact k

theorem kept_insertAt {α : Type} (n : Nat) (x : α) (l : List α) (s : State) : Kept s (insertAt n x l s).2 := by
  unfold insertAt; split
  · exact .refl s
  · exact kept_drawNat l.length s

theorem kept_fillBlockTlb (e : TlbEntry) (s : State) : Kept s (fillBlockTlb e s) := (kept_insertAt ..).trans (kept_xlat ..)
theorem kept_fillWalker (e : WalkEntry) (s : State) : Kept s (fillWalker e s) := (kept_insertAt ..).trans (kept_xlat ..)
theorem kept_fillCtxCache (c : BitVec 16) (e : Word) (s : State) : Kept s (fillCtxCache c e s) :=
  (kept_insertAt ..).trans (kept_xlat ..)

theorem kept_l1tlb (c : Nat) (l : List TlbEntry) (s : State) : Kept s (modCore c (fun k => { k with l1tlb := l }) s) := by
  constructor <;> intros <;> try rfl
  rename_i d hd
  show (vmod s.cores c _)[d] = _
  by_cases e : c = d
  · subst e; simp [modCore, vmod, hd]
  · by_cases hc : c < 8
    · simp [modCore, vmod, hc, e]
    · simp [modCore, vmod, hc]

theorem kept_fillL1Tlb (c : Nat) (e : TlbEntry) (s : State) : Kept s (fillL1Tlb c e s) :=
  (kept_insertAt ..).trans (kept_l1tlb ..)

theorem kept_walkRootOf (r : WalkRoot) (s : State) : Kept s (walkRootOf r s).2 := by
  cases r with
  | core c => exact .refl s
  | engine ctx =>
    unfold walkRootOf
    dsimp only
    generalize inMemory s (s.xlat.basePA.toNat * 4096) = b
    have k := kept_walkRead s.xlat.baseAttr (s.xlat.basePA.toNat * 4096 + 8 * ctx.toNat) s
    generalize walkRead s.xlat.baseAttr (s.xlat.basePA.toNat * 4096 + 8 * ctx.toNat) s = y at k
    obtain ⟨y, u⟩ := y
    split
    · exact .refl s
    · split
      · exact .refl s
      · split
        · exact .refl s
        · cases y with
          | none => exact k
          | some e =>
            dsimp only at k ⊢
            split
            · exact k.trans (kept_fillCtxCache ..)
            · exact k

theorem kept_walkLevels (ctx : BitVec 16) (va : Nat) (ls : List Nat) (p : Word) (s : State) :
    Kept s (walkLevels ctx va ls p s).2 := by
  induction ls generalizing p s with
  | nil => exact .refl s
  | cons l ls ih =>
    rw [walkLevels]
    generalize inMemory s (eBase p) = b
    have k := kept_walkRead (eAttr p) (eBase p + 8 * vaIndex va l) s
    generalize walkRead (eAttr p) (eBase p + 8 * vaIndex va l) s = y at k
    obtain ⟨y, u⟩ := y
    split
    · exact .refl s
    · split
      · exact .refl s
      · cases y with
        | none => exact k
        | some e =>
          dsimp only at k ⊢
          split
          · split
            · exact (k.trans (kept_fillWalker ..)).trans (ih ..)
            · exact k.trans (ih ..)
          · split <;> exact k

theorem kept_walkFind (r : WalkRoot) (ctx : BitVec 16) (va : Nat) (s : State) : Kept s (walkFind r ctx va s).2 := by
  have k := kept_walkRootOf r s
  unfold walkFind
  generalize walkRootOf r s = y at k
  obtain ⟨y, u⟩ := y
  split
  · exact kept_walkLevels ..
  · cases y with
    | error ev => exact k
    | ok p => exact k.trans (kept_walkLevels ..)

theorem kept_walkEnd (ctx : BitVec 16) (va : Nat) (acc : Access) (k : Nat) (r : Except (BitVec 16) (Nat × Word))
    (s : State) : Kept s (walkEnd ctx va acc k r s).2.2 := by
  cases r with
  | error ev => exact .refl s
  | ok x =>
    obtain ⟨lvl, leaf⟩ := x
    unfold walkEnd
    dsimp only
    generalize checkLeaf s acc k leaf (eBase leaf + va % 2 ^ pageBits lvl) = y
    cases y with
    | ok pa attr =>
      dsimp only
      split
      · exact kept_fillBlockTlb ..
      · exact .refl s
    | fault ev => exact .refl s
    | wait => exact .refl s

/-- A walk. -/
theorem kept_walk (r : WalkRoot) (ctx : BitVec 16) (va : Nat) (acc : Access) (k : Nat) (s : State) :
    Kept s (walk r ctx va acc k s).2.2 := by
  unfold walk
  split
  · exact .refl s
  · exact ((kept_walkFind r ctx va s).trans (kept_xlat ..)).trans (kept_walkEnd ..)

/-- A translation for an engine. -/
theorem kept_xlatEngine (ctx : BitVec 16) (va : Nat) (acc : Access) (s : State) : Kept s (xlatEngine ctx va acc s).2 := by
  unfold xlatEngine
  split
  · exact .refl s
  · split
    · exact .refl s
    · split
      · exact .refl s
      · exact kept_walk ..

theorem kept_coreWalk (c : Fin 8) (ctx : BitVec 16) (va : Nat) (acc : Access) (k : Nat) (s : State) :
    Kept s (match (walk (.core c) ctx va acc k s).2.1 with
      | some e => if eA e.leaf then fillL1Tlb c e (walk (.core c) ctx va acc k s).2.2 else (walk (.core c) ctx va acc k s).2.2
      | none => (walk (.core c) ctx va acc k s).2.2) := by
  have h := kept_walk (.core c) ctx va acc k s
  split
  · split
    · exact h.trans (kept_fillL1Tlb ..)
    · exact h
  · exact h

/-- A translation for a core. -/
theorem kept_xlatCore (c : Fin 8) (va : Nat) (acc : Access) (k : Nat) (s : State) : Kept s (xlatCore c va acc k s).2 := by
  unfold xlatCore
  split
  · exact .refl s
  · dsimp only
    split
    · exact .refl s
    · split
      · split
        · exact kept_fillL1Tlb ..
        · split
          · exact .refl s
          · exact kept_coreWalk ..
      · split
        · exact .refl s
        · exact kept_coreWalk ..

theorem kept_xlatPages (ctx : BitVec 16) (acc : Access) (vas : List Nat) (m : PageMap) (s : State) :
    Kept s (xlatPages ctx acc vas m s).2 := by
  induction vas generalizing m s with
  | nil => exact .refl s
  | cons va vas ih =>
    unfold xlatPages
    split
    · exact ih ..
    · split <;> rename_i h <;> have k := kept_xlatEngine ctx va acc s <;> rw [h] at k
      · exact k.trans (ih ..)
      · exact k
      · exact k

theorem kept_xlatParts (ctx : BitVec 16) (ps : List PartReq) (m : PageMap) (s : State) :
    Kept s (xlatParts ctx ps m s).2 := by
  induction ps generalizing m s with
  | nil => exact .refl s
  | cons p ps ih =>
    unfold xlatParts
    split <;> rename_i h <;> have k := kept_xlatPages ctx p.access (piecePages p.pieces) [] s <;> rw [h] at k
    · exact k.trans (ih ..)
    · exact k
    · exact k

/-- The translations of a descriptor's parts. -/
theorem kept_xlatReqs (ctx : BitVec 16) (ps : List PartReq) (m : PageMap) (s : State) :
    Kept s (xlatReqs ctx ps m s).2 := by
  have k := kept_xlatParts ctx ps m s
  unfold xlatReqs
  split <;> rename_i h <;> rw [h] at k <;> exact k

theorem kept_foldl {α β : Type} (f : β × State → α → β × State) (h : ∀ b s a, Kept s (f (b, s) a).2)
    (l : List α) (b : β) (s : State) : Kept s (l.foldl f (b, s)).2 := by
  induction l generalizing b s with
  | nil => exact .refl s
  | cons a l ih => exact (h b s a).trans (ih ..)

theorem kept_readPieces (w : Nat → Nat → Waiter) (m : PageMap) (part : Nat) (ps : List (Nat × Nat)) (s : State) :
    Kept s (readPieces w m part ps s).2 := by
  induction ps generalizing s with
  | nil => exact .refl s
  | cons p ps ih =>
    obtain ⟨va, n⟩ := p
    unfold readPieces
    have k := kept_foldl (fun (acc : Option (Nat × Nat × BitVec 16) × State) v =>
      let len := min (va + n) (v / 4096 * 4096 + 4096) - v
      let pa := mapVa m v
      let at_ := v + (badByte acc.2 pa len - pa)
      let (r, s) := engRead (w part v) pa len acc.2
      (acc.1.orElse fun _ => if r == .uncorrectable then
        some (part, at_, if region s pa == .stage then smUe else memUe) else none, s))
      (fun b s v => kept_engRead ..) (pagesOf va n) none s
    dsimp only at k ⊢
    split
    · exact k
    · exact k.trans (ih ..)

theorem kept_readReqs (q : Nat) (idx : BitVec 32) (m : PageMap) (l : List (Nat × List (Nat × Nat))) (s : State) :
    Kept s (readReqs q idx m l s).2 := by
  induction l generalizing s with
  | nil => exact .refl s
  | cons p l ih =>
    obtain ⟨part, ps⟩ := p
    unfold readReqs
    have k := kept_readPieces (engWaiter q idx) m part ps s
    split <;> rename_i h <;> rw [h] at k
    · exact k
    · exact k.trans (ih ..)

/-- A part of a descriptor that is translated and read. -/
theorem kept_loadPart (q : Nat) (idx : BitVec 32) (ctx : BitVec 16) (part : Nat) (ps : List (Nat × Nat)) (m : PageMap)
    (s : State) : Kept s (loadPart q idx ctx part ps m s).2 := by
  have k := kept_xlatReqs ctx [⟨part, .engRead, ps⟩] m s
  unfold loadPart
  split
  · rename_i h; rw [h] at k
    have k' := kept_readReqs q idx ‹_› [(part, ps)] ‹_›
    split <;> rename_i h' <;> rw [h'] at k'
    · exact k.trans k'
    · exact k.trans k'
  · exact k

/-- Writes translated again. -/
theorem kept_retranslate (ctx : BitVec 16) (ws : List EngWrite) (s : State) : Kept s (retranslate ctx ws s).2 := by
  induction ws generalizing s with
  | nil => exact .refl s
  | cons w ws ih =>
    have k := kept_xlatEngine ctx w.va.toNat .engWrite s
    unfold retranslate
    split
    · rename_i h; rw [h] at k; exact k
    · rename_i h; rw [h] at k
      dsimp only
      have k' := ih ‹State›
      split
      · rename_i h'; rw [h'] at k'; exact k.trans k'
      · exact k.trans k'

end Sys2Proof.Machine
end

