-- ==== Sys2Proof/Laws/Memory.lean ====
section
/-! SUPPORT. Memory: a read after a write, and the canonical form that every operation keeps. -/

namespace Sys2Proof.Machine

/-! Reading after writing: on every list of cells. -/

theorem Memory.get_filter_other (m : List Host.Cell) (p : Nat → Bool) (x : Nat) (h : p x = true) :
    Memory.get (m.filter fun c => p c.1) x = Memory.get m x := by
  induction m with
  | nil => rfl
  | cons c r ih =>
    obtain ⟨k, v⟩ := c
    by_cases hk : p k = true
    · simp [hk, Memory.get, ih]
    · have hx : k ≠ x := fun e => hk (e ▸ h)
      simp [hk, Memory.get, ih, hx]

theorem Memory.get_filter_gone (m : List Host.Cell) (p : Nat → Bool) (x : Nat) (h : p x = false) :
    Memory.get (m.filter fun c => p c.1) x = Memory.blank := by
  induction m with
  | nil => rfl
  | cons c r ih =>
    obtain ⟨k, v⟩ := c
    by_cases hk : p k = true
    · have hx : k ≠ x := fun e => by simp [e, h] at hk
      simp [hk, Memory.get, ih, hx]
    · simp [hk, ih]

theorem Memory.get_insert_same (a : Nat) (b : Byte) (m : List Host.Cell) (h : ∀ c ∈ m, c.1 ≠ a) :
    Memory.get (Memory.insert a b m) a = b := by
  induction m with
  | nil => simp [Memory.insert, Memory.get]
  | cons c r ih =>
    obtain ⟨k, v⟩ := c
    have hk : k ≠ a := h (k, v) (List.mem_cons_self ..)
    by_cases hl : a < k
    · simp [Memory.insert, hl, Memory.get]
    · simp [Memory.insert, hl, Memory.get, hk, ih fun c hc => h c (List.mem_cons_of_mem _ hc)]

theorem Memory.get_insert_other (a : Nat) (b : Byte) (m : List Host.Cell) (x : Nat) (h : a ≠ x) :
    Memory.get (Memory.insert a b m) x = Memory.get m x := by
  induction m with
  | nil => simp [Memory.insert, Memory.get, h]
  | cons c r ih =>
    obtain ⟨k, v⟩ := c
    by_cases hl : a < k <;> simp [Memory.insert, hl, Memory.get, h, ih]

/-- A byte reads as it was last written. -/
@[simp] theorem Memory.get_put_same (m : List Host.Cell) (a : Nat) (b : Byte) : Memory.get (Memory.put m a b) a = b := by
  unfold Memory.put
  by_cases hb : b = Memory.blank
  · simp only [hb, if_true]
    exact Memory.get_filter_gone m (fun k => k != a) a (by simp)
  · simp only [hb, if_false]
    apply Memory.get_insert_same
    intro c hc
    simpa using (List.mem_filter.mp hc).2

/-- A write leaves every other byte alone. -/
theorem Memory.get_put_other (m : List Host.Cell) (a : Nat) (b : Byte) (x : Nat) (h : a ≠ x) :
    Memory.get (Memory.put m a b) x = Memory.get m x := by
  have hf := Memory.get_filter_other m (fun k => k != a) x (by simpa using h.symm)
  unfold Memory.put
  by_cases hb : b = Memory.blank
  · simpa only [hb, if_true] using hf
  · simpa only [hb, if_false] using (Memory.get_insert_other a b _ x h).trans hf

/-- Writes leave every address that they do not name alone. -/
theorem Memory.get_puts_other (cs : List Host.Cell) (m : List Host.Cell) (x : Nat) (h : ∀ c ∈ cs, c.1 ≠ x) :
    Memory.get (Memory.puts m cs) x = Memory.get m x := by
  induction cs generalizing m with
  | nil => rfl
  | cons c r ih =>
    obtain ⟨a, b⟩ := c
    rw [Memory.puts, ih _ fun c hc => h c (List.mem_cons_of_mem _ hc)]
    exact Memory.get_put_other m a b x (h (a, b) (List.mem_cons_self ..))

theorem mem_cellsAt {a : Nat} {bs : List Byte} {c : Host.Cell} (h : c ∈ cellsAt a bs) :
    a ≤ c.1 ∧ c.1 < a + bs.length := by
  induction bs generalizing a with
  | nil => simp [cellsAt] at h
  | cons b r ih =>
    simp only [cellsAt, List.mem_cons] at h
    rcases h with rfl | h
    · simp
    · have := ih h; simp; omega

/-- Consecutive bytes written read as written. -/
theorem Memory.get_puts_cellsAt (m : List Host.Cell) (a : Nat) (bs : List Byte) (i : Nat) (h : i < bs.length) :
    Memory.get (Memory.puts m (cellsAt a bs)) (a + i) = bs[i] := by
  induction bs generalizing m a i with
  | nil => simp at h
  | cons b r ih =>
    rw [cellsAt, Memory.puts]
    cases i with
    | zero =>
      rw [Memory.get_puts_other]
      · simp
      · intro c hc; have := mem_cellsAt hc; omega
    | succ i =>
      have := ih (Memory.put m a b) (a + 1) i (by simpa using h)
      rw [show a + (i + 1) = a + 1 + i by omega]
      simpa using this

@[simp] theorem Memory.length_gets (m : List Host.Cell) (a n : Nat) : (Memory.gets m a n).length = n := by
  induction n generalizing a with
  | zero => rfl
  | succ n ih => simp [Memory.gets, ih]

/-! The canonical form. -/

theorem Memory.wfFrom_weaken {lo lo' : Option Nat} {m : List Host.Cell} (h : Memory.wfFrom lo m = true)
    (hl : ∀ l', lo' = some l' → ∃ l, lo = some l ∧ l' ≤ l) : Memory.wfFrom lo' m = true := by
  cases m with
  | nil => rfl
  | cons c r =>
    obtain ⟨k, v⟩ := c
    simp only [Memory.wfFrom, Bool.and_eq_true] at h ⊢
    refine ⟨⟨?_, h.1.2⟩, h.2⟩
    cases lo' with
    | none => rfl
    | some l' =>
      obtain ⟨l, rfl, hle⟩ := hl l' rfl
      have := h.1.1
      simp only [decide_eq_true_eq] at this ⊢
      omega

theorem Memory.wfFrom_filter (p : Host.Cell → Bool) (lo : Option Nat) (m : List Host.Cell)
    (h : Memory.wfFrom lo m = true) : Memory.wfFrom lo (m.filter p) = true := by
  induction m generalizing lo with
  | nil => rfl
  | cons c r ih =>
    obtain ⟨k, v⟩ := c
    simp only [Memory.wfFrom, Bool.and_eq_true] at h
    by_cases hp : p (k, v) = true
    · simp only [List.filter_cons, hp, if_true, Memory.wfFrom, Bool.and_eq_true]
      exact ⟨h.1, ih _ h.2⟩
    · simp only [List.filter_cons, hp, Bool.false_eq_true, if_false]
      refine ih lo (Memory.wfFrom_weaken h.2 ?_)
      rintro l' rfl
      have := h.1.1
      simp only [decide_eq_true_eq] at this
      exact ⟨k, rfl, by omega⟩

theorem Memory.wfFrom_insert (a : Nat) (b : Byte) (hb : b ≠ Memory.blank) (lo : Option Nat) (m : List Host.Cell)
    (h : Memory.wfFrom lo m = true) (hn : ∀ c ∈ m, c.1 ≠ a) (hl : ∀ l, lo = some l → l < a) :
    Memory.wfFrom lo (Memory.insert a b m) = true := by
  induction m generalizing lo with
  | nil => cases lo with
    | none => simp [Memory.insert, Memory.wfFrom, hb]
    | some l => simpa [Memory.insert, Memory.wfFrom, hb] using hl l rfl
  | cons c r ih =>
    obtain ⟨k, v⟩ := c
    simp only [Memory.wfFrom, Bool.and_eq_true] at h
    by_cases hk : a < k
    · simp only [Memory.insert, hk, if_true, Memory.wfFrom, Bool.and_eq_true]
      refine ⟨⟨?_, by simpa using hb⟩, ⟨by simpa using hk, by simpa using h.1.2⟩, h.2⟩
      cases lo with
      | none => rfl
      | some l => simpa using hl l rfl
    · have hne : k ≠ a := hn (k, v) (List.mem_cons_self ..)
      simp only [Memory.insert, hk, if_false, Memory.wfFrom, Bool.and_eq_true]
      refine ⟨h.1, ih _ h.2 (fun c hc => hn c (List.mem_cons_of_mem _ hc)) ?_⟩
      rintro l ⟨⟩; omega

/-- A write keeps the canonical form. -/
theorem Memory.put_wf (m : List Host.Cell) (a : Nat) (b : Byte) (h : Memory.wf m = true) :
    Memory.wf (Memory.put m a b) = true := by
  unfold Memory.put Memory.wf at *
  have hf := Memory.wfFrom_filter (fun c => c.1 != a) none m h
  by_cases hb : b = Memory.blank
  · simpa only [hb, if_true] using hf
  · simp only [hb, if_false]
    refine Memory.wfFrom_insert a b hb none _ hf ?_ (by simp)
    intro c hc
    simpa using (List.mem_filter.mp hc).2

/-- Writes keep the canonical form. -/
theorem Memory.puts_wf (m cs : List Host.Cell) (h : Memory.wf m = true) : Memory.wf (Memory.puts m cs) = true := by
  induction cs generalizing m with
  | nil => exact h
  | cons c r ih => exact ih _ (Memory.put_wf m c.1 c.2 h)

/-- Taking cells away keeps the canonical form. -/
theorem Memory.filter_wf (p : Host.Cell → Bool) (m : List Host.Cell) (h : Memory.wf m = true) :
    Memory.wf (m.filter p) = true :=
  Memory.wfFrom_filter p none m h

/-- Memory at reset has the canonical form. -/
theorem reset_mem_wf : Memory.wf State.reset.mem = true := rfl

end Sys2Proof.Machine
end

