-- ==== Sys2Proof/Laws/State.lean ====
section
/-! SUPPORT. What each update of the state leaves: one lemma for each field that it does not write, and one for what it
writes. -/

namespace Sys2Proof.Machine

/-! settle -/

@[simp] theorem settle_pending (o t : State) : (settle o t).pending = t.pending := rfl
@[simp] theorem settle_gen (o t : State) : (settle o t).gen = t.gen := rfl
@[simp] theorem settle_fuses (o t : State) : (settle o t).fuses = t.fuses := rfl
@[simp] theorem settle_flt (o t : State) : (settle o t).flt = t.flt := rfl
@[simp] theorem settle_beat (o t : State) : (settle o t).beat = t.beat := rfl
@[simp] theorem settle_flags (o t : State) : (settle o t).flags = t.flags := rfl
@[simp] theorem settle_dq (o t : State) : (settle o t).dq = t.dq := rfl
@[simp] theorem settle_opa (o t : State) : (settle o t).opa = t.opa := rfl
@[simp] theorem settle_veElems (o t : State) : (settle o t).veElems = t.veElems := rfl
@[simp] theorem settle_moveBytes (o t : State) : (settle o t).moveBytes = t.moveBytes := rfl
@[simp] theorem settle_arb (o t : State) : (settle o t).arb = t.arb := rfl
@[simp] theorem settle_rme (o t : State) : (settle o t).rme = t.rme := rfl
@[simp] theorem settle_memp (o t : State) : (settle o t).memp = t.memp := rfl
@[simp] theorem settle_sm (o t : State) : (settle o t).sm = t.sm := rfl
@[simp] theorem settle_mem (o t : State) : (settle o t).mem = t.mem := rfl
@[simp] theorem settle_xlat (o t : State) : (settle o t).xlat = t.xlat := rfl
@[simp] theorem settle_bc (o t : State) : (settle o t).bc = t.bc := rfl
@[simp] theorem settle_svc (o t : State) : (settle o t).svc = t.svc := rfl
@[simp] theorem settle_mbox (o t : State) : (settle o t).mbox = t.mbox := rfl
@[simp] theorem settle_mg (o t : State) : (settle o t).mg = t.mg := rfl
@[simp] theorem settle_sens (o t : State) : (settle o t).sens = t.sens := rfl
@[simp] theorem settle_bnd (o t : State) : (settle o t).bnd = t.bnd := rfl
@[simp] theorem settle_tap (o t : State) : (settle o t).tap = t.tap := rfl

/-! modQ -/

@[simp] theorem modQ_pending (q : Nat) (f : Queue → Queue) (s : State) : (modQ q f s).pending = s.pending := rfl
@[simp] theorem modQ_ctl (q : Nat) (f : Queue → Queue) (s : State) : (modQ q f s).ctl = s.ctl := rfl
@[simp] theorem modQ_gen (q : Nat) (f : Queue → Queue) (s : State) : (modQ q f s).gen = s.gen := rfl
@[simp] theorem modQ_fuses (q : Nat) (f : Queue → Queue) (s : State) : (modQ q f s).fuses = s.fuses := rfl
@[simp] theorem modQ_flt (q : Nat) (f : Queue → Queue) (s : State) : (modQ q f s).flt = s.flt := rfl
@[simp] theorem modQ_beat (q : Nat) (f : Queue → Queue) (s : State) : (modQ q f s).beat = s.beat := rfl
@[simp] theorem modQ_flags (q : Nat) (f : Queue → Queue) (s : State) : (modQ q f s).flags = s.flags := rfl
@[simp] theorem modQ_opa (q : Nat) (f : Queue → Queue) (s : State) : (modQ q f s).opa = s.opa := rfl
@[simp] theorem modQ_veElems (q : Nat) (f : Queue → Queue) (s : State) : (modQ q f s).veElems = s.veElems := rfl
@[simp] theorem modQ_moveBytes (q : Nat) (f : Queue → Queue) (s : State) : (modQ q f s).moveBytes = s.moveBytes := rfl
@[simp] theorem modQ_arb (q : Nat) (f : Queue → Queue) (s : State) : (modQ q f s).arb = s.arb := rfl
@[simp] theorem modQ_rme (q : Nat) (f : Queue → Queue) (s : State) : (modQ q f s).rme = s.rme := rfl
@[simp] theorem modQ_memp (q : Nat) (f : Queue → Queue) (s : State) : (modQ q f s).memp = s.memp := rfl
@[simp] theorem modQ_sm (q : Nat) (f : Queue → Queue) (s : State) : (modQ q f s).sm = s.sm := rfl
@[simp] theorem modQ_mem (q : Nat) (f : Queue → Queue) (s : State) : (modQ q f s).mem = s.mem := rfl
@[simp] theorem modQ_xlat (q : Nat) (f : Queue → Queue) (s : State) : (modQ q f s).xlat = s.xlat := rfl
@[simp] theorem modQ_bc (q : Nat) (f : Queue → Queue) (s : State) : (modQ q f s).bc = s.bc := rfl
@[simp] theorem modQ_svc (q : Nat) (f : Queue → Queue) (s : State) : (modQ q f s).svc = s.svc := rfl
@[simp] theorem modQ_cores (q : Nat) (f : Queue → Queue) (s : State) : (modQ q f s).cores = s.cores := rfl
@[simp] theorem modQ_mbox (q : Nat) (f : Queue → Queue) (s : State) : (modQ q f s).mbox = s.mbox := rfl
@[simp] theorem modQ_mg (q : Nat) (f : Queue → Queue) (s : State) : (modQ q f s).mg = s.mg := rfl
@[simp] theorem modQ_sens (q : Nat) (f : Queue → Queue) (s : State) : (modQ q f s).sens = s.sens := rfl
@[simp] theorem modQ_bnd (q : Nat) (f : Queue → Queue) (s : State) : (modQ q f s).bnd = s.bnd := rfl
@[simp] theorem modQ_tap (q : Nat) (f : Queue → Queue) (s : State) : (modQ q f s).tap = s.tap := rfl

/-! modCore -/

@[simp] theorem modCore_pending (c : Nat) (f : Core → Core) (s : State) : (modCore c f s).pending = s.pending := rfl
@[simp] theorem modCore_ctl (c : Nat) (f : Core → Core) (s : State) : (modCore c f s).ctl = s.ctl := rfl
@[simp] theorem modCore_gen (c : Nat) (f : Core → Core) (s : State) : (modCore c f s).gen = s.gen := rfl
@[simp] theorem modCore_fuses (c : Nat) (f : Core → Core) (s : State) : (modCore c f s).fuses = s.fuses := rfl
@[simp] theorem modCore_flt (c : Nat) (f : Core → Core) (s : State) : (modCore c f s).flt = s.flt := rfl
@[simp] theorem modCore_beat (c : Nat) (f : Core → Core) (s : State) : (modCore c f s).beat = s.beat := rfl
@[simp] theorem modCore_flags (c : Nat) (f : Core → Core) (s : State) : (modCore c f s).flags = s.flags := rfl
@[simp] theorem modCore_dq (c : Nat) (f : Core → Core) (s : State) : (modCore c f s).dq = s.dq := rfl
@[simp] theorem modCore_opa (c : Nat) (f : Core → Core) (s : State) : (modCore c f s).opa = s.opa := rfl
@[simp] theorem modCore_veElems (c : Nat) (f : Core → Core) (s : State) : (modCore c f s).veElems = s.veElems := rfl
@[simp] theorem modCore_moveBytes (c : Nat) (f : Core → Core) (s : State) : (modCore c f s).moveBytes = s.moveBytes := rfl
@[simp] theorem modCore_arb (c : Nat) (f : Core → Core) (s : State) : (modCore c f s).arb = s.arb := rfl
@[simp] theorem modCore_rme (c : Nat) (f : Core → Core) (s : State) : (modCore c f s).rme = s.rme := rfl
@[simp] theorem modCore_memp (c : Nat) (f : Core → Core) (s : State) : (modCore c f s).memp = s.memp := rfl
@[simp] theorem modCore_sm (c : Nat) (f : Core → Core) (s : State) : (modCore c f s).sm = s.sm := rfl
@[simp] theorem modCore_mem (c : Nat) (f : Core → Core) (s : State) : (modCore c f s).mem = s.mem := rfl
@[simp] theorem modCore_xlat (c : Nat) (f : Core → Core) (s : State) : (modCore c f s).xlat = s.xlat := rfl
@[simp] theorem modCore_bc (c : Nat) (f : Core → Core) (s : State) : (modCore c f s).bc = s.bc := rfl
@[simp] theorem modCore_svc (c : Nat) (f : Core → Core) (s : State) : (modCore c f s).svc = s.svc := rfl
@[simp] theorem modCore_mbox (c : Nat) (f : Core → Core) (s : State) : (modCore c f s).mbox = s.mbox := rfl
@[simp] theorem modCore_mg (c : Nat) (f : Core → Core) (s : State) : (modCore c f s).mg = s.mg := rfl
@[simp] theorem modCore_sens (c : Nat) (f : Core → Core) (s : State) : (modCore c f s).sens = s.sens := rfl
@[simp] theorem modCore_bnd (c : Nat) (f : Core → Core) (s : State) : (modCore c f s).bnd = s.bnd := rfl
@[simp] theorem modCore_tap (c : Nat) (f : Core → Core) (s : State) : (modCore c f s).tap = s.tap := rfl

/-! modInst -/

@[simp] theorem modInst_pending (n : Nat) (f : OpaInst → OpaInst) (s : State) : (modInst n f s).pending = s.pending := rfl
@[simp] theorem modInst_ctl (n : Nat) (f : OpaInst → OpaInst) (s : State) : (modInst n f s).ctl = s.ctl := rfl
@[simp] theorem modInst_gen (n : Nat) (f : OpaInst → OpaInst) (s : State) : (modInst n f s).gen = s.gen := rfl
@[simp] theorem modInst_fuses (n : Nat) (f : OpaInst → OpaInst) (s : State) : (modInst n f s).fuses = s.fuses := rfl
@[simp] theorem modInst_flt (n : Nat) (f : OpaInst → OpaInst) (s : State) : (modInst n f s).flt = s.flt := rfl
@[simp] theorem modInst_beat (n : Nat) (f : OpaInst → OpaInst) (s : State) : (modInst n f s).beat = s.beat := rfl
@[simp] theorem modInst_flags (n : Nat) (f : OpaInst → OpaInst) (s : State) : (modInst n f s).flags = s.flags := rfl
@[simp] theorem modInst_dq (n : Nat) (f : OpaInst → OpaInst) (s : State) : (modInst n f s).dq = s.dq := rfl
@[simp] theorem modInst_veElems (n : Nat) (f : OpaInst → OpaInst) (s : State) : (modInst n f s).veElems = s.veElems := rfl
@[simp] theorem modInst_moveBytes (n : Nat) (f : OpaInst → OpaInst) (s : State) : (modInst n f s).moveBytes = s.moveBytes := rfl
@[simp] theorem modInst_arb (n : Nat) (f : OpaInst → OpaInst) (s : State) : (modInst n f s).arb = s.arb := rfl
@[simp] theorem modInst_rme (n : Nat) (f : OpaInst → OpaInst) (s : State) : (modInst n f s).rme = s.rme := rfl
@[simp] theorem modInst_memp (n : Nat) (f : OpaInst → OpaInst) (s : State) : (modInst n f s).memp = s.memp := rfl
@[simp] theorem modInst_sm (n : Nat) (f : OpaInst → OpaInst) (s : State) : (modInst n f s).sm = s.sm := rfl
@[simp] theorem modInst_mem (n : Nat) (f : OpaInst → OpaInst) (s : State) : (modInst n f s).mem = s.mem := rfl
@[simp] theorem modInst_xlat (n : Nat) (f : OpaInst → OpaInst) (s : State) : (modInst n f s).xlat = s.xlat := rfl
@[simp] theorem modInst_bc (n : Nat) (f : OpaInst → OpaInst) (s : State) : (modInst n f s).bc = s.bc := rfl
@[simp] theorem modInst_svc (n : Nat) (f : OpaInst → OpaInst) (s : State) : (modInst n f s).svc = s.svc := rfl
@[simp] theorem modInst_cores (n : Nat) (f : OpaInst → OpaInst) (s : State) : (modInst n f s).cores = s.cores := rfl
@[simp] theorem modInst_mbox (n : Nat) (f : OpaInst → OpaInst) (s : State) : (modInst n f s).mbox = s.mbox := rfl
@[simp] theorem modInst_mg (n : Nat) (f : OpaInst → OpaInst) (s : State) : (modInst n f s).mg = s.mg := rfl
@[simp] theorem modInst_sens (n : Nat) (f : OpaInst → OpaInst) (s : State) : (modInst n f s).sens = s.sens := rfl
@[simp] theorem modInst_bnd (n : Nat) (f : OpaInst → OpaInst) (s : State) : (modInst n f s).bnd = s.bnd := rfl
@[simp] theorem modInst_tap (n : Nat) (f : OpaInst → OpaInst) (s : State) : (modInst n f s).tap = s.tap := rfl

/-! setBnd -/

@[simp] theorem setBnd_pending (i : Nat) (s : State) : (setBnd i s).pending = s.pending := rfl
@[simp] theorem setBnd_ctl (i : Nat) (s : State) : (setBnd i s).ctl = s.ctl := rfl
@[simp] theorem setBnd_gen (i : Nat) (s : State) : (setBnd i s).gen = s.gen := rfl
@[simp] theorem setBnd_fuses (i : Nat) (s : State) : (setBnd i s).fuses = s.fuses := rfl
@[simp] theorem setBnd_flt (i : Nat) (s : State) : (setBnd i s).flt = s.flt := rfl
@[simp] theorem setBnd_beat (i : Nat) (s : State) : (setBnd i s).beat = s.beat := rfl
@[simp] theorem setBnd_flags (i : Nat) (s : State) : (setBnd i s).flags = s.flags := rfl
@[simp] theorem setBnd_dq (i : Nat) (s : State) : (setBnd i s).dq = s.dq := rfl
@[simp] theorem setBnd_opa (i : Nat) (s : State) : (setBnd i s).opa = s.opa := rfl
@[simp] theorem setBnd_veElems (i : Nat) (s : State) : (setBnd i s).veElems = s.veElems := rfl
@[simp] theorem setBnd_moveBytes (i : Nat) (s : State) : (setBnd i s).moveBytes = s.moveBytes := rfl
@[simp] theorem setBnd_arb (i : Nat) (s : State) : (setBnd i s).arb = s.arb := rfl
@[simp] theorem setBnd_rme (i : Nat) (s : State) : (setBnd i s).rme = s.rme := rfl
@[simp] theorem setBnd_memp (i : Nat) (s : State) : (setBnd i s).memp = s.memp := rfl
@[simp] theorem setBnd_sm (i : Nat) (s : State) : (setBnd i s).sm = s.sm := rfl
@[simp] theorem setBnd_mem (i : Nat) (s : State) : (setBnd i s).mem = s.mem := rfl
@[simp] theorem setBnd_xlat (i : Nat) (s : State) : (setBnd i s).xlat = s.xlat := rfl
@[simp] theorem setBnd_bc (i : Nat) (s : State) : (setBnd i s).bc = s.bc := rfl
@[simp] theorem setBnd_svc (i : Nat) (s : State) : (setBnd i s).svc = s.svc := rfl
@[simp] theorem setBnd_cores (i : Nat) (s : State) : (setBnd i s).cores = s.cores := rfl
@[simp] theorem setBnd_mbox (i : Nat) (s : State) : (setBnd i s).mbox = s.mbox := rfl
@[simp] theorem setBnd_mg (i : Nat) (s : State) : (setBnd i s).mg = s.mg := rfl
@[simp] theorem setBnd_sens (i : Nat) (s : State) : (setBnd i s).sens = s.sens := rfl
@[simp] theorem setBnd_tap (i : Nat) (s : State) : (setBnd i s).tap = s.tap := rfl

/-! detect -/

@[simp] theorem detect_pending (ev : BitVec 16) (c : Byte) (src d : BitVec 16) (a b : Word) (v : Bool) (s : State) : (detect ev c src d a b s v).pending = s.pending := rfl
@[simp] theorem detect_ctl (ev : BitVec 16) (c : Byte) (src d : BitVec 16) (a b : Word) (v : Bool) (s : State) : (detect ev c src d a b s v).ctl = s.ctl := rfl
@[simp] theorem detect_gen (ev : BitVec 16) (c : Byte) (src d : BitVec 16) (a b : Word) (v : Bool) (s : State) : (detect ev c src d a b s v).gen = s.gen := rfl
@[simp] theorem detect_fuses (ev : BitVec 16) (c : Byte) (src d : BitVec 16) (a b : Word) (v : Bool) (s : State) : (detect ev c src d a b s v).fuses = s.fuses := rfl
@[simp] theorem detect_beat (ev : BitVec 16) (c : Byte) (src d : BitVec 16) (a b : Word) (v : Bool) (s : State) : (detect ev c src d a b s v).beat = s.beat := rfl
@[simp] theorem detect_flags (ev : BitVec 16) (c : Byte) (src d : BitVec 16) (a b : Word) (v : Bool) (s : State) : (detect ev c src d a b s v).flags = s.flags := rfl
@[simp] theorem detect_dq (ev : BitVec 16) (c : Byte) (src d : BitVec 16) (a b : Word) (v : Bool) (s : State) : (detect ev c src d a b s v).dq = s.dq := rfl
@[simp] theorem detect_opa (ev : BitVec 16) (c : Byte) (src d : BitVec 16) (a b : Word) (v : Bool) (s : State) : (detect ev c src d a b s v).opa = s.opa := rfl
@[simp] theorem detect_veElems (ev : BitVec 16) (c : Byte) (src d : BitVec 16) (a b : Word) (v : Bool) (s : State) : (detect ev c src d a b s v).veElems = s.veElems := rfl
@[simp] theorem detect_moveBytes (ev : BitVec 16) (c : Byte) (src d : BitVec 16) (a b : Word) (v : Bool) (s : State) : (detect ev c src d a b s v).moveBytes = s.moveBytes := rfl
@[simp] theorem detect_arb (ev : BitVec 16) (c : Byte) (src d : BitVec 16) (a b : Word) (v : Bool) (s : State) : (detect ev c src d a b s v).arb = s.arb := rfl
@[simp] theorem detect_rme (ev : BitVec 16) (c : Byte) (src d : BitVec 16) (a b : Word) (v : Bool) (s : State) : (detect ev c src d a b s v).rme = s.rme := rfl
@[simp] theorem detect_memp (ev : BitVec 16) (c : Byte) (src d : BitVec 16) (a b : Word) (v : Bool) (s : State) : (detect ev c src d a b s v).memp = s.memp := rfl
@[simp] theorem detect_sm (ev : BitVec 16) (c : Byte) (src d : BitVec 16) (a b : Word) (v : Bool) (s : State) : (detect ev c src d a b s v).sm = s.sm := rfl
@[simp] theorem detect_mem (ev : BitVec 16) (c : Byte) (src d : BitVec 16) (a b : Word) (v : Bool) (s : State) : (detect ev c src d a b s v).mem = s.mem := rfl
@[simp] theorem detect_xlat (ev : BitVec 16) (c : Byte) (src d : BitVec 16) (a b : Word) (v : Bool) (s : State) : (detect ev c src d a b s v).xlat = s.xlat := rfl
@[simp] theorem detect_bc (ev : BitVec 16) (c : Byte) (src d : BitVec 16) (a b : Word) (v : Bool) (s : State) : (detect ev c src d a b s v).bc = s.bc := rfl
@[simp] theorem detect_svc (ev : BitVec 16) (c : Byte) (src d : BitVec 16) (a b : Word) (v : Bool) (s : State) : (detect ev c src d a b s v).svc = s.svc := rfl
@[simp] theorem detect_cores (ev : BitVec 16) (c : Byte) (src d : BitVec 16) (a b : Word) (v : Bool) (s : State) : (detect ev c src d a b s v).cores = s.cores := rfl
@[simp] theorem detect_mbox (ev : BitVec 16) (c : Byte) (src d : BitVec 16) (a b : Word) (v : Bool) (s : State) : (detect ev c src d a b s v).mbox = s.mbox := rfl
@[simp] theorem detect_mg (ev : BitVec 16) (c : Byte) (src d : BitVec 16) (a b : Word) (v : Bool) (s : State) : (detect ev c src d a b s v).mg = s.mg := rfl
@[simp] theorem detect_sens (ev : BitVec 16) (c : Byte) (src d : BitVec 16) (a b : Word) (v : Bool) (s : State) : (detect ev c src d a b s v).sens = s.sens := rfl
@[simp] theorem detect_bnd (ev : BitVec 16) (c : Byte) (src d : BitVec 16) (a b : Word) (v : Bool) (s : State) : (detect ev c src d a b s v).bnd = s.bnd := rfl
@[simp] theorem detect_tap (ev : BitVec 16) (c : Byte) (src d : BitVec 16) (a b : Word) (v : Bool) (s : State) : (detect ev c src d a b s v).tap = s.tap := rfl

/-! endMismatch -/

@[simp] theorem endMismatch_pending (off : Nat) (s : State) : (endMismatch off s).pending = s.pending := rfl
@[simp] theorem endMismatch_ctl (off : Nat) (s : State) : (endMismatch off s).ctl = s.ctl := rfl
@[simp] theorem endMismatch_fuses (off : Nat) (s : State) : (endMismatch off s).fuses = s.fuses := rfl
@[simp] theorem endMismatch_flt (off : Nat) (s : State) : (endMismatch off s).flt = s.flt := rfl
@[simp] theorem endMismatch_beat (off : Nat) (s : State) : (endMismatch off s).beat = s.beat := rfl
@[simp] theorem endMismatch_flags (off : Nat) (s : State) : (endMismatch off s).flags = s.flags := rfl
@[simp] theorem endMismatch_dq (off : Nat) (s : State) : (endMismatch off s).dq = s.dq := rfl
@[simp] theorem endMismatch_opa (off : Nat) (s : State) : (endMismatch off s).opa = s.opa := rfl
@[simp] theorem endMismatch_veElems (off : Nat) (s : State) : (endMismatch off s).veElems = s.veElems := rfl
@[simp] theorem endMismatch_moveBytes (off : Nat) (s : State) : (endMismatch off s).moveBytes = s.moveBytes := rfl
@[simp] theorem endMismatch_arb (off : Nat) (s : State) : (endMismatch off s).arb = s.arb := rfl
@[simp] theorem endMismatch_rme (off : Nat) (s : State) : (endMismatch off s).rme = s.rme := rfl
@[simp] theorem endMismatch_memp (off : Nat) (s : State) : (endMismatch off s).memp = s.memp := rfl
@[simp] theorem endMismatch_sm (off : Nat) (s : State) : (endMismatch off s).sm = s.sm := rfl
@[simp] theorem endMismatch_mem (off : Nat) (s : State) : (endMismatch off s).mem = s.mem := rfl
@[simp] theorem endMismatch_xlat (off : Nat) (s : State) : (endMismatch off s).xlat = s.xlat := rfl
@[simp] theorem endMismatch_bc (off : Nat) (s : State) : (endMismatch off s).bc = s.bc := rfl
@[simp] theorem endMismatch_svc (off : Nat) (s : State) : (endMismatch off s).svc = s.svc := rfl
@[simp] theorem endMismatch_cores (off : Nat) (s : State) : (endMismatch off s).cores = s.cores := rfl
@[simp] theorem endMismatch_mbox (off : Nat) (s : State) : (endMismatch off s).mbox = s.mbox := rfl
@[simp] theorem endMismatch_mg (off : Nat) (s : State) : (endMismatch off s).mg = s.mg := rfl
@[simp] theorem endMismatch_sens (off : Nat) (s : State) : (endMismatch off s).sens = s.sens := rfl
@[simp] theorem endMismatch_bnd (off : Nat) (s : State) : (endMismatch off s).bnd = s.bnd := rfl
@[simp] theorem endMismatch_tap (off : Nat) (s : State) : (endMismatch off s).tap = s.tap := rfl

/-! genEvent -/

@[simp] theorem genEvent_pending (i : Nat) (s : State) : (genEvent i s).pending = s.pending := rfl
@[simp] theorem genEvent_ctl (i : Nat) (s : State) : (genEvent i s).ctl = s.ctl := rfl
@[simp] theorem genEvent_fuses (i : Nat) (s : State) : (genEvent i s).fuses = s.fuses := rfl
@[simp] theorem genEvent_flt (i : Nat) (s : State) : (genEvent i s).flt = s.flt := rfl
@[simp] theorem genEvent_beat (i : Nat) (s : State) : (genEvent i s).beat = s.beat := rfl
@[simp] theorem genEvent_flags (i : Nat) (s : State) : (genEvent i s).flags = s.flags := rfl
@[simp] theorem genEvent_dq (i : Nat) (s : State) : (genEvent i s).dq = s.dq := rfl
@[simp] theorem genEvent_opa (i : Nat) (s : State) : (genEvent i s).opa = s.opa := rfl
@[simp] theorem genEvent_veElems (i : Nat) (s : State) : (genEvent i s).veElems = s.veElems := rfl
@[simp] theorem genEvent_moveBytes (i : Nat) (s : State) : (genEvent i s).moveBytes = s.moveBytes := rfl
@[simp] theorem genEvent_arb (i : Nat) (s : State) : (genEvent i s).arb = s.arb := rfl
@[simp] theorem genEvent_rme (i : Nat) (s : State) : (genEvent i s).rme = s.rme := rfl
@[simp] theorem genEvent_memp (i : Nat) (s : State) : (genEvent i s).memp = s.memp := rfl
@[simp] theorem genEvent_sm (i : Nat) (s : State) : (genEvent i s).sm = s.sm := rfl
@[simp] theorem genEvent_mem (i : Nat) (s : State) : (genEvent i s).mem = s.mem := rfl
@[simp] theorem genEvent_xlat (i : Nat) (s : State) : (genEvent i s).xlat = s.xlat := rfl
@[simp] theorem genEvent_bc (i : Nat) (s : State) : (genEvent i s).bc = s.bc := rfl
@[simp] theorem genEvent_svc (i : Nat) (s : State) : (genEvent i s).svc = s.svc := rfl
@[simp] theorem genEvent_cores (i : Nat) (s : State) : (genEvent i s).cores = s.cores := rfl
@[simp] theorem genEvent_mbox (i : Nat) (s : State) : (genEvent i s).mbox = s.mbox := rfl
@[simp] theorem genEvent_mg (i : Nat) (s : State) : (genEvent i s).mg = s.mg := rfl
@[simp] theorem genEvent_sens (i : Nat) (s : State) : (genEvent i s).sens = s.sens := rfl
@[simp] theorem genEvent_bnd (i : Nat) (s : State) : (genEvent i s).bnd = s.bnd := rfl
@[simp] theorem genEvent_tap (i : Nat) (s : State) : (genEvent i s).tap = s.tap := rfl

/-! What the updates write. -/

@[simp] theorem settle_quietSeen (o t : State) :
    (settle o t).ctl = { t.ctl with quietSeen := t.ctl.state == .hold && quiet t } := rfl

/-- The cores that run have their bindings fired; the others are as they were (11:R317). -/
@[simp] theorem settle_core (o t : State) (i : Nat) (h : i < 8) :
    (settle o t).cores[i] =
      if coreRuns t i then
        fireWhere (bindingFires t (queuesNotified o t) (queuesHalted o t) (linesPulsed o t)) t.cores[i]
      else t.cores[i] := by
  simp [settle]

theorem modQ_getElem (q : Nat) (f : Queue → Queue) (s : State) (i : Nat) (h : i < 32) :
    (modQ q f s).dq[i] = if q = i then f s.dq[i] else s.dq[i] := by
  by_cases e : q = i
  · subst e; simp [modQ, vmod, h]
  · by_cases hq : q < 32
    · simp [modQ, vmod, hq, e]
    · simp [modQ, vmod, hq, e]

theorem modCore_getElem (c : Nat) (f : Core → Core) (s : State) (i : Nat) (h : i < 8) :
    (modCore c f s).cores[i] = if c = i then f s.cores[i] else s.cores[i] := by
  by_cases e : c = i
  · subst e; simp [modCore, vmod, h]
  · by_cases hq : c < 8
    · simp [modCore, vmod, hq, e]
    · simp [modCore, vmod, hq, e]

theorem modInst_getElem (n : Nat) (f : OpaInst → OpaInst) (s : State) (i : Nat) (h : i < 16) :
    (modInst n f s).opa.inst[i] = if n = i then f s.opa.inst[i] else s.opa.inst[i] := by
  by_cases e : n = i
  · subst e; simp [modInst, vmod, h]
  · by_cases hq : n < 16
    · simp [modInst, vmod, hq, e]
    · simp [modInst, vmod, hq, e]

@[simp] theorem detect_detected (ev : BitVec 16) (c : Byte) (src d : BitVec 16) (a b : Word) (v : Bool) (s : State) :
    (detect ev c src d a b s v).flt.detected =
      insertDetected s.ctl.fcycles ⟨ev, c, v, src, d, s.beat.value, a, b⟩ s.flt.detected := rfl

end Sys2Proof.Machine
end

