-- ==== Sys2Proof/Laws/Writes.lean ====
section
/-! SUPPORT. What writes of external and stage memory do (08:R235, R236; 12:R352): memory holds the bytes, in order, and
nothing else changes but what reads change and the state of uncorrectable words. -/

namespace Sys2Proof.Machine

/-- The byte at an address after writes: the last written there, or what was there before. -/
theorem Memory.get_puts (cs : List Host.Cell) (m : List Host.Cell) (a : Nat) :
    Memory.get (Memory.puts m cs) a = match cs.reverse.find? (·.1 == a) with
      | some c => c.2
      | none => Memory.get m a := by
  induction cs generalizing m with
  | nil => rfl
  | cons c cs ih =>
    obtain ⟨k, b⟩ := c
    rw [Memory.puts, ih, List.reverse_cons, List.find?_append]
    cases h : cs.reverse.find? (·.1 == a) with
    | some c => rfl
    | none =>
      by_cases e : k = a
      · subst e; simp
      · simp [e, Memory.get_put_other m k b a e]

/-- Writes of the cells at some addresses only. -/
theorem Memory.get_puts_filter (p : Nat → Bool) (cs m : List Host.Cell) (a : Nat) :
    Memory.get (Memory.puts m (cs.filter fun c => p c.1)) a =
      if p a then Memory.get (Memory.puts m cs) a else Memory.get m a := by
  rw [Memory.get_puts, Memory.get_puts]
  by_cases h : p a = true
  · simp only [h, if_true, ← List.filter_reverse]
    rw [List.find?_filter]
    congr 1
    congr 1
    funext c
    by_cases e : c.1 = a
    · simp [e, h]
    · simp [e]
  · simp only [h]
    have : ((cs.filter fun c => p c.1).reverse.find? (·.1 == a)) = none := by
      simp only [List.find?_eq_none, List.mem_reverse, List.mem_filter, beq_iff_eq]
      rintro c ⟨_, hc⟩ rfl
      exact h hc
    rw [this]
    simp

theorem Memory.puts_append (m : List Host.Cell) (xs ys : List Host.Cell) :
    Memory.puts m (xs ++ ys) = Memory.puts (Memory.puts m xs) ys := by
  induction xs generalizing m with
  | nil => rfl
  | cons x xs ih => obtain ⟨a, b⟩ := x; exact ih _

/-- t is s but for memory, and what reads change. -/
structure Wrote (s t : State) (m : List Host.Cell) : Prop where
  mem  : t.mem = m
  kept : Kept { s with mem := t.mem } t

theorem Wrote.of_kept {s t : State} (h : Kept s t) : Wrote s t s.mem := by
  refine ⟨h.mem, ?_⟩
  have e : ({ s with mem := t.mem } : State) = s := by rw [h.mem]
  rw [e]; exact h

theorem Kept.setMem {s t : State} (h : Kept s t) (m : List Host.Cell) :
    Kept { s with mem := m } { t with mem := m } where
  pending := h.pending
  ctl := h.ctl
  gen := h.gen
  fuses := h.fuses
  flt := h.flt
  beat := h.beat
  flags := h.flags
  dq := h.dq
  opa := h.opa
  veElems := h.veElems
  moveBytes := h.moveBytes
  arb := h.arb
  rme := h.rme
  sm := h.sm
  mem := rfl
  svc := h.svc
  cores := h.cores
  mbox := h.mbox
  mg := h.mg
  sens := h.sens
  bnd := h.bnd
  tap := h.tap

theorem Wrote.then_kept {s t u : State} {m : List Host.Cell} (h : Wrote s t m) (k : Kept t u) : Wrote s u m := by
  refine ⟨k.mem.trans h.mem, ?_⟩
  rw [k.mem]
  exact h.kept.trans k

theorem Wrote.trans {s t u : State} {m n : List Host.Cell} (h : Wrote s t m) (k : Wrote t u n) : Wrote s u n := by
  refine ⟨k.mem, ?_⟩
  have := h.kept.setMem u.mem
  exact Kept.trans this k.kept

theorem wrote_storeUnit (unit : Nat) (cs : List Host.Cell) (s : State) :
    Wrote s (storeUnit unit cs s) (Memory.puts s.mem cs) := by
  unfold storeUnit
  dsimp only
  split
  · exact ⟨rfl, .refl _⟩
  · exact ⟨rfl, kept_memp ..⟩

theorem kept_markDirty (line : Nat) (s : State) : Kept s (markDirty line s) := kept_bc ..
theorem kept_portWrite (w : Waiter) (unit : Nat) (cs : List Host.Cell) (s : State) : Kept s (portWrite w unit cs s) :=
  (kept_postReq ..).trans (kept_bc ..)

theorem Kept.store {s t : State} (h : Kept s t) (unit : Nat) (cs : List Host.Cell) :
    Wrote s (storeUnit unit cs t) (Memory.puts s.mem cs) := by
  have := (Wrote.of_kept h).trans (wrote_storeUnit unit cs t)
  rwa [h.mem] at this

/-- A write of a unit. -/
theorem wrote_writeUnit (al th : Bool) (w : Waiter) (unit : Nat) (cs : List Host.Cell) (s : State) :
    Wrote s (writeUnit al th w unit cs s) (Memory.puts s.mem cs) := by
  unfold writeUnit
  extract_lets line inWay inVic s1
  have k1 : Kept s s1 := kept_bcCount ..
  clear_value s1
  split
  · rename_i s2 _
    have k2 : Kept s s2 := by
      unfold s2
      split
      · exact k1.trans (kept_bcAlloc ..)
      · exact k1
    exact (k2.trans (kept_portWrite ..)).store unit cs
  · split
    · exact (k1.trans (kept_markDirty ..)).store unit cs
    · split
      · split
        rename_i r t ht
        have kt : Kept s t := by
          split at ht
          · cases ht; exact k1
          · have := kept_readPortUnits [line * 2, line * 2 + 1] s1; rw [ht] at this; exact k1.trans this
        split
        rename_i ok v hv
        have kv : Kept s v := by
          split at hv
          · cases hv; exact kt
          · have := kept_bcAlloc line t; rw [hv] at this; exact kt.trans this
        split
        · exact (kv.trans (kept_markDirty ..)).store unit cs
        · exact ((kv.trans (kept_bc ..)).trans (kept_portWrite ..)).store unit cs
      · exact (k1.trans (kept_portWrite ..)).store unit cs

/-- Writes of units, in order. -/
theorem wrote_writeUnits (al th : Bool) (w : Waiter) (gs : List (List Host.Cell)) (s : State) :
    Wrote s (writeUnits al th w gs s) (Memory.puts s.mem gs.flatten) := by
  induction gs generalizing s with
  | nil => exact .of_kept (.refl s)
  | cons g gs ih =>
    have h := wrote_writeUnit al th w ((g.headD (0, 0)).1 / 64) g s
    have k := ih (writeUnit al th w ((g.headD (0, 0)).1 / 64) g s)
    rw [h.mem] at k
    rw [List.flatten_cons, Memory.puts_append]
    exact h.trans k

end Sys2Proof.Machine
end

