-- ==== Sys2Proof/Machine/Outputs.lean ====
section
/-! DEFINITION. What the block drives on its boundary, computed from its state (15:R418, R423, R434, R435, R438). -/

namespace Sys2Proof.Machine

/-- The outputs of the block (15:R418). `requests`: the requests that the memory ports have presented and that are not
answered; `chain`: the symbols of the chain output, frames sent in this f-cycle or idle; `fzRd` and `fzProg`: the fuse word
read, or programmed with its bits; `tdo`: nothing drives it while no shift runs. -/
structure Outputs where
  aclkSel  : BitVec 2
  vreq     : BitVec 7
  vreqStb  : Bool
  requests : List PortReq
  tx       : List Byte
  rxCred   : Nat
  hwCred   : Nat
  hostRsp  : List (BitVec 6 × BitVec 2048)
  chain    : List (Bool × Byte)
  mgAlive  : Bool
  evNotify : Vector Bool 32
  evRec    : Bool
  evFault  : Bool
  evFatal  : Bool
  evMbox   : Bool
  evState  : BitVec 3
  wrstReq  : Bool
  fzRd     : Option (BitVec 10)
  fzProg   : Option (BitVec 10 × BitVec 32)
  tdo      : Option Bool
  deriving DecidableEq, Repr

/-- EV_FAULT: records that are not acknowledged exist; low in a warm reset, which keeps them (15:R418, R434). -/
def evFault (s : State) : Bool := !s.ctl.wres && s.flt.wr - s.flt.ack != 0

/-- The symbols of the chain output. -/
def chainSymbols (s : State) : List (Bool × Byte) :=
  if s.mg.chainOut.isEmpty then idlePair else s.mg.chainOut.flatMap frameSymbols

/-- The outputs in a state; the state of a reset holds the Reset column of 15:R418. -/
def outputs (s : State) : Outputs :=
  { aclkSel := s.bnd.aclkSel, vreq := s.bnd.vreq, vreqStb := s.bnd.vreqStb, requests := s.memp.out, tx := s.rme.tx,
    rxCred := s.rme.rxCred, hwCred := s.bnd.hwCred, hostRsp := s.bnd.hostOut, chain := chainSymbols s,
    mgAlive := s.bnd.mgAlive, evNotify := s.dq.map (·.evNotify), evRec := s.flt.evRec, evFault := evFault s,
    evFatal := s.flt.evFatal, evMbox := s.mbox.evMbox, evState := BitVec.ofNat 3 (stateCode s.ctl.state),
    wrstReq := s.bnd.wrstReq,
    fzRd := if s.ctl.phase == .b1 && s.fuses.next < 1024 then some (BitVec.ofNat 10 s.fuses.next) else none,
    fzProg := s.fuses.prog.head?.map fun p => (BitVec.ofNat 10 p.word, p.bits), tdo := none }

/-- The data register that the test access port has selected: its width, and what it captures (15:R438). -/
def tapRegister (s : State) : Nat × BitVec 32 :=
  if s.tap.ir == 0x01 then (32, 0x157041C3) else (1, 0)

end Sys2Proof.Machine
end

