-- ==== Sys2Proof/Safety.lean ====
section
/-! DEFINITION. Safe runs. -/

namespace Sys2Proof

/-- A run of n steps that neither faults nor is refused. -/
def Safe (s : Machine.State) : Nat → Prop
  | 0 => True
  | n + 1 => ∃ t, Machine.step s = .next t ∧ Safe t n

end Sys2Proof
end

