-- ==== Sys2Proof/WellFormed.lean ====
section
/-! DEFINITION. Well-formed commands: the lengths of payloads and the ranges of operands whose types are wider than what
the boundary can carry (13:R376, R380; 15:R427, R428). A meaning is total; it does not ask for this. -/

namespace Sys2Proof

/-- A remote packet within its header's fields (15:R427): one ATTR bit, a 40-bit ADDR, at most 4,096 payload bytes. -/
def Packet.wf (p : Packet) : Bool :=
  decide (p.attr.toNat < 2) && decide (p.addr.toNat < 2 ^ 40) && decide (p.payload.length ≤ 4096)

/-- A line that a physical address of 52 bits reaches (00:R12). -/
def Upset.wf : Upset → Bool
  | .uncorrectable l | .tagLost l | .victim l | .l1Line _ l _ => decide (l < 2 ^ 45)
  | .corrected _ | .stage _ _ | .register _ _ _ | .tileRow _ _ _ | .latch _ _ | .store _ _ | .l1Tlb _ _ | .tlb _ | .walker _
  | .context _ | .voted _ | .config _ => true

/-- A list names nothing twice. -/
def nodup {α : Type} [DecidableEq α] (l : List α) : Bool := decide l.Nodup

/-- The banks and spares that failed, each once (16:R441). -/
def BootChecks.wf (r : BootChecks) : Bool := nodup r.badBanks && nodup r.badSpares

/-- A management payload: at most 1,040 bytes (13:R376, R380). -/
def payloadOk (b : List Byte) : Bool := decide (b.length ≤ 1040)

/-- The command is well-formed. -/
def Instr.wellFormed (i : Instr) : Bool :=
  match i with
  | .powerOnResetAssert | .powerOnResetRelease | .warmResetAssert _ | .warmResetRelease | .powerGoodFall _ => true
  | .bootPhaseEnd r => r.wf
  | .fuseReadData _ | .fuseReadTimeout | .fuseProgramDone _ | .clockMeasureWindow _ _ _ _ | .beatMeasureWindow _
  | .mclkWatchdog | .mgAliveRise => true
  | .beatTick _ found => found.all Upset.wf
  | .beatLoad _ | .applyIn | .applyNow _ | .applyArm _ _ | .applyAtWrite _ _ | .scheduledApply | .stateRequest _ _
  | .stagedWrite _ _ _ | .registerWrite _ _ _ | .sqcClear _ _ _ | .hostWindowRead _ _ _ _
  | .hostWindowWrite _ _ _ _ | .hostWindowReadTimeout _ | .dqCfgWrite _ _ _ _ | .dqDoorbell _ _ _ | .queueFlush _ _
  | .queueResume _ _ | .queueHalt _ _ | .flagWriteSet _ _ _ | .flagWriteAdd _ _ _ | .descriptorFetch _
  | .fetchEventComplete _ | .predicateTest _ | .barrierEnter _ | .descriptorComplete _ | .deadlineMiss _ _
  | .deadlockDeclare | .nullNop _ | .nullFlags _ | .opaMm _ | .opaDrain _ | .opaFormatSwitch _ | .opaStepIssue _
  | .opaChecksumMiss _ _ _ _ _ _ | .opaAccParityError _ _ _ _ _ _ | .opaReplayAttempt _ | .groupFinal _
  | .heldSetDrain _ | .drainCubeRow _ | .opaKeepFinish _ | .opaDrainFinish _ | .cgLeaveBand _ | .gapWindowExpire _
  | .lambdaDecay _ | .lambdaRamp _ | .dummyStepIssue _ | .veAdd _ | .veSub _ | .veMul _ | .veDiv _ | .veFma _
  | .veSqrt _ | .veRem _ | .veScaleb _ | .veLogb _ | .veRint _ | .veNext _ | .veSign _ | .veCvt _ | .veCmp _
  | .veClass _ | .veTotord _ | .veTostr _ | .veFromstr _ | .veMinmax _ | .veAct _ | .veExp2 _ | .veLog2 _
  | .veRsum _ | .veRmax _ | .veRstat _ | .vePsum _ | .veWsum _ | .vePrune _ | .veMaskz _ | .veCrc _ | .veCrcchk _
  | .vePq _ | .vePqrec _ | .veFinish _ | .veParityReplay _ _ _ | .veSliceLeave _ | .moveCopy _ | .moveBytes _
  | .moveFill _ | .moveFinish _ | .rmePut _ | .rmeGet _ | .rmePutFlag _ | .rmeFlagAdd _ | .rmeFlagSet _
  | .rmeAadd _ | .rmeFadd _ | .rmeCas _ | .rmeTimeout _ | .remoteSignalTimeout _ | .ccmPost _ | .mailboxDone _ _ _
  | .packetAck _ => true
  | .packetData _ data => decide (data.length ≤ 4096)
  | .packetRefuse _ _ => true
  | .inboundPut p => p.wf && p.payload.length == p.len.toNat
  | .inboundGet p => p.wf && p.payload.isEmpty
  | .inboundFlagAdd p => p.wf && p.payload.isEmpty
  | .inboundFlagSet p => p.wf && p.payload.isEmpty
  | .inboundAadd p => p.wf && p.payload.length == p.len.toNat
  | .inboundFadd p => p.wf && p.payload.isEmpty
  | .inboundCas p => p.wf && p.payload.length == p.len.toNat
  | .remoteCredit | .memoryCredit _ | .memoryReadResponse _ _ _ | .memoryWriteAck _ _ _ | .memoryRequestTimeout _ _
  | .mempCfgWrite _ _ | .scrubRead _ _ | .spareCopyComplete _ | .pageWalk _ _ _ | .xlatCtxbaseWrite _ _
  | .xlatInvAddress _ _ _ | .xlatInvAddressWalker _ _ _ | .xlatInvContext _ _ | .xlatInvBlock _ | .xlatInvComplete
  | .preloadStart _ _ | .preloadComplete | .wayPowerDown _ _ | .wayCleanComplete _ | .wayPowerUp _ _
  | .wayPowerUpReady _ | .faultRecordWrite | .faultAckWrite _ _ | .parityScan _ _ | .mboxResponseReady => true
  | .odRead _ b => payloadOk b
  | .odWrite _ b => payloadOk b
  | .odAwrite _ b => payloadOk b
  | .serviceEnter _ _ | .serviceEnd _ _ | .regValueRead _ | .regValueWrite _ _ | .nodeAddrWrite _ _
  | .unitServiceEnter _ _ _ | .unitServiceLeave _ _ _ | .unitRetire _ _ _ | .unitServiceEntry _
  | .unitTestComplete _ _ _ => true
  | .imgBlock _ b => decide (b.length ≤ 1036)
  | .imgCommit _ _ b => decide (b.length ≤ 1024)
  | .keyWrite _ _ _ b => decide (b.length ≤ 1024)
  | .spareMapWrite _ _ b => decide (b.length ≤ 1024)
  | .testmodeWrite _ _ _ | .creset _ _ | .enum _ _ _ _ | .assign _ _ _ _ _ | .sensorSample _ | .marginReplan _
  | .voltageStep | .vackInput _ | .vackTimeout | .aclkPipelineEmpty | .aclkCurChange _ | .aclkResume
  | .aclkSwitchLate | .hwComparatorTrip _ _ _ | .recoveryTimer | .snowdropRestart | .tapReset | .idcode | .ijtag
  | .bypass | .schedulerSelect _ | .taskSwitch _ | .transferUnit _ _ | .taskEntryWrite _ _ _ | .wake _ _
  | .armBinding _ _ | .readCause _ _ | .taskResume _ _ | .taskKill _ _ | .transferRetry _ _ | .clearPend _ _
  | .storeBufferDrain _ | .add _ _ _ _ _ | .sub _ _ _ _ _ | .and _ _ _ _ | .or _ _ _ _ | .xor _ _ _ _
  | .shl _ _ _ _ | .shr _ _ _ _ | .shra _ _ _ _ | .stl _ _ _ _ | .stlu _ _ _ _ | .mul _ _ _ _ _ | .mhi _ _ _ _ _
  | .mhiu _ _ _ _ _ | .div _ _ _ _ _ | .divu _ _ _ _ _ | .rem _ _ _ _ _ | .remu _ _ _ _ _ | .addf _ _ _ _ _
  | .subf _ _ _ _ _ | .andf _ _ _ _ | .clz _ _ _ | .ctz _ _ _ | .popc _ _ _ | .min _ _ _ _ | .max _ _ _ _
  | .minu _ _ _ _ | .maxu _ _ _ _ | .sxb _ _ _ | .sxh _ _ _ | .sxw _ _ _ | .zxw _ _ _ | .pick _ _ _ _ _
  | .addi _ _ _ _ _ | .andi _ _ _ _ | .ori _ _ _ _ | .xori _ _ _ _ | .shli _ _ _ _ | .shri _ _ _ _ | .shrai _ _ _ _
  | .stli _ _ _ _ | .stlui _ _ _ _ | .cmpi _ _ _ | .imz _ _ _ _ | .imi _ _ _ _ | .ld1s _ _ _ _ | .ld1z _ _ _ _
  | .ld2s _ _ _ _ | .ld2z _ _ _ _ | .ld4s _ _ _ _ | .ld4z _ _ _ _ | .ld8 _ _ _ _ | .st1 _ _ _ _ | .st2 _ _ _ _
  | .st4 _ _ _ _ | .st8 _ _ _ _ | .aadd _ _ _ _ _ | .aswap _ _ _ _ _ | .acas _ _ _ _ _ | .aand _ _ _ _ _
  | .aor _ _ _ _ _ | .amax _ _ _ _ _ | .amin _ _ _ _ _ | .breq _ _ _ _ | .brne _ _ _ _ | .brlt _ _ _ _
  | .brle _ _ _ _ | .brltu _ _ _ _ | .brleu _ _ _ _ | .brc _ _ _ | .go _ _ | .call _ _ | .gor _ _ _ _
  | .fadd _ _ _ _ _ _ | .fsub _ _ _ _ _ _ | .fmul _ _ _ _ _ _ | .fdiv _ _ _ _ _ _ | .fsqrt _ _ _ _ _
  | .fmin _ _ _ _ _ | .fmax _ _ _ _ _ | .fcmp _ _ _ _ _ | .fcvt _ _ _ _ | .ftoi _ _ _ _
  | .itof _ _ _ _
  | .fneg _ _ _ _ | .fabs _ _ _ _ | .fma _ _ _ _ _ _ | .crr _ _ _ | .crw _ _ _ | .csync _ | .fence _ | .brd _ _ _
  | .bwr _ _ _ | .tend _ | .twait _ | .trap _ _ | .tlbiAddress _ _ | .tlbiAddressWalker _ _ | .tlbiContext _ _
  | .tlbiBlock _ _ | .zline _ _ | .tzero _ _ _ _ _ | .tld _ _ _ _ _ _ _ _ | .tst _ _ _ _ _ _ _ _
  | .tmov _ _ _ _ _ _ _ | .tcvt _ _ _ _ _ _ _ _ | .tmm _ _ _ _ _ _ _ _ _ _ _ _ | .trdg _ _ _ _
  | .twrg _ _ _ _ _ _ _ | .trel _ _ | .ttag _ _ _ | .tfstat _ _ | .tileRow _ | .tileFileRestore _
  | .snowdropFirmwareUp | .chainInputLost | .chainInputRegained | .chainFrameDiscarded _
  | .inboundPacketDiscarded _ | .undefinedEncoding _ _ _ | .instructionFetchFault _ _ => true

end Sys2Proof
end

