-- ==== Sys2Proof/Tests/Slice0.lean ====
section
/-! SUPPORT. Tests: commands that are not well-formed, commands on small states, and witnesses of the hypotheses of the
statements. -/

namespace Sys2Proof.Tests

open Machine

set_option Elab.async false

/-! Well-formedness: a term for each check, which the check refuses. -/

def packet (dest : BitVec 16) (addr : Word) (len : BitVec 16) (payload : List Byte) : Packet :=
  ⟨0, dest, 2, len, addr, 7, 0, payload⟩

theorem test_packet_attr : (Instr.inboundGet { packet 1 0 0 [] with attr := 2 }).wellFormed = false := by decide
theorem test_packet_addr : (Instr.inboundGet (packet 1 0x10000000000 0 [])).wellFormed = false := by decide
theorem test_packet_long : (Instr.inboundPut (packet 1 0 4097 (List.replicate 4097 0))).wellFormed = false := by
  decide +kernel
theorem test_packet_len : (Instr.inboundPut (packet 1 0 2 [0])).wellFormed = false := by decide
theorem test_packet_payload : (Instr.inboundFlagAdd (packet 1 0 0 [0])).wellFormed = false := by decide
theorem test_packet_data : (Instr.packetData 0 (List.replicate 4097 0)).wellFormed = false := by
  decide +kernel
theorem test_line : (Instr.beatTick 0 [.uncorrectable (2 ^ 45)]).wellFormed = false := by decide
theorem test_tag_line : (Instr.beatTick 0 [.tagLost (2 ^ 45)]).wellFormed = false := by decide
theorem test_boot_banks : (Instr.bootPhaseEnd ⟨true, true, [3, 3], [], true, none,
    ⟨.replicate 96 0, .replicate 48 0, 0⟩⟩).wellFormed = false := by decide +kernel
theorem test_boot_spares : (Instr.bootPhaseEnd ⟨true, true, [], [1, 1], true, none,
    ⟨.replicate 96 0, .replicate 48 0, 0⟩⟩).wellFormed = false := by decide +kernel
theorem test_dictionary_long : (Instr.odRead .mailbox (List.replicate 1041 0)).wellFormed = false := by
  decide +kernel
theorem test_image_long : (Instr.imgBlock .mailbox (List.replicate 1037 0)).wellFormed = false := by
  decide +kernel
theorem test_commit_long : (Instr.imgCommit .mailbox ⟨0, 0, 0⟩ (List.replicate 1025 0)).wellFormed = false := by
  decide +kernel
theorem test_key_long : (Instr.keyWrite .mailbox ⟨0, 0, 0⟩ 0 (List.replicate 1025 0)).wellFormed = false := by
  decide +kernel
theorem test_map_long : (Instr.spareMapWrite .mailbox ⟨0, 0, 0⟩ (List.replicate 1025 0)).wellFormed = false := by
  decide +kernel
theorem test_put_wellFormed : (Instr.inboundPut (packet 1 0 1 [0])).wellFormed = true := by decide

/-- No word spells a command (log 14). -/
theorem test_decode : decodeTableWord 32 0 = none := rfl

/-! Small states. -/

/-- The block after BOOT, in a state of 01:R25, its f-cycle at the place of events. -/
def blockIn (st : BlockState) : State :=
  { State.reset with ctl := { Ctl.reset with phase := .none, state := st, fwUp := true, place := 3 } }

/-- The state with its f-cycle at the place of a command (log 1). -/
def placed (i : Instr) (s : State) : State := { s with ctl := { s.ctl with place := placeOf i } }

/-- The state with the answers that the memory ports have given to a command's requester (log 9). -/
def answered (i : Instr) (units : List Nat) (s : State) : State :=
  match requester i with
  | some k => { s with memp := { s.memp with got := units.map fun u => (k, u, .clean) } }
  | none => s

/-- A command finds the state in its turn, and the memory ports have answered every read that it makes of them. -/
def Turn (i : Instr) (s : State) : Prop :=
  (∃ s₀, (livesIn i).now s₀ = true ∧ Rule.finds i s₀ = s) ∧ Rule.Answered i s

/-- A command finds the state, as it is computed. -/
def inPlace (i : Instr) (s : State) : Bool :=
  (livesIn i).now s && s.ctl.place == placeOf i && match requester i with
    | none => true
    | some k => s.memp.got.all (·.1 == k) && s.memp.asks.isEmpty

theorem in_place {i : Instr} {s : State} (h : inPlace i s = true) :
    ∃ s₀, (livesIn i).now s₀ = true ∧ Rule.finds i s₀ = s := by
  unfold inPlace at h
  simp only [Bool.and_eq_true, beq_iff_eq] at h
  obtain ⟨⟨live, place⟩, h⟩ := h
  refine ⟨s, live, ?_⟩
  unfold Rule.finds
  cases hr : requester i with
  | none => exact arrive_of_place place
  | some k =>
    simp only [hr, Bool.and_eq_true] at h
    show portView k (arrive (placeOf i) s) = s
    have own : s.memp.got.filter (·.1 == k) = s.memp.got :=
      List.filter_eq_self.mpr fun x m => List.all_eq_true.mp h.1 x m
    have none_ : s.memp.asks = [] := List.isEmpty_iff.mp h.2
    rw [arrive_of_place place, portView, own, ← none_]

/-- It finds the state, and no read of it is unanswered, as it is computed. -/
def inTurn (i : Instr) (s : State) : Bool :=
  inPlace i s && match requester i, effect i s with | some _, .next t => t.memp.asks.isEmpty | _, _ => true

theorem turn {i : Instr} {s : State} (h : inTurn i s = true) : Turn i s := by
  unfold inTurn at h
  simp only [Bool.and_eq_true] at h
  refine ⟨in_place h.1, ?_⟩
  have h := h.2
  unfold Rule.Answered
  cases hr : requester i with
  | none => exact .inl rfl
  | some k =>
    refine .inr fun t e => ?_
    rw [hr, e] at h
    exact List.isEmpty_iff.mp h

/-- Core 0 runs task 5 at a level, with PC 0x1000 and G1 = 0x100, G2 = 3; changed by f. -/
def running (k : Fin 8) (f : Core → Core) : State :=
  let s := placed (.schedulerSelect 0) (blockIn .run)
  let x := s.cores[(0 : Fin 8)]
  let b := x.banks[k]
  Rule.withCore s 0 (f { x with
    running := some 5, tasks := x.tasks.set 5 { x.tasks[5] with st := .running, level := k },
    banks := x.banks.set k.val { b with g := (b.g.set 1 0x100).set 2 3, pc := 0x1000, occ := some 5 } })

theorem ready {s : State} {c : Fin 8} {t : Byte} {k : Fin 8}
    (h : coreRuns s c.val = true ∧ (getCore s c.val).running = some t ∧ (getTask (getCore s c.val) t).level = k ∧
      (∀ u ∈ (getCore s c.val).xq, u.level ≠ k) ∧ (getTask (getCore s c.val) t).rowFault = none ∧
      (s.cores[c]).lost = none ∧ (Rule.bank s c k).bad = 0) : Rule.Ready s c t k :=
  ⟨⟨h.1, h.2.1, h.2.2.1, h.2.2.2.1, h.2.2.2.2.1⟩, h.2.2.2.2.2.1, h.2.2.2.2.2.2⟩

/-- The state that a command leaves. -/
def after (i : Instr) (s : State) : Option State :=
  match exec i s with
  | .next t => some t
  | _ => none

/-- The fault that a command ends in. -/
def faultOf (i : Instr) (s : State) : Option Fault :=
  match exec i s with
  | .fault f => some f
  | _ => none

/-- A field of the state that a command leaves. -/
def leaves {α : Type} (i : Instr) (s : State) (f : State → α) : Option α := (after i s).map f

def task5 : State := running 3 id

theorem ready3 : Rule.Ready task5 0 5 3 := ready (by decide +kernel)

/-! Integer instructions. -/

theorem witness_CheckedArithmetic : Rule.Ready task5 0 5 3 ∧ Turn (.add 0 3 1 2 .ok) task5 ∧
    Turn (.add 0 3 1 2 .retried) task5 :=
  ⟨ready3, turn (by decide +kernel), turn (by decide +kernel)⟩

theorem witness_RegisterOperations : Rule.Ready task5 0 5 3 ∧ Turn (.pick 0 0xE 3 1 2) task5 ∧ (0xE : BitVec 4) ≠ 0xF :=
  ⟨ready3, turn (by decide +kernel), by decide⟩

/-- -2^63 + -2^63 wraps to 0 with carry and overflow (09:R263). -/
theorem test_addf : leaves (.addf 0 3 1 1 .ok)
    (running 3 fun x => { x with banks := x.banks.set 3 { x.banks[3] with g := x.banks[3].g.set 1 0x8000000000000000 } })
    (fun t => ((Rule.bank t 0 3).g[3], (Rule.bank t 0 3).cs, (Rule.bank t 0 3).pc)) = some (0, 0x7, 0x1004) := by
  decide +kernel

theorem test_div_zero : leaves (.div 0 3 1 0 .ok) task5
    (fun t => ((Rule.bank t 0 3).g[3], (Rule.bank t 0 3).cs)) = some (0, 1) := by decide +kernel

/-- A write of G0 is discarded (09:R256). -/
theorem test_g0 : leaves (.add 0 0 1 2 .ok) task5 (fun t => (Rule.bank t 0 3).g) = some (Rule.bank task5 0 3).g := by
  decide +kernel

theorem witness_BranchesAndJumps : (0x0 : BitVec 4) ≠ 0xF ∧ (0xE : BitVec 4) ≠ 0xF ∧
    inTurn (.go 0 (-1)) task5 = true ∧ inTurn (.gor 0 3 1 4) task5 = true ∧ ((Rule.reg (Rule.bank task5 0 3) 1).toInt + (4 : BitVec 16).toInt) % 4 = 0 := by decide +kernel

/-- A branch is displaced by four times its offset from its own address (09:R260). -/
theorem test_go_back : leaves (.go 0 (-1)) task5 (fun t => (Rule.bank t 0 3).pc) = some 0xFFC := by decide +kernel

/-! Resets, BOOT, beats and edges. -/

theorem noWrites (st : BlockState) : Rule.NoWrites (blockIn st) := by
  constructor
  · intro q; simp [blockIn, State.reset]; rfl
  · intro l h; cases h
  · intro r h; cases h

def held (por wres : Bool) : State :=
  { State.reset with ctl := { Ctl.reset with por := por, wres := wres, place := 3 } }

theorem witness_ResetsBegin : Rule.NoWrites (blockIn .run) ∧ (blockIn .run).ctl.por = false ∧
    (blockIn .run).ctl.wres = false ∧ ((blockIn .run).memp.ilv = 1) ∧ 64 ≤ 64 ∧ 63 < 64 ∧
    inTurn .powerOnResetAssert (blockIn .run) = true ∧ inTurn (.powerGoodFall 2) (blockIn .run) = true ∧
    inTurn (.warmResetAssert 64) (blockIn .run) = true ∧ inTurn .powerOnResetAssert (held true false) = true :=
  ⟨noWrites .run, by decide +kernel⟩

theorem witness_ResetsEnd : (held true false).ctl.por = true ∧ inTurn .powerOnResetRelease (held true false) = true ∧
    (held false true).ctl.wres = true ∧ inTurn .warmResetRelease (held false true) = true := by decide +kernel

/-- An assertion of 63 edges resets nothing (15:R422). -/
theorem test_short_reset : leaves (.warmResetAssert 63) (blockIn .run) (·.ctl.state) = some .run := by decide +kernel

def inPhase (p : BootPhase) (next : Nat) : State :=
  { State.reset with ctl := { Ctl.reset with phase := p, place := 3 }, fuses := { Fuses.reset with next := next } }

def programming (tries : Nat) : State :=
  { blockIn .service with fuses := { Fuses.reset with prog := [⟨148, 1, tries⟩] } }

theorem witness_FuseCommands :
    ((inPhase .b1 1023).fuses.next < 1024 ∧ (inPhase .b1 1023).ctl.phase = .b1 ∧
      inTurn (.fuseReadData 1) (inPhase .b1 1023) = true ∧ inTurn .fuseReadTimeout (inPhase .b1 1023) = true) ∧
    inTurn (.fuseProgramDone true) (programming 1) = true ∧
    (programming 1).fuses.prog = [⟨148, 1, 1⟩] ∧ (148 < 1024) ∧ (1 < 2) ∧ (2 ≤ (2 : Nat)) ∧
    (programming 2).fuses.prog = [⟨148, 1, 2⟩] := by decide +kernel

/-- The third failure gives up the word and raises bit 13 of BOUNDARY (15:R435). -/
theorem test_fuse_gives_up : leaves (.fuseProgramDone true) (programming 2)
    (fun t => (t.fuses.prog.length, t.bnd.flags)) = some (0, 0x2000) := by decide +kernel

def checks (good : Bool) (bad : List (Fin 128)) : BootChecks :=
  ⟨good, good, bad, [], good, none, ⟨.replicate 96 0x100, .replicate 48 0x100, 0⟩⟩

/-- Fuse word 147 with the record of generation 0 as good: the CRC of sixteen words of 0 (15:R436). -/
def spared : State :=
  { inPhase .b1 1024 with fuses := { Fuses.reset with next := 1024, words := (Fuses.reset.words).set 147 0x4128908 } }

theorem witness_BootPhases :
    (spared.ctl.phase = .b1 ∧ 1024 ≤ spared.fuses.next ∧ (spareActive spared).isSome = true) ∧
    ((inPhase .b1 0).ctl.phase = .b1 ∧ (inPhase .b1 0).fuses.next < 1024) ∧
    ((inPhase .b2 1024).ctl.phase = .b2 ∧ (inPhase .b2 1024).ctl.warmBoot = false ∧ (checks true []).romGood = true) ∧
    ((inPhase .b3 1024).ctl.phase = .b3 ∧ (inPhase .b3 1024).ctl.b3Done = false ∧ (checks true []).badBanks = [] ∧
      (inPhase .b3 1024).ctl.state = .boot ∧ (inPhase .b3 1024).sm.spare[0] = none) ∧
    ((inPhase .b4 1024).ctl.phase = .b4 ∧ (checks true []).votedGood = true) ∧ (inPhase .b5 1024).ctl.phase = .b5 ∧
    inTurn (.bootPhaseEnd (checks true [])) spared = true ∧ inTurn (.bootPhaseEnd (checks true [])) (inPhase .b2 1024) = true ∧
    inTurn (.bootPhaseEnd (checks true [])) (inPhase .b3 1024) = true ∧
    inTurn (.bootPhaseEnd (checks true [])) (inPhase .b5 1024) = true := by
  decide +kernel

/-- A spare that fails the march takes no bank (16:R441). -/
theorem test_spare_fails : leaves (.bootPhaseEnd { checks true [5] with badSpares := [0] }) (inPhase .b3 1024)
    (fun t => (t.ctl.phase, t.sm.spareBad[0], t.sm.spare[0], t.sm.spare[1])) = some (.b4, true, none, some 5) := by decide +kernel

theorem test_b1_ends : leaves (.bootPhaseEnd (checks true [])) spared (·.ctl.phase) = some .b2 := by decide +kernel

def cabled (st : BlockState) : State :=
  let s := blockIn st
  { s with bnd := { s.bnd with chainIn := true }, mg := { s.mg with recovery := 1 } }

theorem witness_BoundaryConditions :
    ((cabled .fault).ctl.por = false ∧ (cabled .fault).bnd.chainIn = true ∧ (cabled .fault).bnd.mgRisen = false) ∧
    ((cabled .fault).ctl.state = .fault ∧ (cabled .fault).mg.recovery = 1) ∧ (cabled .run).ctl.state ≠ .fault ∧
    ({ cabled .run with bnd := { (cabled .run).bnd with mgRisen := true } } : State).bnd.mgRisen = true ∧
    inTurn .mgAliveRise (cabled .fault) = true ∧ inTurn .recoveryTimer (cabled .fault) = true ∧
    inTurn (.clockMeasureWindow 140701 160000 false true) (cabled .run) = true := by
  decide +kernel

/-- Flag bit 2 of BOUNDARY beyond 0.5 per cent of 140 MHz, at the boundary and past it (15:R420). -/
theorem test_fclk_band :
    leaves (.clockMeasureWindow 140700 160000 false false) (blockIn .run) (fun t => t.bnd.flags.getLsbD 2) = some false ∧
    leaves (.clockMeasureWindow 140701 160000 false false) (blockIn .run) (fun t => t.bnd.flags.getLsbD 2) = some true := by
  decide +kernel

theorem witness_TestAccessPort : inTurn .ijtag (blockIn .service) = true ∧ inTurn .tapReset (blockIn .run) = true := by
  decide +kernel

theorem witness_BeatsAndLoads : (blockIn .run).ctl.por = false ∧ 699 < 700 ∧
    inTurn (.beatTick 699 []) (placed (.beatTick 699 []) (blockIn .run)) = true ∧
    inTurn (.beatTick 700 []) (placed (.beatTick 700 []) (blockIn .run)) = true ∧
    inTurn (.beatLoad 9) (placed (.beatLoad 9) (blockIn .run)) = true := by decide +kernel

/-- The block in an f-cycle of a beat load, with a dirty line in the block cache and a register and a page known. -/
def upset : State :=
  let s := placed (.beatTick 700 []) (blockIn .run)
  { s with
    beat := { s.beat with loaded := true },
    bc := { s.bc with lines := [⟨0x40, 3, true, false, []⟩] } }

theorem witness_Upsets :
    (upset.ctl.por = false ∧ upset.ctl.wres = false ∧ upset.beat.loaded = true) ∧
    (0x3FFFFF : BitVec 23).toNat * 32 < smBytes upset ∧
    (∃ l, bcFind upset l.line = some l ∧ l.bad = false ∧ l.dirty = true) ∧
    (parityCovered (0x300010 : BitVec 26).toNat = true ∧ (0x300010 : BitVec 26) ∉ upset.gen.parity) ∧
    inTurn (.beatTick 700 [.register 0 3 1]) upset = true ∧ inTurn (.beatTick 700 [.voted none]) upset = true :=
  ⟨by decide +kernel, by decide +kernel, ⟨⟨0x40, 3, true, false, []⟩, by decide +kernel⟩, by decide +kernel⟩

/-- A beat rises by one, but not in the f-cycle of a load (15:R432, 06:R187). -/
theorem test_beat :
    leaves (.beatTick 700 []) (placed .applyIn (blockIn .run)) (·.beat.value) = some 1 ∧
    leaves (.beatTick 700 []) { placed (.beatTick 700 []) (blockIn .run) with beat := { Beat.reset with value := 9, loaded := true } }
      (·.beat.value) = some 9 := by
  decide +kernel

/-- A load after a tick is the f-cycle's only beat value: the tick's f-cycle has ended (15:R432, log 1). -/
theorem test_load_first : leaves (.beatLoad 9) (placed (.beatTick 700 []) (blockIn .run)) (fun t => (t.beat.value, t.ctl.fcycles)) =
    some (9, 1) := by decide +kernel

/-- A register with bad parity faults the instruction that reads it, not one that does not (14:R390). -/
theorem test_upset_register :
    ((leaves (.beatTick 700 [.register 0 3 1]) task5 fun t => t).bind fun t =>
      leaves (.ori 0 3 1 0) t fun u => (u.cores[(0 : Fin 8)].running, (Rule.bank t 0 3).bad)) = some (none, 2) := by
  decide +kernel

theorem noMismatch (st : BlockState) : Rule.NoMismatch (blockIn st) := ⟨rfl, rfl, rfl⟩

theorem noUses (st : BlockState) : Rule.NoUses (blockIn st) := by
  constructor
  · exact (by decide +kernel : ∀ n : Fin 16, (State.reset.opa.inst[n]).jobs = [])
  · intro q f h
    have : ((blockIn st).dq[q]).inflight = [] := by
      have e : ∀ p : Fin 32, (State.reset.dq[p]).inflight = [] := by decide +kernel
      exact e q
    rw [this] at h; cases h

def armed (at_ now : Word) : State :=
  let s := blockIn .config
  { s with gen := { s.gen with applyAt := at_, armed := true }, beat := { s.beat with value := now } }

theorem witness_ApplyEdges :
    let s := placed .applyIn (blockIn .config)
    let w := placed (.applyNow (.reg .host)) (blockIn .config)
    let a := placed .scheduledApply (armed 5 5)
    Rule.NoMismatch s ∧ Rule.NoUses s ∧ (s.gen.extEn = true ∧ s.gen.edged = false ∧ inTurn .applyIn s = true) ∧
    (Rule.Writer w .host ∧ Rule.NoUses w ∧ w.gen.now = false ∧ w.bnd.hostHeld = [] ∧ w.rme.inHeld = [] ∧
      inTurn (.applyNow (.reg .host)) w = true) ∧
    (a.gen.armed = true ∧ a.gen.applyAt.toNat ≤ a.beat.value.toNat ∧ a.gen.edged = false ∧ inTurn .scheduledApply a = true) ∧
    (armed 6 5).beat.value.toNat < (armed 6 5).gen.applyAt.toNat :=
  ⟨⟨rfl, rfl, rfl⟩, noUses .config, by decide +kernel,
    ⟨by unfold Rule.Writer; decide +kernel, noUses .config, by decide +kernel⟩, by decide +kernel, by decide +kernel⟩

/-- CONFIG to RUN at the edge that follows a request (01:R25). -/
theorem test_edge_runs :
    (leaves (.stateRequest (.reg .host) 2) (blockIn .config) (·.gen.reqStaged)) = some 2 ∧
    leaves .applyIn (placed .applyIn { blockIn .config with gen := { Gen.reset with reqStaged := 2 } })
      (fun t => (t.ctl.state, t.gen.applies)) = some (.run, 1) := by
  decide +kernel

/-- A request written after the edge's place waits for the next f-cycle's edge (13:R386, log 1). -/
theorem test_edge_once :
    leaves .applyIn (placed .applyIn { blockIn .config with gen := { Gen.reset with reqStaged := 2, edged := true } })
      (fun t => (t.ctl.state, t.gen.applies)) = some (.config, 0) := by
  decide +kernel

theorem witness_RequestsAndSchedules :
    Rule.Writer (blockIn .run) .host ∧ (Rule.transition .run 3).isSome = true ∧ Rule.transition .run 1 = none ∧
    ((blockIn .run).beat.value.toNat < (1 : Word).toNat) ∧ (0 : Word).toNat ≤ (blockIn .run).beat.value.toNat ∧
    inTurn (.stateRequest (.reg .host) 3) (placed (.stateRequest (.reg .host) 3) (blockIn .run)) = true ∧
    inTurn (.applyArm (.reg .host) 1) (placed (.applyArm (.reg .host) 1) (blockIn .run)) = true := by
  unfold Rule.Writer; decide +kernel

theorem witness_SqcWrites : Rule.SqcAt 0x30 (fun s => s.gen.status) (fun s r => { s with gen := { s.gen with status := r } }) ∧
    Rule.Writer task5 (.core 0) ∧ (task5.gen.status.seq = (0 : Word).extractLsb' 48 16) ∧
    task5.gen.status.seq ≠ (0x1000000000000 : Word).extractLsb' 48 16 ∧ inTurn (.sqcClear (.core 0) 0x30 0) task5 = true :=
  ⟨.gen, by unfold Rule.Writer; decide +kernel⟩

/-- A clear sent before an event of its f-cycle takes effect after it: the event's f-cycle is the next (00:R19, log 1). -/
theorem test_clear_last : leaves (.sqcClear .host 0x30 0) (blockIn .run) (·.ctl.place) = some 17 := by decide +kernel

theorem witness_PlainWrites : Rule.NoMismatch task5 ∧ Rule.Writer task5 (.core 0) ∧
    (0 : Word).extractLsb' 0 32 = task5.gen.testctl ∧ (1 : Word).extractLsb' 0 32 ≠ task5.gen.testctl ∧
    (0x44 : BitVec 26).toNat % 8 ≠ 0 ∧ inTurn (.registerWrite (.core 0) 0x28 1) task5 = true :=
  ⟨⟨rfl, rfl, rfl⟩, by unfold Rule.Writer; decide +kernel⟩

/-- DQ_STO of queue 31 (06:R152). -/
theorem test_last_queue : leaves (.registerWrite .host (Rule.dqReg 31 0x50) 0x11F) (blockIn .run)
    (fun t => (t.dq[(31 : Fin 32)].w, t.dq[(31 : Fin 32)].fast)) = some (31, true) := by decide +kernel

theorem test_keep_stops : faultOf (.registerWrite .host 0x50 1) (blockIn .run) = some .keepBitChanged := by decide +kernel

theorem witness_StagedWrites : Rule.transition .run ((3 : Word).toNat % 8) ≠ none ∧ task5.ctl.state = .run ∧
    Rule.Writer task5 (.core 0) ∧ inTurn (.stagedWrite (.core 0) 0x300010 3) task5 = true := by
  unfold Rule.Writer; decide +kernel

/-- A doorbell of a ring of 2^4 entries: 16 ahead of DONE is taken, 17 is not (06:R165). -/
def ringed (f : Queue → Queue) : State :=
  let s := blockIn .run
  Rule.withQ s 0 (f { s.dq[(0 : Fin 32)] with enable := true, log2size := 4, rbase := 0x10000, cbase := 0x20000 })

theorem test_doorbell :
    leaves (.dqDoorbell .host 0 16) (ringed id) (fun t => t.dq[(0 : Fin 32)].tail) = some 16 ∧
    leaves (.dqDoorbell .host 0 17) (ringed id) (fun t => (t.dq[(0 : Fin 32)].tail, t.dq[(0 : Fin 32)].status.status)) =
      some (0, 8) := by
  decide +kernel

def anyFlight : InFlight := newFlight State.reset 0 ⟨0, 0, none, false, false⟩

theorem witness_QueueControl :
    ((blockIn .run).dq[(0 : Fin 32)].enable = false ∧ fld (0x501 : Word) 24 4 ≤ 5 ∧ fld (0x501 : Word) 16 5 ≤ 16 ∧
      (0x501 : Word).getLsbD 0 = true) ∧
    ((0x500 : Word).getLsbD 0 = false ∧ (blockIn .run).dq[(0 : Fin 32)].inflight = []) ∧ 5 < fld (0x6000001 : Word) 24 4 ∧
    (blockIn .service).ctl.state = .service ∧
    ¬ ((ringed id).dq[(0 : Fin 32)].enable = false ∨ (ringed id).ctl.state = .config ∨
      ((ringed id).dq[(0 : Fin 32)].halted = true ∧ (ringed id).dq[(0 : Fin 32)].inflight = [])) ∧
    ((ringed fun d => { d with halted := true }).dq[(0 : Fin 32)].halted = true) ∧
    ((ringed fun d => { d with inflight := [anyFlight] }).dq[(0 : Fin 32)].inflight ≠ []) ∧
    (let s := placed (.queueHalt .host 0) (blockIn .run)
     Rule.Writer s .host ∧ inTurn (.queueHalt .host 0) s = true ∧ inTurn (.dqCfgWrite .host 0 0 0x501) s = true) ∧
    (let s := placed (.dqDoorbell .host 0 16) (ringed id)
     inTurn (.dqDoorbell .host 0 16) s = true ∧ s.dq[(0 : Fin 32)].enable = true ∧
      Rule.ahead 0 s.dq[(0 : Fin 32)].done ≤ Rule.ahead 16 s.dq[(0 : Fin 32)].done) := by
  unfold Rule.Writer
  decide +kernel

/-- A doorbell of an f-cycle stands before the control write of it (06:R178, log 1): FLUSH takes its TAIL back. -/
theorem test_doorbell_first :
    placeOf (.dqDoorbell .host 0 3) < placeOf (.queueFlush .host 0) ∧
    ((leaves (.dqDoorbell .host 0 3) (ringed fun d => { d with halted := true }) id).bind fun t =>
      leaves (.queueFlush .host 0) t fun u => (u.dq[(0 : Fin 32)].tail, u.ctl.fcycles)) = some (0, 0) := by
  decide +kernel

theorem witness_FlagUpdates :
    let s := placed (.flagWriteSet .host 7 1) (blockIn .hold)
    Rule.NoMismatch s ∧ Rule.Writer s .host ∧ s.flags.upds = [] ∧ inTurn (.flagWriteSet .host 7 1) s = true :=
  ⟨⟨rfl, rfl, rfl⟩, by unfold Rule.Writer; decide +kernel, rfl, by decide +kernel⟩

/-- An update counts in its own f-cycle (06:R181). -/
theorem test_flag_add : leaves (.flagWriteAdd .host 4095 (-1)) (blockIn .run) (flagVal · 4095) = some 0xFFFFFFFF := by
  decide +kernel

/-- The host window behind a read of external memory that waits for its port (15:R430). -/
def waitsHost : State :=
  let s := placed (.hostWindowRead 3 0 1 false) (blockIn .run)
  { s with bnd := { s.bnd with hostHeld := [.read 3 0 1] } }

theorem witness_HostWindow :
    let s := placed (.hostWindowRead 3 0 1 false) (blockIn .run)
    region s ((0x7FFFFFFFFFF : BitVec 44).toNat * 256) = .none ∧
    region s ((0xFFFFFFFFFFF : BitVec 44).toNat * 256) = .remote ∧
    (s.ctl.state ≠ .boot ∧ s.sm.ueWords = [] ∧ s.sm.ceWords = [] ∧ s.bnd.hostHeld = [] ∧
      region s ((0xF0000000 : BitVec 44).toNat * 256) = .stage) ∧
    inTurn (.hostWindowRead 3 0xF0000000 1 false) s = true ∧ inTurn (.hostWindowWrite 0 1 0 true) s = true ∧
    State.reset.ctl.state = .boot ∧
    (let t : State := { waitsHost with bnd := { waitsHost.bnd with
        hwCred := 1, hostHeld := [.read 3 0 1, .read 4 0xF0000000 1] } }
     (hostPerform (.read 3 0 1) (portView 5 t)).memp.asks ≠ [] ∧ region waitsHost ((0xF0000000 : BitVec 44).toNat * 256) ≠ .ctl ∧
      inTurn (.hostWindowRead 4 0xF0000000 1 false) waitsHost = true) := by
  decide +kernel

theorem witness_HostTimeout : waitsHost.bnd.hostHeld = [] ++ .read 3 0 1 :: [] ∧
    (∀ x f, HostReq.read 3 x f ∉ ([] ++ [] : List HostReq)) := ⟨rfl, by simp⟩

/-- A later read waits its turn behind one that waits for its port (15:R430). -/
theorem test_host_order : leaves (.hostWindowRead 4 0xF0000000 1 false) waitsHost (fun t => (t.bnd.hostHeld, t.bnd.hostOut)) =
    some ([.read 3 0 1, .read 4 0xF0000000 1], []) := by decide +kernel

/-! Queues and engines: context 0 is mapped onto itself, 1 GiB from 0. -/

def pageOf : XRes → Option (Nat × BitVec 3)
  | .ok pa attr => some (pa, attr)
  | _ => none

def eventOf : XRes → Option (BitVec 16)
  | .fault ev => some ev
  | _ => none

theorem ok_of {x : XRes × State} {pa : Nat} {attr : BitVec 3} (h : pageOf x.1 = some (pa, attr)) : x = (.ok pa attr, x.2) := by
  obtain ⟨r, s⟩ := x
  cases r <;> simp_all [pageOf]

theorem fault_of {x : XRes × State} {ev : BitVec 16} (h : eventOf x.1 = some ev) : x = (.fault ev, x.2) := by
  obtain ⟨r, s⟩ := x
  cases r <;> simp_all [eventOf]

def isOk {α : Type} : EngRes α → Bool
  | .ok _ => true
  | _ => false

def failure {α : Type} : EngRes α → Option Ended
  | .fail e => some e
  | _ => none

theorem engine_ok {α : Type} {x : EngRes α × State} (h : isOk x.1 = true) : ∃ a, x = (.ok a, x.2) := by
  obtain ⟨r, s⟩ := x
  cases r <;> simp_all [isOk]

theorem engine_fails {α : Type} {x : EngRes α × State} {e : Ended} (h : failure x.1 = some e) : x = (.fail e, x.2) := by
  obtain ⟨r, s⟩ := x
  cases r <;> simp_all [failure]

/-- A leaf of 1 GiB at 0, write-back, marked, readable, writable and executable. -/
def leaf : TlbEntry := ⟨0, 0, 1, 0, 0x7E3⟩

def mapped (s : State) : State := { s with xlat := { s.xlat with tlb := [leaf] } }

def desc (cls op extra : Nat) : Desc := BitVec.ofNat 1024 (op + cls * 2 ^ 8 + extra)

def f0 (d : Desc) : Fetched := ⟨0, d, none, false, false⟩

/-- Queue 0 of a class with a descriptor fetched. -/
def headed (cls : Nat) (d : Desc) : State :=
  placed (.predicateTest 0) (mapped (ringed fun e => { e with cls := BitVec.ofNat 4 cls, tail := 1, fetched := some (f0 d) }))

/-- Queue 0 with a descriptor in flight, changed by f. -/
def flying (cls : Nat) (d : Desc) (f : InFlight → InFlight) : State :=
  mapped (ringed fun e => { e with
    cls := BitVec.ofNat 4 cls, tail := 1, head := 1, inflight := [f (newFlight (ringed id) 0 (f0 d))] })

theorem slot_open (s : State) (d : Queue) (pa : Nat) (attr : BitVec 3)
    (h : pageOf (xlatEngine d.ctx (d.cbase.toNat + (0 : BitVec 32).toNat % 2 ^ d.log2size.toNat * 32) .engWrite s).1 =
      some (pa, attr)) (r : region s pa = .ext) :
    Rule.SlotOpen s (xlatEngine d.ctx (d.cbase.toNat + (0 : BitVec 32).toNat % 2 ^ d.log2size.toNat * 32) .engWrite s).2
      d 0 pa attr := ⟨ok_of h, .inl r⟩

def waiting : State := answered (.descriptorFetch 0) [0x400, 0x401] (mapped (ringed fun e => { e with tail := 1 }))

def readAhead : State := mapped (ringed fun e => { e with tail := 1, ahead := [⟨0, none, desc 0 1 0⟩] })

theorem witness_HeadsOfQueues : canFetch waiting 0 = true ∧ canFetch (ringed id) 0 = false ∧
    (∀ x ∈ (waiting.dq[(0 : Fin 32)]).ahead, x.idx ≠ (waiting.dq[(0 : Fin 32)]).head) ∧
    pageOf (xlatEngine 0 0x10000 .engRead waiting).1 = some (0x10000, 0) ∧
    (readAccess false 0x10000 128 waiting).1 ≠ .uncorrectable ∧ inTurn (.descriptorFetch 0) waiting = true ∧
    (canFetch readAhead 0 = true ∧ ((readAhead.dq[(0 : Fin 32)]).ahead.find? (·.idx == 0)).map (·.fail) = some none ∧
      inTurn (.descriptorFetch 0) readAhead = true) := by
  decide +kernel

/-- The bytes read before the slot became the head are the ones used (06:R168). -/
theorem test_ahead : leaves (.descriptorFetch 0) readAhead (fun t => (t.dq[(0 : Fin 32)]).fetched.map (·.desc)) =
    some (some (desc 0 1 0)) := by decide +kernel

/-- A read that no port has answered is asked for, and nothing else happens (15:R425). -/
theorem test_fetch_asks : leaves (.descriptorFetch 0) { waiting with memp := { waiting.memp with got := [] } }
    (fun t => ((t.dq[(0 : Fin 32)]).fetched.isSome, t.memp.waiting.map fun r => (r.unit, r.waiter))) =
    some (false, [(0x401, .command 32), (0x400, .command 32)]) := by decide +kernel

/-- Bit 16: the descriptor is predicated. Its wait word, comparison 0 on flag 0, holds (06:R156). -/
def predicated : State := headed 0 (desc 0 0 0x10000)

theorem witness_PredicateTest : readyHead predicated 0 = some (f0 (desc 0 0 0x10000)) ∧ dPred (desc 0 0 0x10000) = true ∧
    predicated.dq[(0 : Fin 32)].inflight = [] ∧ beatMet predicated (desc 0 0 0x10000) = true ∧
    barrierMet predicated 0 (f0 (desc 0 0 0x10000)) = true ∧ waitHolds predicated 0 0 0 = true ∧
    inTurn (.predicateTest 0) predicated = true := by
  decide +kernel

/-- Bit 19: a barrier. -/
def barred_ : State := headed 0 (desc 0 0 0x80000)

theorem witness_BarrierEnter : barred_.dq[(0 : Fin 32)].fetched = some (f0 (desc 0 0 0x80000)) ∧
    canEnter barred_ 0 = true ∧ inTurn (.barrierEnter 0) barred_ = true ∧
    (∀ p : Fin 32, p < 0 → ¬ (canEnter barred_ p.val = true ∧ barScope barred_ p.val &&& barScope barred_ 0 ≠ 0)) := by
  decide +kernel

def completing (dl : Nat) (now : Word) (e : Ended) : State :=
  let s := flying 0 (desc 0 0 dl) fun f => { f with desc := desc 1 0 dl, ended := some e }
  { s with beat := { s.beat with value := now } }

/-- A deadline of beat 5 (06:R160). -/
def by5 : Nat := 0x100000 + 5 * 2 ^ 256

theorem witness_OldestCompletes (dl : Nat) (now : Word) (e : Ended)
    (h : (dl = 0 ∧ now = 0 ∧ (e = endOk ∨ e = ⟨dqOperand, 0, 0, 0, false⟩)) ∨ (dl = by5 ∧ now = 6 ∧ e = endOk)) :
    let s := completing dl now e
    ∃ (u : State) (f : InFlight) (pa : Nat) (attr : BitVec 3), Rule.SlotOpen s u (s.dq[(0 : Fin 32)]) f.idx pa attr ∧
      (s.dq[(0 : Fin 32)]).inflight = [f] ∧ f.ended = some e ∧ f.missed = false ∧ s.ctl.state = .run ∧
      (s.dq[(0 : Fin 32)]).fetched = none ∧ (s.dq[(0 : Fin 32)]).head ≠ f.idx ∧ (s.dq[(0 : Fin 32)]).halting = false ∧
      dClass f.desc ≠ 0 ∧ Rule.NoMismatch s ∧ Rule.LocalSignal f.desc ∧
      (decide (dHasDeadline f.desc = true ∧ dDeadline f.desc < s.beat.value.toNat) = decide (dl = by5)) ∧
      inTurn (.descriptorComplete 0) s = true := by
  rcases h with ⟨rfl, rfl, rfl | rfl⟩ | ⟨rfl, rfl, rfl⟩ <;>
  exact ⟨_, _, 0x20000, 0, slot_open _ _ _ _ (by decide +kernel) (by decide +kernel), rfl, rfl, rfl, rfl, rfl,
    by decide +kernel, rfl, by decide +kernel, ⟨rfl, rfl, rfl⟩, .inl (by decide +kernel), by decide +kernel, by decide +kernel⟩

/-- The slot of the late one opens after its miss has been detected. -/
theorem witness_OldestLate : ∃ u f, Rule.SlotOpen (missFlight 0 f (completing by5 6 endOk)) u
    ((completing by5 6 endOk).dq[(0 : Fin 32)]) 0 0x20000 0 ∧ ((completing by5 6 endOk).dq[(0 : Fin 32)]).inflight = [f] :=
  ⟨_, _, slot_open _ _ _ _ (by decide +kernel) (by decide +kernel), rfl⟩

/-- A descriptor whose engine was done in time misses its deadline if it completes after it (06:R160, R186). -/
theorem test_completes_late : leaves (.descriptorComplete 0) (completing by5 6 endOk)
    (fun t => (t.beat.misses, (t.dq[(0 : Fin 32)]).haltEvent)) = some (1, dqDeadline) := by decide +kernel

/-- The record of index 0 in a ring of 2^4 carries phase 1 (06:R176). -/
theorem test_record_phase : leaves (.descriptorComplete 0) (completing 0 0 endOk)
    (fun t => (Memory.get t.mem 0x20006, t.dq[(0 : Fin 32)].done)) = some (1, 1) := by decide +kernel

def refused : State :=
  placed (.fetchEventComplete 0) (headed 0 (desc 0 0 0) |> fun s => Rule.withQ s 0 { s.dq[(0 : Fin 32)] with
    fetched := some { f0 (desc 0 0 0) with event := some ⟨dqOpcode, 0, 0xFF, 0, false⟩ } })

theorem witness_FetchEventsComplete : ∃ (u : State) (f : Fetched) (e : Ended),
    refused.dq[(0 : Fin 32)].fetched = some f ∧ f.event = some e ∧ e.event ≠ 0 ∧ f.idx = refused.dq[(0 : Fin 32)].head ∧
    refused.dq[(0 : Fin 32)].inflight = [] ∧ refused.dq[(0 : Fin 32)].halted = false ∧ Rule.NoMismatch refused ∧
    Rule.SlotOpen refused u refused.dq[(0 : Fin 32)] f.idx 0x20000 0 ∧ inTurn (.fetchEventComplete 0) refused = true :=
  ⟨_, _, _, rfl, rfl, by decide +kernel, by decide +kernel, by decide +kernel, by decide +kernel, ⟨rfl, rfl, rfl⟩,
    slot_open _ _ _ _ (by decide +kernel) (by decide +kernel), by decide +kernel⟩

theorem witness_NullDescriptors (op : Nat) (h : op = 0 ∨ op = 1) :
    let s := headed 0 (desc 0 op 0)
    ∃ (u : State) (f : Fetched), startHead s 0 0 op = some f ∧ s.dq[(0 : Fin 32)].cls = 0 ∧ s.dq[(0 : Fin 32)].inflight = [] ∧
      s.dq[(0 : Fin 32)].signalled = [] ∧ Rule.NoMismatch s ∧ Rule.LocalSignal f.desc ∧
      Rule.SlotOpen (beginFlight 0 f { newFlight s 0 f with ended := some endOk } s) u s.dq[(0 : Fin 32)] f.idx 0x20000 0 ∧
      inTurn (if op = 0 then .nullNop 0 else .nullFlags 0) s = true := by
  rcases h with rfl | rfl
  · exact ⟨_, f0 (desc 0 0 0), by decide +kernel, by decide +kernel, by decide +kernel, by decide +kernel, ⟨rfl, rfl, rfl⟩,
      .inl (by decide +kernel), slot_open _ _ _ _ (by decide +kernel) (by decide +kernel), by decide +kernel⟩
  · exact ⟨_, f0 (desc 0 1 0), by decide +kernel, by decide +kernel, by decide +kernel, by decide +kernel, ⟨rfl, rfl, rfl⟩,
      .inl (by decide +kernel), slot_open _ _ _ _ (by decide +kernel) (by decide +kernel), by decide +kernel⟩

def timed : Desc := desc 0 0 by5

def atBeat (s : State) (n : Word) : State := { s with beat := { s.beat with value := n } }

theorem witness_DeadlineMisses : dHasDeadline timed = true ∧
    (dDeadline timed < (atBeat (flying 0 timed id) 6).beat.value.toNat) ∧
    ((atBeat (flying 0 timed id) 6).dq[(0 : Fin 32)].inflight.map (fun f => (f.idx, f.missed, f.ended)) = [(0, false, none)]) ∧
    ((atBeat (headed 0 timed) 6).dq[(0 : Fin 32)].fetched.map (fun f => (f.idx, f.event)) = some (0, none)) ∧
    ((atBeat (headed 0 timed) 6).dq[(0 : Fin 32)].inflight = []) ∧
    inTurn (.deadlineMiss 0 0) (atBeat (flying 0 timed id) 6) = true ∧
    inTurn (.deadlineMiss 0 0) (placed (.deadlineMiss 0 0) (atBeat (headed 0 timed) 6)) = true := by
  decide +kernel

/-- Its own beat is in time (06:R186). -/
theorem test_in_time :
    leaves (.deadlineMiss 0 0) (atBeat (flying 0 timed id) 5) (·.beat.misses) = some 0 ∧
    leaves (.deadlineMiss 0 0) (atBeat (flying 0 timed id) 6) (·.beat.misses) = some 1 := by
  decide +kernel

/-- A head that waits for flag 3 to equal 1, which only its own signal would set (06:R188). -/
def stuck : State := headed 0 (desc 0 0 (3 * 2 ^ 64 + 1 * 2 ^ 76 + 1 * 2 ^ 96 + (3 + 1 * 2 ^ 12 + 0xFFFF * 2 ^ 16 + 1 * 2 ^ 32) * 2 ^ 128))

theorem witness_Deadlocks : deadlocked stuck = [(0, 3)] ∧ deadlocked waiting = [] ∧
    inTurn .deadlockDeclare stuck = true := by decide +kernel

theorem witness_StartConditions : ∃ f, startHead (headed 0 (desc 0 0 0)) 0 0 0 = some f := ⟨f0 (desc 0 0 0), by decide +kernel⟩

/-- Operands A, B and C at 0x1000, 0x2000 and 0x3000, one element each, of format fmt (06:R161). -/
def operands (fmt : Nat) : Nat :=
  (0x1000 + fmt * 2 ^ 48) * 2 ^ 320 + (0x2000 + fmt * 2 ^ 48) * 2 ^ 512 + (0x3000 + fmt * 2 ^ 48) * 2 ^ 704

/-- VE_ADD of one FP32 element. -/
def vAdd : Desc := desc 2 1 (operands 0x12)

/-- 1.5 at 0x1000 and 2.25 at 0x2000. -/
def withData (s : State) : State :=
  { s with mem := Memory.puts [] (cellsAt 0x1000 (natLe 0x3FC00000 4) ++ cellsAt 0x2000 (natLe 0x40100000 4)) }

/-- Queue 0 with a VE_ADD fetched, its data read. -/
def adds : State := answered (.veAdd 0) [0x40, 0x80, 0xC0] (withData (headed 2 vAdd))

theorem witness_VectorStarts : Rule.VeCommand 0 1 (.veAdd 0) ∧ startHead adds 0 2 1 = some (f0 vAdd) ∧
    adds.dq[(0 : Fin 32)].cls = 2 ∧ Rule.LocalSignal vAdd ∧ veInService adds ≠ 0 ∧ veTable adds vAdd = none ∧
    (∃ a, vePrepare 0 0 0 vAdd adds = (.ok a, (vePrepare 0 0 0 vAdd adds).2)) ∧ Turn (.veAdd 0) adds :=
  ⟨.add, by decide +kernel, by decide +kernel, .inl (by decide +kernel), by decide +kernel, by decide +kernel,
    engine_ok (by decide +kernel), turn (by decide +kernel)⟩

/-- 1.5 + 2.25 = 3.75 is what VE_FINISH writes (07:R201). -/
theorem test_ve_add : leaves (.veAdd 0) adds (fun t => (t.dq[(0 : Fin 32)].inflight.flatMap (·.writes)).flatMap (·.cells)) =
    some (cellsAt 0x3000 (natLe 0x40700000 4)) := by decide +kernel

/-- A VE activation with table 0, whose breakpoints are not in order. -/
def vAct : Desc := desc 2 0x14 (operands 0x12 + 8 * 2 ^ 896)

def disordered : State :=
  let s := headed 2 vAct
  { s with opa := { s.opa with act := s.opa.act.set 0 ((s.opa.act[0]).set 1 { s.opa.act[0][1] with b := 0x40000000 }) } }

def noSlices : State :=
  let s := headed 2 vAdd
  { s with svc := { s.svc with ve := 0xFF } }

def unmapped (s : State) : State := { s with xlat := { s.xlat with tlb := [] } }

/-- A mismatch at an offset holds its region (13:R388). -/
def mismatched (off : BitVec 26) (s : State) : State := { s with gen := { s.gen with parity := [off] } }

theorem witness_VectorStartsFail :
    startHead (blockIn .run) 0 2 1 = none ∧
    (startHead noSlices 0 2 1 = some (f0 vAdd) ∧ veInService noSlices = 0) ∧
    (startHead disordered 0 2 0x14 = some (f0 vAct) ∧ veInService disordered ≠ 0 ∧
      (veTable disordered vAct).map (fun t => tableOk t.2) = some false) ∧
    (startHead (unmapped adds) 0 2 1 = some (f0 vAdd) ∧
      failure (vePrepare 0 0 0 vAdd (unmapped adds)).1 = some (endWith dqXlat 1 0x1000 xlNotPresent)) ∧
    (startHead (mismatched 0x700000 (unmapped adds)) 0 2 1 = some (f0 vAdd) ∧
      isOk (vePrepare 0 0 0 vAdd (mismatched 0x700000 (unmapped adds))).1 = false ∧
      failure (vePrepare 0 0 0 vAdd (mismatched 0x700000 (unmapped adds))).1 = none) ∧
    inTurn (.veAdd 0) noSlices = true ∧ inTurn (.veAct 0) disordered = true ∧ inTurn (.veAdd 0) (unmapped adds) = true ∧
    inTurn (.veAdd 0) (mismatched 0x700000 (unmapped adds)) = true := by
  decide +kernel

def computed (cls : Nat) (d : Desc) : State :=
  flying cls d fun f => { f with writes := [⟨3, 0x3000, false, [(0x3000, 1)]⟩], count := 1 }

theorem witness_EngineFinishes (cls op : Nat) (h : (cls = 2 ∧ op = 1) ∨ (cls = 3 ∧ op = 3)) :
    let s := computed cls (desc cls op (operands 0x12))
    (s.dq[(0 : Fin 32)].inflight.map fun f => (f.ended, f.posted, dInstance f.desc)) = [(none, false, 0)] ∧
    (oldestOf s 0 cls).isSome = true ∧ readsOut s 0 0 = false ∧
    isOk (retranslate 0 [⟨3, 0x3000, false, [(0x3000, 1)]⟩] s).1 = true ∧ region s 0x3000 = .ext ∧
    inTurn (.veFinish 0) s = true ∧ inTurn (.moveFinish 0) s = true := by
  rcases h with ⟨rfl, rfl⟩ | ⟨rfl, rfl⟩ <;> decide +kernel

theorem witness_VectorParity : inTurn (.veParityReplay 0 0 5) (computed 2 vAdd) = true ∧ (oldestOf (computed 2 vAdd) 0 2).map (·.posted) = some false ∧
    (veInService (computed 2 vAdd)).getLsbD 0 = true ∧ ((computed 2 vAdd).svc.auto = 1 ∧ 0 + 1 < (computed 2 vAdd).svc.veLimit.toNat) ∧ (computed 2 vAdd).rme.held = [] ∧
    ((oldestOf (computed 2 (desc 2 1 (operands 0x12 + 0x20000))) 0 2).map fun f => (dReplay f.desc, f.attempts)) =
      some (true, 1) := by
  decide +kernel

def copies : State := answered (.moveCopy 0) [0x40, 0x80, 0xC0] <| withData (headed 3 (desc 3 1 (operands 0x12)))

theorem witness_MoveStarts : Rule.MoveCommand 0 1 (.moveCopy 0) ∧ copies.dq[(0 : Fin 32)].cls = 3 ∧
    copies.dq[(0 : Fin 32)].inst.toNat = 0 ∧ startHead copies 0 3 1 = some (f0 (desc 3 1 (operands 0x12))) ∧
    isOk (movePrepare 0 0 0 (desc 3 1 (operands 0x12)) copies).1 = true ∧
    failure (movePrepare 0 0 0 (desc 3 1 (operands 0x12)) (unmapped copies)).1 = some (endWith dqXlat 1 0x1000 xlNotPresent) ∧
    (isOk (movePrepare 0 0 0 (desc 3 1 (operands 0x12)) (mismatched 0x700000 (unmapped copies))).1 = false ∧
      failure (movePrepare 0 0 0 (desc 3 1 (operands 0x12)) (mismatched 0x700000 (unmapped copies))).1 = none) ∧
    inTurn (.moveCopy 0) copies = true ∧ inTurn (.moveCopy 0) (unmapped copies) = true :=
  ⟨.copy, by decide +kernel⟩

/-- Node 1, with the second gigabyte of context 0 in a window on node 3. -/
def remotely (s : State) : State :=
  { s with
    xlat := { s.xlat with tlb := [leaf, ⟨0, 0x40000000, 1, 0x8000000000000, 0x7E3⟩] },
    rme := { s.rme with self := 1, txRoom := 8192, win := s.rme.win.set 0 ⟨true, 3⟩ } }

/-- RME_FLAG_ADD and RME_FLAG_SET of flag 4095 of node 3 (07:R223). -/
def flagOp (set : Bool) : Desc := desc 4 (if set then 5 else 4) ((0xFFF + 3 * 2 ^ 16 + 9 * 2 ^ 32) * 2 ^ 896)

theorem witness_RemoteFlagsStart : ∀ set : Bool,
    startHead (remotely (headed 4 (flagOp set))) 0 4 (if set then 5 else 4) = some (f0 (flagOp set)) ∧
    (remotely (headed 4 (flagOp set))).rme.self ≠ 0xFFFF ∧ (remotely (headed 4 (flagOp set))).rme.out = [] ∧
    (remotely (headed 4 (flagOp set))).rme.unsent = [] ∧ (∀ r ∈ (remotely (headed 4 (flagOp set))).rme.out ++ (remotely (headed 4 (flagOp set))).rme.linger, r.q ≠ 0) ∧
    (remotely (headed 4 (flagOp set))).rme.txq = [] ∧ (remotely (headed 4 (flagOp set))).rme.txOff = 0 ∧
    36 ≤ (remotely (headed 4 (flagOp set))).rme.txRoom ∧ (dSignal (flagOp set)).op = 0 ∧
    inTurn (if set then .rmeFlagSet 0 else .rmeFlagAdd 0) (remotely (headed 4 (flagOp set))) = true := by
  decide +kernel

/-- The put of one FP32 element to the first byte of the window. -/
def put_ (op : Nat) : Desc :=
  desc 4 op ((0x1000 + 0x12 * 2 ^ 48) * 2 ^ 320 + (0x40000000 + 0x12 * 2 ^ 48) * 2 ^ 704)

def putting (op : Nat) : State := answered (.rmePut 0) [0x40] (remotely (withData (headed 4 (put_ op))))

def planned (op : Nat) : EngRes RmePlan := (rmePlan 0 0 0 (put_ op) (putting op)).1

def planOf : EngRes RmePlan → Option (Nat × Bool)
  | .ok p => some (p.data.length, p.flag.isSome)
  | _ => none

theorem witness_RemoteTransfersStart : Rule.RmeCommand 0 1 (.rmePut 0) ∧
    startHead (putting 1) 0 4 1 = some (f0 (put_ 1)) ∧ startHead (putting 3) 0 4 3 = some (f0 (put_ 3)) ∧
    planOf (planned 1) = some (1, false) ∧ planOf (planned 3) = some (1, true) ∧ (withData (headed 4 (put_ 1))).rme.self = 0xFFFF ∧
    (failure (rmePlan 0 0 0 (put_ 1) (unmapped (putting 1))).1).isSome = true ∧
    (putting 1).rme.unsent = [] ∧ (putting 1).rme.txOff = 0 ∧ inTurn (.rmePut 0) (putting 1) = true ∧
    inTurn (.rmePutFlag 0) (putting 3) = true ∧ inTurn (.rmePut 0) (withData (headed 4 (put_ 1))) = true :=
  ⟨.put, by decide +kernel⟩

def asked (kind : OutKind) : State :=
  let s := remotely (flying 4 (put_ 1) id)
  { s with rme := { s.rme with out := [⟨7, 3, 0, 0, kind, 0x40000000, 1⟩] } }

theorem witness_RemoteAnswers :
    (asked .put).rme.out.all (fun o => o.txid ≠ 8) = true ∧
    ((asked .put).rme.out.find? (·.txid == 7)).map (·.kind) = some .put ∧
    ((asked (.signal 9)).rme.out.find? (·.txid == 7)).map (·.kind) = some (.signal 9) ∧
    (asked .put).rme.held = [] ∧ (asked .put).rme.unsent = [] ∧ (asked .put).rme.txq = [] ∧
    (∀ n : Fin 16, ((asked .put).opa.inst[n]).jobs = []) ∧
    ((asked .put).dq[(0 : Fin 32)].inflight.map fun f => (f.idx, f.ended, dClass f.desc)) = [(0, none, 4)] ∧
    ((asked (.get [⟨3, 0x3000, false, [(0x3000, 0)]⟩])).rme.out.find? (·.txid == 7)).map (·.kind) =
      some (.get [⟨3, 0x3000, false, [(0x3000, 0)]⟩]) ∧
    isOk (retranslate 0 (fillWrites [⟨3, 0x3000, false, [(0x3000, 0)]⟩] [5]) (asked .put)).1 = true ∧
    inTurn (.packetAck 7) (asked .put) = true ∧ inTurn (.packetRefuse 7 1) (asked .put) = true ∧
    inTurn (.packetData 7 [5]) (asked (.get [⟨3, 0x3000, false, [(0x3000, 0)]⟩])) = true := by
  decide +kernel

/-- The last acknowledgement ends the descriptor (07:R226). -/
theorem test_ack_ends : leaves (.packetAck 7) (asked .put)
    (fun t => (t.rme.out.length, t.dq[(0 : Fin 32)].inflight.map (·.ended))) = some (0, [some endOk]) := by decide +kernel

def limited (l : Nat) (now : Word) : State :=
  atBeat (remotely (flying 4 (put_ 1) fun f => { f with limit := some l })) now

theorem witness_RemoteTimeouts :
    ((limited 5 6).dq[(0 : Fin 32)].inflight.map fun f => (dClass f.desc, f.ended, f.limit)) = [(4, none, some 5)] ∧
    (5 < (limited 5 6).beat.value.toNat) ∧ ((∀ n : Fin 16, ((limited 5 6).opa.inst[n]).jobs = [])) ∧
    ((asked (.signal 9)).rme.out.map fun r => (r.txid, isSignal r.kind, r.limit)) = [(7, true, 1)] ∧
    inTurn (.rmeTimeout 0) (limited 5 6) = true ∧ inTurn (.remoteSignalTimeout 7) (atBeat (asked (.signal 9)) 2) = true ∧
    ((limited 5 6).rme.held = [] ∧ (limited 5 6).rme.txq = [] ∧ (limited 5 6).rme.unsent = []) ∧
    (1 < (atBeat (asked (.signal 9)) 2).beat.value.toNat) ∧ ((atBeat (asked (.signal 9)) 1).beat.value.toNat ≤ 1) := by
  decide +kernel

def queued (op : Byte) (room : Nat) (n : Nat) : State :=
  let s := remotely (blockIn .run)
  { s with rme := { s.rme with txRoom := room, txq := [⟨op, packet 3 0 0 (List.replicate n 0), 0⟩] } }

theorem witness_RemoteCredits : (blockIn .run).rme.txq = [] ∧ inTurn .remoteCredit (blockIn .run) = true ∧
    (isRequest 0x81 = false ∧ (packetBytes ⟨0x81, packet 3 0 0 [], 0⟩).length ≤ (queued 0x81 0 0).rme.txRoom + 1152 ∧
      inTurn .remoteCredit (queued 0x81 0 0) = true) ∧
    ((queued 1 0 4096).rme.txRoom + 1152 < (packetBytes ⟨1, packet 3 0 0 (List.replicate 4096 0), 0⟩).length ∧
      inTurn .remoteCredit (queued 1 0 4096) = true) ∧
    (let s : State := { asked .put with rme := { (asked .put).rme with txq := [⟨1, { packet 3 0 0 [] with txid := 7 }, 0⟩] } }
     isRequest 1 = true ∧ s.rme.txOff = 0 ∧
      (s.rme.out.find? fun r => r.txid == 7 && !isSignal r.kind).isSome = true ∧ inTurn .remoteCredit s = true) := by
  decide +kernel

/-- Aperture 0 of 1 MiB at 0, for both directions. -/
def open_ (flagin : Bool) : State :=
  let s := placed (.inboundPut (packet 1 0 0 [])) (remotely (blockIn .run))
  { s with rme := { s.rme with
    self := 1, flagin := flagin, txRoom := 8192, inb := s.rme.inb.set 0 ⟨true, true, 20, 0⟩ } }

theorem inward (flagin : Bool) (p : Packet) (h : p.dest = 1) : Rule.Inward (open_ flagin) p :=
  ⟨⟨rfl, rfl⟩, ⟨by cases flagin <;> decide +kernel, h⟩, .inr (.inl (by cases flagin <;> rfl)), ⟨rfl, rfl, rfl⟩⟩

theorem witness_InboundFlags : Rule.StreamOpen (open_ true) 36 ∧ Rule.Inward (open_ true) (packet 1 0xFFF 0 []) ∧
    (open_ true).rme.flagin = true ∧ (open_ false).rme.flagin = false ∧ (packet 2 0 0 []).dest ≠ (open_ true).rme.self ∧
    (blockIn .run).rme.self = 0xFFFF ∧ Turn (.inboundFlagAdd (packet 1 0xFFF 0 [])) (open_ true) ∧
    Turn (.inboundPacketDiscarded .dest) (open_ true) :=
  ⟨⟨rfl, rfl, by decide +kernel⟩, inward _ _ rfl, rfl, rfl, by decide +kernel, rfl, turn (by decide +kernel),
    turn (by decide +kernel)⟩

/-- An acknowledgement of 36 bytes leaves (15:R427, R428). -/
theorem test_inbound_flag : leaves (.inboundFlagAdd { packet 1 0xFFF 0 [] with arg := 9 }) (open_ true)
    (fun t => (flagVal t 0xFFF, t.rme.tx.length, t.rme.tx.take 1)) = some (9, 36, [0x81]) := by decide +kernel

theorem witness_InboundMemory : Rule.Inward (open_ true) (packet 1 0xFFFFC 4 [1, 0, 0, 0]) ∧ Rule.Sound (open_ true) ∧
    Rule.StreamOpen (open_ true) 4132 ∧
    (region (open_ true) 0xFFFFC = .ext ∧ ∀ k < 4, region (open_ true) (0xFFFFC + k) = region (open_ true) 0xFFFFC) ∧
    granted (open_ true) 0xFFFFC 4 true true = true ∧ granted (open_ true) 0xFFFFD 4 true false = false ∧
    flagTarget (packet 1 0xFFFFC 4 [1, 0, 0, 0]) 4 = none ∧ Turn (.inboundPut (packet 1 0xFFFFC 4 [1, 0, 0, 0])) (open_ true) :=
  ⟨inward _ _ rfl, ⟨rfl, ⟨rfl, fun x h => by cases h⟩, fun l h => by cases h⟩, ⟨rfl, rfl, by decide +kernel⟩, by decide +kernel,
    by decide +kernel, by decide +kernel, by decide +kernel, turn (by decide +kernel)⟩

/-- An atomic whose unit has been read at its port. -/
def atomic (units : List Nat) : State :=
  { open_ true with memp := { (open_ true).memp with got := units.map fun u => (16, u, .clean) } }

theorem witness_InboundAtomics (op : Byte) (h : op = 5 ∨ op = 6 ∨ op = 7) :
    let p := packet 1 0xFFFFC 4 [1, 0, 0, 0]
    (inboundAtomic op p (portView 16 (Rule.received 4 (atomic [0x3FFE, 0x3FFF])))).memp.asks = [] ∧ (atomic []).rme.inHeld = [] ∧
    (inboundAtomic op p (portView 16 (Rule.received 4 (atomic [])))).memp.asks ≠ [] ∧
    inTurn (.inboundCas p) (atomic []) = true := by
  rcases h with rfl | rfl | rfl <;> decide +kernel

/-- CCM_POST to task 9 of core 0. -/
def posting (st : TaskState) (halted : Bool) : State :=
  let s := headed 5 (desc 5 1 (9 * 2 ^ 896))
  Rule.withCore s 0 (Rule.withTask { s.cores[(0 : Fin 8)] with halted := halted } 9 fun y => { y with st := st })

theorem witness_MailboxPosts (st : TaskState) (halted : Bool) :
    startHead (posting st halted) 0 5 1 = some (f0 (desc 5 1 (9 * 2 ^ 896))) ∧
    ((posting st halted).dq[(0 : Fin 32)].cls = 5 ∧ (posting st halted).dq[(0 : Fin 32)].inst.toNat = 0) ∧
    (posting st halted).cores[(0 : Fin 8)].halted = halted ∧ ((posting st halted).cores[(0 : Fin 8)].tasks[9]).st = st ∧
    inTurn (.ccmPost 0) (posting st halted) = true := by
  cases st <;> cases halted <;> decide +kernel

/-! Control cores. -/

theorem witness_FloatingPoint : Turn (.ftoi 0 ⟨true, .ok⟩ 3 1) task5 ∧ Turn (.fabs 0 true 3 1) task5 ∧
    Rule.fpIn true 0x7FF8000000000000 = .nan false false 0 ∧ Rule.fpIn true 0xFFF0000000000000 = .inf true ∧
    (∃ x, Rule.fpIn true 0x3FF8000000000000 = .real x ∧ |Rule.value x| * (2 : ℕ) = (3 : ℕ)) := by
  refine ⟨turn (by decide +kernel), turn (by decide +kernel), by decide +kernel, by decide +kernel, ⟨false, 0x18000000000000, 1, -52⟩, by decide +kernel, ?_⟩
  norm_num [Rule.value, zpow_neg]

/-- FP32 1.5 + 2.25 (09:R265). -/
theorem test_fadd : leaves (.fadd 0 false 3 1 2 .ok)
    (running 3 fun x => { x with banks := x.banks.set 3 { x.banks[3] with
      g := (x.banks[3].g.set 1 0x3FC00000).set 2 0x40100000 } })
    (fun t => ((Rule.bank t 0 3).g[3], (Rule.bank t 0 3).cs)) = some (0x40700000, 0) := by decide +kernel

/-- Core 0 with a task 9 bound to the faults of level k (11:R317). -/
def guarded (k : Fin 8) : State :=
  running k (Rule.withTask · 9 fun y => { y with st := .dormant, src := 5, sparam := BitVec.ofNat 12 k.val })

theorem guarded_bound (k : Fin 8) : Rule.Bound (guarded k).cores[(0 : Fin 8)] k := by
  refine ⟨9, ?_⟩
  revert k
  decide +kernel

theorem guarded_ready (k : Fin 8) : Rule.Ready (guarded k) 0 5 k := by
  apply ready; revert k; decide +kernel

theorem not_bound : ¬ Rule.Bound task5.cores[(0 : Fin 8)] 3 := by
  unfold Rule.Bound
  decide +kernel

/-- A store lost from the store buffer, or bad parity in G1. -/
def spoiled (lost : Option (BitVec 48)) (bad : BitVec 32) : State :=
  let s := guarded 3
  let x := s.cores[(0 : Fin 8)]
  Rule.withCore s 0 { x with lost := lost, banks := x.banks.set 3 { x.banks[3] with bad := bad } }

theorem witness_PreciseFaults : Rule.Ready (guarded 6) 0 5 6 ∧ Rule.Bound (guarded 6).cores[(0 : Fin 8)] 6 ∧
    Rule.FaultsWith 0 6 (Rule.bank (guarded 6) 0 6) (.add 0 1 2 3 .failed) ccParity 0 ∧ Turn (.add 0 1 2 3 .failed) (guarded 6) ∧
    (Rule.Ready task5 0 5 3 ∧ ¬ Rule.Bound task5.cores[(0 : Fin 8)] 3) ∧
    Rule.Ready (guarded 7) 0 5 7 ∧ encodingDefined 0xFFFFFFFF 0 = false ∧ Turn (.undefinedEncoding 0 0xFFFFFFFF 0) (guarded 7) :=
  ⟨guarded_ready 6, guarded_bound 6, .residue _ (.add 1 2 3), turn (by decide +kernel), ⟨ready3, not_bound⟩, guarded_ready 7,
    by decide +kernel, turn (by decide +kernel)⟩

theorem onCore {s : State} {c : Fin 8} {t : Byte} {k : Fin 8}
    (h : coreRuns s c.val = true ∧ (getCore s c.val).running = some t ∧ (getTask (getCore s c.val) t).level = k ∧
      (∀ u ∈ (getCore s c.val).xq, u.level ≠ k) ∧ (getTask (getCore s c.val) t).rowFault = none) : Rule.OnCore s c t k :=
  ⟨h.1, h.2.1, h.2.2.1, h.2.2.2.1, h.2.2.2.2⟩

theorem witness_ParityFaults : Rule.Reads 0 (.and 0 3 1 2) [1, 2] ∧
    Rule.OnCore (spoiled (some 8) 0) 0 5 3 ∧ Rule.OnCore (spoiled none 2) 0 5 3 ∧
    (∀ e ∈ ((guarded 3).cores[(0 : Fin 8)]).sb, entryStop (guarded 3) e = none) ∧
    (((spoiled (some 8) 0).cores[(0 : Fin 8)]).lost = some 8 ∧ inTurn (.and 0 3 1 2) (spoiled (some 8) 0) = true) ∧
    (((spoiled none 2).cores[(0 : Fin 8)]).lost = none ∧ (Rule.bank (spoiled none 2) 0 3).bad.getLsbD 1 = true ∧
      inTurn (.and 0 3 1 2) (spoiled none 2) = true) :=
  ⟨.logic 3 1 2, onCore (by decide +kernel), onCore (by decide +kernel), by decide +kernel⟩

/-- A privileged instruction at L5 faults precisely (09:R281). -/
theorem test_priv : leaves (.tlbiBlock 0 1) (guarded 5)
    (fun t => ((t.cores[(0 : Fin 8)].frec[5]).event, t.cores[(0 : Fin 8)].running, (t.cores[(0 : Fin 8)].tasks[9]).st)) =
      some (ccPriv, none, .ready) := by decide +kernel

/-- The second gigabyte maps onto the control space, a device; the third onto stage memory. -/
def device : TlbEntry := ⟨0, 0x40000000, 1, 0xF800000000, 0x7F3⟩
def stage : TlbEntry := ⟨0, 0x80000000, 1, 0xF000000000, 0x7E3⟩

/-- Core 0 has the answers of its reads of the first bytes of the pages at 0x1000 and 0x2000, and of the last of 0x1000. -/
def world (k : Fin 8) (f : Core → Core) : State :=
  let s := running k (fun x => f (Rule.withTask x 9 fun y => { y with st := .dormant, src := 5, sparam := BitVec.ofNat 12 k.val }))
  answered (.schedulerSelect 0) [0x40, 0x41, 0x42, 0x7E, 0x7F, 0x80, 0x81]
    { withData s with xlat := { s.xlat with tlb := [leaf, device, stage] } }

theorem world_ready (k : Fin 8) : Rule.Ready (world k id) 0 5 k := by
  apply ready; revert k; decide +kernel

/-- The unit at 0x1000 was answered UNCORRECTABLE. -/
def unreadable (s : State) : State :=
  { s with memp := { s.memp with got := [(6, 0x40, .uncorrectable), (6, 0x41, .clean)] } }

theorem world_bound (k : Fin 8) : Rule.Bound (world k id).cores[(0 : Fin 8)] k := by
  refine ⟨9, ?_⟩
  revert k
  decide +kernel

theorem witness_Fetches : Rule.Ready (world 3 id) 0 5 3 ∧ Rule.NoMismatch (world 3 id) ∧ encodingDefined 0 0 = true ∧
    pageOf (xlatCore 0 0x1000 .fetch 3 (world 3 id)).1 = some (0x1000, 0) ∧
    (readAccess true 0x1000 4 (world 3 id)).1 ≠ .uncorrectable ∧
    (readAccess true 0x1000 4 (unreadable (world 3 id))).1 = .uncorrectable ∧
    eventOf (xlatCore 0 0x1000 .fetch 3 (unmapped (world 3 id))).1 = some xlNotPresent ∧
    inTurn (.instructionFetchFault 0 false) (world 3 id) = true ∧
    inTurn (.instructionFetchFault 0 false) (unreadable (world 3 id)) = true ∧
    inTurn (.instructionFetchFault 0 false) (unmapped (world 3 id)) = true :=
  ⟨world_ready 3, ⟨rfl, rfl, rfl⟩, by decide +kernel⟩

/-- The task's bank with an address in G1. -/
def addressed (k : Fin 8) (a : Word) (f : Core → Core) : State :=
  world k fun x => f { x with banks := x.banks.set k.val { x.banks[k] with g := x.banks[k].g.set 1 a } }

def entry (pa : Nat) (n : Nat) : SbEntry := ⟨pa, pa, List.replicate n 7, 0, false⟩

theorem witness_Loads : Rule.LoadCommand 0 3 1 8 8 false (.ld8 0 3 1 8) ∧ Rule.NoMismatch (world 3 id) ∧
    (world 3 id).cores[(0 : Fin 8)].rows = [] ∧
    (Rule.address (Rule.bank (addressed 3 0x1000 id) 0 3) 1 0 % 8 = 0 ∧
      pageOf (xlatCore 0 0x1000 .load 3 (addressed 3 0x1000 id)).1 = some (0x1000, 0) ∧
      region (addressed 3 0x1000 id) 0x1000 = .ext ∧
      (coreRead 0 0 0x1000 8 (addressed 3 0x1000 id)).1 ≠ .uncorrectable ∧
      (coreRead 0 0 0x1000 8 (unreadable (addressed 3 0x1000 id))).1 = .uncorrectable ∧
      inTurn (.ld8 0 3 1 0) (addressed 3 0x1000 id) = true ∧ inTurn (.ld8 0 3 1 0) (unreadable (addressed 3 0x1000 id)) = true) ∧
    (pageOf (xlatCore 0 0x40000050 .load 3 (addressed 3 0x40000050 id)).1 = some (0xF800000050, 4) ∧
      region (addressed 3 0 id) 0xF800000050 = .ctl ∧ inTurn (.ld8 0 3 1 0) (addressed 3 0x40000050 id) = true) ∧
    eventOf (xlatCore 0 0xC0000000 .load 3 (addressed 3 0xC0000000 id)).1 = some xlNotPresent ∧
    (Rule.address (Rule.bank (addressed 3 0x1FFE id) 0 3) 1 0 % 8 = 6 ∧
      pageOf (xlatCore 0 0x1FFE .load 3 (addressed 3 0x1FFE id)).1 = some (0x1FFE, 0) ∧
      pageOf (xlatCore 0 0x2000 .load 3 (addressed 3 0x1FFE id)).1 = some (0x2000, 0) ∧
      inTurn (.ld8 0 3 1 0) (addressed 3 0x1FFE id) = true) :=
  ⟨.ld8, ⟨rfl, rfl, rfl⟩, by decide +kernel⟩

/-- Nothing older stands before a load of a core that has an empty store buffer and no store on its way. -/
theorem witness_Unstored : Rule.Unstored (addressed 3 0x1000 id) 0 0 0x1000 8 := by
  refine ⟨?_, ?_, fun _ h => ?_⟩
  · rw [show ((addressed 3 0x1000 id).cores[(0 : Fin 8)]).sb = [] by decide +kernel]; simp
  · rw [show (addressed 3 0x1000 id).memp.out ++ (addressed 3 0x1000 id).memp.waiting = [] by decide +kernel]; simp
  · rw [show ((addressed 3 0x1000 id).cores[(0 : Fin 8)]).l1bad = [] by decide +kernel] at h; cases h

/-- A read that no port has answered is asked for (15:R425). -/
theorem test_load_asks : leaves (.ld8 0 3 1 0) { addressed 3 0x1000 id with memp := (blockIn .run).memp }
    (fun t => ((Rule.bank t 0 3).pc, t.memp.waiting.map (·.unit))) = some (0x1000, [0x41, 0x40]) := by decide +kernel

theorem witness_LoadsForwarded : ∃ old e young, (addressed 3 0x1000 fun x => { x with sb := [entry 0x1000 16] }).cores[(0 : Fin 8)].sb
      = old ++ e :: young ∧ young = [] ∧ e.pa ≤ 0x1008 ∧ 0x1008 + 8 ≤ e.pa + e.bytes.length ∧ e.bad = false ∧
      Turn (.ld8 0 3 1 8) (addressed 3 0x1000 fun x => { x with sb := [entry 0x1000 16] }) :=
  ⟨[], entry 0x1000 16, [], rfl, rfl, by decide +kernel, by decide +kernel, rfl, turn (by decide +kernel)⟩

theorem test_load_signed : leaves (.ld2s 0 3 1 2) (addressed 3 0x1000 id) (fun t => (Rule.bank t 0 3).g[3]) =
    some 0x3FC0 := by decide +kernel

/-- A misaligned load across a page of memory (09:R274). -/
theorem test_load_split : leaves (.ld4z 0 3 1 0) (addressed 3 0x1FFE id) (fun t => (Rule.bank t 0 3).g[3]) =
    some 0x00000000 := by decide +kernel

theorem witness_CoreStores : Rule.StoreCommand 0 2 1 0 8 (.st8 0 2 1 0) ∧ (world 3 id).cores[(0 : Fin 8)].sb.length < 15 ∧
    pageOf (xlatCore 0 0x1000 .store 3 (addressed 3 0x1000 id)).1 = some (0x1000, 0) ∧
    (pageOf (xlatCore 0 0x40000050 .store 3 (addressed 3 0x40000050 id)).1 = some (0xF800000050, 4)) ∧
    (addressed 3 0x1FFE id).cores[(0 : Fin 8)].alchk = false ∧
    pageOf (xlatCore 0 0x1FFE .store 3 (addressed 3 0x1FFE id)).1 = some (0x1FFE, 0) ∧
    pageOf (xlatCore 0 0x2000 .store 3 (addressed 3 0x1FFE id)).1 = some (0x2000, 0) ∧
    eventOf (xlatCore 0 0xC0000000 .store 3 (addressed 3 0xC0000000 id)).1 = some xlNotPresent ∧
    (pageOf (xlatCore 0 0x1000 .rowStore 3 (addressed 3 0x1000 id)).1 = some (0x1000, 0)) ∧
    (∀ e ∈ (addressed 3 0x1000 id).cores[(0 : Fin 8)].sb, entryStop (addressed 3 0x1000 id) e = none) ∧
    inTurn (.st8 0 2 1 0) (addressed 3 0x1000 id) = true ∧ inTurn (.st8 0 2 1 0) (addressed 3 0x1FFE id) = true ∧
    inTurn (.zline 0 1) (addressed 3 0x1000 id) = true :=
  ⟨.st8, by decide +kernel⟩

def storing : State := addressed 3 0x1000 fun x => { x with sb := [entry 0x1000 8, entry 0x1004 8] }

theorem storing_drains : drainOne 0 storing =
    drainEntry 0 (entry 0x1000 8) { storing with ctl := { storing.ctl with free := storing.ctl.free + 1 } } := by
  have h : ((drainable [] (getCore storing 0).sb false).filter fun e => !portWaits storing e.pa e.bytes.length) =
      [entry 0x1000 8] := by decide +kernel
  unfold drainOne
  simp only [show ((0 : Fin 8).val) = 0 from rfl] at *
  rw [h]
  simp [drawNat, Nat.mod_one]

theorem storing_turn : Turn (.storeBufferDrain 0) storing := by
  refine ⟨in_place (by decide +kernel), .inr fun t h => ?_⟩
  have e : effect (.storeBufferDrain 0) storing = .next (settle storing (drainOne 0 storing)) := rfl
  rw [e, storing_drains] at h
  injection h with h
  rw [← h]
  decide +kernel

theorem witness_StoreBuffers : Turn (.storeBufferDrain 0) storing ∧ storing.cores[(0 : Fin 8)].rows = [] ∧ storing.cores[(0 : Fin 8)].sb ≠ [] ∧
    (∀ e ∈ storing.cores[(0 : Fin 8)].sb, region storing e.pa ≠ .ctl ∧ e.bytes.length ≠ 128) ∧
    (∀ e ∈ storing.cores[(0 : Fin 8)].sb, Rule.Writable storing (cellsAt e.pa e.bytes)) := by
  refine ⟨storing_turn, rfl, by decide +kernel, by decide +kernel, ?_⟩
  intro e he c hc
  have : ∀ e ∈ storing.cores[(0 : Fin 8)].sb, ∀ c ∈ cellsAt e.pa e.bytes, region storing c.1 = .ext := by decide +kernel
  exact .inl (this e he c hc)

theorem witness_Atomics : Rule.AtomCommand 0 true 3 1 2 (.aadd 0 true 3 1 2) (fun n old x _ => (old + x) % 2 ^ n) ∧
    ((Rule.reg (Rule.bank (addressed 3 0x1004 id) 0 3) 1).toNat % 8 = 4) ∧
    pageOf (xlatCore 0 0x1000 .atomic 3 (addressed 3 0x1000 id)).1 = some (0x1000, 0) ∧
    (readAccess true 0x1000 8 (addressed 3 0x1000 id)).1 ≠ .uncorrectable ∧
    inTurn (.aadd 0 true 3 1 2) (addressed 3 0x1000 id) = true :=
  ⟨.add, by decide +kernel⟩

theorem test_aadd : leaves (.aadd 0 false 3 1 2) (addressed 3 0x1000 id)
    (fun t => ((Rule.bank t 0 3).g[3], leNat (Memory.gets t.mem 0x1000 4))) = some (0x3FC00000, 0x3FC00003) := by
  decide +kernel

theorem witness_ControlRegisters : crRules 0x001 = some (1, 0) ∧ Rule.Legal 1 3 ∧ 6 ≤ (6 : Fin 8).val ∧
    (world 6 id).cores[(0 : Fin 8)].rows = [] ∧ inTurn (.crr 0 3 0x001) (world 6 id) = true ∧
    inTurn (.crw 0 1 0x040) (world 6 id) = true ∧ inTurn (.csync 0) (world 6 id) = true := by
  unfold Rule.Legal; decide +kernel

theorem test_csync : leaves (.csync 0) (running 6 fun x => { x with held := [(0x040, 7), (0x040, 9)] })
    (fun t => (t.cores[(0 : Fin 8)].ctx, t.cores[(0 : Fin 8)].held)) = some (9, []) := by decide +kernel

def windowed : State := world 6 fun x => { x with bankwin := 6 }

theorem witness_OrderingAndWindows : Rule.Ready (world 6 id) 0 5 6 ∧ (world 6 id).cores[(0 : Fin 8)].sb = [] ∧
    (∀ j : Fin 8, (world 6 id).cores[j].sb = [] ∧ (world 6 id).cores[j].rows = []) ∧
    ((world 6 id).memp.out = [] ∧ (world 6 id).memp.waiting = [] ∧ ctxsOut (world 6 id) = []) ∧
    (∀ u ∈ (world 6 id).cores[(0 : Fin 8)].xq, u.level ≠ (world 6 id).cores[(0 : Fin 8)].bankwin) ∧
    ((world 6 id).cores[(0 : Fin 8)].banks[(0 : Fin 8)]).occ = none ∧
    (windowed.cores[(0 : Fin 8)].banks[(6 : Fin 8)]).occ.isSome = true ∧
    (windowed.cores[(0 : Fin 8)].banks[(6 : Fin 8)]).bad.getLsbD 1 = false ∧
    inTurn (.fence 0) (world 6 id) = true ∧ inTurn (.tlbiAddress 0 1) (world 6 id) = true ∧ inTurn (.brd 0 3 1) windowed = true ∧
    inTurn (.bwr 0 3 1) windowed = true :=
  ⟨world_ready 6, by decide +kernel⟩

theorem test_tlbi : leaves (.tlbiAddress 0 1) (addressed 6 0x40000000 id) (fun t => t.xlat.tlb) = some [leaf, stage] := by
  decide +kernel

/-! Tasks. -/

theorem witness_TaskEnds : task5.cores[(0 : Fin 8)].rows = [] ∧ (task5.cores[(0 : Fin 8)].tasks[5]).pend = false ∧
    ((running 3 (Rule.withTask · 5 fun y => { y with pend := true })).cores[(0 : Fin 8)].tasks[5]).pend = true ∧
    inTurn (.tend 0) task5 = true ∧ inTurn (.twait 0) task5 = true ∧ inTurn (.trap 0 7) task5 = true := by
  decide +kernel

theorem test_tend : leaves (.tend 0) (running 3 (Rule.withTask · 5 fun y => { y with pend := true }))
    (fun t => ((t.cores[(0 : Fin 8)].tasks[5]).st, t.cores[(0 : Fin 8)].running)) = some (.ready, none) := by decide +kernel

def tasked (st : TaskState) : State := running 6 (Rule.withTask · 9 fun y => { y with st := st })

theorem witness_TaskControl (st : TaskState) : coreRuns (tasked st) 0 = true ∧ (tasked st).cores[(0 : Fin 8)].running = some 5 ∧
    Rule.Writer (tasked st) .host ∧ (ccBuilt (tasked st)).getLsbD 0 = true ∧ ((tasked st).cores[(0 : Fin 8)].tasks[9]).st = st ∧
    (tasked st).cores[(0 : Fin 8)].rows = [] ∧ (tasked st).cores[(0 : Fin 8)].running ≠ some 9 ∧
    inTurn (.taskKill (.task 0) 9) (tasked st) = true ∧
    inTurn (.wake (.window .host 0) 9) (placed (.wake (.window .host 0) 9) (tasked st)) = true := by
  unfold Rule.Writer
  cases st <;> decide +kernel

def stopped_ : State :=
  running 6 fun x => { x with xstop := some ⟨.spillH, 9, 4, []⟩, mbx := x.mbx.set 3 ⟨true, 0, 5, 0, 0, 0⟩ }

theorem witness_TaskControlStops : stopped_.cores[(0 : Fin 8)].xstop ≠ none ∧ (stopped_.cores[(0 : Fin 8)].mbx[3]).valid = true ∧
    inTurn (.transferRetry (.task 0) 9) stopped_ = true ∧ inTurn (.mailboxDone (.task 0) 3 1) stopped_ = true := by
  decide +kernel

def choosing : State := running 3 (Rule.withTask · 9 fun y => { y with st := .ready, level := 4 })

theorem witness_SchedulerSelects : coreRuns choosing 0 = true ∧ selectTask choosing.cores[(0 : Fin 8)] = some 9 ∧
    choosing.cores[(0 : Fin 8)].switchTo = none ∧ choosing.cores[(0 : Fin 8)].running = some 5 ∧
    selectTask (blockIn .run).cores[(0 : Fin 8)] = none ∧ inTurn (.schedulerSelect 0) choosing = true := by
  decide +kernel

theorem waits_choosing : Rule.Waits choosing.cores[(0 : Fin 8)] 9 := by
  unfold Rule.Waits
  decide +kernel

theorem test_preempts : leaves (.schedulerSelect 0) choosing
    (fun t => (t.cores[(0 : Fin 8)].switchTo, (t.cores[(0 : Fin 8)].tasks[5]).st)) = some (some 9, .preempted) := by
  decide +kernel

def switching (st : TaskState) (spilled : Bool) (lvl : Fin 8) : State :=
  running 3 fun x => { Rule.withTask x 9 (fun y => { y with st := st, spilled := spilled, level := lvl }) with
    switchTo := some 9, outgoing := some 5, running := none }

theorem witness_SwitchesOfTasks : coreRuns (switching .ready false 4) 0 = true ∧
    (switching .ready false 4).cores[(0 : Fin 8)].switchTo = some 9 ∧ (switching .ready false 4).cores[(0 : Fin 8)].rows = [] ∧
    (switching .ready false 4).cores[(0 : Fin 8)].held = [] ∧ (switching .ready false 4).cores[(0 : Fin 8)].tileOwner ≠ some 5 ∧
    ((switching .ready false 4).cores[(0 : Fin 8)].banks[(4 : Fin 8)]).occ = none ∧
    ((switching .ready false 3).cores[(0 : Fin 8)].banks[(3 : Fin 8)]).occ = some 5 ∧
    (switching .ready false 3).cores[(0 : Fin 8)].xq = [] ∧
    (((switching .runnable true 4).cores[(0 : Fin 8)].tasks[9]).st ≠ .ready ∧
      ((switching .runnable true 4).cores[(0 : Fin 8)].tasks[9]).spilled = true) ∧
    inTurn (.taskSwitch 0) (switching .ready false 4) = true ∧ inTurn (.taskSwitch 0) (switching .ready false 3) = true ∧
    inTurn (.taskSwitch 0) (switching .runnable true 4) = true := by
  decide +kernel

def transferring (kind : UnitKind) : State :=
  let s := running 3 fun x => { Rule.withTask x 9 (fun y => { y with st := .preempted, save := 8 }) with
    xq := [⟨kind, 9, 4, List.replicate 64 1⟩] }
  answered (.schedulerSelect 0) [0x40, 0x41, 0x42, 0x43] { s with xlat := { s.xlat with tlb := [leaf] } }

theorem witness_TransferUnits :
    ((nextUnit (transferring .spillH).cores[(0 : Fin 8)]).map fun u => (u.kind, u.task)) = some (.spillH, 9) ∧
    pageOf (xlatCore 0 0x1000 .unitWrite 7 (transferring .spillH)).1 = some (0x1000, 0) ∧
    pageOf (xlatCore 0 0x1080 .unitRead 7 (transferring (.fillGroup 1))).1 = some (0x1080, 0) ∧
    (readAccess true 0x1080 64 (transferring (.fillGroup 1))).1 ≠ .uncorrectable ∧
    nextUnit task5.cores[(0 : Fin 8)] = none ∧ (transferring .fillH).cores[(0 : Fin 8)].xstop = none ∧
    eventOf (xlatCore 0 0x1000 .unitWrite 7 (unmapped (transferring .spillH))).1 = some xlNotPresent ∧
    inTurn (.transferUnit 0 false) (transferring .spillH) = true ∧
    inTurn (.transferUnit 0 false) (transferring (.fillGroup 1)) = true ∧
    inTurn (.transferUnit 0 false) (unmapped (transferring .spillH)) = true := by
  decide +kernel

/-- A bound spill fault: the record names the unit, and RETRY takes that unit first (11:R328). -/
theorem test_retry_first :
    ((leaves (.transferUnit 0 false) (unmapped (transferring .spillH)) id).bind fun t =>
      leaves (.transferRetry (.window .host 0) 9) (placed (.wake (.window .host 0) 9) t)
        fun u => ((u.cores[(0 : Fin 8)]).xfirst.map (·.kind), (u.cores[(0 : Fin 8)]).xstop.isSome)) =
      some (some .spillH, false) := by
  decide +kernel

/-! Tiles. -/

/-- The running task owns the tile file: T0 and T1 of one row of 4 bytes, A8 and A9 of one FP32 element. -/
def tiled : State :=
  addressed 3 0x1000 fun x =>
    let tile (fmt : BitVec 4) (n : Nat) (bs : List Byte) : Tile :=
      { tag := some ⟨n, 4, fmt⟩, inUse := true, bytes := Memory.puts [] (cellsAt 0 bs), bad := 0 }
    { x with
      tileOwner := some 5,
      tiles := (((x.tiles.set 0 (tile 5 1 [1, 2, 3, 4])).set 1 (tile 5 1 [5, 6, 7, 8])).set 8 (tile 0xC 1 [9, 0, 0, 0])).set 9
        (tile 0xA 1 [0, 0, 0x80, 0x3F]) }

theorem tiled_owns : Rule.Owns tiled 0 5 := ⟨by decide +kernel, by decide +kernel⟩

theorem tiled_whole : Rule.Whole tiled 0 := by
  refine ⟨by decide +kernel, fun l h => ?_⟩
  rw [show (tiled.cores[(0 : Fin 8)]).latchS = none by decide +kernel,
    show (tiled.cores[(0 : Fin 8)]).latchT = none by decide +kernel] at h
  rcases h with h | h <;> cases h

theorem tiled_ready : Rule.Ready tiled 0 5 3 := ready (by decide +kernel)

theorem witness_TileRegisters : Rule.Ready tiled 0 5 3 ∧ Rule.Owns tiled 0 5 ∧ Rule.Whole tiled 0 ∧
    Turn (.tmov 0 2 0 false 0 3 5) tiled ∧ Turn (.tfstat 0 3) tiled ∧ destLegal 2 4 5 = true ∧
    Rule.Fits tiled 0 0 1 4 (some 5) ∧ Rule.Fits tiled 0 0 1 4 none :=
  ⟨tiled_ready, tiled_owns, tiled_whole, turn (by decide +kernel), turn (by decide +kernel), by decide +kernel, ⟨⟨1, 4, 5⟩, by decide +kernel, by decide, by decide, by simp⟩,
    ⟨⟨1, 4, 5⟩, by decide +kernel, by decide, by decide, by simp⟩⟩

/-- Row 0 of T0 has bad parity. -/
def cracked : State :=
  let x := tiled.cores[(0 : Fin 8)]
  Rule.withCore tiled 0 { x with tiles := x.tiles.set 0 { x.tiles[0] with bad := 1 } }

theorem witness_TileComputations : Turn (.tmm 0 8 0 1 false true 0 3 5 5 0 .retried) tiled ∧
    Turn (.tmm 0 8 0 1 false true 0 3 5 5 0 .ok) cracked ∧
    ((cracked.cores[(0 : Fin 8)]).latchS = none ∧ (tileAt (cracked.cores[(0 : Fin 8)]) 0).bad.getLsbD 0 = true) ∧ tmmLegal 8 0 1 true 4 5 5 = true ∧ rowSize 5 (rowElems (tileFmt 5) 4) = some 4 ∧
    tcfgLegal (tiled.cores[(0 : Fin 8)]).tcfg = true ∧ fmtBits (tileFmt 5) ≠ 0 ∧
    Rule.Fits tiled 0 1 1 4 (some 5) ∧ Rule.Fits tiled 0 8 1 4 (some 0xC) :=
  ⟨turn (by decide +kernel), turn (by decide +kernel), by decide +kernel, by decide +kernel, by decide +kernel,
    by decide +kernel, by decide +kernel,
    ⟨⟨1, 4, 5⟩, by decide +kernel, by decide, by decide, by simp⟩,
    ⟨⟨1, 4, 0xC⟩, by decide +kernel, by decide, by decide, by simp⟩⟩

/-- INT32 9 + 1 × 5 + 2 × 6 + 3 × 7 + 4 × 8 (10:R304). -/
theorem test_tmm : leaves (.tmm 0 8 0 1 false true 0 3 5 5 0 .ok) tiled
    (fun t => Memory.gets (tileAt t.cores[(0 : Fin 8)] 8).bytes 0 4) = some [79, 0, 0, 0] := by decide +kernel

def rowsOf : Except Commit (List (Nat × List RowPiece)) → Option (List (Nat × Nat))
  | .ok rs => some (rs.map fun r => (r.1, r.2.length))
  | _ => none

def oneRow (store : Bool) (conv : Option (Byte × BitVec 4 × Word × Tcfg)) : State :=
  addressed 3 0x1000 fun x => { x with
    tileOwner := some 5, rows := [⟨store, 2, 0, 0x1000, [⟨0x1000, 4, 0⟩], [1, 2, 3, 4], conv, 4, 5, 0x1000⟩] }

/-- Task 5 runs without the tile file. -/
def fileless : State := addressed 3 0x1000 id

theorem witness_TileMemory :
    rowsOf (xlatRows 0 3 .rowLoad 4 [0x1000] tiled).1 = some [(0x1000, 1)] ∧
    rowsOf (xlatRows 0 3 .rowStore 4 [0x1000] tiled).1 = some [(0x1000, 1)] ∧ (tiled.cores[(0 : Fin 8)]).sb = [] ∧
    shapeLegal 4 5 = true ∧
    ((oneRow true none).cores[(0 : Fin 8)].rows.map fun r => (r.store, r.pieces.length, r.rb)) = [(true, 1, 4)] ∧
    (coreRead 0 0 0x1000 4 (oneRow false none)).1 ≠ .uncorrectable ∧
    (coreRead 0 0 0x1000 4 (unreadable (oneRow false none))).1 = .uncorrectable ∧
    (tiled.cores[(0 : Fin 8)]).rows = [] ∧ (fileless.cores[(0 : Fin 8)].tileOwner ≠ some 5 ∧ fileless.cores[(0 : Fin 8)].xq = []) ∧
    inTurn (.tld 0 2 1 0 false 0 3 5) tiled = true ∧ inTurn (.tst 0 0 1 0 false 0 3 5) tiled = true ∧
    inTurn (.tileRow 0) (oneRow true none) = true ∧ inTurn (.tileRow 0) (oneRow false none) = true ∧
    inTurn (.tileRow 0) (unreadable (oneRow false none)) = true ∧ inTurn (.tileFileRestore 0) fileless = true := by
  decide +kernel

theorem test_row_load : leaves (.tileRow 0) (oneRow false none)
    (fun t => Memory.gets (tileAt t.cores[(0 : Fin 8)] 2).bytes 0 4) = some [0, 0, 0xC0, 0x3F] := by decide +kernel

/-! Memory. -/

def asking (write : Bool) (waiter : Waiter) (flight : Bool) : State :=
  let s := if flight then flying 2 vAdd id else blockIn .run
  { s with memp := { s.memp with out := [⟨15, 7, 0x40, write, waiter, []⟩] } }

theorem witness_MemoryAnswers :
    (mpBuilt (asking false (.engine 0 0 1 0x1000) true)).getLsbD 15 = true ∧
    ((asking false (.engine 0 0 1 0x1000) true).memp.out.map fun r => (r.port, r.tag, r.write)) = [(15, 7, false)] ∧
    (asking false (.engine 0 0 1 0x1000) true).memp.waiting = [] ∧
    ((getFlight (asking false (.engine 0 0 1 0x1000) true) 0 0).map fun f => (dClass f.desc, f.ended)) = some (2, none) ∧
    ((asking true .hostWrite false).memp.out.map fun r => (r.port, r.tag, r.write, r.waiter)) = [(15, 7, true, .hostWrite)] ∧
    ((asking false (.engine 0 0 1 0x1000) false).dq[(0 : Fin 32)].inflight = []) ∧
    (∀ m : Fin 16, ((asking false (.engine 0 0 1 0x1000) true).opa.inst[m]).jobs = []) ∧
    (mpBuilt { blockIn .run with fuses := { Fuses.reset with words := Fuses.reset.words.set 0 0x42 } }).getLsbD 15 = false ∧
    inTurn (.memoryReadResponse 15 7 2) (asking false (.engine 0 0 1 0x1000) true) = true ∧
    inTurn (.memoryReadResponse 15 7 0) (asking false (.command 32) false) = true ∧
    (asking false (.command 32) false).memp.out.map (·.waiter) = [.command 32] ∧
    inTurn (.memoryWriteAck 15 7 true) (asking true .hostWrite false) = true ∧
    inTurn (.memoryRequestTimeout 15 7) (asking false (.engine 0 0 1 0x1000) false) = true := by
  decide +kernel

theorem witness_Named : Rule.Named (asking true .hostWrite false) 15 7 true ⟨15, 7, 0x40, true, .hostWrite, []⟩ := by
  have e : (asking true .hostWrite false).memp.out = [⟨15, 7, 0x40, true, .hostWrite, []⟩] := rfl
  refine ⟨by decide +kernel, ?_, ⟨rfl, rfl, rfl⟩, ?_, ?_⟩
  · rw [e]; simp
  · rw [e]; simp
  · rw [show (asking true .hostWrite false).memp.waiting = [] from rfl]; simp

/-- A tag is not sent again until the answer that came too late has come (15:R426). -/
theorem test_timeout : leaves (.memoryRequestTimeout 15 7) (asking false (.engine 0 0 1 0x1000) false)
    (fun t => (t.memp.dead, t.bnd.flags)) = some ([(15, 7)], 0x100) := by decide +kernel

theorem witness_Interleave : (blockIn .config).ctl.state = .config ∧ (3 : Word).toNat % 8 ≤ 3 ∧ 3 < (4 : Word).toNat % 8 ∧
    (blockIn .config).bc.lines = [] ∧ (blockIn .config).memp.waiting = [] ∧ (blockIn .config).bnd.hostHeld = [] ∧
    inTurn (.mempCfgWrite .host 3) (placed (.mempCfgWrite .host 3) (blockIn .config)) = true :=
  ⟨rfl, by decide, by decide, rfl, rfl, rfl, by decide +kernel⟩

def poisoned (ws : List Nat) (auto : Byte) (limit : BitVec 32) : State :=
  let s := blockIn .run
  { s with sm := { s.sm with ueWords := ws }, svc := { s.svc with auto := auto, smLimit := limit } }

def copying (c : SpareCopy) (tr : Trans) : State :=
  let s := blockIn .run
  { s with sm := { s.sm with copy := some c }, svc := { s.svc with trans := [(0x0603, tr)] } }

/-- Word 0 holds a wrong bit that its code corrects. -/
def corrected : State :=
  { blockIn .run with
    sm := { (blockIn .run).sm with ceWords := [stageBase / 32] }, svc := { (blockIn .run).svc with auto := 0 } }

theorem witness_StageMemory :
    (stageBase / 32 ∈ corrected.sm.ceWords ∧ corrected.sm.ueWords = [] ∧ corrected.svc.auto ≠ 1 ∧
      inTurn (.scrubRead 0 .clean) corrected = true) ∧
    inTurn (.scrubRead 0 .corrected) (poisoned [] 1 1) = true ∧ inTurn (.scrubRead 0 .uncorrectable) (poisoned [] 0 1) = true ∧
    inTurn (.spareCopyComplete 1) (copying ⟨1, 3, true, false⟩ .leaving) = true ∧
    smBytes (poisoned [] 0 1) ≤ (0x7FFFFF : BitVec 23).toNat * 32 ∧
    (¬ smBytes (poisoned [] 0 1) ≤ (0x4FFFFF : BitVec 23).toNat * 32 ∧
      ¬ (stageBase + (0x4FFFFF : BitVec 23).toNat * 32) / 32 ∈ (poisoned [] 0 1).sm.ueWords) ∧
    ((stageBase + (0 : BitVec 23).toNat * 32) / 32 ∈ (poisoned [stageBase / 32] 0 1).sm.ueWords) ∧
    (spareOf (poisoned [] 1 1) 0 = none ∧ freeSpare (poisoned [] 1 1) ≠ none ∧ transOf (poisoned [] 1 1) 0x600 = none ∧
      (poisoned [] 1 1).svc.retBank.getLsbD 0 = false) ∧
    (copying ⟨1, 3, true, false⟩ .leaving).svc.trans = [(0x0600 + 3, .leaving)] ∧
    (copying ⟨1, 3, false, true⟩ .retiring).sm.copy = some ⟨1, 3, false, true⟩ ∧ (blockIn .run).sm.copy = none := by
  decide +kernel

/-- A scrubbed word is written back without its wrong bit, and counted once (08:R234, R236). -/
theorem test_scrub_corrects : leaves (.scrubRead 0 .clean) corrected (fun t => (t.sm.ceWords, t.sm.ceCount)) = some ([], 1) := by
  decide +kernel

/-- At the limit of one the bank of a corrected word is retired onto spare 0 (14:R404, R405). -/
theorem test_scrub_retires : leaves (.scrubRead 0 .corrected) (poisoned [] 1 1)
    (fun t => (t.svc.retBank, spareOf t 0)) = some (1, some 0) := by decide +kernel

/-- A context table at 0, a table pointer for context 0 to 0x2000, whose entry 0 leads on to 0x3000, whose entry 1 maps
the second gigabyte at 0. -/
def walking : State :=
  let s := blockIn .run
  { s with
    mem := Memory.puts [] (cellsAt 0 (natLe 0x2001 8) ++ cellsAt 0x2000 (natLe 0x3001 8) ++ cellsAt 0x3008 (natLe 0x7E3 8)),
    xlat := { s.xlat with baseV := true } }

theorem witness_TranslationWalks : walking.xlat.tlb = [] ∧ walking.xlat.walker = [] ∧ walking.xlat.ctxCache = [] ∧
    Rule.Sound walking ∧ Rule.NoMismatch walking ∧ walking.xlat.baseV = true ∧ walking.xlat.baseAttr ≠ 4 ∧
    region walking (walking.xlat.basePA.toNat * 4096) = .ext ∧
    Rule.Leads walking 0x40001234 0 (Rule.wordAt walking (walking.xlat.basePA.toNat * 4096 + 8 * 0)) 1 0x7E3 ∧
    (blockIn .run).xlat.baseV = false := by
  refine ⟨rfl, rfl, rfl, ⟨rfl, ⟨rfl, fun x h => by cases h⟩, fun l h => by cases h⟩, ⟨rfl, rfl, rfl⟩, rfl, by decide +kernel, by decide +kernel, ?_, rfl⟩
  refine .down 0 _ 0x3001 1 0x7E3 (by decide) ?_ (by decide +kernel) (by decide) (by decide)
    (.leaf 1 _ _ (by decide) ?_ (by decide +kernel) ?_)
  · exact ⟨by decide +kernel, by decide +kernel, by decide +kernel, by decide +kernel, .inl (by decide +kernel)⟩
  · exact ⟨by decide +kernel, by decide +kernel, by decide +kernel, by decide +kernel, .inl (by decide +kernel)⟩
  · exact ⟨by decide, by decide, by decide, by decide, by decide, by decide, by decide +kernel⟩

/-- The walk of that address: physical address 0x1234 (12:R340). -/
theorem test_walk : (xlatEngine 0 0x40001234 .engRead walking).1 = .ok 0x1234 0 := by decide +kernel

def invalidating : State := { world 3 id with xlat := { (world 3 id).xlat with inv := some ⟨0, 0, 3⟩ } }

/-- The engines have a request of context 0 on its way. -/
def inFlight : State :=
  let s := placed .xlatInvComplete (world 3 id)
  { s with xlat := { s.xlat with inv := some ⟨0, 0, 3⟩ },
           rme := { s.rme with self := 1, out := [⟨7, 3, 0, 0, .put, 0x40000000, 1⟩] } }

theorem witness_TranslationCommands :
    ((blockIn .config).ctl.state = .config ∧ (0x80000000001 : Word).toNat / 2 ^ 12 % 128 = 0 ∧
      (0x80000000001 : Word).toNat / 4 % 8 ≤ 4) ∧
    invalidating.xlat.inv ≠ none ∧ (world 3 id).xlat.inv = none ∧
    (∀ c : Fin 8, (invalidating.cores[c]).sb = [] ∧ (invalidating.cores[c]).rows = []) ∧ ctxsOut invalidating = [] ∧
    ctxsOut inFlight ≠ [] ∧ (blockIn .run).ctl.state ≠ .config ∧
    inTurn .xlatInvComplete (placed .xlatInvComplete invalidating) = true ∧ inTurn .xlatInvComplete inFlight = true ∧
    inTurn (.xlatInvBlock (.core 0)) (world 3 id) = true ∧
    inTurn (.pageWalk (.core 0) 0x40000000 .load) (placed (.pageWalk (.core 0) 0 .load) (world 3 id)) = true ∧
    inTurn (.xlatCtxbaseWrite .host 1) (placed (.xlatCtxbaseWrite .host 1) (blockIn .config)) = true := by
  decide +kernel

def cached (f : Bc → Bc) : State := { blockIn .run with bc := f (blockIn .run).bc }

/-- A preload of one line runs. -/
def preloading (lines : List BcLine) (lock : BitVec 16) : State :=
  let s := cached fun b => { b with plBusy := true, plLen := 128, lines := lines, lock := lock }
  { s with memp := { s.memp with got := [(21, 0, .clean), (21, 1, .clean)] } }

/-- Way 3 with a bad line, being cleaned. -/
def cleaning (bad : Bool) (off : BitVec 16) : State :=
  cached fun b => { b with busy := 8, off := off, lines := [⟨0x40, 3, true, bad, []⟩] }

theorem witness_BlockCacheCommands :
    ((0x80 : Word).toNat % 2 ^ 32 ≠ 0 ∧ (0x80 : Word).toNat % 2 ^ 32 % 128 = 0 ∧
      (blockIn .run).bc.plBase.toNat * 128 + (0x80 : Word).toNat % 2 ^ 32 ≤ memBytes (blockIn .run)) ∧
    (blockIn .run).bc.plBusy = false ∧ (preloading [] 0).bc.plBusy = true ∧
    (Rule.Sound (preloading [] 0) ∧ bcFillable (preloading [] 0) ≠ []) ∧
    (3 ∉ bcFillable (preloading [⟨0, 3, false, false, []⟩] 8) ∧ bcFillable (preloading [⟨0, 3, false, false, []⟩] 8) ≠ []) ∧
    (blockIn .run).bc.off.getLsbD 15 = false ∧
    ((cached fun b => { b with off := 0x8000, down := 0x8000 }).bc.off.getLsbD 15 = true ∧
      (cached fun b => { b with off := 0x8000, down := 0x8000 }).bc.down.getLsbD 15 = true) ∧
    ((cleaning false 8).bc.busy.getLsbD 3 = true ∧ (cleaning true 8).bc.off.getLsbD 3 = true ∧
      (cleaning false 8).bc.lines.Pairwise (fun a b => a.line ≠ b.line)) ∧
    inTurn (.preloadStart .host 0x80) (placed (.preloadStart .host 0x80) (blockIn .run)) = true ∧
    inTurn (.wayPowerDown .host 15) (placed (.wayPowerDown .host 15) (blockIn .run)) = true ∧
    inTurn (.wayCleanComplete 3) (cleaning true 8) = true ∧ inTurn (.wayCleanComplete 3) (cleaning false 8) = true :=
  ⟨by decide +kernel, rfl, rfl, ⟨⟨rfl, ⟨rfl, fun x h => by
      rw [show (preloading [] 0).memp.got = [(21, 0, .clean), (21, 1, .clean)] from rfl] at h
      simp only [List.mem_cons, List.not_mem_nil, or_false] at h
      rcases h with rfl | rfl <;> decide⟩, fun l h => by cases h⟩, by decide +kernel⟩, by decide +kernel⟩

/-- A bad line keeps its way from powering down (12:R356, R357). -/
theorem test_bad_line_stays :
    leaves (.wayCleanComplete 3) (cleaning true 8) (fun t => (t.bc.lines.length, t.bc.down, t.bc.busy)) = some (1, 0, 8) ∧
    leaves (.wayCleanComplete 3) (cleaning false 8) (fun t => (t.bc.lines.length, t.bc.down, t.bc.busy)) = some (0, 8, 0) := by
  decide +kernel

def detecting (cls : Byte) (ack : BitVec 32) : State :=
  let s := blockIn .run
  { s with flt := { s.flt with detected := [(0, ⟨smUe, cls, true, 0x0600, 0, 5, 0xF000000000, 0⟩)], ack := ack } }

theorem witness_FaultRing : (blockIn .run).flt.detected = [] ∧
    Rule.ahead (detecting clsInfo (-254)).flt.wr (detecting clsInfo (-254)).flt.ack = 254 ∧
    Rule.ahead (detecting clsInfo (-255)).flt.wr (detecting clsInfo (-255)).flt.ack = 255 ∧
    Rule.Writer (detecting clsInfo 0) .host ∧ inTurn .faultRecordWrite (detecting clsInfo 0) = true ∧
    inTurn (.faultAckWrite .host 0) (placed (.faultAckWrite .host 0) (detecting clsInfo 0)) = true := by
  unfold Rule.Writer; decide +kernel

/-- The last of 256 places is kept for a record of class FATAL (14:R399). -/
theorem test_last_place :
    leaves .faultRecordWrite (detecting clsInfo (-255)) (fun t => (t.flt.wr, t.flt.lost)) = some (0, 1) ∧
    leaves .faultRecordWrite (detecting clsFatal (-255)) (fun t => (t.flt.wr, t.flt.lost)) = some (1, 0) := by
  decide +kernel

def replying : State := { blockIn .run with mbox := { (blockIn .run).mbox with ready := some [1, 0, 0, 0] } }

theorem witness_ParityAndMailbox : parityCovered 0x100048 = true ∧ (0x100048 : BitVec 26) = Rule.dqReg 0 0x48 ∧
    parityCovered 0x300010 = true ∧ (0x300010 : BitVec 26) ∉ (blockIn .run).gen.parity ∧
    ((blockIn .run).dq[(0 : Fin 32)].halted = false ∧ (blockIn .run).dq[(0 : Fin 32)].inflight = []) ∧
    replying.mbox.ready = some [1, 0, 0, 0] ∧ (blockIn .run).mbox.ready = none ∧
    inTurn (.parityScan 0x300010 true) (blockIn .run) = true ∧ inTurn .mboxResponseReady replying = true ∧
    (let s : State := { blockIn .run with gen := { (blockIn .run).gen with latent := [0x300010] } }
     (0x300010 : BitVec 26) ∈ s.gen.latent ∧ inTurn (.parityScan 0x300010 false) s = true) := by
  decide +kernel

/-! The array. -/

/-- OPA_MM of 8 × 2 by 2 × 8 of VI8 into INT32, draining or with KEEP, operands A and B in stage memory (04:R100). -/
def mm (keep : Bool) : Desc :=
  desc 1 1 ((0x80001000 + 5 * 2 ^ 48 + 7 * 2 ^ 64 + 1 * 2 ^ 80 + 2 * 2 ^ 128) * 2 ^ 320 +
    (0x80002000 + 5 * 2 ^ 48 + 1 * 2 ^ 64 + 7 * 2 ^ 80 + 8 * 2 ^ 128) * 2 ^ 512 +
    (0x3000 + 0x14 * 2 ^ 48 + 7 * 2 ^ 64 + 7 * 2 ^ 80 + 32 * 2 ^ 128) * 2 ^ 704 +
    (1 + 1 * 2 ^ 39 + (if keep then 2 ^ 35 else 0)) * 2 ^ 896)

def array (s : State) : State :=
  { s with
    xlat := { s.xlat with tlb := [leaf, stage] },
    opa := { s.opa with bandmap := .replicate 16 0 },
    mem := Memory.puts [] (cellsAt 0xF000001000 [3, 4] ++ cellsAt 0xF000002000 [5] ++ cellsAt 0xF000002008 [6]) }

/-- The state that a command leaves, or the one before. -/
def then_ (i : Instr) (s : State) : State := (after i s).getD s

def mm0 (keep : Bool) : State := array (headed 1 (mm keep))
def mm1 (keep : Bool) : State := then_ (.opaMm 0) (mm0 keep)
def mm2 (keep : Bool) : State := then_ (.opaFormatSwitch 0) (mm1 keep)
def mm3 (keep : Bool) : State := then_ (.opaStepIssue 0) (mm2 keep)
def mm4 : State := then_ (.groupFinal 0) (mm3 false)
def mm5 : State := then_ (.drainCubeRow 0) mm4

/-- The issuing job's next step can be read. -/
def canStep (s : State) : Bool :=
  match issuing (getInst s 0) with
  | none => false
  | some j => match beginPass s 0 j with
    | .ready j1 g1 =>
      let t := g1.set j1.setY
      isOk (readStep j1 t.rows t.cols j1.s s).1
    | _ => false

theorem arrayOn (s : State) (h : s.ctl.state = .run ∧ s.ctl.por = false ∧ s.ctl.wres = false ∧ s.sens.hold = .none) :
    Rule.ArrayOn s := ⟨.inl h.1, ⟨h.2.1, h.2.2.1⟩, h.2.2.2⟩

theorem witness_ArrayStarts : Rule.ArrayCommand 0 1 (.opaMm 0) ∧ startHead (mm0 false) 0 1 1 = some (f0 (mm false)) ∧
    (mm0 false).dq[(0 : Fin 32)].cls = 1 ∧ dInstance (mm false) = 0 ∧ opaStateOk (mm0 false) 0 (mm false) = true ∧
    profileOk (mm false) (profileOf (mm0 false) (mm false)) (profTable (mm0 false) (profileOf (mm0 false) (mm false)))
      (mm0 false).dq[(0 : Fin 32)].w = true ∧ opaPresent (mm0 false) 0 = true ∧ inTurn (.opaMm 0) (mm0 false) = true ∧
    (opaPresent { mm0 false with opa := { (mm0 false).opa with bandmap := .replicate 16 0xF } } 0 = false) ∧
    isOk (opaPrepare 0 0 0 (mm false) (profileOf (mm0 false) (mm false)) (mm0 false)).1 = true ∧
    (failure (opaPrepare 0 0 0 (mm false) (profileOf (mm0 false) (mm false)) (unmapped (mm0 false))).1).isSome = true ∧
    opaStateOk (headed 1 (mm true)) 0 (mm true) = false ∧ startHead (blockIn .run) 0 1 1 = none :=
  ⟨.mm, by decide +kernel⟩

theorem witness_StepsIssue : Rule.ArrayOn (mm2 false) ∧ Turn (.opaStepIssue 0) (mm2 false) ∧
    listsOut (mm2 false) 0 0 = false ∧ (getInst (mm2 false) 0).interval ≤ 1 ∧ (issuing (getInst (mm2 false) 0)).map (·.restart) = some false ∧
    (getInst (mm2 false) 0).jobs.length = 1 ∧ canStep (mm2 false) = true :=
  ⟨arrayOn _ (by decide +kernel), turn (by decide +kernel), by decide +kernel⟩

/-- 3 × 5 + 4 × 6 in the first accumulator (04:R105). -/
theorem test_step : ((getGroup (getInst (mm3 false) 0) 0).x.reg 0 0).1 = 39 := by decide +kernel

theorem witness_PassesBegin :
    Rule.ArrayOn (mm1 false) ∧ Turn (.opaStepIssue 0) (placed (.opaStepIssue 0) (mm1 false)) ∧
    Turn (.opaFormatSwitch 0) (placed (.opaFormatSwitch 0) (mm1 false)) ∧
    ((issuing (getInst (mm1 false) 0)).map fun j => (j.begun, j.restart, j.passNo, j.replayed)) = some (false, false, 0, false) ∧
    opaCont (mm false) = false ∧ bandGroups (mm1 false) 0 ≠ [] ∧ ((getInst (mm1 false) 0).fmt.toNat ≠ opaAccFmt (mm false)) ∧
    (∀ k < 4, (getGroup (getInst (mm1 false) 0) k).x.st = .free ∧ (getGroup (getInst (mm1 false) 0) k).y.st = .free) ∧
    (getInst (mm2 false) 0).fmt.toNat = opaAccFmt (mm false) ∧ onePass (mm2 true) 0 (mm true) = true :=
  ⟨arrayOn _ (by decide +kernel), turn (by decide +kernel), turn (by decide +kernel), by decide +kernel⟩

theorem witness_AccumulatorArithmetic : ((0 : BitVec 32), (0 : BitVec 32)).1 ≠ 0x80000000 ∧ ([1, 2] : List Int).sum ≠ 0 ∧
    ([1, -1] : List Int).sum = 0 ∧ (∃ p ∈ [XVal.nan false false 0], xIsNan p = true) ∧
    (.inf false : XVal) ∈ [.inf false, .inf true] ∧ (.inf true : XVal) ∉ [.inf false] := by
  decide +kernel

theorem first_of {P : OpaJob → Prop} {i : OpaInst} {j : OpaJob} (h : i.jobs = [j]) (p : P j) : Rule.First P i j :=
  ⟨p, [], [], by simp [h], by simp⟩

/-- The one job of instance 0. -/
def job (s : State) : OpaJob := (getInst s 0).jobs.headD default

/-- The drain-only descriptor of the held tile, behind the KEEP descriptor. -/
def dr : Desc :=
  desc 1 2 ((0x80001000 + 5 * 2 ^ 48 + 7 * 2 ^ 64 + 1 * 2 ^ 80 + 2 * 2 ^ 128) * 2 ^ 320 +
    (0x80002000 + 5 * 2 ^ 48 + 1 * 2 ^ 64 + 7 * 2 ^ 80 + 8 * 2 ^ 128) * 2 ^ 512 +
    (0x3000 + 0x14 * 2 ^ 48 + 7 * 2 ^ 64 + 7 * 2 ^ 80 + 32 * 2 ^ 128) * 2 ^ 704 + 1 * 2 ^ 39 * 2 ^ 896)

def mm6 : State := then_ (.opaKeepFinish 0) (mm3 true)
def mm7 : State :=
  then_ (.opaDrain 0) (Rule.withQ mm6 0 { mm6.dq[(0 : Fin 32)] with
    inflight := [], fetched := some { f0 dr with idx := 1 }, tail := 2 })

theorem witness_PassesDrain :
    Rule.ArrayOn (mm3 false) ∧ drainingSet (getInst (mm3 false) 0) = none ∧
    (getInst (mm3 false) 0).jobs = [job (mm3 false)] ∧ Rule.DrainsNext (mm3 false) (getInst (mm3 false) 0) (job (mm3 false)) ∧
    inTurn (.groupFinal 0) (mm3 false) = true ∧
    drainingSet (getInst mm4 0) = some (0, false) ∧ (getInst mm4 0).jobs = [job mm4] ∧
    (getGroup (getInst mm4 0) 0).x.owner = some ((job mm4).q.val, (job mm4).idx) ∧
    (dC (mm false)).scaled = false ∧ (8 * (getGroup (getInst mm4 0) 0).x.cubeRow < (getGroup (getInst mm4 0) 0).x.rows) ∧
    isOk (xlatReqs 0 [⟨3, .engWrite, [(0x3000, 1)]⟩] [] mm4).1 = true ∧ inTurn (.drainCubeRow 0) mm4 = true := by
  refine ⟨arrayOn _ (by decide +kernel), ?_⟩
  unfold Rule.DrainsNext Rule.OfPass
  decide +kernel

theorem witness_HeldSets :
    (getInst mm7 0).jobs = [job mm7] ∧ Rule.DrainsHeld mm7 (getInst mm7 0) (job mm7) ∧ drainingSet (getInst mm7 0) = none ∧
    (getGroup (getInst mm7 0) 0).tile ≠ none ∧ (getGroup (getInst mm7 0) 0).open_.bad = none ∧
    inTurn (.heldSetDrain 0) (placed (.heldSetDrain 0) mm7) = true ∧
    (getInst (mm3 true) 0).jobs = [job (mm3 true)] ∧ Rule.KeepsNow (mm3 true) (job (mm3 true)) ∧
    Rule.OfPass ((getGroup (getInst (mm3 true) 0) 0).set (drainSet (job (mm3 true)))) (job (mm3 true)) .settle ∧
    inTurn (.opaKeepFinish 0) (mm3 true) = true := by
  unfold Rule.DrainsHeld Rule.KeepsNow Rule.OfPass
  decide +kernel

/-- A pass that is not alone holds its last step until the pass before has had time to drain (03:R91). -/
theorem test_interval : (getInst (mm3 false) 0).interval = 112 := by decide +kernel

theorem test_drain : Memory.gets mm5.mem 0x3000 4 = [39, 0, 0, 0] := by decide +kernel

theorem witness_ArrayDetections : inTurn (.opaChecksumMiss 0 0 false 0 0 false) (mm3 false) = true ∧
    (∃ c ∈ ((getGroup (getInst (mm3 false) 0) 0).set false).blind, (0 : Nat) ∉ c.1 ∧ (0 : Nat) ∉ c.2) ∧ (mm3 false).svc.auto = 1 ∧ cubeOf (mm3 false) 0 0 0 = true ∧ cubeOf (mm3 false) 15 0 0 = false ∧
    ((getGroup (getInst (mm3 false) 0) 0).x.lastMiss ≠ some (cubeGroup 0) ∧
      ((mm3 false).svc.cgCount[(0 : Fin 16)] + 1).toNat < (mm3 false).svc.cgLimit.toNat) ∧
    ((getInst (mm3 false) 0).jobs.map fun j => (j.fail, dReplay j.desc)) = [(none, false)] ∧
    (getGroup (getInst (mm3 false) 0) 0).x.st = .settle ∧ (getGroup (getInst (mm3 false) 0) 1).x.owner = none := by
  decide +kernel

theorem witness_ArrayActivity : Rule.ArrayOn (mm3 false) ∧ Turn (.lambdaRamp 0) (mm3 false) ∧
    Turn (.dummyStepIssue 0) (mm3 false) ∧ Turn (.cgLeaveBand 3) (placed (.cgLeaveBand 3) (mm0 false)) ∧ (getInst (mm3 false) 0).activity = .ramp ∧
    (getInst (mm3 false) 0).lambda < 15 ∧ (getInst (blockIn .run) 0).activity = .longGap ∧
    ({ mm0 false with opa := { (mm0 false).opa with leaving := [3] } } : State).opa.leaving = [3] ∧
    (mm0 false).opa.pmode = 0 ∧ (∀ g : Fin 4, ((mm0 false).opa.inst[(0 : Fin 16)].groups[g]).tile = none) :=
  ⟨arrayOn _ (by decide +kernel), turn (by decide +kernel), turn (by decide +kernel), turn (by decide +kernel),
    by decide +kernel⟩

def drained_ (posted : Bool) : State :=
  let s := mm3 false
  let i := s.opa.inst[(0 : Fin 16)]
  let t := Rule.withInst s 0 { i with groups := .replicate 4 Group.reset, jobs := i.jobs.map fun j => { j with drained := 1 } }
  Rule.withQ t 0 { t.dq[(0 : Fin 32)] with inflight := (t.dq[(0 : Fin 32)]).inflight.map fun f => { f with posted := posted } }

theorem witness_DrainFinish (posted : Bool) :
    ((getInst (drained_ posted) 0).jobs.find? fun j => opaDrains j.desc && j.done && !drains (getInst (drained_ posted) 0) 0 0 &&
      (j.fail.isSome || (if j.only then j.drained == 1 else j.drained == j.passNo))).isSome = true ∧
    (getFlight (drained_ posted) 0 0).map (·.posted) = some posted ∧ portReqs (drained_ posted) 0 0 = [] ∧
    inTurn (.opaDrainFinish 0) (drained_ posted) = true := by
  cases posted <;> decide +kernel

/-! Management. -/

/-- Node 5 of the chain, at the place of Snowdrop's commands. -/
def node (st : BlockState) : State :=
  let s := placed (.odRead .mailbox []) (blockIn st)
  { s with
    mg := { s.mg with nodeAddr := 5, keys := s.mg.keys.set 0 (some 1) }, bnd := { s.bnd with chainIn := true } }

/-- A request from address 1 to address 5, with the CRC of its frame. -/
def frame (ty : Nat) (p : List Byte) : Path := .chain 5 1 2 (frameOf (BitVec.ofNat 8 ty) 5 1 2 p).crc

theorem unanswered (s : State) (h : s.mg.lastResp = none) (src : BitVec 12) (seq : Byte) (ty : Nat) (crc : BitVec 32)
    (r : List Byte) : ¬ Rule.Again s src seq ty crc r := by
  unfold Rule.Again; rw [h]; exact fun h => by cases h

theorem idle_mailbox (s : State) (h : s.mbox.cmd = none) : ¬ Rule.MailWaits s := fun w => w.1 h

theorem heard (st : BlockState) (ty : Nat) (p : List Byte) : Rule.Heard (node st) (frame ty p) ty p :=
  ⟨rfl, ⟨rfl, rfl⟩, ⟨rfl, by show (5 : BitVec 16) ≠ 0; decide, rfl⟩, by decide, idle_mailbox _ rfl, rfl, unanswered _ rfl _ _ _ _⟩

/-- The mailbox holds a request. -/
def mailed (s : State) : State := { s with mbox := { s.mbox with busy := true, cmd := some ⟨1, 9, [0x10, 0x10, 0, 0]⟩ } }

theorem heard_mailbox : Rule.Heard (mailed (node .run)) .mailbox 1 [0x10, 0x10, 0, 0] :=
  ⟨rfl, rfl, rfl, _, rfl, rfl, rfl⟩

def read1010 : List Byte := [0x10, 0x10, 0, 0]

theorem witness_DictionaryCommands : Rule.DictCommand (frame 1 read1010) read1010 1 (.odRead (frame 1 read1010) read1010) ∧
    Rule.Heard (node .run) (frame 1 read1010) 1 read1010 ∧ Turn (.odRead (frame 1 read1010) read1010) (node .run) ∧
    (odCheck 1 read1010 (node .run)).1 = 0 ∧
    odEntry 0xFFFF 0 = none ∧
    (odCheck 2 (payWrite 0x5020 2 [1]) (node .run)).1 / 2 ^ 24 ∈ [4, 5, 6] ∧
    (odCheck 2 (payWrite 0x1010 0 [0xFE, 0x0F]) (node .run)).1 / 2 ^ 24 ∉ [0, 4, 5, 6] ∧
    (odCheck 2 (payWrite 0x1010 0 [7, 0]) (node .run)).1 = 0 ∧ testOpen (node .run) (node .run).mg.regOffset.toNat = false :=
  ⟨.read, heard _ _ _, turn (by decide +kernel), by decide +kernel⟩

/-- A chain request that is held behind the mailbox's. -/
def queueing : State := { mailed (node .run) with mg := { (node .run).mg with
  chainReq := some (frameOf 1 5 1 3 read1010) } }

theorem witness_DictionaryHeld : Rule.InMailbox queueing 1 read1010 ∧ queueing.mg.chainReq.isSome = true ∧
    Rule.MailWaits queueing ∧ Rule.MailWaits (mailed (node .run)) ∧ Rule.Calm (mailed (node .run)) ∧ Rule.Calm (node .run) ∧
    Turn (.odRead .mailbox read1010) queueing ∧
    (queueing.mg.chainReq.map fun f => (f.ty, f.seq)) = some (1, 3) :=
  ⟨⟨rfl, rfl, _, rfl, rfl, rfl⟩, rfl, ⟨by decide, rfl⟩, ⟨by decide, rfl⟩, .inl rfl, .inl rfl, turn (by decide +kernel), rfl⟩

/-- A frame to address 7, a broadcast write, and a frame with a wrong CRC. -/
theorem witness_DictionaryFrames : Rule.Linked (node .run) ∧ ¬ Rule.Addressed (node .run) 7 ∧ ¬ Rule.Addressed (node .run) 0xFFF ∧
    Rule.Addressed (node .run) 5 ∧ (0 : BitVec 32) ≠ (frameOf 1 5 1 2 read1010).crc ∧
    (odCheck 2 (payWrite 0x1010 0 [7, 0]) (node .run)).1 = 0 ∧
    Turn (.odRead (.chain 7 1 2 (frameOf 1 7 1 2 read1010).crc) read1010) (node .run) :=
  ⟨⟨rfl, rfl⟩, fun h => absurd h.2.2 (by decide +kernel), fun h => absurd h.2.2 (by decide +kernel),
    ⟨rfl, by decide +kernel, by decide +kernel⟩, by decide +kernel, by decide +kernel, turn (by decide +kernel)⟩

/-- A response: TYPE 4, DEST 1, SRC 5, SEQ 2, LEN 6, code 0, the address, and its CRC (13:R375, R376). -/
theorem test_read_node : leaves (.odRead (frame 1 read1010) read1010) (node .run)
    (fun t => t.mg.chainOut.map fun f => (f.take 14, f.length)) =
      some [([4, 1, 0, 5, 0, 2, 6, 0, 0, 0, 0, 0, 5, 0], 18)] := by
  decide +kernel

theorem test_short_payload : leaves (.odRead (frame 1 [0x10, 0x10, 0]) [0x10, 0x10, 0]) (node .run)
    (fun t => t.mg.chainOut.map fun f => (f.drop 8).take 4) = some [natLe 0x02000003 4] := by
  decide +kernel

/-- A frame that is not the block's passes on as it came (13:R377). -/
theorem test_forward : leaves (.odRead (.chain 7 1 2 (frameOf 1 7 1 2 read1010).crc) read1010) (node .run) (·.mg.chainOut) =
    some [(frameOf 1 7 1 2 read1010).bytes] := by decide +kernel

/-- A request while another is unanswered (13:R369). -/
theorem test_busy : leaves (.odRead (.chain 5 1 4 (frameOf 1 5 1 4 read1010).crc) read1010) queueing
    (fun t => t.mg.chainOut.map fun f => (f.drop 8).take 4) = some [natLe 0x09000001 4] := by decide +kernel

theorem witness_DictionaryWrites : Rule.Heard (node .config) (frame 2 (payWrite 0x5020 2 [1])) 2 (payWrite 0x5020 2 [1]) ∧
    Turn (.imgBlock (frame 2 (payWrite 0x5020 2 [1])) [1]) (node .config) ∧
    (node .config).ctl.state = .config ∧ (node .config).mg.imgOffset.toNat + 1 ≤ 524288 ∧ (0xFFD : BitVec 16).toNat ≤ 0xFFD ∧
    applyOpen (node .config) = true ∧ (node .config).mg.regOffset.toNat / 2 ^ 20 ∉ [1, 2, 6] ∧
    parityAt (node .config) 0 = false ∧ (node .config).gen.latent = [] ∧ testOpen (node .config) 0 = false :=
  ⟨heard _ _ _, turn (by decide +kernel), by decide +kernel⟩

/-- The CMAC over the die identifier, the nonce and a payload, with key 1 (13:R372). -/
def tagOf (st : BlockState) (idx sub : Nat) (data : List Byte) : Word :=
  BitVec.ofNat 64 (leNat ((cmac (natLe 1 16) (fuseBytes (node st) 8 8 ++ natLe (node st).mg.nonce.toNat 8 ++
    natLe idx 2 ++ natLe sub 1 ++ [0] ++ natLe 1 4 ++ data)).take 8))

def auth (st : BlockState) (idx sub : Nat) (data : List Byte) : Auth := ⟨0, 1, tagOf st idx sub data⟩

theorem xorBytes_length (a b : List Byte) : (xorBytes a b).length = min a.length b.length := by simp [xorBytes]

theorem aesNextKey_length (rc : Byte) (k : List Byte) (h : k.length = 16) : (aesNextKey rc k).length = 16 := by
  simp [aesNextKey, xorBytes_length, h]

theorem aesRounds_length : ∀ (n : Nat) (rc : Byte) (k s : List Byte), k.length = 16 →
    (aesRounds (n + 1) rc k s).length = 16
  | 0, rc, k, s, h => by simp [aesRounds, xorBytes_length, aesNextKey_length rc k h, aesShift]
  | n + 1, rc, k, s, h => by
    rw [aesRounds]; exact aesRounds_length n _ _ _ (aesNextKey_length rc k h)

theorem cmac_length (k m : List Byte) (h : k.length = 16) : (cmac k m).length = 16 := by
  unfold cmac
  simp only [List.foldl_append, List.foldl_cons, List.foldl_nil]
  exact aesRounds_length 9 _ _ _ h

theorem natLe_leNat : ∀ l : List Byte, natLe (leNat l) l.length = l
  | [] => rfl
  | b :: bs => by
    have hb : b.toNat < 256 := b.isLt
    have h1 : (b.toNat + 256 * leNat bs) / 256 = leNat bs := by omega
    have h2 : BitVec.ofNat 8 (b.toNat + 256 * leNat bs) = b := by
      apply BitVec.eq_of_toNat_eq; rw [BitVec.toNat_ofNat]; omega
    simp only [leNat, List.length_cons, natLe, h1, h2, natLe_leNat bs]

theorem leNat_lt : ∀ l : List Byte, leNat l < 256 ^ l.length
  | [] => by simp [leNat]
  | b :: bs => by
    have hb : b.toNat < 256 := b.isLt
    have := leNat_lt bs
    rw [List.length_cons, Nat.pow_succ, leNat]; omega

/-- Eight bytes are the bytes of the word they spell. -/
theorem tag_bytes (l : List Byte) (h : l.length = 8) : l = natLe (BitVec.ofNat 64 (leNat l)).toNat 8 := by
  have h1 := leNat_lt l
  rw [h] at h1
  rw [BitVec.toNat_ofNat, Nat.mod_eq_of_lt (by simpa using h1), ← h, natLe_leNat]

theorem authorised (st : BlockState) (idx sub : Nat) (data : List Byte) :
    Rule.Authorised (node st) (frame 3 (payAwrite idx sub (auth st idx sub data) data)) idx sub (auth st idx sub data) data 0 1 :=
  ⟨heard _ _ _, ⟨rfl, rfl⟩, fun _ => .inl rfl, tag_bytes _ (by simp [cmac_length, natLe]), ⟨rfl, by show (node st).mg.counters[0].toNat < 1; cases st <;> decide +kernel⟩⟩

def entry2000 (st : BlockState) : Path := frame 3 (payAwrite 0x2000 4 (auth st 0x2000 4 [1]) [1])

theorem witness_Authorised : Rule.Authorised (node .config) (entry2000 .config) 0x2000 4 (auth .config 0x2000 4 [1]) [1] 0 1 ∧
    (∃ s₀, (livesIn (.serviceEnter (entry2000 .config) (auth .config 0x2000 4 [1]))).now s₀ = true ∧
      Rule.finds (.serviceEnter (entry2000 .config) (auth .config 0x2000 4 [1])) s₀ = node .config) :=
  ⟨authorised _ _ _ _, in_place (by decide +kernel)⟩

theorem witness_ServiceState : (node .config).ctl.state = .config ∧ quiet (node .hold) = true ∧ (node .service).ctl.state = .service ∧
    Rule.Authorised (node .service) (frame 3 (payAwrite 0x5000 0 (auth .service 0x5000 0 (natLe 1 4)) (natLe 1 4))) 0x5000 0
      (auth .service 0x5000 0 (natLe 1 4)) (natLe 1 4) 0 1 :=
  ⟨rfl, by decide +kernel, rfl, authorised _ _ _ _⟩

/-! Units. -/

theorem witness_UnitCommands : Rule.MayEnter (node .run) 0x0403 ∧ Rule.MayRetire (node .run) 0x0100 ∧
    Rule.MayLeave { node .run with svc := { (node .run).svc with ve := 8, tested := [(0x0403, true)] } } 0x0403 ∧
    Rule.Authorised (node .run) (frame 3 (payAwrite 0x5001 0 (auth .run 0x5001 0 (natLe (1 * 2 ^ 24 + 0x0403) 4))
      (natLe (1 * 2 ^ 24 + 0x0403) 4))) 0x5001 0 (auth .run 0x5001 0 (natLe (1 * 2 ^ 24 + 0x0403) 4))
      (natLe (1 * 2 ^ 24 + 0x0403) 4) 0 1 := by
  refine ⟨⟨⟨by decide +kernel, by decide +kernel, by decide +kernel, by decide +kernel⟩, .inl rfl, by decide +kernel,
      by decide +kernel, by decide +kernel⟩,
    ⟨⟨by decide +kernel, by decide +kernel, by decide +kernel, by decide +kernel⟩, .inr (.inl rfl), by decide +kernel⟩,
    ⟨⟨by decide +kernel, by decide +kernel, by decide +kernel, by decide +kernel⟩, .inl rfl, by decide +kernel, ?_⟩,
    authorised _ _ _ _⟩
  constructor
  · exact List.mem_singleton.mpr rfl
  · intro h; exact absurd (List.mem_singleton.mp h) (by decide)

def entering (u : BitVec 16) (ve : Byte) : State :=
  { node .run with svc := { (node .run).svc with trans := [(u, .entering)], ve := ve } }

theorem witness_UnitsInService : Rule.AtEntry (entering 0x0403 0) 0x0403 ∧ transOf (node .run) 0x0403 ≠ some .entering ∧
    inSub (entering 0x0403 8) 0x0403 = true ∧ inSub (node .run) 0x0403 = false ∧ veInService (entering 0x0403 0xFF) = 0 ∧
    (∀ q : Fin 32, ((entering 0x0403 0).dq[q]).inflight = []) ∧
    (let p := placed (.unitServiceEntry 0x0403) (entering 0x0403 0)
     inTurn (.unitServiceEntry 0x0403) p = true ∧ inTurn (.veSliceLeave 3) p = true ∧
      inTurn (.unitTestComplete 0x0403 true 0) (placed (.unitTestComplete 0 true 0) (entering 0x0403 8)) = true) :=
  ⟨⟨by decide +kernel, by decide +kernel, by decide +kernel, by decide +kernel, by decide +kernel⟩, by decide +kernel⟩

def assignAt (pos addr : Nat) : Frame := frameOf 6 0xFFF 1 2 (natLe pos 2 ++ natLe addr 2)

/-- The chain at the place of its enumeration. -/
def linked (pos : BitVec 16) (addr : BitVec 16) : State :=
  let s := placed (.creset 1 2) (node .run)
  { s with mg := { s.mg with chainPos := pos, nodeAddr := addr } }

theorem witness_Chain : Rule.Linked (linked 0 5) ∧ (linked 0 5).ctl.fwUp = true ∧ (linked 3 0).mg.chainPos = 3 ∧
    (linked 3 0).mg.chainReq = none ∧ ¬ Rule.MailWaits (linked 3 0) ∧
    (∀ r, ¬ Rule.Again (linked 3 0) 1 2 6 (assignAt 3 7).crc r) ∧ (0 : BitVec 32) ≠ (assignAt 3 7).crc ∧
    (bytesGood (assignAt 3 7).bytes = true ∧ bytesGood (0 :: (assignAt 3 7).bytes) = false) ∧
    ({ node .run with ctl := { (node .run).ctl with fwRestart := true } } : State).ctl.fwRestart = true ∧
    inTurn (.creset 1 2) (linked 0 5) = true ∧ inTurn (.assign 1 2 (assignAt 3 7).crc 3 7) (linked 3 0) = true ∧
    inTurn (.chainFrameDiscarded [0]) (linked 0 5) = true ∧ inTurn .snowdropRestart (placed .snowdropRestart (node .run)) = true :=
  ⟨⟨rfl, rfl⟩, rfl, rfl, rfl, idle_mailbox _ rfl, unanswered _ rfl _ _ _ _, by decide +kernel⟩

/-- ASSIGN is taken at its position, passed on, and answered from the new address (13:R379). -/
theorem test_assign : leaves (.assign 1 2 (assignAt 3 7).crc 3 7) (linked 3 0)
    (fun t => (t.mg.nodeAddr, t.mg.chainOut.map fun f => f.take 5)) =
      some (7, [[6, 0xFF, 0xF, 1, 0], [4, 1, 0, 7, 0]]) := by decide +kernel

/-! Sensors and clocks. -/

/-- A sample with one junction at a temperature (14:R413). -/
def sample (t : BitVec 32) : Sample := ⟨(Vector.replicate 16 0x41C80000).set 3 t, .replicate 2 0, 0, 0⟩

theorem witness_SensorReadings : Rule.Hottest (sample 0x42DC0000).tj 3 ∧
    le32 0x42DC0000 (0x42DC0000 : BitVec 32).toNat = true ∧ le32 0x42DC0000 (0x42DBFFFF : BitVec 32).toNat = false ∧
    le32 0x42C80000 (0x42C7FFFF : BitVec 32).toNat = false ∧ (blockIn .run).sens.tripped = false ∧
    (blockIn .run).beat.value.toNat % max 1 (blockIn .run).sens.sampleOn.toNat = 0 ∧
    ((atBeat (blockIn .run) 1).beat.value.toNat % max 1 (blockIn .run).sens.sampleOn.toNat ≠ 0 ∨
      (blockIn .run).sens.sampleOn.toNat ≤ 1) ∧
    inTurn (.sensorSample (sample 0x42DC0000)) (blockIn .run) = true ∧
    inTurn (.hwComparatorTrip true 3 0x42E70000) (blockIn .run) = true :=
  ⟨⟨by decide +kernel, by decide +kernel, by decide +kernel⟩, by decide +kernel⟩

/-- 110 degrees is fatal, the reading below it is not (16:R445). -/
theorem test_thermal :
    leaves (.sensorSample (sample 0x42DC0000)) (blockIn .run) (·.ctl.state) = some .fault ∧
    leaves (.sensorSample (sample 0x42DBFFFF)) (blockIn .run) (fun t => (t.ctl.state, t.flt.detected.length)) =
      some (.run, 1) := by
  decide +kernel

def fused : State :=
  { blockIn .run with fuses := { Fuses.reset with words := .replicate 1024 0x01000100 } }

/-- The references of the path-delay monitors at 0xF0 to 0x14F, the temperature coefficients 0 (14:R413, R414). -/
def coefficients : State :=
  { blockIn .run with fuses := { Fuses.reset with
    words := ⟨(List.replicate 60 (0 : BitVec 32) ++ (List.replicate 24 0x01000100 ++ List.replicate 940 0)).toArray, by
      simp only [List.size_toArray, List.length_append, List.length_replicate]⟩ } }

theorem witness_Replans : (∀ i : Fin 96, normalCount coefficients i.val ((checks true []).monitors.ro[i]) ≠ 0) ∧
    (∀ j : Fin 48, fuseNat coefficients (0xF0 + 2 * j.val) 2 ≠ 0) ∧ coefficients.sens.plan ≠ 3 ∧
    coefficients.beat.value.toNat % max 1 coefficients.sens.replanOn.toNat = 0 ∧
    (BitVec.ofNat 16 (fuseNat coefficients 0x150 2)).toInt = 0 ∧ (BitVec.ofNat 16 (fuseNat fused 0x150 2)).toInt = 256 ∧
    inPlace (.marginReplan (checks true []).monitors) coefficients = true := by
  decide +kernel

def clocked (hold : ClockHold) (plan : BitVec 2) (vreq : BitVec 7) (target : Nat) : State :=
  let s := blockIn .run
  { s with sens := { s.sens with hold := hold, plan := plan, target := target, vlimit := 1000 },
           bnd := { s.bnd with vack := true, vreq := vreq } }

theorem witness_VoltageAndClock :
    ((clocked .none 0 10 700).bnd.vreq.toNat < Rule.goalCode (clocked .none 0 10 700)) ∧
    (Rule.goalCode (clocked .none 0 30 700) < (clocked .none 0 30 700).bnd.vreq.toNat) ∧
    (clocked .none 0 10 700).bnd.vack = true ∧ (clocked .none 0 10 700).bnd.vackHold = false ∧
    (clocked .none 0 10 700).sens.stepped = false ∧
    ({ blockIn .run with bnd := { (blockIn .run).bnd with vack := false } } : State).bnd.vack = false ∧
    (clocked .waiting 0 30 700).sens.hold = .waiting ∧ (clocked .waiting 0 30 700).sens.vlimit = 1000 ∧ (clocked (.emptying 1) 0 10 700).sens.hold = .emptying 1 ∧
    (∀ (n : Fin 16) (g : Fin 4), let x := (clocked (.emptying 1) 0 10 700).opa.inst[n].groups[g]
      x.x.st ≠ .settle ∧ x.x.st ≠ .drain ∧ x.y.st ≠ .settle ∧ x.y.st ≠ .drain) ∧
    (1 : BitVec 2) ≠ (clocked .none 0 10 700).bnd.aclkCur ∧ (clocked .none 0 10 700).bnd.aclkCur = (clocked .none 0 10 700).bnd.aclkSel ∧
    inTurn .voltageStep (clocked .none 0 10 700) = true ∧ inTurn .aclkPipelineEmpty (clocked (.emptying 1) 0 10 700) = true ∧
    inTurn (.aclkCurChange 1) (clocked .none 0 10 700) = true ∧ inTurn .aclkSwitchLate (clocked .waiting 0 30 700) = true := by
  decide +kernel

/-- One step of 5 mV in a beat (14:R415). -/
theorem test_voltage_up :
    leaves .voltageStep (clocked .none 0 10 700) (fun t => (t.bnd.vreq, t.bnd.vreqStb)) = some (11, true) ∧
    ((leaves .voltageStep (clocked .none 0 10 700) id).bind fun t => leaves .voltageStep t (·.bnd.vreq)) = some 11 := by
  decide +kernel

/-! Formats, steps and the invariant. -/

theorem witness_NumberFormats : Rule.LongFormat flt32 ∧ Rule.NarrowFormat ⟨2, 1, 2, false⟩ ∧ 0xFF7FFFFF < 2 ^ (flt32.k + flt32.p + 1) ∧
    valIsNan (flt32.decode 0xFF7FFFFF) = false ∧ ¬ 2 ∣ 3 ∧ (3 : Nat) < 2 ^ 2 := by
  refine ⟨.inr (.inr (.inl rfl)), .inr (.inr (.inr rfl)), ?_⟩
  decide +kernel

/-- The even of two neighbours as near, in VF4 (02:R55). -/
theorem test_nearest : roundQ ⟨0, 0, 12, false⟩ false 5 2 = 2 ∧ roundQ ⟨0, 0, 12, false⟩ false 7 2 = 4 := by decide

theorem witness_StepRunsFront : ({ blockIn .run with pending := [.bypass] } : State).pending = [.bypass] := rfl

/-- An idle step ends an f-cycle (log 1). -/
theorem test_cycle : (match step (blockIn .run) with | .next t => t.ctl.fcycles | _ => 0) = 1 ∧
    (match step (held true false) with | .next t => t.ctl.fcycles | _ => 7) = 0 := by decide +kernel

theorem witness_CommandsComplete : (livesIn .applyIn).now (held true false) = false ∧
    ((livesIn .applyIn).now (blockIn .run) = true ∧ (livesIn .applyIn).now (arrive (placeOf .applyIn) (blockIn .run)) = true) ∧
    (∃ t, effect (.descriptorFetch 0) (Rule.finds (.descriptorFetch 0) (mapped (ringed fun e => { e with tail := 1 }))) = .next t ∧
      t.memp.asks ≠ []) ∧
    Rule.Runs (.registerWrite .host 0x28 1) (blockIn .run) :=
  ⟨by decide +kernel, by decide +kernel, ⟨_, rfl, by decide +kernel⟩, fun _ => by decide +kernel⟩

def applying : State := { blockIn .run with gen := { (blockIn .run).gen with now := true } }

theorem witness_CyclesEnd : (blockIn .run).pending = [] ∧ (blockIn .run).ctl.por = false ∧ (blockIn .run).ctl.wres = false ∧
    (held true false).ctl.por = true ∧ (blockIn .run).bnd.hostHeld = [] ∧ (blockIn .run).rme.inHeld = [] ∧
    (blockIn .run).gen.now = false ∧ applying.gen.now = true ∧ Rule.NoMismatch applying ∧ Rule.NoUses applying :=
  ⟨rfl, rfl, rfl, rfl, rfl, rfl, rfl, rfl, ⟨rfl, rfl, rfl⟩, noUses .run⟩

/-- GEN_APPLY.NOW is taken at the start of the next f-cycle (13:R384). -/
theorem test_now : (match step applying with | .next t => (t.gen.applies, t.ctl.fcycles) | _ => (0, 0)) = (1, 1) := by
  decide +kernel

theorem task_reset (c : Fin 8) (t : Fin 256) : ((State.reset.cores[c]).tasks[t]).st = .invalid := by
  simp [State.reset, Core.reset]
  rfl

theorem witness_NoDueBinding : Rule.NotDue { blockIn .run with pending := [.bypass] } ∧
    (match step { blockIn .run with pending := [.bypass] } with | .next t => t.tap.ir | _ => 0) = 0xFF := by
  refine ⟨⟨?_, ?_, ?_⟩, by decide +kernel⟩
  · intro c t _ x h
    exact absurd (show ((State.reset.cores[c]).tasks[t]).st = .invalid from task_reset c t) h
  · intro c t _ x h
    exact absurd (show ((State.reset.cores[c]).tasks[t]).st = .invalid from task_reset c t) h
  · decide +kernel

end Sys2Proof.Tests
end

/-! SUPPORT. Register writes (O9): who reaches a register, where a write falls, and what each register's write sets. -/

namespace Sys2Proof.Machine

/-! Writers of registers (13:R383, 00:R14). -/

/-- The host or a core that runs reaches every register (15:R430, 01:R27). -/
theorem srcReaches_of_writer {s : State} {src : Src} (h : Rule.Writer s src) (off : Nat) :
    srcReaches s src off = true := by
  cases src with
  | host => simpa [srcReaches, Rule.Writer] using h
  | core c => exact h
  | snowdrop => exact h.elim

/-- Outside the test range only GEN_TESTCTL can stop a write. -/
theorem regStop_eq_none {s : State} {off : Nat} {v : Word} (hlow : off < 0x1000000)
    (hkeep : off ≠ 0x50 ∨ v.extractLsb' 0 32 = s.gen.testctl) : regStop s off v = none := by
  have ht : testOpen s off = false := by simp [testOpen, Nat.not_le.mpr hlow]
  have hk : (off == 0x50 && v.extractLsb' 0 32 != s.gen.testctl) = false := by
    rcases hkeep with h | h <;> simp [h]
  simp [regStop, ht, hk]

/-- GEN_TESTCTL stops a write that changes it (00:R16). -/
theorem regStop_testctl {s : State} {v : Word} (h : v.extractLsb' 0 32 ≠ s.gen.testctl) :
    regStop s 0x50 v = some .keepBitChanged := by
  have ht : testOpen s 0x50 = false := rfl
  simp [regStop, ht, h]

theorem writeReg_of_writer {s : State} {src : Src} (hw : Rule.Writer s src) (off : Nat) (v : Word) :
    writeReg src off v s = finish s (regStop s off v) (regWrite src off v s) := by
  simp [writeReg, srcWrite, srcReaches_of_writer hw]

/-- A writer's write below the test range, of another register than GEN_TESTCTL or with its bits unchanged. -/
theorem writeReg_eq_next {s t : State} {src : Src} {off : Nat} {v : Word} (hw : Rule.Writer s src)
    (hlow : off < 0x1000000) (hkeep : off ≠ 0x50 ∨ v.extractLsb' 0 32 = s.gen.testctl)
    (ht : regWrite src off v s = t) : writeReg src off v s = .next (settle s t) := by
  rw [writeReg_of_writer hw, regStop_eq_none hlow hkeep, ht]
  rfl

/-! The region that a write falls in (01:R35). -/

theorem regWrite_dq (src : Src) (q : Fin 32) {r : Nat} (hr : r < 0x1000) (v : Word) (s : State) :
    regWrite src (dqOff q r) v s = dqWrite q r v s := by
  have hreg : dqOff q r / 0x100000 = 1 := by unfold dqOff; omega
  have hlow : dqOff q r < 0x120000 := by unfold dqOff; omega
  have hq : past 0x100000 (dqOff q r) / 0x1000 = q := by unfold past dqOff; omega
  have hrem : dqOff q r % 0x1000 = r := by unfold dqOff; omega
  simp [regWrite, hreg, hlow, hq, hrem]

theorem regWrite_opa (src : Src) {off : Nat} (h : off / 0x100000 = 3) (v : Word) (s : State) :
    regWrite src off v s = opaWrite off v s := by
  simp [regWrite, h]

theorem regWrite_rme (src : Src) {off : Nat} (h : off / 0x100000 = 5) (v : Word) (s : State) :
    regWrite src off v s = rmeWrite off v s := by
  simp [regWrite, h]

theorem regWrite_mbox (src : Src) {off : Nat} (h : off / 0x100000 = 0xC) (v : Word) (s : State) :
    regWrite src off v s = mboxWrite (past 0xC00000 off) v s := by
  simp [regWrite, h]

theorem toNat_dqReg (q : Fin 32) {r : Nat} (hr : r < 0x1000) : (Rule.dqReg q r).toNat = dqOff q r := by
  simp only [Rule.dqReg, dqOff, BitVec.toNat_ofNat]
  omega

@[simp] theorem getQ_fin (s : State) (q : Fin 32) : getQ s q.val = s.dq[q] := vget_fin _ q _

/-- A queue changed is the queue put in its place. -/
theorem modQ_fin (q : Fin 32) (f : Queue → Queue) (s : State) : modQ q.val f s = Rule.withQ s q (f s.dq[q]) := by
  simp [modQ, Rule.withQ]

/-! SQC registers (00:R18). -/

theorem sqMiss_true (s : State) : sqMiss true s = Rule.late s := rfl

theorem sqMiss_false (s : State) :
    sqMiss false s = Rule.late { s with gen := { s.gen with sqmiss := s.gen.sqmiss + 1 } } := rfl

theorem Sqc.write_of_seq_eq {r : Sqc} {v : Word} (h : r.seq = v.extractLsb' 48 16) :
    r.write v = ({ r with status := r.status &&& ~~~(v.extractLsb' 0 48), stamp := 0 }, true) := by
  simp [Sqc.write, h]

theorem Sqc.write_of_seq_ne {r : Sqc} {v : Word} (h : r.seq ≠ v.extractLsb' 48 16) : r.write v = (r, false) := by
  simp [Sqc.write, h.symm]

/-- What a write of an SQC register comes to: its value and the count of GEN_SQMISS are Sqc.write's. -/
structure SqcWritten (off : Nat) (get : State → Sqc) (put : State → Sqc → State) : Prop where
  sqc   : isSqc off = true
  low   : off < 0x1000000
  keep  : off ≠ 0x50
  same  : ∀ s, put s (get s) = s
  write : ∀ (src : Src) (v : Word) (s : State),
    regWrite src off v s = sqMiss ((get s).write v).2 (put s ((get s).write v).1)

theorem withQ_self (s : State) (q : Fin 32) : Rule.withQ s q s.dq[q] = s := by
  simp [Rule.withQ]

theorem isSqc_dqOff (q : Fin 32) : isSqc (dqOff q 0x30) = true := by
  have h1 : 0x100000 ≤ dqOff q 0x30 := by unfold dqOff; omega
  have h2 : dqOff q 0x30 < 0x120000 := by unfold dqOff; omega
  have h3 : dqOff q 0x30 % 0x1000 = 0x30 := by unfold dqOff; omega
  simp [isSqc, h1, h2, h3]

theorem sqcWritten_dq (q : Fin 32) : SqcWritten (dqOff q 0x30) (fun s => (s.dq[q]).status)
    (fun s r => Rule.withQ s q { s.dq[q] with status := r }) where
  sqc := isSqc_dqOff q
  low := by unfold dqOff; omega
  keep := by unfold dqOff; omega
  same s := withQ_self s q
  write src v s := by
    rw [regWrite_dq src q (by decide)]
    simp only [dqWrite, getQ_fin, modQ_fin]

/-- Every SQC register outside the cores is written so; but for a queue's, its offset is a numeral, and computes. -/
theorem sqcWritten_of_sqcAt {off : BitVec 26} {get : State → Sqc} {put : State → Sqc → State}
    (h : Rule.SqcAt off get put) : SqcWritten off.toNat get put := by
  cases h with
  | dq q => rw [toNat_dqReg q (by decide)]; exact sqcWritten_dq q
  | _ => exact ⟨rfl, by decide, by decide, fun _ => rfl, fun _ _ _ => rfl⟩

/-- SQC_CLEAR of a writer gives what the write of the register gives. -/
theorem gives_sqcClear {s t : State} {src : Src} {off : BitVec 26} {v : Word} {get : State → Sqc}
    {put : State → Sqc → State} (h : Rule.SqcAt off get put) (hw : Rule.Writer s src)
    (ht : sqMiss ((get s).write v).2 (put s ((get s).write v).1) = t) : Rule.Gives (.sqcClear src off v) s t := by
  have k := sqcWritten_of_sqcAt h
  apply gives_of_effect
  simp only [effect, effectSqcClear, k.sqc, if_true]
  exact writeReg_eq_next hw k.low (.inl k.keep) ((k.write ..).trans ht)

theorem sqcWrites : Rule.SqcWrites := by
  intro s src off v get put h hw
  refine ⟨fun hs => gives_sqcClear h hw ?_, fun hs => gives_sqcClear h hw ?_⟩
  · rw [Sqc.write_of_seq_eq hs, sqMiss_true]
  · rw [Sqc.write_of_seq_ne hs, (sqcWritten_of_sqcAt h).same, sqMiss_false]

/-! Registers of one field set (00:R14, R16). -/

/-- Where no register holds a mismatch a write ends none. -/
theorem endMismatch_of_noMismatch {s : State} {off : Nat} (h : Rule.NoMismatch s) : endMismatch off s = s := by
  obtain ⟨hp, hr, hl⟩ := h
  have hg : endMismatch off s = { s with gen := { s.gen with
      parity := s.gen.parity, parityRec := s.gen.parityRec, latent := s.gen.latent } } := by
    simp [endMismatch, hp, hr, hl]
  exact hg

/-- REGISTER_WRITE of a writer at an aligned offset gives what the write of the register gives. -/
theorem gives_registerWrite {s t : State} {src : Src} {off : Nat} {v : Word} (hw : Rule.Writer s src)
    (h8 : off % 8 = 0) (hlow : off < 0x1000000) (hkeep : off ≠ 0x50 ∨ v.extractLsb' 0 32 = s.gen.testctl)
    (ht : regWrite src off v s = t) : Rule.Gives (.registerWrite src (BitVec.ofNat 26 off) v) s t := by
  have ho : (BitVec.ofNat 26 off).toNat = off := by rw [BitVec.toNat_ofNat]; omega
  apply gives_of_effect
  simp only [effect, effectRegisterWrite, ho, h8, beq_self_eq_true, if_true]
  exact writeReg_eq_next hw hlow hkeep ht

theorem comes_registerWrite_unaligned (s : State) (src : Src) (v : Word) {off : BitVec 26} (h : off.toNat % 8 ≠ 0) :
    Rule.Comes (.registerWrite src off v) s s := by
  apply comes_of_effect
  simp [effect, effectRegisterWrite, h]

theorem stops_registerWrite_testctl {s : State} {src : Src} {v : Word} (hw : Rule.Writer s src)
    (h : v.extractLsb' 0 32 ≠ s.gen.testctl) : Rule.Stops (.registerWrite src 0x50 v) s .keepBitChanged := by
  apply stops_of_effect
  refine (writeReg_of_writer hw 0x50 v).trans ?_
  rw [regStop_testctl h]
  rfl

/-- A DQ register of a queue, at an aligned offset. -/
theorem gives_registerWrite_dq {s t : State} {src : Src} {v : Word} (hw : Rule.Writer s src) (q : Fin 32) {r : Nat}
    (hr : r < 0x1000) (h8 : r % 8 = 0) (ht : dqWrite q r v s = t) :
    Rule.Gives (.registerWrite src (Rule.dqReg q r) v) s t := by
  have ho : dqOff q r = 0x100000 + q.val * 0x1000 + r := rfl
  exact gives_registerWrite hw (by omega) (by omega) (.inl (by omega)) ((regWrite_dq src q hr v s).trans ht)

theorem dqWrite_seed {s : State} (h : Rule.NoMismatch s) (q : Fin 32) (v : Word) :
    dqWrite q 0x48 v s = Rule.late (Rule.withQ s q { s.dq[q] with seed := v }) := by
  simp only [dqWrite, modQ_fin]
  exact congrArg Rule.late (endMismatch_of_noMismatch h)

theorem dqWrite_rcfg {s : State} (h : Rule.NoMismatch s) (q : Fin 32) (v : Word) :
    dqWrite q 0x50 v s = Rule.late (Rule.withQ s q { s.dq[q] with w := v.extractLsb' 0 5, fast := v.getLsbD 8 }) := by
  simp only [dqWrite, modQ_fin]
  exact congrArg Rule.late (endMismatch_of_noMismatch h)

theorem dqWrite_barmask {s : State} (h : Rule.NoMismatch s) (q : Fin 32) (v : Word) :
    dqWrite q 0x58 v s = Rule.withQ s q { s.dq[q] with barmask := v.extractLsb' 0 32 } := by
  simp only [dqWrite, modQ_fin]
  exact endMismatch_of_noMismatch h

/-- RME_INB_k (08:R248). -/
theorem rmeWrite_aperture {s : State} (h : Rule.NoMismatch s) (n : Fin 8) (v : Word) :
    rmeWrite (0x580100 + 8 * n.val) v s = { s with rme := { s.rme with
      inb := s.rme.inb.set n.val ⟨v.getLsbD 63, v.getLsbD 62, v.extractLsb' 56 6, v.extractLsb' 20 20⟩ } } := by
  have ho : past 0x500000 (0x580100 + 8 * n.val) = 0x80100 + 8 * n.val := by unfold past; omega
  have hn : past 0x80100 (0x80100 + 8 * n.val) / 8 = n := by unfold past; omega
  have h8 : (0x80100 + 8 * n.val) % 8 = 0 := by omega
  have hcfg : 0x80100 + 8 * n.val ≠ 0x80000 := by omega
  have hsts : 0x80100 + 8 * n.val ≠ 0x80008 := by omega
  have hb : 0x80100 + 8 * n.val < 0x80140 := by omega
  simp only [rmeWrite, ho, hn, h8, hb, vmod_fin, bne_self_eq_false, beq_eq_false_iff_ne.mpr hcfg,
    beq_eq_false_iff_ne.mpr hsts, Nat.le_add_right, decide_true, Bool.and_self, Bool.false_eq_true, if_false, if_true]
  exact endMismatch_of_noMismatch h

/-- RME_WIN_s (08:R246). -/
theorem rmeWrite_window {s : State} (h : Rule.NoMismatch s) (n : Fin 2048) (v : Word) :
    rmeWrite (0x5A0000 + 8 * n.val) v s = { s with rme := { s.rme with
      win := s.rme.win.set n.val ⟨v.getLsbD 16, v.extractLsb' 0 16⟩ } } := by
  have ho : past 0x500000 (0x5A0000 + 8 * n.val) = 0xA0000 + 8 * n.val := by unfold past; omega
  have hn : past 0xA0000 (0xA0000 + 8 * n.val) / 8 = n := by unfold past; omega
  have h8 : (0xA0000 + 8 * n.val) % 8 = 0 := by omega
  have hcfg : 0xA0000 + 8 * n.val ≠ 0x80000 := by omega
  have hsts : 0xA0000 + 8 * n.val ≠ 0x80008 := by omega
  have hinb : ¬ 0xA0000 + 8 * n.val < 0x80140 := by omega
  have hb : 0xA0000 + 8 * n.val < 0xA4000 := by omega
  simp only [rmeWrite, ho, hn, h8, hb, hinb, vmod_fin, bne_self_eq_false, beq_eq_false_iff_ne.mpr hcfg,
    beq_eq_false_iff_ne.mpr hsts, Nat.le_add_right, decide_true, decide_false, Bool.and_self, Bool.and_false,
    Bool.false_eq_true, if_false, if_true]
  exact endMismatch_of_noMismatch h

/-- MBOX_REQ_w (13:R380). -/
theorem mboxWrite_request (n : Fin 130) (v : Word) (s : State) :
    mboxWrite (0x1000 + 8 * n.val) v s = { s with mbox := { s.mbox with req := s.mbox.req.set n.val v } } := by
  have hn : past 0x1000 (0x1000 + 8 * n.val) / 8 = n := by unfold past; omega
  have hb : 0x1000 + 8 * n.val < 0x1000 + 8 * 130 := by omega
  have h8 : (0x1000 + 8 * n.val) % 8 = 0 := by omega
  simp [mboxWrite, hn, hb, h8]

/-! The registers at one offset. -/

section
variable {s : State} {src : Src} (v : Word) (h : Rule.NoMismatch s) (hw : Rule.Writer s src)
include h hw

/-- GEN_APPLYCFG (13:R384). -/
theorem gives_registerWrite_applycfg :
    Rule.Gives (.registerWrite src 0x28 v) s { s with gen := { s.gen with extEn := v.getLsbD 0 } } :=
  gives_registerWrite hw rfl (by decide) (.inl (by decide)) (endMismatch_of_noMismatch h)

/-- RME_CFG (08:R246). -/
theorem gives_registerWrite_rmeCfg :
    Rule.Gives (.registerWrite src 0x580000 v) s { s with rme := { s.rme with
      flagin := v.getLsbD 48, self := v.extractLsb' 32 16, tmo := v.extractLsb' 0 16 } } :=
  gives_registerWrite hw rfl (by decide) (.inl (by decide)) (endMismatch_of_noMismatch h)

/-- BC_CETHR (12:R357). -/
theorem gives_registerWrite_bcCethr :
    Rule.Gives (.registerWrite src 0x800018 v) s { s with bc := { s.bc with
      window := v.extractLsb' 32 32, limit := v.extractLsb' 0 16 } } :=
  gives_registerWrite hw rfl (by decide) (.inl (by decide)) (endMismatch_of_noMismatch h)

/-- BC_PLBASE (12:R355). -/
theorem gives_registerWrite_bcPlbase :
    Rule.Gives (.registerWrite src 0x800028 v) s { s with bc := { s.bc with plBase := v.extractLsb' 7 45 } } :=
  gives_registerWrite hw rfl (by decide) (.inl (by decide)) (endMismatch_of_noMismatch h)

theorem gives_registerWrite_aperture (n : Fin 8) :
    Rule.Gives (.registerWrite src (BitVec.ofNat 26 (0x580100 + 8 * n.val)) v) s { s with rme := { s.rme with
      inb := s.rme.inb.set n.val ⟨v.getLsbD 63, v.getLsbD 62, v.extractLsb' 56 6, v.extractLsb' 20 20⟩ } } := by
  refine gives_registerWrite hw (by omega) (by omega) (.inl (by omega)) ?_
  rw [regWrite_rme src (by omega), rmeWrite_aperture h]

theorem gives_registerWrite_window (n : Fin 2048) :
    Rule.Gives (.registerWrite src (BitVec.ofNat 26 (0x5A0000 + 8 * n.val)) v) s { s with rme := { s.rme with
      win := s.rme.win.set n.val ⟨v.getLsbD 16, v.extractLsb' 0 16⟩ } } := by
  refine gives_registerWrite hw (by omega) (by omega) (.inl (by omega)) ?_
  rw [regWrite_rme src (by omega), rmeWrite_window h]

omit h in
theorem gives_registerWrite_mboxRequest (n : Fin 130) :
    Rule.Gives (.registerWrite src (BitVec.ofNat 26 (0xC01000 + 8 * n.val)) v) s { s with mbox := { s.mbox with
      req := s.mbox.req.set n.val v } } := by
  have hp : past 0xC00000 (0xC01000 + 8 * n.val) = 0x1000 + 8 * n.val := by unfold past; omega
  refine gives_registerWrite hw (by omega) (by omega) (.inl (by omega)) ?_
  rw [regWrite_mbox src (by omega), hp, mboxWrite_request]

omit h in
theorem gives_registerWrite_testctl (hv : v.extractLsb' 0 32 = s.gen.testctl) :
    Rule.Gives (.registerWrite src 0x50 v) s s :=
  gives_registerWrite hw rfl (by decide) (.inr hv) rfl

end

theorem plainWrites : Rule.PlainWrites := by
  intro s src v h hw
  refine ⟨fun q => ⟨?_, ?_, ?_⟩, gives_registerWrite_applycfg v h hw, gives_registerWrite_testctl v hw,
    stops_registerWrite_testctl hw, gives_registerWrite_rmeCfg v h hw, gives_registerWrite_aperture v h hw,
    gives_registerWrite_window v h hw, gives_registerWrite_bcCethr v h hw, gives_registerWrite_bcPlbase v h hw,
    gives_registerWrite_mboxRequest v hw, fun off => comes_registerWrite_unaligned s src v⟩
  · exact gives_registerWrite_dq hw q (by decide) rfl (dqWrite_seed h q v)
  · exact gives_registerWrite_dq hw q (by decide) rfl (dqWrite_rcfg h q v)
  · exact gives_registerWrite_dq hw q (by decide) rfl (dqWrite_barmask h q v)

/-! Staged copies (00:R14; 03:R81, R82; 04:R117, R122; 13:R371). -/

theorem mismatched_of_noMismatch {s : State} (h : Rule.NoMismatch s) (off : Nat) : mismatched s off = false := by
  obtain ⟨hp, -, hl⟩ := h
  simp [mismatched, parityAt, hp, hl]

/-- Where no register holds a mismatch a staged write sets the staged copy alone. -/
theorem writeStaged_of_noMismatch {s : State} {staged active : State → State} {off : Nat} (ha : applyOpen s = true)
    (h : Rule.NoMismatch s) (hg : ∀ t, (staged t).gen = t.gen) : writeStaged off staged active s = staged s := by
  have ht : Rule.NoMismatch (staged s) := by unfold Rule.NoMismatch; rwa [hg]
  simp [writeStaged, ha, mismatched_of_noMismatch h, endMismatch_of_noMismatch ht]

theorem applyOpen_of_open {s : State} (h : s.ctl.state = .config ∨ s.ctl.state = .run ∨ s.ctl.state = .hold) :
    applyOpen s = true := by
  rcases h with h | h | h <;> simp [applyOpen, flagsOpen, h]

theorem opaRws_range {off : Nat} (h : opaRws off = true) : 0x300008 ≤ off ∧ off < 0x306000 ∧ off % 8 = 0 := by
  simp only [opaRws, Bool.or_eq_true, Bool.and_eq_true, beq_iff_eq, decide_eq_true_eq] at h
  omega

/-- The address of an OPA register, its normal one or that of its staged copy (01:R36). -/
def stagedAddr (high : Bool) (off : Nat) : Nat := if high then off + 0x8000 else off

theorem stagedAddr_range {high : Bool} {off : Nat} (h : opaRws off = true) :
    0x300008 ≤ stagedAddr high off ∧ stagedAddr high off < 0x310000 := by
  have := opaRws_range h
  unfold stagedAddr
  split <;> omega

/-- The staged address is that of a register at its normal address, 0x8000 below. -/
theorem stagedAddr_true_normal {off : Nat} (h : opaRws off = true) :
    (decide (0x308000 ≤ stagedAddr true off) && decide (stagedAddr true off < 0x310000)) = true ∧
      past 0x8000 (stagedAddr true off) = off := by
  have := opaRws_range h
  simp only [stagedAddr, if_true, past, Bool.and_eq_true, decide_eq_true_eq]
  omega

/-- The normal address of what is written. -/
theorem opaWrite_of_normal {at_ off : Nat} (hn : (if 0x308000 ≤ at_ && at_ < 0x310000 then past 0x8000 at_ else at_) = off)
    (h : opaRws off = true) (v : Word) (s : State) : opaWrite at_ v s = writeOpa off v s := by
  unfold opaWrite
  rw [hn]
  exact if_pos h

theorem opaWrite_stagedAddr (high : Bool) {off : Nat} (h : opaRws off = true) (v : Word) (s : State) :
    opaWrite (stagedAddr high off) v s = writeOpa off v s := by
  refine opaWrite_of_normal ?_ h v s
  cases high with
  | false =>
    have hn : ¬ 0x308000 ≤ off := by have := opaRws_range h; omega
    simp [stagedAddr, hn]
  | true =>
    obtain ⟨hr, hp⟩ := stagedAddr_true_normal h
    rw [if_pos hr, hp]

theorem regWrite_stagedAddr (src : Src) (high : Bool) {off : Nat} (h : opaRws off = true) (v : Word) (s : State) :
    regWrite src (stagedAddr high off) v s = writeOpa off v s := by
  have := stagedAddr_range (high := high) h
  rw [regWrite_opa src (by omega), opaWrite_stagedAddr high h]

theorem isStaged_stagedAddr (high : Bool) {off : Nat} (h : opaRws off = true) :
    isStaged (stagedAddr high off) = true := by
  cases high with
  | false => simp [isStaged, stagedAddr, h]
  | true =>
    obtain ⟨hr, hp⟩ := stagedAddr_true_normal h
    simp only [isStaged, hr, hp, h, Bool.and_self, Bool.or_true]

/-- STAGED_WRITE of a writer gives what the write of the register gives. -/
theorem gives_stagedWrite {s t : State} {src : Src} {off : Nat} {v : Word} (hw : Rule.Writer s src)
    (hlow : off < 0x1000000) (hkeep : off ≠ 0x50) (hs : isStaged off = true)
    (ht : regWrite src off v s = t) : Rule.Gives (.stagedWrite src (BitVec.ofNat 26 off) v) s t := by
  have ho : (BitVec.ofNat 26 off).toNat = off := by rw [BitVec.toNat_ofNat]; omega
  apply gives_of_effect
  simp only [effect, effectStagedWrite, ho, hs, if_true]
  exact writeReg_eq_next hw hlow (.inl hkeep) ht

/-- The same, of an OPA register at either of its addresses. -/
theorem gives_stagedWrite_opa {s t : State} {src : Src} {off : Nat} {v : Word} (hw : Rule.Writer s src) (high : Bool)
    (h : opaRws off = true) (ht : writeOpa off v s = t) :
    Rule.Gives (.stagedWrite src (BitVec.ofNat 26 (stagedAddr high off)) v) s t := by
  have hr := stagedAddr_range (high := high) h
  exact gives_stagedWrite hw (by omega) (by omega) (isStaged_stagedAddr high h)
    ((regWrite_stagedAddr src high h v s).trans ht)

section
variable {s : State} (ha : applyOpen s = true) (h : Rule.NoMismatch s) (v : Word)
include ha h

/-- OPA_PMODE (03:R81). -/
theorem writeOpa_pmode : writeOpa 0x300008 v s = { s with opa := { s.opa with pmodeStaged := v.extractLsb' 0 3 } } := by
  simp only [writeOpa, beq_self_eq_true, if_true]
  exact writeStaged_of_noMismatch ha h fun _ => rfl

/-- OPA_PWR (03:R82). -/
theorem writeOpa_pwr : writeOpa 0x300010 v s = { s with opa := { s.opa with fillStaged := v.extractLsb' 0 5 } } := by
  simp only [writeOpa, Nat.reduceBEq, Bool.false_eq_true, if_false, if_true]
  exact writeStaged_of_noMismatch ha h fun _ => rfl

/-- OPA_DPROF_d (04:R117). -/
theorem writeOpa_dprof (d : Fin 16) : writeOpa (0x300400 + 8 * d.val) v s = { s with opa := { s.opa with
    dprofStaged := s.opa.dprofStaged.set d.val (v.extractLsb' 0 17 &&& 0x1FFCF) } } := by
  have hd : past 0x300400 (0x300400 + 8 * d.val) / 8 = d := by unfold past; omega
  have h1 : 0x300400 + 8 * d.val ≠ 0x300008 := by omega
  have h2 : 0x300400 + 8 * d.val ≠ 0x300010 := by omega
  have hb : 0x300400 + 8 * d.val < 0x300480 := by omega
  simp only [writeOpa, hd, hb, beq_eq_false_iff_ne.mpr h1, beq_eq_false_iff_ne.mpr h2, vmod_fin, dprofOf,
    Nat.le_add_right, decide_true, Bool.and_self, Bool.false_eq_true, if_false, if_true]
  exact writeStaged_of_noMismatch ha h fun _ => rfl

/-- OPA_ACT_a_i, word w (04:R122). -/
theorem writeOpa_segment (a : Fin 8) (i : Fin 64) (w : Fin 4) :
    writeOpa (0x302000 + a.val * 0x800 + i.val * 0x20 + 8 * w.val) v s = { s with opa := { s.opa with
      actStaged := s.opa.actStaged.set a.val
        ((s.opa.actStaged[a]).set i.val (segWord w v (s.opa.actStaged[a])[i])) } } := by
  generalize hoff : 0x302000 + a.val * 0x800 + i.val * 0x20 + 8 * w.val = off
  have ht : past 0x302000 off / 0x800 = a := by unfold past; omega
  have hi : past 0x302000 off / 0x20 % 64 = i := by unfold past; omega
  have hw : off / 8 % 4 = w := by omega
  have h1 : off ≠ 0x300008 := by omega
  have h2 : off ≠ 0x300010 := by omega
  have hb : ¬ off < 0x300480 := by omega
  simp only [writeOpa, ht, hi, hw, hb, beq_eq_false_iff_ne.mpr h1, beq_eq_false_iff_ne.mpr h2, vmod_fin,
    decide_false, Bool.and_false, Bool.false_eq_true, if_false]
  exact writeStaged_of_noMismatch ha h fun _ => rfl

end

/-- The requests that the transitions of 01:R25 hold are legal. -/
theorem legalRequest_of_transition {st : BlockState} {code : Nat} (h : Rule.transition st code ≠ none) :
    legalRequest st code = true ∧ code ≤ 3 := by
  revert h
  fun_cases Rule.transition st code <;> simp [legalRequest]

/-- Where no register holds a mismatch a request is staged, and the active copy stays (13:R371). -/
theorem stageRequest_of_noMismatch {s : State} (h : Rule.NoMismatch s) (path : ReqPath) (code : Nat) :
    stageRequest path code s = { s with gen := { s.gen with reqStaged := BitVec.ofNat 3 code, reqPath := path } } := by
  simp only [stageRequest, mismatched_of_noMismatch h, Bool.false_eq_true, if_false]
  rw [endMismatch_of_noMismatch (off := 0x10), endMismatch_of_noMismatch] <;> exact h

/-- GEN_STATEREQ takes a legal request (13:R371). -/
theorem requestByRegister_of_transition {s : State} {v : Word} (ha : applyOpen s = true) (h : Rule.NoMismatch s)
    (hv : Rule.transition s.ctl.state (v.toNat % 8) ≠ none) : requestByRegister v s =
      { s with gen := { s.gen with reqStaged := v.extractLsb' 0 3, reqPath := .register } } := by
  obtain ⟨hlegal, hle⟩ := legalRequest_of_transition hv
  have hcode : fld v 0 3 = v.toNat % 8 := rfl
  have hval : BitVec.ofNat 3 (v.toNat % 8) = v.extractLsb' 0 3 := by
    apply BitVec.eq_of_toNat_eq
    simp
  simp [requestByRegister, ha, hcode, hlegal, Nat.not_lt.mpr hle, stageRequest_of_noMismatch h, hval]

theorem stagedWrites : Rule.StagedWrites := by
  intro s src v high h hw hst
  have ha := applyOpen_of_open hst
  refine ⟨gives_stagedWrite_opa hw high rfl (writeOpa_pmode ha h v),
    gives_stagedWrite_opa hw high rfl (writeOpa_pwr ha h v), fun d => ?_, fun a i => ?_, fun hv => ?_⟩
  · exact gives_stagedWrite_opa hw high (by simp [opaRws]; omega) (writeOpa_dprof ha h v d)
  · have hrws (w : Fin 4) : opaRws (0x302000 + a.val * 0x800 + i.val * 0x20 + 8 * w.val) = true := by
      simp [opaRws]; omega
    exact ⟨gives_stagedWrite_opa hw high (hrws 0) (writeOpa_segment ha h v a i 0),
      gives_stagedWrite_opa hw high (hrws 1) (writeOpa_segment ha h v a i 1),
      gives_stagedWrite_opa hw high (hrws 2) (writeOpa_segment ha h v a i 2)⟩
  · have ht := requestByRegister_of_transition ha h hv
    cases high with
    | false => exact gives_stagedWrite hw (by decide) (by decide) rfl ht
    | true => exact gives_stagedWrite hw (by decide) (by decide) rfl ht

/-- Settles O9: SQC writes from the one lemma about SQC registers, plain and staged writes register by register. -/
theorem registerWrites : Obligations.RegisterWrites := ⟨sqcWrites, plainWrites, stagedWrites⟩

end Sys2Proof.Machine

/-! SUPPORT. The state after reset (O60): what its queues, instances, activation tables, cores, flags and masks hold. -/

namespace Sys2Proof.Machine

/-! Every unit of a kind starts with the same values. -/

@[simp] theorem reset_dq (q : Nat) (h : q < 32) : State.reset.dq[q] = .reset := Vector.getElem_replicate h

@[simp] theorem reset_inst (n : Nat) (h : n < 16) : State.reset.opa.inst[n] = .reset := Vector.getElem_replicate h

@[simp] theorem reset_cores (c : Nat) (h : c < 8) : State.reset.cores[c] = .reset := Vector.getElem_replicate h

/-- Every segment of every table is the identity (04:R122). -/
@[simp] theorem reset_segment (t i : Nat) (ht : t < 8) (hi : i < 64) : (State.reset.opa.act[t])[i] = .reset := by
  have htable : State.reset.opa.act[t] = .replicate 64 .reset := Vector.getElem_replicate ht
  rw [htable]
  exact Vector.getElem_replicate hi

@[simp] theorem reset_task (t : Nat) (h : t < 256) : Core.reset.tasks[t] = .reset := Vector.getElem_replicate h

/-! Registers and flags. -/

/-- A flag with no update of the f-cycle has its base value (06:R181). -/
theorem flagVal_of_upds_eq_nil {s : State} (h : s.flags.upds = []) (f : Fin 4096) :
    flagVal s f = s.flags.base[f] := by
  simp [flagVal, h, updsOf, flagResolve, flagPhase1, flagPhase2]

theorem reset_flagVal (f : Fin 4096) : flagVal State.reset f = 0 :=
  calc flagVal State.reset f = State.reset.flags.base[f] := flagVal_of_upds_eq_nil rfl f
    _ = 0 := Vector.getElem_replicate f.isLt

/-- A read in the region of the queues is of the register of its queue (01:R35). -/
theorem regValue_dq (s : State) (q : Fin 32) {r : Nat} (hr : r < 0x1000) :
    regValue s (dqOff q r) = dqRead s q r := by
  have hreg : dqOff q r / 0x100000 = 1 := by unfold dqOff; omega
  have hlow : dqOff q r < 0x120000 := by unfold dqOff; omega
  have hq : past 0x100000 (dqOff q r) / 0x1000 = q := by unfold past dqOff; omega
  have hrem : dqOff q r % 0x1000 = r := by unfold dqOff; omega
  simp [regValue, hreg, hlow, hq, hrem]

/-- DQ_BARMASK reads as the queue's mask. -/
theorem regValue_barmask (s : State) (q : Fin 32) :
    regValue s (0x100058 + q.val * 0x1000) = (s.dq[q]).barmask.setWidth 64 := by
  have hoff : 0x100058 + q.val * 0x1000 = dqOff q 0x58 := by unfold dqOff; omega
  rw [hoff, regValue_dq s q (by decide)]
  simp [dqRead]

/-! The parts of the statement. -/

theorem resetValues : Rule.ResetValues := by
  refine ⟨rfl, rfl, rfl, rfl, rfl, rfl, rfl, reset_flagVal, fun q => ?queue, fun n => ?inst, fun t i => ?seg,
    fun c => ?core, rfl, rfl⟩
  case queue => simp [regValue_barmask, Queue.reset]
  case inst => simp [OpaInst.reset, Group.reset, AccSet.reset]
  case seg => simp [ActSeg.reset]
  case core => simp [Task.reset, Core.reset, Bank.reset, MbxEntry.reset]

/-- No task has a binding at reset: each is invalid; and the state is not HOLD (11:R331). -/
theorem noDueBindingAtReset : Rule.NoDueBindingAtReset := by
  have hinvalid (c : Fin 8) (t : Fin 256) : ((State.reset.cores[c]).tasks[t]).st = .invalid := by
    simp [Task.reset]
  exact {
    flags := fun c t _ hst => absurd (hinvalid c t) hst
    beats := fun c t _ hst => absurd (hinvalid c t) hst
    quiet_ := by
      have hquiet : State.reset.ctl.quietSeen = false := rfl
      have hstate : State.reset.ctl.state = .boot := rfl
      simp [hquiet, hstate] }

/-- Settles O60: the values from the reset state of each kind of unit, and no binding is due as no task is valid. -/
theorem resetState : Obligations.ResetState := ⟨resetValues, noDueBindingAtReset⟩

end Sys2Proof.Machine

/-! SUPPORT. Number formats (O55): what a rounded quotient is in each mode, what a code holds and becomes again when it is
converted to its own format, and the rational that each exact operation gives. -/

namespace Sys2Proof.Machine

/-! The rounded quotient (02:R54, R59). -/

theorem roundQ_of_dvd (c : Rnd) (neg : Bool) {num den : Nat} (h : den ∣ num) : roundQ c neg num den = num / den := by
  simp [roundQ, Nat.mod_eq_zero_of_dvd h]

/-- Nearest even, by the remainder against half the divisor. -/
theorem roundQ_nearestEven {c : Rnd} (hc : c.mode = 0) (neg : Bool) (num : Nat) {den : Nat} (hden : 0 < den) :
    Rule.NearestEven num den (roundQ c neg num den) := by
  have hsum : num / den * den + num % den = num := Nat.div_add_mod' num den
  have hlt : num % den < den := Nat.mod_lt num hden
  have hsucc : (num / den + 1) * den = num / den * den + den := Nat.succ_mul _ _
  by_cases hzero : num % den = 0
  · rw [roundQ_of_dvd c neg (Nat.dvd_of_mod_eq_zero hzero), Rule.NearestEven]
    omega
  · by_cases hup : den < 2 * (num % den) ∨ 2 * (num % den) = den ∧ num / den % 2 = 1
    · have hround : roundQ c neg num den = num / den + 1 := by simp [roundQ, hc, hzero, hup]
      rw [hround, Rule.NearestEven, hsucc]
      omega
    · have hround : roundQ c neg num den = num / den := by simp [roundQ, hc, hzero, hup]
      rw [hround, Rule.NearestEven]
      omega

theorem roundQ_towardZero {c : Rnd} (hc : c.mode = 1) (neg : Bool) (num den : Nat) :
    roundQ c neg num den = num / den := by
  simp [roundQ, hc]

theorem roundQ_up {c : Rnd} (hc : c.mode = 2) (neg : Bool) {num den : Nat} (h : ¬ den ∣ num) :
    roundQ c neg num den = if neg = true then num / den else num / den + 1 := by
  simp [roundQ, hc, mt Nat.dvd_of_mod_eq_zero h]

theorem roundQ_down {c : Rnd} (hc : c.mode = 3) (neg : Bool) {num den : Nat} (h : ¬ den ∣ num) :
    roundQ c neg num den = if neg = true then num / den + 1 else num / den := by
  simp [roundQ, hc, mt Nat.dvd_of_mod_eq_zero h]

theorem roundQ_random {c : Rnd} (hc : c.mode = 4) (neg : Bool) {num den : Nat} (h : ¬ den ∣ num) :
    roundQ c neg num den =
      if 2 ^ c.w ≤ num % den * 2 ^ c.w / den + c.r then num / den + 1 else num / den := by
  simp [roundQ, hc, mt Nat.dvd_of_mod_eq_zero h, Nat.shiftLeft_eq]

/-! The fields of a code (02:R42, R51). -/

def Flt.signField (f : Flt) (code : Nat) : Bool := code.testBit (f.k + f.p)
def Flt.expField (f : Flt) (code : Nat) : Nat := (code >>> f.p) % 2 ^ f.k
def Flt.sigField (f : Flt) (code : Nat) : Nat := code % 2 ^ f.p

theorem Flt.expField_lt (f : Flt) (code : Nat) : f.expField code < 2 ^ f.k := Nat.mod_lt _ (Nat.two_pow_pos _)
theorem Flt.sigField_lt (f : Flt) (code : Nat) : f.sigField code < 2 ^ f.p := Nat.mod_lt _ (Nat.two_pow_pos _)

/-- A code is its sign bit before its exponent and significand. -/
theorem Flt.code_eq_fields (f : Flt) {code : Nat} (h : code < 2 ^ (f.k + f.p + 1)) :
    f.signBit (f.signField code) ||| ((f.expField code <<< f.p) + f.sigField code) = code := by
  have hlow : (f.expField code <<< f.p) + f.sigField code = code % 2 ^ (f.k + f.p) := by
    rw [Flt.expField, Flt.sigField, Nat.shiftLeft_eq, Nat.shiftRight_eq_div_pow, Nat.add_comm f.k, pow_add, Nat.mod_mul,
      Nat.mul_comm, Nat.add_comm]
  rw [hlow]
  refine Nat.eq_of_testBit_eq fun i => ?_
  have hhigh : f.k + f.p < i → code.testBit i = false := fun hi =>
    Nat.testBit_lt_two_pow (h.trans_le (Nat.pow_le_pow_right (by decide) hi))
  have hsign : (f.signBit (f.signField code)).testBit i = (f.signField code && decide (i = f.k + f.p)) := by
    cases hs : f.signField code <;> simp [Flt.signBit, Nat.one_shiftLeft, Nat.testBit_two_pow, eq_comm]
  rw [Nat.testBit_or, hsign, Nat.testBit_mod_two_pow]
  rcases Nat.lt_trichotomy i (f.k + f.p) with hi | rfl | hi
  · simp [hi, hi.ne]
  · simp [Flt.signField]
  · simp [hhigh hi, hi.ne']

/-! Magnitudes of a layout: m × 2^e in the quantum that the layout gives it, within its range. -/

/-- The nonzero magnitude m × 2^e has the quantum 2^e in the layout, and does not exceed its largest value. -/
structure Flt.Canonical (f : Flt) (m : Nat) (e : Int) : Prop where
  nonzero : m ≠ 0
  quantum : max ((m.log2 : Int) + e) f.emin - f.p = e
  inRange : (m.log2 : Int) + e ≤ f.emax

theorem Ex.ilog_nat (neg : Bool) {m : Nat} (h : m ≠ 0) (e : Int) : (Ex.mk neg m 1 e).ilog = (m.log2 : Int) + e := by
  have hle : 1 <<< m.log2 ≤ m := by simpa [Nat.one_shiftLeft] using Nat.log2_self_le h
  have hone : Nat.log2 1 = 0 := by decide
  simp [Ex.ilog, hone, hle]

theorem Ex.units_own (neg : Bool) (m : Nat) (e : Int) : (Ex.mk neg m 1 e).units e = (m, 1) := by
  simp [Ex.units]

/-- A magnitude of the layout is its own rounding, and exact. -/
theorem Flt.roundMag_canonical {f : Flt} {m : Nat} {e : Int} (h : f.Canonical m e) (c : Rnd) (neg : Bool) :
    ∃ tiny, f.roundMag c ⟨neg, m, 1, e⟩ = (m, e, true, tiny) := by
  have hround : roundQ c neg m 1 = m := by rw [roundQ_of_dvd c neg (one_dvd m), Nat.div_one]
  simp [Flt.roundMag, Ex.ilog_nat neg h.nonzero, h.quantum, Ex.units_own, hround, Nat.mod_one]

theorem Flt.not_above_canonical {f : Flt} {m : Nat} {e : Int} (h : f.Canonical m e) : f.above m e = false := by
  simp [Flt.above, h.inRange]

theorem convIeee_canonical {f : Flt} {m : Nat} {e : Int} (h : f.Canonical m e) (flush : Bool) {c : Rnd}
    (hc : c.fast = false) (neg : Bool) :
    convIeee f flush c (.real ⟨neg, m, 1, e⟩) = (f.signBit neg ||| f.encMag m e, 0) := by
  obtain ⟨tiny, hround⟩ := Flt.roundMag_canonical h c neg
  simp [convIeee, h.nonzero, hround, Flt.not_above_canonical h, hc]

theorem convNarrow_canonical {f : Flt} {m : Nat} {e : Int} (h : f.Canonical m e) (c : Rnd) (neg : Bool) :
    convNarrow f c (.real ⟨neg, m, 1, e⟩) = (f.signBit neg ||| f.encMag m e, 0) := by
  obtain ⟨tiny, hround⟩ := Flt.roundMag_canonical h c neg
  simp [convNarrow, h.nonzero, hround, Flt.not_above_canonical h]

/-! What a code holds. -/

/-- An exponent code of finite numbers: any of a narrow format's, all but the last of an IEEE format's (02:R42, R51). -/
def Flt.Ordinary (f : Flt) (e : Nat) : Prop := e < 2 ^ f.k ∧ (f.ieee = true → e ≠ 2 ^ f.k - 1)

/-- No exponent of an ordinary code exceeds the largest. -/
theorem Flt.Ordinary.le_emax {f : Flt} {e : Nat} (h : f.Ordinary e) : (e : Int) - f.bias ≤ f.emax := by
  obtain ⟨hlt, hlast⟩ := h
  cases hf : f.ieee with
  | false =>
    simp only [Flt.emax, hf, Bool.false_eq_true, if_false]
    omega
  | true =>
    have hne := hlast hf
    simp only [Flt.emax, hf, if_true]
    omega

/-- A significand under exponent code 0 is a subnormal magnitude. -/
theorem Flt.canonical_subnormal {f : Flt} {m : Nat} (h0 : f.Ordinary 0) (hm : m ≠ 0) (hlt : m < 2 ^ f.p) :
    f.Canonical m (f.emin - f.p) := by
  have hlog : m.log2 < f.p := (Nat.log2_lt hm).mpr hlt
  have hmax := h0.le_emax
  have hmin : f.emin = 1 - f.bias := rfl
  exact ⟨hm, by omega, by omega⟩

theorem Flt.encMag_subnormal {f : Flt} {m : Nat} (hlt : m < 2 ^ f.p) : f.encMag m (f.emin - f.p) = m := by
  by_cases hm : m = 0
  · simp [Flt.encMag, hm]
  · have hlog : m.log2 < f.p := (Nat.log2_lt hm).mpr hlt
    have hsmall : (m.log2 : Int) + (f.emin - f.p) < f.emin := by omega
    simp [Flt.encMag, hm, hsmall, shiftTo]

/-- The leading one of a normal significand is at bit p. -/
theorem log2_add_two_pow {m p : Nat} (h : m < 2 ^ p) : (m + 2 ^ p).log2 = p :=
  (Nat.log2_eq_iff (by omega)).mpr ⟨by omega, by rw [pow_succ]; omega⟩

theorem Flt.canonical_normal {f : Flt} {e m : Nat} (he : f.Ordinary e) (he0 : e ≠ 0) (hlt : m < 2 ^ f.p) :
    f.Canonical (m + 2 ^ f.p) (e - f.bias - f.p) := by
  have hlog := log2_add_two_pow hlt
  have hmax := he.le_emax
  have hmin : f.emin = 1 - f.bias := rfl
  exact ⟨by omega, by rw [hlog]; omega, by rw [hlog]; omega⟩

theorem Flt.encMag_normal {f : Flt} {e m : Nat} (he0 : e ≠ 0) (hlt : m < 2 ^ f.p) :
    f.encMag (m + 2 ^ f.p) (e - f.bias - f.p) = (e <<< f.p) + m := by
  have hmin : f.emin = 1 - f.bias := rfl
  have hexp : (f.p : Int) + (e - f.bias - f.p) = e - f.bias := by omega
  have hnormal : ¬ (e : Int) - f.bias < f.emin := by omega
  simp [Flt.encMag, log2_add_two_pow hlt, hexp, hnormal, Nat.shiftLeft_eq]

/-- What a code that is not a NaN stands for: an infinity, a zero, or a magnitude of the layout that encodes to the
code's exponent and significand. -/
inductive Flt.Holds (f : Flt) (code : Nat) : Val → Prop where
  | inf (hf : f.ieee = true) (he : f.expField code = 2 ^ f.k - 1) (hm : f.sigField code = 0) :
      f.Holds code (.inf (f.signField code))
  | zero (e : Int) (hneg : f.ieee = false → f.signField code = false) (he : f.expField code = 0)
      (hm : f.sigField code = 0) : f.Holds code (.fin (f.signField code) 0 e)
  | number (m : Nat) (e : Int) (hcan : f.Canonical m e)
      (henc : f.encMag m e = (f.expField code <<< f.p) + f.sigField code) :
      f.Holds code (.fin (f.signField code) m e)

/-- The decoder by the fields of the code. -/
theorem Flt.decode_eq (f : Flt) (code : Nat) : f.decode code =
    if !f.ieee && f.signField code && f.expField code == 0 && f.sigField code == 0 then .nan false false 0
    else if f.ieee && f.expField code == 2 ^ f.k - 1 then
      if f.sigField code == 0 then .inf (f.signField code)
      else .nan (f.signField code) (!(f.sigField code).testBit (f.p - 1))
        (BitVec.ofNat 51 ((f.sigField code % 2 ^ (f.p - 1)) <<< (52 - f.p)))
    else if f.expField code == 0 then .fin (f.signField code) (f.sigField code) (f.emin - f.p)
    else .fin (f.signField code) (f.sigField code + 2 ^ f.p) ((f.expField code : Int) - f.bias - f.p) := rfl

theorem Flt.holds_decode {f : Flt} {code : Nat} (hnum : valIsNan (f.decode code) = false) :
    f.Holds code (f.decode code) := by
  have hsig := f.sigField_lt code
  rw [Flt.decode_eq] at hnum ⊢
  split_ifs at hnum ⊢ with hneg hlast hm he
  · simp [valIsNan] at hnum
  · obtain ⟨hf, hexp⟩ : f.ieee = true ∧ f.expField code = 2 ^ f.k - 1 := by simpa using hlast
    exact .inf hf hexp (by simpa using hm)
  · simp [valIsNan] at hnum
  all_goals have hord : f.Ordinary (f.expField code) := ⟨f.expField_lt code, by simpa using hlast⟩
  · have hexp : f.expField code = 0 := by simpa using he
    by_cases hm : f.sigField code = 0
    · rw [hm]
      exact .zero _ (by simpa [hexp, hm] using hneg) hexp hm
    · refine .number _ _ (Flt.canonical_subnormal (hexp ▸ hord) hm hsig) ?_
      rw [Flt.encMag_subnormal hsig, hexp, Nat.zero_shiftLeft, Nat.zero_add]
  · have hexp : f.expField code ≠ 0 := by simpa using he
    exact .number _ _ (Flt.canonical_normal hord hexp hsig) (Flt.encMag_normal hexp hsig)

/-! A code converts to itself. -/

/-- In every layout, infinities and zeros of both signs with it. -/
theorem convIeee_decode {f : Flt} (flush : Bool) {c : Rnd} (hc : c.fast = false) {code : Nat}
    (hcode : code < 2 ^ (f.k + f.p + 1)) (hnum : valIsNan (f.decode code) = false) :
    convIeee f flush c (valX (f.decode code)) = (code, 0) := by
  have hfields := f.code_eq_fields hcode
  have hholds := Flt.holds_decode hnum
  generalize f.decode code = v at hholds
  cases hholds with
  | inf _ he hm =>
    rw [he, hm, Nat.add_zero] at hfields
    rw [valX, convIeee, hfields]
  | zero e _ he hm =>
    rw [he, hm, Nat.zero_shiftLeft, Nat.or_zero] at hfields
    simp [valX, convIeee, hfields]
  | number m e hcan henc => rw [valX, convIeee_canonical hcan flush hc, henc, hfields]

/-- In every narrow layout; its code of a negative zero is the NaN. -/
theorem convNarrow_decode {f : Flt} (hf : f.ieee = false) (c : Rnd) {code : Nat}
    (hcode : code < 2 ^ (f.k + f.p + 1)) (hnum : valIsNan (f.decode code) = false) :
    convNarrow f c (valX (f.decode code)) = (code, 0) := by
  have hfields := f.code_eq_fields hcode
  have hholds := Flt.holds_decode hnum
  generalize f.decode code = v at hholds
  cases hholds with
  | inf hieee => simp [hf] at hieee
  | zero e hneg he hm =>
    have hzero : code = 0 := by simpa [hneg hf, he, hm, Flt.signBit, eq_comm] using hfields
    simp [valX, convNarrow, hzero]
  | number m e hcan henc => rw [valX, convNarrow_canonical hcan, henc, hfields]

theorem not_ieee_of_narrowFormat {f : Flt} (h : Rule.NarrowFormat f) : f.ieee = false := by
  rcases h with rfl | rfl | rfl | rfl <;> rfl

/-! Exact arithmetic is that of the rationals. -/

/-- The factor of a sign bit. -/
def signFactor (neg : Bool) : ℚ := if neg then -1 else 1

theorem signFactor_not (a : Bool) : signFactor (!a) = -signFactor a := by cases a <;> simp [signFactor]
theorem signFactor_of_ne {a b : Bool} (h : a ≠ b) : signFactor a = -signFactor b := by
  rw [Bool.eq_not_of_ne h, signFactor_not]
theorem signFactor_bne (a b : Bool) : signFactor (a != b) = signFactor a * signFactor b := by
  cases a <;> cases b <;> simp [signFactor]
theorem signFactor_inv (a : Bool) : (signFactor a)⁻¹ = signFactor a := by cases a <;> simp [signFactor]
theorem signFactor_ne_zero (a : Bool) : signFactor a ≠ 0 := by cases a <;> simp [signFactor]

theorem value_eq_sign (x : Ex) : Rule.value x = signFactor x.neg * ((x.num : ℚ) / x.den) * 2 ^ x.exp := rfl

/-- The numerator of x over the denominators of x and y, in units of the lower power of two. -/
def Ex.over (x y : Ex) : Nat := (x.num * y.den) <<< (x.exp - min x.exp y.exp).toNat

theorem value_eq_over (x : Ex) {y : Ex} (hy : 0 < y.den) :
    Rule.value x = signFactor x.neg * ((x.over y : ℚ) / (x.den * y.den)) * 2 ^ min x.exp y.exp := by
  have hden : (y.den : ℚ) ≠ 0 := Nat.cast_ne_zero.mpr hy.ne'
  have hle : 0 ≤ x.exp - min x.exp y.exp := sub_nonneg.mpr (min_le_left _ _)
  have hexp : (2 : ℚ) ^ x.exp = 2 ^ (x.exp - min x.exp y.exp).toNat * 2 ^ min x.exp y.exp := by
    rw [← zpow_natCast, ← zpow_add₀ two_ne_zero, Int.toNat_of_nonneg hle, sub_add_cancel]
  rw [value_eq_sign, hexp, Ex.over, Nat.shiftLeft_eq, ← mul_div_mul_right (x.num : ℚ) _ hden]
  push_cast
  ring

/-- The sum by the signs, and where they differ by the greater numerator. -/
theorem Ex.add_eq_over (dn : Bool) (x y : Ex) : x.add dn y =
    if x.neg = y.neg then ⟨x.neg, x.over y + y.over x, x.den * y.den, min x.exp y.exp⟩
    else if x.over y = y.over x then ⟨dn, 0, 1, 0⟩
    else if y.over x < x.over y then ⟨x.neg, x.over y - y.over x, x.den * y.den, min x.exp y.exp⟩
    else ⟨y.neg, y.over x - x.over y, x.den * y.den, min x.exp y.exp⟩ := by
  simp [Ex.add, Ex.over, min_comm y.exp]

theorem Ex.add_den_pos (dn : Bool) {x y : Ex} (hx : 0 < x.den) (hy : 0 < y.den) : 0 < (x.add dn y).den := by
  have hxy := Nat.mul_pos hx hy
  rw [Ex.add_eq_over]
  split_ifs
  · exact hxy
  · exact Nat.one_pos
  · exact hxy
  · exact hxy

theorem value_add (dn : Bool) {x y : Ex} (hx : 0 < x.den) (hy : 0 < y.den) :
    Rule.value (x.add dn y) = Rule.value x + Rule.value y := by
  rw [value_eq_over x hy, value_eq_over y hx, min_comm y.exp, Ex.add_eq_over]
  split_ifs with hsign heq hlt
  · rw [value_eq_sign, hsign]
    push_cast
    ring
  all_goals have hopp : signFactor y.neg = -signFactor x.neg := signFactor_of_ne (Ne.symm hsign)
  · rw [value_eq_sign, hopp, heq]
    push_cast
    ring
  · rw [value_eq_sign, hopp, Nat.cast_sub hlt.le]
    push_cast
    ring
  · rw [value_eq_sign, hopp, Nat.cast_sub (Nat.not_lt.mp hlt)]
    push_cast
    ring

theorem value_mul (x y : Ex) : Rule.value (x.mul y) = Rule.value x * Rule.value y := by
  simp only [Ex.mul, value_eq_sign, signFactor_bne, Nat.cast_mul, zpow_add₀ (two_ne_zero (α := ℚ))]
  ring

theorem value_div (x y : Ex) : Rule.value (x.div y) = Rule.value x / Rule.value y := by
  simp only [Ex.div, value_eq_sign, signFactor_bne, Nat.cast_mul, zpow_sub₀ (two_ne_zero (α := ℚ)), div_eq_mul_inv,
    mul_inv, signFactor_inv, inv_inv]
  ring

/-! Comparison by the sign of the difference. -/

def Ex.negate (y : Ex) : Ex := { y with neg := !y.neg }

theorem value_negate (y : Ex) : Rule.value y.negate = -Rule.value y := by
  simp only [Ex.negate, value_eq_sign, signFactor_not]
  ring

theorem Ex.cmp_eq_ite (x y : Ex) : x.cmp y =
    if (x.add false y.negate).num == 0 then .eq else if (x.add false y.negate).neg then .lt else .gt := rfl

theorem value_eq_zero_iff {x : Ex} (hx : 0 < x.den) : Rule.value x = 0 ↔ x.num = 0 := by
  have hpow : (2 : ℚ) ^ x.exp ≠ 0 := zpow_ne_zero _ two_ne_zero
  simp [value_eq_sign, signFactor_ne_zero, hpow, hx.ne']

/-- A nonzero exact number is negative just where its sign says so. -/
theorem value_neg_iff {x : Ex} (hx : 0 < x.den) (hnum : x.num ≠ 0) : Rule.value x < 0 ↔ x.neg = true := by
  have hn : (0 : ℚ) < x.num := Nat.cast_pos.mpr (Nat.pos_of_ne_zero hnum)
  have hd : (0 : ℚ) < x.den := Nat.cast_pos.mpr hx
  have hmag : (0 : ℚ) < (x.num : ℚ) / x.den * 2 ^ x.exp := by positivity
  rw [value_eq_sign, mul_assoc]
  cases x.neg with
  | true => simpa [signFactor] using hmag
  | false => simpa [signFactor] using hmag.le

section
variable {x y : Ex} (hx : 0 < x.den) (hy : 0 < y.den)
include hx hy

theorem value_sub : Rule.value (x.add false y.negate) = Rule.value x - Rule.value y := by
  rw [value_add false hx (show 0 < y.negate.den from hy), value_negate, sub_eq_add_neg]

theorem Ex.sub_num_eq_zero_iff : (x.add false y.negate).num = 0 ↔ Rule.value x = Rule.value y := by
  rw [← value_eq_zero_iff (Ex.add_den_pos false hx (show 0 < y.negate.den from hy)), value_sub hx hy, sub_eq_zero]

theorem Ex.cmp_eq_iff : x.cmp y = .eq ↔ Rule.value x = Rule.value y := by
  rw [← Ex.sub_num_eq_zero_iff hx hy, Ex.cmp_eq_ite]
  split_ifs with hnum hneg
  · simpa using hnum
  · simpa using hnum
  · simpa using hnum

theorem Ex.cmp_lt_iff : x.cmp y = .lt ↔ Rule.value x < Rule.value y := by
  rw [Ex.cmp_eq_ite]
  by_cases hnum : (x.add false y.negate).num = 0
  · simp [hnum, (Ex.sub_num_eq_zero_iff hx hy).mp hnum]
  · have hsign := value_neg_iff (Ex.add_den_pos false hx (show 0 < y.negate.den from hy)) hnum
    rw [value_sub hx hy, sub_neg] at hsign
    simp [hnum, hsign]

end

/-- Settles O55: a code's own quantum leaves nothing to round; the quotient mode by mode; the exact operations over a
common denominator. -/
theorem numberFormats : Obligations.NumberFormats :=
  ⟨fun _ flush _ _ _ hfast => convIeee_decode flush hfast,
    fun _ c _ hnarrow => convNarrow_decode (not_ieee_of_narrowFormat hnarrow) c,
    fun c neg num den hden => ⟨roundQ_of_dvd c neg, fun hc => roundQ_nearestEven hc neg num hden,
      fun hc => roundQ_towardZero hc neg num den, fun hc => roundQ_up hc neg, fun hc => roundQ_down hc neg,
      fun hc h _ => roundQ_random hc neg h⟩,
    fun dn x y hx hy => ⟨value_add dn hx hy, value_mul x y, fun _ => value_div x y,
      Ex.cmp_lt_iff hx hy, Ex.cmp_eq_iff hx hy⟩⟩

end Sys2Proof.Machine

/-! SUPPORT. The state of an array partition: its groups, sets and jobs after each kind of update. -/

namespace Sys2Proof.Machine

/-! Instances. -/

@[simp] theorem getInst_fin (s : State) (n : Fin 16) : getInst s n.val = s.opa.inst[n] := vget_fin _ n _

/-- A partition changed is the partition put in its place. -/
theorem modInst_fin (n : Fin 16) (f : OpaInst → OpaInst) (s : State) :
    modInst n.val f s = Rule.withInst s n (f s.opa.inst[n]) := by
  simp [modInst, Rule.withInst]

@[simp] theorem withInst_inst (s : State) (n : Fin 16) (i : OpaInst) : (Rule.withInst s n i).opa.inst[n] = i := by
  simp [Rule.withInst]

theorem withInst_inst_other (s : State) {n k : Fin 16} (i : OpaInst) (h : k ≠ n) :
    (Rule.withInst s n i).opa.inst[k] = s.opa.inst[k] := by
  have hv : n.val ≠ k.val := fun e => h (Fin.ext e.symm)
  simp [Rule.withInst, hv]

@[simp] theorem withInst_withInst (s : State) (n : Fin 16) (i i' : OpaInst) :
    Rule.withInst (Rule.withInst s n i) n i' = Rule.withInst s n i' := by
  simp [Rule.withInst]

@[simp] theorem withInst_self (s : State) (n : Fin 16) : Rule.withInst s n s.opa.inst[n] = s := by
  simp [Rule.withInst]

/-! When the array works (14:R415, 01:R27). -/

theorem arrayRuns_of_arrayOn {s : State} (h : Rule.ArrayOn s) : arrayRuns s = true := by
  simp [arrayRuns, h.reset.1, h.reset.2, h.clock]

theorem running_of_arrayOn {s : State} (h : Rule.ArrayOn s) : running s = true := by
  simpa [running] using h.state

theorem arrayRuns_of_hold {s : State} (h : s.sens.hold ≠ .none) : arrayRuns s = false := by
  simp [arrayRuns, h]

/-- A command of the array gives what its function makes of the state. -/
theorem gives_of_next {i : Instr} {s t u : State} (he : effect i s = .next (settle s u)) (ht : u = t) : Rule.Gives i s t :=
  gives_of_effect (ht ▸ he)

theorem ends_of_next {i : Instr} {s u : State} {P : State → Prop} (he : effect i s = .next (settle s u)) (hp : P u) :
    Rule.Ends i s P := ⟨u, gives_of_effect he, hp⟩

/-! Groups and their sets. -/

theorem getGroup_fin (i : OpaInst) (g : Fin 4) : getGroup i g.val = i.groups[g] := vget_fin _ g _

theorem modGroup_fin (n : Fin 16) (g : Nat) (f : Group → Group) (s : State) :
    modGroup n.val g f s = Rule.withInst s n { s.opa.inst[n] with groups := vmod s.opa.inst[n].groups g f } :=
  modInst_fin n _ s

section
variable {i : OpaInst} {g : Nat} {f : Group → Group} {fmt : BitVec 2} {jobs : List OpaJob} {l : Nat} {a : Activity}
  {int q : Nat}

/-- A group of a partition with one group changed, whatever else is changed in it. -/
theorem getGroup_vmod_same (hg : g < 4) :
    getGroup ⟨fmt, vmod i.groups g f, jobs, l, a, int, q⟩ g = f (getGroup i g) := vget_vmod_same _ _ _ _ hg

theorem getGroup_vmod_other {k : Nat} (h : k ≠ g) :
    getGroup ⟨fmt, vmod i.groups g f, jobs, l, a, int, q⟩ k = getGroup i k := vget_vmod_other _ _ _ _ _ h.symm

theorem getGroup_of_vmap {i' : OpaInst} (h : i'.groups = vmap f i.groups) (hg : g < 4) :
    getGroup i' g = f (getGroup i g) := by
  have hv : vget (vmap f i.groups) g Group.reset = (vmap f i.groups)[g] := vget_of_lt _ _ _ hg
  have hw : vget i.groups g Group.reset = i.groups[g] := vget_of_lt _ _ _ hg
  rw [getGroup, getGroup, h, hv, hw, vmap_getElem]

end

section
variable (g : Group) (y : Bool) (f : AccSet → AccSet)

@[simp] theorem Group.set_mod_same : (g.mod y f).set y = f (g.set y) := by cases y <;> rfl
@[simp] theorem Group.set_mod_other : (g.mod y f).set (!y) = g.set (!y) := by cases y <;> rfl
@[simp] theorem Group.mod_tile : (g.mod y f).tile = g.tile := by cases y <;> rfl
@[simp] theorem Group.mod_inY : (g.mod y f).inY = g.inY := by cases y <;> rfl

end

/-- A change of one partition that leaves its other groups, and the group's other set, as they were. -/
theorem onlySet_of_set {s t : State} {n : Fin 16} {g : Nat} {y : Bool} {i : OpaInst}
    (ht : t.opa.inst = s.opa.inst.set n.val i) (hg : ∀ k, k ≠ g → getGroup i k = getGroup s.opa.inst[n] k)
    (hy : (getGroup i g).set (!y) = (getGroup s.opa.inst[n] g).set (!y)) : Rule.OnlySet s t n g y := by
  have hn : t.opa.inst[n] = i := by simp [ht]
  refine ⟨fun k hk => ?_, fun k hk => ?_, ?_⟩
  · rw [ht]; exact withInst_inst_other s i hk
  · rw [hn, hg k hk]
  · rw [hn, hy]

/-- A group changed in one set only. -/
theorem onlySet_of_mod {s t : State} {n : Fin 16} {g : Nat} (hg : g < 4) {y : Bool} {i : OpaInst} {f : Group → Group}
    (ht : t.opa.inst = s.opa.inst.set n.val i) (hi : i.groups = vmod s.opa.inst[n].groups g f)
    (hf : (f (getGroup s.opa.inst[n] g)).set (!y) = (getGroup s.opa.inst[n] g).set (!y)) : Rule.OnlySet s t n g y := by
  obtain ⟨fmt, gs, jobs, l, act, int, q⟩ := i
  subst hi
  refine onlySet_of_set ht (fun k hne => getGroup_vmod_other hne) ?_
  rw [getGroup_vmod_same hg, hf]

/-! Jobs. -/

theorem OpaJob.isOf_iff {x : OpaJob} {q : Fin 32} {idx : BitVec 32} : x.isOf q.val idx = true ↔ x.q = q ∧ x.idx = idx := by
  simp [OpaJob.isOf, Fin.val_inj]

theorem OpaJob.isOf_self (j : OpaJob) : j.isOf j.q.val j.idx = true := OpaJob.isOf_iff.mpr ⟨rfl, rfl⟩

/-- The owner of a set names a job. -/
theorem owner_eq_iff {x j : OpaJob} : (some (j.q.val, j.idx) = some (x.q.val, x.idx)) ↔ x.q = j.q ∧ x.idx = j.idx := by
  simp only [Option.some.injEq, Prod.mk.injEq, Fin.val_inj]
  exact ⟨fun h => ⟨h.1.symm, h.2.symm⟩, fun h => ⟨h.1.symm, h.2.symm⟩⟩

theorem modJob_fin (n : Fin 16) (q : Nat) (idx : BitVec 32) (f : OpaJob → OpaJob) (s : State) :
    modJob n.val q idx f s = Rule.withInst s n { s.opa.inst[n] with
      jobs := s.opa.inst[n].jobs.map fun j => if j.isOf q idx then f j else j } := modInst_fin n _ s

section
variable {i : OpaInst} {j : OpaJob} (h : Rule.OwnJob i j)
include h

theorem isOf_iff_eq {x : OpaJob} (hx : x ∈ i.jobs) : x.isOf j.q.val j.idx = true ↔ x = j :=
  ⟨fun hq => h.only x hx (OpaJob.isOf_iff.mp hq).1 (OpaJob.isOf_iff.mp hq).2, fun e => e ▸ OpaJob.isOf_self j⟩

/-- A change of the job of a descriptor puts another in the place of its only job. -/
theorem map_isOf_eq_replaced (f : OpaJob → OpaJob) :
    (i.jobs.map fun x => if x.isOf j.q.val j.idx then f x else x) = Rule.replaced i.jobs j (f j) := by
  refine List.map_congr_left fun x hx => ?_
  by_cases e : x = j
  · rw [if_pos ((isOf_iff_eq h hx).mpr e), if_pos e, e]
  · rw [if_neg (mt (isOf_iff_eq h hx).mp e), if_neg e]

theorem modJob_own {s : State} {n : Fin 16} (hs : s.opa.inst[n] = i) (f : OpaJob → OpaJob) :
    modJob n.val j.q.val j.idx f s = Rule.withInst s n { i with jobs := Rule.replaced i.jobs j (f j) } := by
  rw [modJob_fin, hs, map_isOf_eq_replaced h]

/-- A search that only the descriptor's job can satisfy finds it. -/
theorem find?_own {p : OpaJob → Bool} (hj : p j = true) (hx : ∀ x ∈ i.jobs, p x = true → x.q = j.q ∧ x.idx = j.idx) :
    i.jobs.find? p = some j := by
  cases hf : i.jobs.find? p with
  | none => exact absurd hj (by simpa using List.find?_eq_none.mp hf j h.mem)
  | some x =>
    have hm := List.mem_of_find?_eq_some hf
    obtain ⟨hq, hi⟩ := hx x hm (List.find?_some hf)
    rw [h.only x hm hq hi]

end

/-- The oldest job with a property is what a search for it finds. -/
theorem find?_of_first {P : OpaJob → Prop} {i : OpaInst} {j : OpaJob} {p : OpaJob → Bool} (h : Rule.First P i j)
    (hp : ∀ x, p x = true ↔ P x) : i.jobs.find? p = some j := by
  obtain ⟨hj, before, after, hl, hb⟩ := h
  rw [hl, List.find?_append, List.find?_eq_none.mpr fun x hx => mt (hp x).mp (hb x hx), List.find?_cons,
    (hp j).mpr hj]
  rfl

/-! The end of a descriptor's work (04:R101, R114). -/

section
variable (n : Fin 16) (j : OpaJob) (e : Ended) (s : State)

theorem closeJob_opa : (closeJob n.val j e s).opa = (Rule.withInst s n { s.opa.inst[n] with
    jobs := s.opa.inst[n].jobs.filter fun x => !x.isOf j.q.val j.idx }).opa := by
  rw [← modInst_fin n fun i => { i with jobs := i.jobs.filter fun x => !x.isOf j.q.val j.idx }]
  rfl

theorem closeJob_inst : (closeJob n.val j e s).opa.inst[n] = { s.opa.inst[n] with
    jobs := s.opa.inst[n].jobs.filter fun x => !x.isOf j.q.val j.idx } := by
  rw [closeJob_opa, withInst_inst]

@[simp] theorem closeJob_mem : (closeJob n.val j e s).mem = s.mem := rfl
@[simp] theorem closeJob_svc : (closeJob n.val j e s).svc = s.svc := rfl
@[simp] theorem closeJob_flt : (closeJob n.val j e s).flt = s.flt := rfl
@[simp] theorem closeJob_memp : (closeJob n.val j e s).memp = s.memp := rfl

theorem modFlight_inflight (q : Fin 32) (idx : BitVec 32) (g : InFlight → InFlight) :
    ((modFlight q.val idx g s).dq[q]).inflight = (s.dq[q]).inflight.map fun f => if f.idx == idx then g f else f := by
  simp [modFlight, modQ_fin, Rule.withQ]

theorem modFlight_dq_other {q p : Fin 32} (h : p ≠ q) (idx : BitVec 32) (g : InFlight → InFlight) :
    (modFlight q.val idx g s).dq[p] = s.dq[p] := by
  have hv : q.val ≠ p.val := fun e => h (Fin.ext e.symm)
  simp [modFlight, modQ_fin, Rule.withQ, hv]

variable {n j e s}

/-- Where no outcome of the descriptor stands yet, it finishes with the one given. -/
theorem finished_closeJob {s₀ : State} (hj : s.opa.inst[n].jobs = s₀.opa.inst[n].jobs)
    (hd : ∀ p : Fin 32, p ≠ j.q → s.dq[p] = s₀.dq[p])
    (hend : ∀ f ∈ (s.dq[j.q]).inflight, f.idx = j.idx → f.ended = none) :
    Rule.Finished s₀ (closeJob n.val j e s) n j e := by
  refine ⟨?_, ?_, fun p hp => ?_⟩
  · rw [closeJob_inst, hj]
    refine List.filter_congr fun x _ => ?_
    simp [← OpaJob.isOf_iff]
  · intro g hg hi
    rw [closeJob, endFlight, modFlight_inflight, modFlight_inflight, modInst_dq, List.map_map] at hg
    obtain ⟨f, hf, rfl⟩ := List.mem_map.mp hg
    by_cases hx : f.idx = j.idx
    · simp [hx, hend f hf hx]
    · simp [hx] at hi
  · rw [closeJob, endFlight, modFlight_dq_other _ hp, modFlight_dq_other _ hp, modInst_dq, hd p hp]

end

end Sys2Proof.Machine

/-! SUPPORT. O48: power smoothing, and a column group that leaves its band. -/

namespace Sys2Proof.Machine

/-! Power smoothing (03:R92 to R95). -/

theorem OpaInst.gap_eq_gapped (fill : Nat) (i : OpaInst) : i.gap fill = Rule.gapped fill i := by
  unfold OpaInst.gap Rule.gapped
  cases i.activity <;> rfl

theorem gapped_of_active {fill : Nat} {i : OpaInst} (h : i.activity = .full ∨ i.activity = .ramp) :
    Rule.gapped fill i = { i with activity := .shortGap, lambda := min 16 fill } := if_pos h

theorem gapped_of_gap {fill : Nat} {i : OpaInst} (h : i.activity = .shortGap ∨ i.activity = .longGap) :
    Rule.gapped fill i = i := if_neg (by rcases h with h | h <;> simp [h])

theorem smooth_of_arrayOn {s : State} (h : Rule.ArrayOn s) (n : Fin 16) (f : OpaInst → OpaInst) :
    smooth n.val f s = Rule.withInst s n (f s.opa.inst[n]) := by
  rw [smooth, arrayRuns_of_arrayOn h, if_pos rfl, modInst_fin]

theorem smooth_of_hold {s : State} (h : s.sens.hold ≠ .none) (n : Nat) (f : OpaInst → OpaInst) : smooth n f s = s := by
  rw [smooth, arrayRuns_of_hold h]; rfl

section
variable {i : OpaInst} {fill : Nat}

/-- A dummy step of a partition in a gap, or without work (03:R92, R93). -/
theorem OpaInst.dummy_of_gap (h : i.activity = .ramp → issuing i = none) :
    i.dummy fill = { Rule.gapped fill i with interval := i.interval - 1 } := by
  have hb : (i.activity == .ramp && (issuing i).isSome) = false := by
    by_cases hr : i.activity = .ramp
    · simp [hr, h hr]
    · simp [hr]
  simp [OpaInst.dummy, hb, OpaInst.gap_eq_gapped]

theorem OpaInst.dummy_of_ramp (h : i.activity = .ramp) (hw : issuing i ≠ none) : i.dummy fill = i := by
  have hb : (i.activity == .ramp && (issuing i).isSome) = true := by
    simp [h, Option.isSome_iff_ne_none, hw]
  rw [OpaInst.dummy, hb, if_pos rfl]

theorem OpaInst.longer_of_longGap (h : i.activity = .longGap) : i.longer fill = i := by
  simp [OpaInst.longer, h]

theorem OpaInst.longer_of_ne (h : i.activity ≠ .longGap) :
    i.longer fill = { Rule.gapped fill i with activity := .longGap } := by
  unfold OpaInst.longer
  split
  · contradiction
  · rw [OpaInst.gap_eq_gapped]

theorem OpaInst.decay_of_longGap (h : i.activity = .longGap) : i.decay = { i with lambda := i.lambda - 1 } := by
  simp [OpaInst.decay, h]

theorem OpaInst.decay_of_ne (h : i.activity ≠ .longGap) : i.decay = i := by simp [OpaInst.decay, h]

theorem OpaInst.ramp_of_low (h : i.activity = .ramp) (hl : i.lambda < 15) : i.ramp = { i with lambda := i.lambda + 1 } := by
  simp [OpaInst.ramp, h, Nat.not_le.mpr hl]

theorem OpaInst.ramp_of_top (h : i.activity = .ramp) (hl : 15 ≤ i.lambda) :
    i.ramp = { i with lambda := 16, activity := .full } := by
  simp [OpaInst.ramp, h, hl]

theorem OpaInst.ramp_of_ne (h : i.activity ≠ .ramp) : i.ramp = i := by simp [OpaInst.ramp, h]

end

section
variable {s : State} {n : Fin 16} {c : Instr} {f : OpaInst → OpaInst} (h : Rule.ArrayOn s)
  (hc : effect c s = .next (settle s (smooth n.val f s)))
include h hc

/-- A command of the power smoothing gives the partition as its function leaves it. -/
theorem gives_smooth {i : OpaInst} (hf : f s.opa.inst[n] = i) : Rule.Gives c s (Rule.withInst s n i) :=
  gives_of_next hc (by rw [smooth_of_arrayOn h, hf])

theorem gives_smooth_same (hf : f s.opa.inst[n] = s.opa.inst[n]) : Rule.Gives c s s := by
  have := gives_smooth h hc hf
  rwa [withInst_self] at this

end

/-! A column group leaves its band (03:R76). -/

/-- The instances of a column band. -/
def bandInsts (s : State) (band : Nat) : List Nat := (List.range (modeParts (pmode s))).filter fun n => bandOf s n == band

/-- A partition of the band is in a pass on column group c. -/
def bandBusy (s : State) (c : Fin 16) : Prop :=
  ∃ k : Fin 16, k.val < modeParts (pmode s) ∧ k.val % modeBands (pmode s) = (s.opa.bandmap[c]).toNat ∧
    ∃ j ∈ s.opa.inst[k].jobs, j.begun = true ∧ j.done = false ∧ c.val ∈ j.groups

/-- The state in which column group c is in no band. -/
def groupLeft (s : State) (c : Fin 16) : State :=
  { s with opa := { s.opa with
      bandmap := s.opa.bandmap.set c.val 0xF, leaving := s.opa.leaving.filter (· ≠ c) } }

theorem modeParts_le (m : Nat) : modeParts m ≤ 16 := by
  unfold modeParts modeRC
  split <;> decide

theorem mem_bandInsts {s : State} {band k : Nat} :
    k ∈ bandInsts s band ↔ k < modeParts (pmode s) ∧ k % modeBands (pmode s) = band := by
  simp [bandInsts, bandOf]

/-- The instances of a band are among the sixteen. -/
theorem exists_fin_of_mem_bandInsts {s : State} {band k : Nat} (h : k ∈ bandInsts s band) : ∃ n : Fin 16, n.val = k :=
  ⟨⟨k, Nat.lt_of_lt_of_le (mem_bandInsts.mp h).1 (modeParts_le _)⟩, rfl⟩

theorem bandBusy_iff (s : State) (c : Fin 16) :
    ((bandInsts s (s.opa.bandmap[c]).toNat).any fun n =>
      (getInst s n).jobs.any fun j => j.begun && !j.done && j.groups.contains c.val) = true ↔ bandBusy s c := by
  simp only [List.any_eq_true, bandBusy]
  constructor
  · rintro ⟨k, hk, j, hj, hp⟩
    obtain ⟨k, rfl⟩ := exists_fin_of_mem_bandInsts hk
    rw [getInst_fin] at hj
    obtain ⟨hlt, hb⟩ := mem_bandInsts.mp hk
    exact ⟨k, hlt, hb, j, hj, by simpa [and_assoc] using hp⟩
  · rintro ⟨k, hlt, hb, j, hj, hp⟩
    exact ⟨k, mem_bandInsts.mpr ⟨hlt, hb⟩, j, by rwa [getInst_fin], by simpa [and_assoc] using hp⟩

theorem leaving_any_iff (s : State) (c : Fin 16) : (s.opa.leaving.any (·.val == c.val)) = true ↔ c ∈ s.opa.leaving := by
  simp [Fin.val_inj]

theorem leaveBand_stays {s : State} {c : Fin 16} (h : c ∉ s.opa.leaving ∨ bandBusy s c) : leaveBand c.val s = s := by
  have hb := bandBusy_iff s c
  have hl := leaving_any_iff s c
  unfold bandInsts at hb
  unfold leaveBand
  simp only [vget_fin]
  rw [if_pos]
  rcases h with h | h
  · rw [Bool.eq_false_iff.mpr (mt hl.mp h)]; rfl
  · rw [hb.mpr h, Bool.or_true]; rfl

/-- A column group that may leave has left, and each partition of its band bears it. -/
theorem leaveBand_leaves {s : State} {c : Fin 16} (hl : c ∈ s.opa.leaving) (hb : ¬ bandBusy s c) (hp : s.ctl.por = false)
    (hw : s.ctl.wres = false) :
    leaveBand c.val s = (bandInsts s (s.opa.bandmap[c]).toNat).foldl (fun s n => leaveInst c.val n s) (groupLeft s c) := by
  have hb' := Bool.eq_false_iff.mpr (mt (bandBusy_iff s c).mp hb)
  have hf : s.opa.leaving.filter (·.val != c.val) = s.opa.leaving.filter (· ≠ c) := by
    congr 1; funext x; simp [bne, Fin.val_inj, beq_eq_decide]
  unfold bandInsts at hb' ⊢
  unfold leaveBand groupLeft
  simp only [vget_fin]
  rw [if_neg]
  · rw [vmod_fin, hf]
  · simp only [hb', (leaving_any_iff s c).mpr hl, hp, hw]
    decide

/-! What the departure means for a partition (04:R103). -/

theorem mem_openGroups {i : OpaInst} {g : Nat} : g ∈ openGroups i ↔ g < 4 ∧ (getGroup i g).tile.isSome = true := by
  simp [openGroups]

theorem openGroups_eq_nil {i : OpaInst} (h : ∀ g : Fin 4, (i.groups[g]).tile = none) : openGroups i = [] := by
  refine List.eq_nil_iff_forall_not_mem.mpr fun g hg => ?_
  obtain ⟨hlt, ht⟩ := mem_openGroups.mp hg
  rw [getGroup_fin i ⟨g, hlt⟩, h] at ht
  cases ht

/-- A partition without open tile that keeps a column group has nothing to bear. -/
theorem leaveInst_of_closed {s : State} (c : Nat) {n : Fin 16} (ht : ∀ g : Fin 4, (s.opa.inst[n].groups[g]).tile = none)
    (hb : bandGroups s n.val ≠ []) : leaveInst c n.val s = s := by
  simp [leaveInst, openGroups_eq_nil ht, hb, -Fin.getElem_fin]

/-- Without jobs an open group that is lost is only dropped. -/
theorem loseGroup_of_no_jobs {s : State} {n : Fin 16} (g : Nat) (h : s.opa.inst[n].jobs = []) :
    loseGroup n.val g s = dropTile n.val g s := by
  simp only [loseGroup, getInst_fin, h, List.find?_nil]

/-- The groups lost by a partition without jobs are open no more; nothing else is open that was not. -/
theorem loseGroups_of_no_jobs (n : Fin 16) (gs : List Nat) (hg : ∀ g ∈ gs, g < 4) (s : State) (h : s.opa.inst[n].jobs = []) :
    ∃ i, loseGroups n.val gs s = Rule.withInst s n i ∧ i.jobs = [] ∧
      ∀ k, k ∈ gs ∨ (getGroup s.opa.inst[n] k).tile = none → (getGroup i k).tile = none := by
  induction gs generalizing s with
  | nil => exact ⟨s.opa.inst[n], (withInst_self s n).symm, h, fun k hk => by simpa using hk⟩
  | cons g gs ih =>
    have hdrop : dropTile n.val g s = _ := modGroup_fin n g _ s
    have hlt := hg g (List.mem_cons_self ..)
    obtain ⟨i, hi, hj, hn⟩ := ih (fun k hk => hg k (List.mem_cons_of_mem _ hk)) (dropTile n.val g s)
      (by rw [hdrop, withInst_inst]; exact h)
    refine ⟨i, ?_, hj, fun k hk => hn k ?_⟩
    · rw [loseGroups, loseGroup_of_no_jobs g h, hi, hdrop, withInst_withInst]
    · rw [hdrop, withInst_inst]
      by_cases hkg : k = g
      · subst hkg
        rw [getGroup_vmod_same hlt]
        exact .inr rfl
      · rw [getGroup_vmod_other hkg]
        simpa [hkg] using hk

theorem endAbsent_of_no_jobs {s : State} {n : Fin 16} (h : s.opa.inst[n].jobs = []) : endAbsent n.val s = s := by
  simp only [endAbsent, getInst_fin, h, List.foldl_nil]

/-- The record of the open groups that a partition loses (14:R397). -/
def groupsLost (c n : Nat) (s : State) : State :=
  opaDEvent 16 (detect opaGroup clsQueue (unitOf 1 c) (BitVec.ofNat 16 n)
    (w64 (((openGroups (getInst s n)).map (2 ^ ·)).sum)) 0 s)

/-- A partition without jobs loses its open groups, with one record. -/
theorem leaveInst_of_open {s : State} (c : Nat) {n : Fin 16} (hj : s.opa.inst[n].jobs = [])
    (ht : ∃ g : Fin 4, (s.opa.inst[n].groups[g]).tile ≠ none) :
    ∃ i, leaveInst c n.val s = Rule.withInst (groupsLost c n.val s) n i ∧ ∀ g : Fin 4, (i.groups[g]).tile = none := by
  obtain ⟨g, hg⟩ := ht
  have hne : openGroups s.opa.inst[n] ≠ [] := fun e => by
    have : g.val ∈ openGroups s.opa.inst[n] :=
      mem_openGroups.mpr ⟨g.isLt, by rw [getGroup_fin]; exact Option.isSome_iff_ne_none.mpr hg⟩
    rw [e] at this; cases this
  obtain ⟨i, hi, hij, hn⟩ := loseGroups_of_no_jobs n (openGroups s.opa.inst[n]) (fun g hg => (mem_openGroups.mp hg).1)
    (groupsLost c n.val s) hj
  refine ⟨i, ?_, fun g => ?_⟩
  · have ha : endAbsent n.val (Rule.withInst (groupsLost c n.val s) n i) = _ :=
      endAbsent_of_no_jobs (by rw [withInst_inst]; exact hij)
    unfold groupsLost at hi ha ⊢
    rw [getInst_fin] at hi ha ⊢
    simp only [leaveInst, getInst_fin, List.isEmpty_eq_false_iff.mpr hne, Bool.false_eq_true, if_false, hi, ha, ite_self]
  · rw [← getGroup_fin]
    refine hn g.val ?_
    by_cases h : (getGroup s.opa.inst[n] g.val).tile = none
    · exact .inr h
    · exact .inl (mem_openGroups.mpr ⟨g.isLt, Option.isSome_iff_ne_none.mpr h⟩)

theorem Sqc.event_status (r : Sqc) (t : Word) (bits : BitVec 48) : (r.event t bits).status = r.status ||| bits := by
  unfold Sqc.event
  split
  · rename_i h; simp [beq_iff_eq.mp h]
  · split <;> rfl

/-- Settles O48: each level by its equation of the partition, and the departure of a column group by the instances of its
band. -/
theorem arrayActivity : Obligations.ArrayActivity := by
  intro s n c
  refine ⟨fun h => ?_, fun h => ?_, ?_⟩
  · refine ⟨fun ha => ?_, fun ha hw => gives_smooth_same h rfl (OpaInst.dummy_of_ramp ha hw), fun ha => ?_, fun ha => ?_,
      fun ha => ?_, fun ha => ⟨gives_smooth_same h rfl (OpaInst.longer_of_longGap ha), ?_⟩,
      fun ha hl => ?_, fun ha hl => ?_, fun ha => gives_smooth_same h rfl (OpaInst.ramp_of_ne ha),
      fun ha => gives_smooth_same h rfl (OpaInst.decay_of_ne ha)⟩
    · have hw : s.opa.inst[n].activity = .ramp → issuing s.opa.inst[n] = none := fun hr => by
        rcases ha with hf | hf
        · rw [hf] at hr; cases hr
        · exact hf.2
      rw [Rule.smoothed, withInst_inst, withInst_withInst]
      exact gives_smooth h rfl ((OpaInst.dummy_of_gap hw).trans (by rw [gapped_of_active (ha.imp_right And.left)]))
    · have hr : s.opa.inst[n].activity ≠ .ramp := by rcases ha with ha | ha <;> simp [ha, -Fin.getElem_fin]
      exact gives_smooth h rfl ((OpaInst.dummy_of_gap (absurd · hr)).trans (by rw [gapped_of_gap ha]))
    · have hl : s.opa.inst[n].activity ≠ .longGap := by rcases ha with ha | ha <;> simp [ha, -Fin.getElem_fin]
      exact gives_smooth h rfl ((OpaInst.longer_of_ne hl).trans (by rw [gapped_of_active ha]))
    · exact gives_smooth h rfl ((OpaInst.longer_of_ne (by simp [ha, -Fin.getElem_fin])).trans
        (by rw [gapped_of_gap (.inl ha)]))
    · exact gives_smooth h rfl ((OpaInst.decay_of_longGap ha).trans (by rw [← ha]))
    · exact gives_smooth h rfl ((OpaInst.ramp_of_low ha hl).trans (by rw [← ha]))
    · exact gives_smooth h rfl (OpaInst.ramp_of_top ha hl)
  · refine ⟨gives_of_next rfl (smooth_of_hold h n.val _), gives_of_next rfl ?_⟩
    simp [opaStep, arrayRuns_of_hold h]
  · refine ⟨fun h => gives_of_next rfl (leaveBand_stays h), fun hl hb hp hw ht => ?_, fun hl hp hw hm h0 hj ht => ?_⟩
    · refine gives_of_next rfl ((leaveBand_leaves hl hb hp hw).trans
        (List.foldlRecOn _ _ (motive := (· = groupLeft s c)) rfl ?_))
      rintro t rfl k hk
      obtain ⟨k, rfl⟩ := exists_fin_of_mem_bandInsts hk
      obtain ⟨hlt, hband⟩ := mem_bandInsts.mp hk
      obtain ⟨htile, hgs⟩ := ht k hlt hband
      exact leaveInst_of_closed c.val htile hgs
    · have hmode : pmode s = 0 := by simp [pmode, hm]
      have hinsts : bandInsts s (s.opa.bandmap[c]).toNat = [0] := by
        rw [h0]; simp only [bandInsts, bandOf, hmode]; rfl
      have hb : ¬ bandBusy s c := by
        rintro ⟨k, hlt, -, j, hk, -⟩
        have hz : k = 0 := Fin.ext (by rw [hmode] at hlt; exact Nat.lt_one_iff.mp hlt)
        rw [hz, hj] at hk
        cases hk
      obtain ⟨i, hi, hnone⟩ := leaveInst_of_open (s := groupLeft s c) c.val (n := 0) hj ht
      refine ends_of_next (u := Rule.withInst (groupsLost c.val 0 (groupLeft s c)) 0 i) ?_ ⟨rfl, ?_, ?_, ?_, rfl, ?_, ?_⟩
      · show Host.Outcome.next (settle s (leaveBand c.val s)) = _
        rw [leaveBand_leaves hl hb hp hw, hinsts, List.foldl_cons, List.foldl_nil]
        exact congrArg (fun t => Host.Outcome.next (settle s t)) hi
      · exact fun hc => by simpa using (List.mem_filter.mp hc).2
      · intro g; rw [withInst_inst]; exact hnone g
      · intro k hk; rw [withInst_inst_other _ _ hk]; rfl
      · show insertDetected _ (FRec.mk _ _ _ _ _ _
          (w64 ((openGroups (getInst (groupLeft s c) (0 : Fin 16).val)).map (2 ^ ·)).sum) _) _ = _
        rw [getInst_fin]; rfl
      · show (Sqc.event _ _ _).status.getLsbD 16 = true
        rw [Sqc.event_status, BitVec.getLsbD_or]
        have : (sqcBit 16).getLsbD 16 = true := by decide
        rw [this, Bool.or_true]

end Sys2Proof.Machine

/-! SUPPORT. O47: detections in the array, what they count, the pass that runs again and the descriptor that ends. -/

namespace Sys2Proof.Machine

/-! Records and counts of detections (14:R394, R397, R404). -/

/-- The source of a detection in column group g, or outside any. -/
def detectionSource (col : BitVec 8) (out : Bool) : BitVec 16 :=
  if out then 0x01FF else BitVec.ofNat 16 (0x100 + cubeGroup col)

/-- The counts after a detection in a column group, or outside any. -/
def detectionCounts (s : State) (col : BitVec 8) (out : Bool) : Svc :=
  if out then s.svc else Rule.groupCounted s (cubeGroup col)

/-- One more detection brings a column group to the limit. -/
def GroupAtLimit (s : State) (col : BitVec 8) : Prop :=
  ∃ g : Fin 16, g.val = cubeGroup col ∧ s.svc.cgLimit.toNat ≤ (s.svc.cgCount[g] + 1).toNat

/-- The state with a detection recorded and counted, and nothing else. -/
def detected (s : State) (n : Fin 16) (ev : BitVec 16) (cls : Byte) (col row : BitVec 8) (out : Bool) (attempt : Nat)
    (who : Word) (pass : Nat) : State :=
  { s with
    svc := detectionCounts s col out,
    flt := { s.flt with
      detected := Rule.arrayRecord s n ev cls (detectionSource col out) attempt who row col pass } }

/-- INFO of a detection: the descriptor, by queue and index, or none (14:R397). -/
def detectionInfo : Option (Nat × BitVec 32) → Word
  | some (q, idx) => idx.setWidth 64 ||| w64 (q * 2 ^ 32)
  | none => 0xFFFFFFFFFFFFFFFF

/-- A queue and an index in one word. -/
theorem detectionInfo_descriptor (q : Fin 32) (idx : BitVec 32) :
    detectionInfo (some (q.val, idx)) = BitVec.ofNat 64 (idx.toNat + q.val * 2 ^ 32) := by
  have hq : q.val * 2 ^ 32 < 2 ^ 64 := by omega
  have hs : idx.toNat + q.val * 2 ^ 32 < 2 ^ 64 := by omega
  apply BitVec.eq_of_toNat_eq
  rw [detectionInfo, w64, BitVec.toNat_or, BitVec.toNat_setWidth, BitVec.toNat_ofNat, BitVec.toNat_ofNat, Nat.mod_eq_of_lt hq,
    Nat.mod_eq_of_lt hs, Nat.mod_eq_of_lt (by omega), Nat.or_comm, ← Nat.shiftLeft_eq,
    ← Nat.shiftLeft_add_eq_or_of_lt idx.isLt, Nat.add_comm]

/-- A detection below the limit, or while no unit is retired by itself, is only counted (14:R404). -/
theorem cgDetection_counts {s : State} {col : BitVec 8} (hg : cubeGroup col < 16)
    (h : s.svc.auto ≠ 1 ∨ ¬ GroupAtLimit s col) :
    cgDetection (cubeGroup col) s = { s with svc := Rule.groupCounted s (cubeGroup col) } := by
  have hc : vget (vmod s.svc.cgCount (cubeGroup col) (· + 1)) (cubeGroup col) 0 = s.svc.cgCount[cubeGroup col] + 1 := by
    rw [vget_vmod_same _ _ _ _ hg, vget_of_lt _ _ _ hg]
  have hn : ¬ (s.svc.cgLimit.toNat ≤ (s.svc.cgCount[cubeGroup col] + 1).toNat ∧ s.svc.auto = 1) := fun ⟨hl, ha⟩ =>
    h.elim (absurd ha) fun hn => hn ⟨⟨cubeGroup col, hg⟩, rfl, hl⟩
  simp only [cgDetection, countCg, hc]
  rw [if_neg]
  · rfl
  · simp only [Bool.and_eq_true, decide_eq_true_eq, beq_iff_eq]
    exact fun h => hn h.1

theorem opaCount_counts {s : State} {col : BitVec 8} {out rep : Bool} (hg : out = false → cubeGroup col < 16)
    (h : s.svc.auto ≠ 1 ∨ (rep = false ∧ ¬ GroupAtLimit s col)) :
    opaCount col out rep s = { s with svc := detectionCounts s col out } := by
  cases out with
  | true => rfl
  | false =>
    have hr : (rep && s.svc.auto == 1) = false := by
      rcases h with ha | ⟨hr, -⟩
      · rw [beq_eq_false_iff_ne.mpr ha, Bool.and_false]
      · rw [hr, Bool.false_and]
    simp only [opaCount, Bool.false_eq_true, if_false, hr, Bool.false_and]
    exact cgDetection_counts (hg rfl) (h.imp_right And.right)

/-- A detection that retires nothing: its record and its count. -/
theorem opaCount_opaRecord {s : State} {n : Fin 16} {ev : BitVec 16} {cls : Byte} {row col : BitVec 8} {out rep : Bool}
    {attempt pass : Nat} {who : Option (Nat × BitVec 32)} {word : Word} (hg : out = false → cubeGroup col < 16)
    (h : s.svc.auto ≠ 1 ∨ (rep = false ∧ ¬ GroupAtLimit s col))
    (hw : detectionInfo who = word) :
    opaCount col out rep (opaRecord ev cls (cubeSource col out) attempt n.val who row col pass s) =
      detected s n ev cls col row out attempt word pass := by
  have hc := opaCount_counts (s := opaRecord ev cls (cubeSource col out) attempt n.val who row col pass s) hg h
  rw [hc]
  subst hw
  cases who <;> cases out <;> rfl

theorem cubeGroup_lt_of_cubeOf {s : State} {n : Nat} {row col : BitVec 8} (h : cubeOf s n row col = true) :
    cubeGroup col < 16 := by
  simp only [cubeOf, Bool.and_eq_true, decide_eq_true_eq] at h
  exact h.1.2

/-- The cube has checked a step of the set's pass. -/
theorem checkedBy_iff {T : AccSet} {row col : BitVec 8} :
    T.checkedBy row col = true ↔ ∃ c ∈ T.blind, row.toNat ∉ c.1 ∧ col.toNat ∉ c.2 := by
  simp [AccSet.checkedBy]

/-! A column group is retired at its limit (14:R404, R405). -/

theorem insertDetected_length (t : Word) (r : FRec) (l : List (Word × FRec)) :
    (insertDetected t r l).length = l.length + 1 := by
  induction l with
  | nil => rfl
  | cons x l ih =>
    obtain ⟨u, x⟩ := x
    unfold insertDetected
    split
    · rfl
    · simp [ih]

theorem uClass_columnGroup {g : Nat} (h : g < 16) : uClass (unitOf 1 g) = 1 := by
  simp only [uClass, unitOf, BitVec.toNat_ofNat]; omega

theorem uIdx_columnGroup {g : Nat} (h : g < 16) : uIdx (unitOf 1 g) = g := by
  simp only [uIdx, unitOf, BitVec.toNat_ofNat]; omega

theorem startLeaving_eq (g : Nat) (s : State) : ∃ l, startLeaving g s = { s with opa := { s.opa with leaving := l } } := by
  unfold startLeaving
  split
  · exact ⟨_, rfl⟩
  · exact ⟨_, rfl⟩

theorem programFuse_eq (w : Nat) (b : BitVec 32) (s : State) :
    ∃ p, programFuse w b s = { s with fuses := { s.fuses with prog := p } } := by
  unfold programFuse
  split
  · exact ⟨_, rfl⟩
  · exact ⟨_, rfl⟩

/-- The retirement of a column group: its bit, one record, and what is still to leave and to be programmed. -/
theorem retireUnit_columnGroup {g : Nat} (h : g < 16) (cause : BitVec 16) (count : Nat) (s : State) :
    ∃ p l tr cg rec, retireUnit (unitOf 1 g) cause count s = { s with
      fuses := { s.fuses with prog := p },
      opa := { s.opa with leaving := l },
      svc := { s.svc with trans := tr, cg := cg, retCG := putBit s.svc.retCG g true },
      flt := { s.flt with detected := insertDetected s.ctl.fcycles rec s.flt.detected } } := by
  unfold retireUnit
  simp only [uClass_columnGroup h, uIdx_columnGroup h, programRetire, setRetired, setSub]
  obtain ⟨l, hl⟩ := startLeaving_eq g { endTrans (unitOf 1 g) s with svc :=
    { (endTrans (unitOf 1 g) s).svc with
      cg := putBit (endTrans (unitOf 1 g) s).svc.cg g false,
      retCG := putBit (endTrans (unitOf 1 g) s).svc.retCG g true } }
  rw [hl]
  obtain ⟨p, hp⟩ := programFuse_eq 196 (BitVec.ofNat 32 (2 ^ g)) (detect hwRetired clsUnit (unitOf 1 g) cause (w64 count) 0
    { endTrans (unitOf 1 g) s with
      svc := { (endTrans (unitOf 1 g) s).svc with
        cg := putBit (endTrans (unitOf 1 g) s).svc.cg g false,
        retCG := putBit (endTrans (unitOf 1 g) s).svc.retCG g true },
      opa := { (endTrans (unitOf 1 g) s).opa with leaving := l } })
  exact ⟨p, l, _, _, _, hp⟩

theorem getLsbD_putBit_same {n : Nat} (m : BitVec n) {i : Nat} (h : i < n) : (putBit m i true).getLsbD i = true := by
  rw [putBit, if_pos rfl, BitVec.getLsbD_or, BitVec.getLsbD_ofNat, Nat.testBit_two_pow_self, decide_eq_true h]
  simp

/-- The detection that brings a column group to the limit retires it. -/
theorem cgDetection_retires {s : State} {col : BitVec 8} (ha : s.svc.auto = 1) (hl : GroupAtLimit s col)
    (hr : s.svc.retCG.getLsbD (cubeGroup col) = false) :
    let t := cgDetection (cubeGroup col) s
    t.svc.retCG.getLsbD (cubeGroup col) = true ∧ t.svc.cgCount = (Rule.groupCounted s (cubeGroup col)).cgCount ∧
      t.dq = s.dq ∧ t.mem = s.mem ∧ t.flt.detected.length = s.flt.detected.length + 1 := by
  obtain ⟨g, hg, hlim⟩ := hl
  have hc : vget (vmod s.svc.cgCount g.val (· + 1)) g.val 0 = s.svc.cgCount[g] + 1 := by
    rw [vget_vmod_same _ _ _ _ g.isLt, vget_fin]
  rw [← hg] at hr ⊢
  have he : cgDetection g.val s = retireUnit (unitOf 1 g.val) 0x0003 (s.svc.cgCount[g] + 1).toNat
      { s with svc := Rule.groupCounted s g.val } := by
    have hit : (decide (s.svc.cgLimit.toNat ≤ (s.svc.cgCount[g] + 1).toNat) && s.svc.auto == 1 &&
        !s.svc.retCG.getLsbD g.val) = true := by
      rw [decide_eq_true hlim, beq_iff_eq.mpr ha, hr]; rfl
    simp only [cgDetection, countCg, hc]
    exact if_pos hit
  obtain ⟨p, l, tr, cg, r, ht⟩ := retireUnit_columnGroup g.isLt 0x0003 (s.svc.cgCount[g] + 1).toNat
    { s with svc := Rule.groupCounted s g.val }
  rw [he, ht]
  exact ⟨getLsbD_putBit_same _ g.isLt, rfl, rfl, rfl, insertDetected_length ..⟩

/-! A pass with an error (14:R391, R401, R402). -/

section
variable {s : State} {n : Fin 16} {a : Fin 4} {y : Bool} {row col : BitVec 8} {out : Bool} {ev : BitVec 16}

/-- An error of a set that is no descriptor's: a parity error of a held set is noted. -/
theorem passError_of_no_job
    (h : ∀ x ∈ s.opa.inst[n].jobs, ((getGroup s.opa.inst[n] a.val).set y).owner ≠ some (x.q.val, x.idx)) :
    passError ev n.val a.val y row col out s =
      if ((getGroup s.opa.inst[n] a.val).set y).st = .held ∧ ev = opaAccParity then
        modGroup n.val a.val (fun x => x.mod y fun t => { t with bad := some (row, col, out) }) s
      else s := by
  have hf : (s.opa.inst[n].jobs.find? fun j =>
      ((getGroup s.opa.inst[n] a.val).set y).owner == some (j.q.val, j.idx) && j.fail.isNone) = none :=
    List.find?_eq_none.mpr fun x hx => by simp [h x hx, -Fin.getElem_fin]
  simp only [passError, getInst_fin, hf, Bool.and_eq_true, beq_iff_eq]

variable {j : OpaJob} {T : AccSet}

/-- The pass may run again (14:R401). -/
def RunsMore (T : AccSet) (j : OpaJob) : Prop :=
  dOpcode j.desc = 1 ∧ dReplay j.desc = true ∧ opaCont j.desc = false ∧ T.attempt < 3

theorem runsMore_iff : (replayable j.desc && decide (T.attempt < 3)) = true ↔ RunsMore T j := by
  simp [replayable, RunsMore, and_assoc]

/-- An error of a pass in flight: its record and count; another attempt, or the end of the descriptor. -/
theorem passError_of_own (hT : (getGroup s.opa.inst[n] a.val).set y = T) (h : Rule.OwnJob s.opa.inst[n] j)
    (hfail : j.fail = none) (ho : T.owner = some (j.q.val, j.idx)) (hfree : T.st ≠ .free) (hheld : T.st ≠ .held)
    {s₁ : State}
    (hs : opaCount col out (ev == opaChecksum && T.lastMiss == some (cubeGroup col))
      (opaRecord ev (if replayable j.desc && decide (T.attempt < 3) then clsCorrected else clsQueue) (cubeSource col out)
        T.attempt n.val (some (j.q.val, j.idx)) row col T.pass s) = s₁) :
    passError ev n.val a.val y row col out s =
      if replayable j.desc && decide (T.attempt < 3) then
        restartPass n.val a.val T y j (T.attempt + 1) (if ev == opaChecksum then some (cubeGroup col) else none) s₁
      else endJob n.val j (endWith ev)
        (if T.st == .drain then modGroup n.val a.val (fun x => x.mod y fun _ => .reset) s₁ else s₁) := by
  have hf : (s.opa.inst[n].jobs.find? fun x => T.owner == some (x.q.val, x.idx) && x.fail.isNone) = some j := by
    refine find?_own h (by simp [ho, hfail]) fun x _ hx => ?_
    rw [Bool.and_eq_true, beq_iff_eq, ho] at hx
    exact owner_eq_iff.mp hx.1
  have hst : (T.st == .free || T.st == .held) = false := by simp [hfree, hheld]
  simp only [passError, getInst_fin, hT, hf, hst, hs, Bool.false_eq_true, if_false]

/-- A pass that is to run again is FREE, and its job begins it afresh (14:R401). -/
theorem runsAgain_restartPass {s₁ : State} (hs : s₁.opa = s.opa) (h : Rule.OwnJob s.opa.inst[n] j)
    (hT : (getGroup s.opa.inst[n] a.val).set y = T) (ho : T.owner = some (j.q.val, j.idx)) (lastMiss : Option Nat) :
    Rule.RunsAgain s (restartPass n.val a.val T y j (T.attempt + 1) lastMiss s₁) n a.val y T j := by
  have hi : s₁.opa.inst[n] = s.opa.inst[n] := by rw [hs]
  unfold restartPass
  simp only [modJob_own h hi, modGroup_fin, withInst_inst, withInst_withInst]
  refine ⟨?_, _, congrArg OpaInst.jobs (withInst_inst ..), rfl, rfl, rfl, rfl, rfl, rfl, rfl, rfl, rfl, rfl, rfl⟩
  rw [withInst_inst, getGroup_vmod_same a.isLt]
  have hdrop : (T.owner == some (j.q.val, j.idx) && decide (T.pass ≤ T.pass)) = true := by simp [ho]
  cases y
  · show (if (getGroup s.opa.inst[n] a.val).x.owner == _ && _ then _ else _) = _
    rw [show (getGroup s.opa.inst[n] a.val).x = T from hT, hdrop, if_pos rfl]
  · show (if (getGroup s.opa.inst[n] a.val).y.owner == _ && _ then _ else _) = _
    rw [show (getGroup s.opa.inst[n] a.val).y = T from hT, hdrop, if_pos rfl]

end

/-! A descriptor that ends with an event and writes nothing (04:R103). -/

theorem discardUndrained_set (q : Nat) (idx : BitVec 32) (g : Group) (y : Bool) :
    (g.discardUndrained q idx).set y =
      if (g.set y).owner == some (q, idx) && (g.set y).st != .drain then .reset else g.set y := by
  cases y <;> rfl

/-- A KEEP descriptor ends: its undrained sets are discarded; the job goes, or fails while a set of it drains. -/
theorem endJob_of_keep {s : State} {n : Fin 16} {j : OpaJob} {e : Ended} (hfail : j.fail = none)
    (hd : opaDrains j.desc = false) {i : OpaInst}
    (hi : i = { s.opa.inst[n] with groups := vmap (Group.discardUndrained j.q.val j.idx) s.opa.inst[n].groups }) :
    endJob n.val j e s = if drains i j.q.val j.idx then
      modJob n.val j.q.val j.idx (fun j => { j with fail := some e, done := true, restart := false }) (Rule.withInst s n i)
    else closeJob n.val j e (Rule.withInst s n i) := by
  subst hi
  simp only [endJob, hfail, hd, Option.isSome_none, Bool.false_eq_true, if_false, modInst_fin, getInst_fin, withInst_inst]

/-- What it leaves: the job failed, or finished; every group as its discard left it. -/
theorem endJob_of_keep_leaves {s s₀ : State} {n : Fin 16} {j : OpaJob} {e : Ended} (hfail : j.fail = none)
    (hd : opaDrains j.desc = false) (hm : j ∈ s₀.opa.inst[n].jobs) (hj : s.opa.inst[n].jobs = s₀.opa.inst[n].jobs)
    (hq : s.dq = s₀.dq) (hend : ∀ f ∈ (s₀.dq[j.q]).inflight, f.idx = j.idx → f.ended = none) :
    let t := endJob n.val j e s
    (∀ g, g < 4 → getGroup t.opa.inst[n] g = (getGroup s.opa.inst[n] g).discardUndrained j.q.val j.idx) ∧
      t.svc = s.svc ∧ t.mem = s.mem ∧ t.flt = s.flt ∧
      ((∃ x ∈ t.opa.inst[n].jobs, x.q = j.q ∧ x.idx = j.idx ∧ x.fail = some e) ∨ Rule.Finished s₀ t n j e) := by
  rw [endJob_of_keep hfail hd rfl]
  split
  · rw [modJob_fin, withInst_withInst]
    refine ⟨fun g hg => getGroup_of_vmap (by simp only [withInst_inst]) hg, rfl, rfl, rfl, .inl ?_⟩
    simp only [withInst_inst, hj]
    exact ⟨_, List.mem_map.mpr ⟨j, hm, if_pos (OpaJob.isOf_self j)⟩, rfl, rfl, rfl⟩
  · refine ⟨fun g hg => getGroup_of_vmap (by rw [closeJob_inst, withInst_inst]) hg, rfl, rfl, rfl, .inr ?_⟩
    refine finished_closeJob (by rw [withInst_inst]; exact hj) (fun p _ => congrArg (·[p]) hq) ?_
    show ∀ f ∈ (s.dq[j.q]).inflight, _
    rw [hq]; exact hend

/-- A KEEP descriptor that ends for an error in the pass that a set holds: the set is FREE. -/
theorem endJob_of_pass {s s₁ : State} {n : Fin 16} {a : Fin 4} {y : Bool} {j : OpaJob} {T : AccSet} {e : Ended}
    (hopa : s₁.opa = s.opa) (hdq : s₁.dq = s.dq) (h : Rule.OwnJob s.opa.inst[n] j) (hfail : j.fail = none)
    (hT : (getGroup s.opa.inst[n] a.val).set y = T) (ho : T.owner = some (j.q.val, j.idx)) (hd : opaDrains j.desc = false)
    (hend : ∀ f ∈ (s.dq[j.q]).inflight, f.idx = j.idx → f.ended = none) :
    let t := endJob n.val j e (if T.st == .drain then modGroup n.val a.val (fun x => x.mod y fun _ => .reset) s₁ else s₁)
    (getGroup t.opa.inst[n] a.val).set y = .reset ∧ t.svc = s₁.svc ∧ t.mem = s₁.mem ∧ t.flt = s₁.flt ∧
      ((∃ x ∈ t.opa.inst[n].jobs, x.q = j.q ∧ x.idx = j.idx ∧ x.fail = some e) ∨ Rule.Finished s t n j e) := by
  have hi : s₁.opa.inst[n] = s.opa.inst[n] := by rw [hopa]
  by_cases hst : T.st = .drain
  · rw [if_pos (beq_iff_eq.mpr hst), modGroup_fin]
    have hjobs : (Rule.withInst s₁ n { s.opa.inst[n] with
        groups := vmod s.opa.inst[n].groups a.val (Group.mod · y fun _ => .reset) }).opa.inst[n].jobs =
        s.opa.inst[n].jobs := by
      rw [withInst_inst]
    rw [hi]
    obtain ⟨hg, hrest⟩ := endJob_of_keep_leaves (e := e) hfail hd h.mem hjobs hdq hend
    refine ⟨?_, hrest⟩
    rw [hg _ a.isLt, discardUndrained_set, withInst_inst, getGroup_vmod_same a.isLt, Group.set_mod_same]
    rfl
  · rw [if_neg (by simpa using hst)]
    obtain ⟨hg, hrest⟩ := endJob_of_keep_leaves (e := e) hfail hd h.mem (congrArg OpaInst.jobs hi) hdq hend
    refine ⟨?_, hrest⟩
    rw [hg _ a.isLt, discardUndrained_set, hi, hT, ho, if_pos (by simp [hst])]

section
variable {s : State} {n : Fin 16} {a : Fin 4} {y : Bool} {row col : BitVec 8}

/-- A miss of no cube of the partition, or of a cube that has checked no step, does nothing (14:R391). -/
theorem checksumMiss_stays {dummy : Bool} (h : cubeOf s n.val row col = false ∨
    (dummy = false ∧ ((getGroup s.opa.inst[n] a.val).set y).checkedBy row col = false)) :
    checksumMiss n.val a.val y row col dummy s = s := by
  simp only [checksumMiss, getInst_fin]
  rw [if_pos]
  rcases h with h | ⟨rfl, h⟩ <;> simp [h, -Fin.getElem_fin]

theorem checksumMiss_dummy (h : cubeOf s n.val row col = true) : checksumMiss n.val a.val y row col true s =
    cgDetection (cubeGroup col) (opaRecord opaChecksum clsInfo (cubeSource col false) 0 n.val none row col 0 s) := by
  simp only [checksumMiss, h]; rfl

theorem checksumMiss_checked (h : cubeOf s n.val row col = true)
    (hc : ((getGroup s.opa.inst[n] a.val).set y).checkedBy row col = true) :
    checksumMiss n.val a.val y row col false s = passError opaChecksum n.val a.val y row col false s := by
  simp only [checksumMiss, getInst_fin, h, hc]; rfl

theorem accParity_stays (h : cubeOf s n.val row col = false) : accParity n.val a.val y row col false s = s := by
  rw [accParity, h]; rfl

theorem accParity_counts {out : Bool} (h : cubeOf s n.val row col = true ∨ out = true) :
    accParity n.val a.val y row col out s = passError opaAccParity n.val a.val y row col out s := by
  rw [accParity, if_neg]
  rcases h with h | h <;> simp [h]

end

/-- Settles O47: a detection is nothing, a note of a held set, or the record and count of a pass, which then runs again or
ends its descriptor. -/
theorem arrayDetections : Obligations.ArrayDetections := by
  intro s n a y outside row col j
  refine ⟨fun hcube hauto hlim hret => ?_, fun hlow => ⟨fun hcube => ⟨fun d => ?_, ?_⟩, fun hc => ?_, fun hcube => ?_,
    fun hcube => ⟨fun ho => ⟨?_, fun hst => ?_⟩, fun ho hst => ?_⟩, ?_⟩⟩
  · obtain ⟨hbit, hcount, hdq, hmem, hlen⟩ := cgDetection_retires
      (s := opaRecord opaChecksum clsInfo (cubeSource col false) 0 n.val none row col 0 s) hauto hlim hret
    exact ends_of_next (congrArg (fun t => Host.Outcome.next (settle s t)) (checksumMiss_dummy hcube))
      ⟨hbit, hcount, hdq, hmem, hlen.trans (congrArg (· + 1) (insertDetected_length ..))⟩
  · exact gives_of_next rfl (checksumMiss_stays (.inl hcube))
  · rintro rfl
    exact gives_of_next rfl (accParity_stays hcube)
  · exact gives_of_next rfl (checksumMiss_stays (.inr ⟨rfl, Bool.eq_false_iff.mpr (mt checkedBy_iff.mp hc)⟩))
  · exact gives_of_next rfl ((checksumMiss_dummy hcube).trans (opaCount_opaRecord (out := false) (rep := false)
      (fun _ => cubeGroup_lt_of_cubeOf hcube) (hlow.imp_right fun h => ⟨rfl, h.2⟩) rfl))
  · refine gives_of_next rfl ?_
    cases hc : ((getGroup s.opa.inst[n] a.val).set y).checkedBy row col with
    | false => exact checksumMiss_stays (.inr ⟨rfl, hc⟩)
    | true =>
      rw [checksumMiss_checked hcube hc, passError_of_no_job fun x _ => by rw [ho]; exact nofun]
      exact if_neg fun h => absurd h.2 (by decide)
  · refine gives_of_next rfl ?_
    rw [accParity_counts (.inl hcube), passError_of_no_job fun x _ => by rw [ho]; exact nofun]
    exact if_neg fun h => hst h.1
  · have hno : ∀ x ∈ s.opa.inst[n].jobs, ((getGroup s.opa.inst[n] a.val).set y).owner ≠ some (x.q.val, x.idx) :=
      fun x hx => ho.elim (fun h => by rw [h]; exact nofun) (· x hx)
    refine ends_of_next (congrArg (fun t => Host.Outcome.next (settle s t))
      (((accParity_counts (.inl hcube)).trans (passError_of_no_job hno)).trans (if_pos ⟨hst, rfl⟩))) ?_
    rw [modGroup_fin]
    refine ⟨by rw [withInst_inst], ?_, ?_⟩
    · exact onlySet_of_mod (f := fun x => x.mod y fun t => { t with bad := some (row, col, outside) }) a.isLt rfl rfl
        (Group.set_mod_other ..)
    · rw [withInst_inst, getGroup_vmod_same a.isLt, Group.set_mod_same]
  · intro ev c out hcase hin hchk hown hfail ho hfree hheld
    have hcmd : effect c s = .next (settle s (passError ev n.val a.val y row col out s)) := by
      rcases hcase with ⟨rfl, rfl, rfl⟩ | ⟨rfl, rfl, rfl⟩
      · exact congrArg (fun t => Host.Outcome.next (settle s t))
          (checksumMiss_checked (hin.resolve_right nofun) (checkedBy_iff.mpr (hchk rfl)))
      · exact congrArg (fun t => Host.Outcome.next (settle s t)) (accParity_counts hin)
    have hquiet := hlow.imp_right fun h => (⟨Bool.and_eq_false_iff.mpr (.inr (beq_eq_false_iff_ne.mpr h.1)), h.2⟩ :
      (ev == opaChecksum && ((getGroup s.opa.inst[n] a.val).set y).lastMiss == some (cubeGroup col)) = false ∧ _)
    have hp := passError_of_own rfl hown hfail ho hfree hheld (opaCount_opaRecord (out := out) (row := row)
      (fun hout => cubeGroup_lt_of_cubeOf (hin.resolve_right (by rw [hout]; exact nofun))) hquiet
      (detectionInfo_descriptor j.q j.idx))
    rw [hp] at hcmd
    refine ⟨fun hmore => ?_, fun hmore hend hd => ?_⟩
    · rw [runsMore_iff.mpr hmore, if_pos rfl, if_pos rfl] at hcmd
      exact ends_of_next hcmd ⟨runsAgain_restartPass (s := s)
        (s₁ := detected s n ev clsCorrected col row out _ _ _) rfl hown rfl ho _, rfl, rfl, rfl, rfl⟩
    · rw [Bool.eq_false_iff.mpr (mt runsMore_iff.mp hmore), if_neg Bool.false_ne_true, if_neg Bool.false_ne_true] at hcmd
      obtain ⟨hset, hsvc, hmem, hflt, hlast⟩ := endJob_of_pass (s := s)
        (s₁ := detected s n ev clsQueue col row out _ _ _) rfl rfl hown hfail rfl ho hd hend
      exact ends_of_next hcmd ⟨hset, hsvc, hmem, congrArg FaultLog.detected hflt, hlast⟩

end Sys2Proof.Machine

/-! SUPPORT. O44: passes begin, the feeders read, and a step issues. -/

namespace Sys2Proof.Machine

/-! What the feeders' reads leave alone. -/

theorem kept_stageReqs (ctx : BitVec 16) (reqs : List (Nat × List (Nat × Nat))) (m : PageMap) (s : State) :
    Kept s (stageReqs ctx reqs m s).2 := by
  induction reqs generalizing m s with
  | nil => exact .refl s
  | cons p reqs ih =>
    obtain ⟨part, ps⟩ := p
    have k := kept_xlatReqs ctx [⟨part, .stageRead, ps⟩] m s
    unfold stageReqs
    split
    · rename_i h; rw [h] at k
      split
      · exact k.trans (ih ..)
      · exact k
    · exact k

theorem kept_readWords (ws : List (Nat × Nat × Nat)) (s : State) : Kept s (readWords ws s).2 := by
  induction ws generalizing s with
  | nil => exact .refl s
  | cons w ws ih =>
    obtain ⟨w, part, va⟩ := w
    have k := kept_readSmWord w s
    unfold readWords
    split
    · rename_i h; rw [h] at k; exact k
    · rename_i h; rw [h] at k; exact k.trans (ih _)

theorem kept_feederRead (j : OpaJob) (reqs : List (Nat × List (Nat × Nat))) (m : PageMap) (s : State) :
    Kept s (feederRead j reqs m s).2 := by
  have k := kept_stageReqs j.ctx reqs m s
  unfold feederRead
  split
  · rename_i m' t h
    rw [h] at k
    have kw := kept_readWords (stageWords m' reqs) t
    split
    · rename_i h; rw [h] at kw; exact k.trans kw
    · rename_i h; rw [h] at kw; exact k.trans kw
  · exact k

theorem kept_scanSteps (j : OpaJob) (rows cols : Nat) (ps : List Nat) (m : PageMap) (s : State) :
    Kept s (scanSteps j rows cols ps m s).2 := by
  induction ps generalizing m s with
  | nil => exact .refl s
  | cons p ps ih =>
    have k := kept_feederRead j (scaleReqs j rows cols p) m s
    unfold scanSteps
    split
    · rename_i h; rw [h] at k; exact k
    · rename_i h; rw [h] at k; exact k
    · rename_i h; rw [h] at k
      split
      · exact k.trans (ih ..)
      · exact k

theorem kept_readStep (j : OpaJob) (rows cols at_ : Nat) (s : State) : Kept s (readStep j rows cols at_ s).2 := by
  have k := kept_scanSteps j rows cols (lineRange at_ (stepCount j.desc - at_)) [] s
  unfold readStep
  dsimp only
  split
  · rename_i h; rw [h] at k; exact k
  · rename_i h; rw [h] at k; exact k
  · rename_i h; rw [h] at k; exact k
  · rename_i p m t h
    rw [h] at k
    have ke := kept_feederRead j (elemReqs j rows cols p) m t
    split
    · rename_i h; rw [h] at ke; exact k.trans ke
    · rename_i h; rw [h] at ke; exact k.trans ke
    · rename_i m t h
      rw [h] at ke
      have kn := kept_scanSteps j rows cols (lineRange (p + 1) (stepCount j.desc - 1 - p)) m t
      split
      · rename_i h; rw [h] at kn; exact (k.trans ke).trans kn
      · rename_i h; rw [h] at kn; exact (k.trans ke).trans kn
      · rename_i h; rw [h] at kn; exact (k.trans ke).trans kn

/-- The feeders append at most k steps to those that they hold. -/
theorem readOn_feed (rows cols : Nat) (k : Nat) (j : OpaJob) (s : State) :
    ∃ more, more.length ≤ k ∧ (readOn rows cols k j s).1 = { j with feed := j.feed ++ more } ∧
      Kept s (readOn rows cols k j s).2 := by
  induction k generalizing j s with
  | zero => exact ⟨[], le_rfl, by simp [readOn], .refl s⟩
  | succ k ih =>
    have none_read : ∃ more, more.length ≤ k + 1 ∧ j = { j with feed := j.feed ++ more } ∧ Kept s s :=
      ⟨[], by simp, by simp, .refl s⟩
    unfold readOn
    split
    · exact none_read
    · rename_i p _
      have kr := kept_readStep j rows cols p s
      split
      · rename_i x t h
        rw [h] at kr
        obtain ⟨more, hl, he, hk⟩ := ih { j with feed := j.feed ++ [x] } t
        exact ⟨x :: more, by simpa using hl, by simp [he], kr.trans hk⟩
      · exact none_read

/-! What a step reads (05:R131 to R134). -/

theorem mem_lineRange {a n x : Nat} : x ∈ lineRange a n ↔ a ≤ x ∧ x < a + n := by
  simp only [lineRange, List.mem_map, List.mem_range]
  constructor
  · rintro ⟨k, hk, rfl⟩; omega
  · rintro ⟨ha, hn⟩; exact ⟨x - a, by omega, by omega⟩

theorem getD_map_lineRange {α : Type} (f : Nat → List α) (a : Nat) {n k : Nat} (h : k < n) :
    ((lineRange a n).map f).getD k [] = f (a + k) := by
  simp [lineRange, List.getD, h, Nat.add_comm]

/-- The position found is one of those scanned. -/
theorem mem_of_scanSteps {j : OpaJob} {rows cols p : Nat} {ps : List Nat} {m m' : PageMap} {s t : State}
    (h : scanSteps j rows cols ps m s = (.ok (some p, m'), t)) : p ∈ ps := by
  induction ps generalizing m s with
  | nil => cases h
  | cons x ps ih =>
    unfold scanSteps at h
    split at h
    · cases h
    · cases h
    · split at h
      · exact List.mem_cons_of_mem _ (ih h)
      · cases h; exact List.mem_cons_self ..

section
variable {j : OpaJob} {rows cols at_ p : Nat} {s u v w : State} {m1 m2 m3 : PageMap} {next : Option Nat}

/-- Where every position is skipped, the last one issues with zeros (05:R133). -/
theorem readStep_of_none (h : scanSteps j rows cols (lineRange at_ (stepCount j.desc - at_)) [] s = (.ok (none, m1), u)) :
    readStep j rows cols at_ s = (.ok ⟨stepCount j.desc - 1, stepCount j.desc - 1 - at_, none, true, [], []⟩, u) := by
  simp only [readStep, h]

/-- The step of the first position that is not skipped, with its factors. -/
theorem readStep_of_some
    (h : scanSteps j rows cols (lineRange at_ (stepCount j.desc - at_)) [] s = (.ok (some p, m1), u))
    (he : feederRead j (elemReqs j rows cols p) m1 u = (.ok m2, v))
    (hn : scanSteps j rows cols (lineRange (p + 1) (stepCount j.desc - (p + 1))) m2 v = (.ok (next, m3), w)) :
    readStep j rows cols at_ s = (.ok ⟨p, if next = none then stepCount j.desc - 1 - at_ else p - at_, next, false,
      rowFactors (vaReader s m2) j rows p, colFactors (vaReader s m2) j cols p⟩, w) := by
  have hp := mem_lineRange.mp (mem_of_scanSteps h)
  have ku := kept_scanSteps j rows cols (lineRange at_ (stepCount j.desc - at_)) [] s
  have kv := kept_feederRead j (elemReqs j rows cols p) m1 u
  rw [h] at ku
  rw [he] at kv
  have hr : vaReader v m2 = vaReader s m2 := by unfold vaReader; rw [(ku.trans kv).mem]
  have hc : stepCount j.desc - (p + 1) = stepCount j.desc - 1 - p := by omega
  have hskip : p - at_ + (if next.isNone then stepCount j.desc - 1 - p else 0) =
      if next = none then stepCount j.desc - 1 - at_ else p - at_ := by
    cases next
    · simp; omega
    · simp
  rw [hc] at hn
  simp only [readStep, h, he, hn, hr, hskip]

end

/-! The registers of a set after a step (04:R105, R107). -/

section
variable {fmt : BitVec 2} {x : FeedStep} {T : AccSet}

/-- The registers of an output after a step's products. -/
def stepped (fmt : BitVec 2) (x : FeedStep) (T : AccSet) (row col : Nat) : BitVec 32 × BitVec 32 :=
  accumulate fmt (T.reg row col) (List.zipWith product (x.a.getD row []) (x.b.getD col []))

/-- A register list that lists the outputs in order, without those that are zero. -/
def listed (f : Nat → Nat → BitVec 32 × BitVec 32) (rows cols : Nat) : List AccReg :=
  (List.range rows).flatMap fun u => (List.range cols).filterMap fun v =>
    if (f u v).1 == 0 && (f u v).2 == 0 then none else some ⟨u, v, (f u v).1, (f u v).2⟩

theorem mem_listed {f : Nat → Nat → BitVec 32 × BitVec 32} {rows cols : Nat} {r : AccReg} :
    r ∈ listed f rows cols ↔ r.row < rows ∧ r.col < cols ∧ f r.row r.col = (r.hi, r.lo) ∧ (r.hi ≠ 0 ∨ r.lo ≠ 0) := by
  simp only [listed, List.mem_flatMap, List.mem_range, List.mem_filterMap, Option.ite_none_left_eq_some, Option.some.injEq]
  constructor
  · rintro ⟨u, hu, v, hv, hz, rfl⟩
    refine ⟨hu, hv, rfl, ?_⟩
    simpa [Bool.and_eq_true, ← not_and_or] using hz
  · rintro ⟨hr, hc, hf, hz⟩
    refine ⟨r.row, hr, r.col, hc, ?_, by rw [hf]⟩
    rw [hf]
    simpa [Bool.and_eq_true, ← not_and_or] using hz

/-- The registers found for an output are those listed. -/
theorem reg_of_listed {f : Nat → Nat → BitVec 32 × BitVec 32} {T : AccSet} {rows cols row col : Nat}
    (h : T.regs = listed f rows cols) (hr : row < rows) (hc : col < cols) : T.reg row col = f row col := by
  unfold AccSet.reg
  split
  · rename_i r hf
    have hm := mem_listed.mp (h ▸ List.mem_of_find?_eq_some hf)
    have hrc := List.find?_some hf
    simp only [Bool.and_eq_true, beq_iff_eq] at hrc
    rw [← hrc.1, ← hrc.2, hm.2.2.1]
  · rename_i hf
    by_contra hne
    have hz : (f row col).1 ≠ 0 ∨ (f row col).2 ≠ 0 :=
      not_and_or.mp fun hz => hne (Prod.ext hz.1.symm hz.2.symm)
    have := List.find?_eq_none.mp hf ⟨row, col, (f row col).1, (f row col).2⟩ (h ▸ mem_listed.mpr ⟨hr, hc, rfl, hz⟩)
    simp at this

theorem stepRegs_eq : stepRegs fmt x T = if x.zero then T.regs else listed (stepped fmt x T) T.rows T.cols := rfl

end

/-! An a-cycle that issues no step (03:R91, R92; 04:R99). -/

/-- One a-cycle of a partition gone by. -/
def ticked (s : State) (n : Fin 16) : State :=
  Rule.withInst s n { s.opa.inst[n] with interval := s.opa.inst[n].interval - 1 }

@[simp] theorem ticked_inst (s : State) (n : Fin 16) :
    (ticked s n).opa.inst[n] = { s.opa.inst[n] with interval := s.opa.inst[n].interval - 1 } := withInst_inst ..

theorem gapCycle_ticked (s : State) (n : Fin 16) : gapCycle n.val (ticked s n) = Rule.idled s n := by
  rw [gapCycle, modInst_fin, ticked_inst, ticked, withInst_withInst, OpaInst.gap_eq_gapped]
  rfl

theorem drainWait_ticked (s : State) (n : Fin 16) : drainWait n.val (ticked s n) = { Rule.idled s n with
    opa := { (Rule.idled s n).opa with drainwait := s.opa.drainwait.set n.val (s.opa.drainwait[n] + 1) } } := by
  rw [← gapCycle_ticked, drainWait, vmod_fin]
  rfl

theorem starve_ticked (s : State) (n : Fin 16) : starve n.val (ticked s n) = { Rule.idled s n with
    opa := { (Rule.idled s n).opa with starve := s.opa.starve.set n.val (s.opa.starve[n] + 1) } } := by
  rw [← gapCycle_ticked, starve, vmod_fin]
  rfl

section
variable {s : State} {n : Fin 16} {j : OpaJob} (hon : Rule.ArrayOn s) (hi : issuing s.opa.inst[n] = some j)
include hon hi

theorem opaStep_issuing : opaStep n.val s = opaCycle n.val j (ticked s n) := by
  have hr : (!(running s && arrayRuns s)) = false := by rw [running_of_arrayOn hon, arrayRuns_of_arrayOn hon]; rfl
  simp only [opaStep, hr, Bool.false_eq_true, if_false, getInst_fin, hi]
  rw [modInst_fin]; rfl

theorem opaStep_of_restart (h : j.restart = true) : opaStep n.val s = Rule.idled s n := by
  rw [opaStep_issuing hon hi, opaCycle, if_pos h, gapCycle_ticked]

theorem opaStep_of_begun (h : j.restart = false) (hb : j.begun = true) :
    opaStep n.val s = issueStep n.val j (getGroup s.opa.inst[n] (opaGroupNo j.desc)) (ticked s n) := by
  rw [opaStep_issuing hon hi, opaCycle, h, if_neg Bool.false_ne_true, if_pos hb, getInst_fin, ticked_inst]
  rfl

section
variable (h : j.restart = false) (hb : j.begun = false)
include h hb

theorem opaStep_of_waits (hp : beginPass (ticked s n) n.val j = .waits) : opaStep n.val s = Rule.idled s n := by
  rw [opaStep_issuing hon hi, opaCycle, h, hb, if_neg Bool.false_ne_true, if_neg Bool.false_ne_true, hp, ← gapCycle_ticked]

theorem opaStep_of_held (hp : beginPass (ticked s n) n.val j = .held) :
    opaStep n.val s = drainWait n.val (ticked s n) := by
  rw [opaStep_issuing hon hi, opaCycle, h, hb, if_neg Bool.false_ne_true, if_neg Bool.false_ne_true, hp]

theorem opaStep_of_ready {j1 : OpaJob} {g1 : Group} (hp : beginPass (ticked s n) n.val j = .ready j1 g1) :
    opaStep n.val s = issueStep n.val j1 g1 (ticked s n) := by
  rw [opaStep_issuing hon hi, opaCycle, h, hb, if_neg Bool.false_ne_true, if_neg Bool.false_ne_true, hp]

end

end

/-! A pass begins (03:R87; 04:R99, R102). -/

section
variable {s : State} {n : Fin 16} {j : OpaJob}

/-- An a-cycle changes nothing that a begin looks at. -/
theorem beginPass_ticked : beginPass (ticked s n) n.val j = beginPass s n.val j := by
  unfold beginPass
  rw [getInst_fin, getInst_fin, ticked_inst]
  rfl

theorem beginPass_of_no_groups (h : bandGroups s n.val = []) : beginPass s n.val j = .waits := by
  rw [beginPass, h]; rfl

/-- A first pass, or one of a descriptor without CONT, of another accumulator format waits (04:R99). -/
theorem beginPass_of_format (hg : bandGroups s n.val ≠ []) (hc : opaCont j.desc = false)
    (hf : s.opa.inst[n].fmt.toNat ≠ opaAccFmt j.desc) : beginPass s n.val j = .waits := by
  unfold beginPass
  simp only [List.isEmpty_eq_false_iff.mpr hg, hc, getInst_fin, bne_iff_ne.mpr hf, Bool.false_eq_true, if_false, if_true]

/-- The set of a fresh pass of a job. -/
def freshSet (s : State) (n : Fin 16) (j : OpaJob) : AccSet :=
  { AccSet.reset with
    st := .accum, r0 := j.r0, c0 := j.c0, rows := passRows s j, cols := min (passWidth s n.val) (j.n - j.c0),
    owner := some (j.q.val, j.idx), pass := j.passNo, attempt := j.attempt, lastMiss := j.lastMiss }

/-- The group in which a fresh pass of a job has set y. -/
def freshPass (s : State) (n : Fin 16) (j : OpaJob) (y : Bool) : Group :=
  (getGroup s.opa.inst[n] (opaGroupNo j.desc)).mod y fun _ => freshSet s n j

theorem freshPass_set (s : State) (n : Fin 16) (j : OpaJob) (y : Bool) : (freshPass s n j y).set y = freshSet s n j :=
  Group.set_mod_same ..

/-- A pass without CONT takes the set that is its turn, once it is FREE (04:R102). -/
theorem beginPass_of_fresh (hg : bandGroups s n.val ≠ []) (hc : opaCont j.desc = false)
    (hf : s.opa.inst[n].fmt.toNat = opaAccFmt j.desc) (hk : opaKeep j.desc = true → onePass s n.val j.desc = true) {y : Bool}
    (hy : chooseSet (getGroup s.opa.inst[n] (opaGroupNo j.desc)) j = y) : beginPass s n.val j =
      if ((getGroup s.opa.inst[n] (opaGroupNo j.desc)).set y).st ≠ .free then .held
      else .ready { j with begun := true, groups := bandGroups s n.val, setY := y } (freshPass s n j y) := by
  have hone : (opaKeep j.desc && !onePass s n.val j.desc) = false := by
    cases h : opaKeep j.desc with
    | false => rfl
    | true => simp [hk h]
  have hfmt : (s.opa.inst[n].fmt.toNat != opaAccFmt j.desc) = false := by simp [hf, -Fin.getElem_fin]
  unfold beginPass
  simp only [List.isEmpty_eq_false_iff.mpr hg, hc, getInst_fin, hone, hfmt, hy, Bool.false_eq_true, if_false, bne_iff_ne]
  rfl

theorem chooseSet_of_first {g : Group} (hc : opaCont j.desc = false) (h0 : j.passNo = 0) (hr : j.replayed = false) :
    chooseSet g j = (g.x.st != .free) := by
  simp [chooseSet, hc, h0, hr]

/-- A begin that is ready has taken one set of the job's group for it. -/
theorem beginPass_ready {t : State} {j1 : OpaJob} {g1 : Group} (h : beginPass t n.val j = .ready j1 g1) :
    j1 = { j with begun := true, groups := j1.groups, setY := j1.setY } ∧
      ∃ f, g1 = (getGroup t.opa.inst[n] (opaGroupNo j.desc)).mod j1.setY f := by
  unfold beginPass at h
  rw [getInst_fin] at h
  dsimp only at h
  split at h
  · cases h
  · split at h
    · split at h
      · cases h
      · cases h
      · cases h; exact ⟨rfl, _, rfl⟩
    · split at h
      · cases h
      · split at h
        · cases h
        · split at h
          · cases h
          · cases h; exact ⟨rfl, _, rfl⟩

end

theorem groups_all_free_iff (i : OpaInst) : (i.groups.toList.all fun g => g.x.st == .free && g.y.st == .free) = true ↔
    ∀ k, k < 4 → (getGroup i k).x.st = .free ∧ (getGroup i k).y.st = .free := by
  simp only [List.all_eq_true, Bool.and_eq_true, beq_iff_eq]
  constructor
  · intro h k hk
    rw [getGroup_fin i ⟨k, hk⟩]
    exact h _ (by simp)
  · intro h g hg
    obtain ⟨k, hk, rfl⟩ := List.mem_iff_getElem.mp hg
    have hk4 : k < 4 := by simpa using hk
    have := h k hk4
    rw [getGroup_fin i ⟨k, hk4⟩] at this
    simpa using this

/-- The format switch of a partition whose next pass waits for another format (04:R99). -/
theorem formatSwitch_waiting {s : State} {n : Fin 16} {j : OpaJob} (hon : Rule.ArrayOn s)
    (hi : issuing s.opa.inst[n] = some j) (hb : j.begun = false) (hc : opaCont j.desc = false)
    (hf : s.opa.inst[n].fmt.toNat ≠ opaAccFmt j.desc) : formatSwitch n.val s =
      if s.opa.inst[n].groups.toList.all (fun g => g.x.st == .free && g.y.st == .free) then
        Rule.withInst s n { s.opa.inst[n] with fmt := BitVec.ofNat 2 (opaAccFmt j.desc) } else s := by
  simp only [formatSwitch, getInst_fin, hi, hb, hc, bne_iff_ne.mpr hf, running_of_arrayOn hon, modInst_fin, Bool.and_true,
    Bool.not_false, Bool.true_and]

/-- The pass that waits to run again restarts (14:R401). -/
theorem replayAttempt_of_restart {s : State} {n : Fin 16} {j : OpaJob} (hon : Rule.ArrayOn s)
    (hi : issuing s.opa.inst[n] = some j) (h : Rule.OwnJob s.opa.inst[n] j) (hr : j.restart = true) :
    replayAttempt n.val s = Rule.withInst s n { s.opa.inst[n] with
      jobs := Rule.replaced s.opa.inst[n].jobs j { j with restart := false, replayed := true } } := by
  simp only [replayAttempt, getInst_fin, hi, hr, running_of_arrayOn hon, Bool.and_self, if_true]
  exact modJob_own h rfl fun j => { j with restart := false, replayed := true }

theorem passesBegin : Rule.PassesBegin := by
  intro s n j i g hon hi hown
  refine ⟨fun hb hc hg hk hr => ⟨fun hf => ?_, fun hf h0 hrp hx hy => ?_, fun hf h0 hrp hfree => ?_⟩,
    fun hb hc hf => ⟨fun h => ?_, fun h => ?_⟩, fun hb hr hg => ?_, fun hr => ⟨?_, ?_⟩⟩
  · exact gives_of_next rfl (opaStep_of_waits hon hi hr hb (beginPass_ticked.trans (beginPass_of_format hg hc hf)))
  · have hy' : chooseSet (getGroup s.opa.inst[n] (opaGroupNo j.desc)) j = true :=
      (chooseSet_of_first hc h0 hrp).trans (bne_iff_ne.mpr hx)
    exact gives_of_next rfl ((opaStep_of_held hon hi hr hb
      (beginPass_ticked.trans ((beginPass_of_fresh hg hc hf hk hy').trans (if_pos hy)))).trans (drainWait_ticked s n))
  · have hy' := chooseSet_of_first (g := getGroup s.opa.inst[n] (opaGroupNo j.desc)) hc h0 hrp
    refine ⟨_, _, (beginPass_of_fresh hg hc hf hk hy').trans (if_neg (not_not.mpr ?_)), bne_iff_ne, rfl, ?_⟩
    · by_cases hx : (getGroup s.opa.inst[n] (opaGroupNo j.desc)).x.st = .free
      · rw [bne_eq_false_iff_eq.mpr hx]; exact hx
      · rw [bne_iff_ne.mpr hx]; exact hfree.resolve_left hx
    · rw [freshPass_set]
      exact ⟨rfl, rfl, rfl, rfl, rfl⟩
  · exact gives_of_next rfl ((formatSwitch_waiting hon hi hb hc hf).trans (if_pos ((groups_all_free_iff _).mpr h)))
  · refine gives_of_next rfl ((formatSwitch_waiting hon hi hb hc hf).trans (if_neg (mt (groups_all_free_iff _).mp ?_)))
    obtain ⟨k, hk, hne⟩ := h
    exact fun hall => hne.elim (· (hall k hk).1) (· (hall k hk).2)
  · exact gives_of_next rfl (opaStep_of_waits hon hi hr hb (beginPass_ticked.trans (beginPass_of_no_groups hg)))
  · exact gives_of_next rfl (opaStep_of_restart hon hi hr)
  · exact gives_of_next rfl (replayAttempt_of_restart hon hi hown hr)

end Sys2Proof.Machine

/-! SUPPORT. O44: a step issues (03:R70, R85, R87, R91). -/

namespace Sys2Proof.Machine

theorem OpaInst.realStep_of_longGap {i : OpaInst} (h : i.activity = .longGap) :
    i.realStep = { i with activity := .ramp, lambda := max i.lambda 1 } := by simp [OpaInst.realStep, h]

theorem OpaInst.realStep_of_ramp {i : OpaInst} (h : i.activity = .ramp) : i.realStep = i := by
  simp [OpaInst.realStep, h]

theorem OpaInst.realStep_of_other {i : OpaInst} (h : i.activity = .full ∨ i.activity = .shortGap) :
    i.realStep = { i with activity := .full, lambda := 16 } := by
  rcases h with h | h <;> simp [OpaInst.realStep, h]

/-- A real step changes the level and the activity only. -/
theorem OpaInst.realStep_eq (i : OpaInst) :
    i.realStep = { i with lambda := i.realStep.lambda, activity := i.realStep.activity } := by
  unfold OpaInst.realStep
  cases i.activity <;> rfl

theorem nextPass_eq_passedOn (rows cols : Nat) (j : OpaJob) : nextPass rows cols j = Rule.passedOn j rows cols := by
  unfold nextPass Rule.passedOn
  dsimp only
  by_cases hc : j.c0 + cols < j.n
  · simp [hc, Nat.not_le.mpr hc]
  · by_cases hr : j.r0 + rows < j.m
    · simp [hc, hr, Nat.not_lt.mp hc, Nat.not_le.mpr hr]
    · simp [hc, hr, Nat.not_lt.mp hc, Nat.not_lt.mp hr]

theorem nextStep_of_feed {j : OpaJob} {rows cols : Nat} {x : FeedStep} {rest : List FeedStep} (h : j.feed = x :: rest)
    (s : State) : nextStep j rows cols s = (.ok x, s) := by
  simp [nextStep, h]

theorem nextStep_of_read {j : OpaJob} {rows cols : Nat} (h : j.feed = []) (s : State) :
    nextStep j rows cols s = readStep j rows cols j.s s := by
  simp [nextStep, h]

section
variable {n : Fin 16} {j1 : OpaJob} {g1 : Group} {s u : State} {x : FeedStep}

theorem issueStep_of_lists (h : listsOut s j1.q.val j1.idx = true) : issueStep n.val j1 g1 s = starve n.val s := by
  simp only [issueStep, h, if_true]

theorem issueStep_of_step (h : listsOut s j1.q.val j1.idx = false)
    (hx : nextStep j1 (g1.set j1.setY).rows (g1.set j1.setY).cols s = (.ok x, u)) : issueStep n.val j1 g1 s =
      if x.next.isNone && decide (0 < s.opa.inst[n].interval) then drainWait n.val s else stepIssued n.val j1 g1 x u := by
  simp only [issueStep, h, hx, getInst_fin, Bool.false_eq_true, if_false]

/-- The job that has issued a step, with what the feeders then hold. -/
def jobAfter (j1 : OpaJob) (x : FeedStep) (rows cols : Nat) (more : List FeedStep) : OpaJob :=
  let done : OpaJob := { j1 with s := x.next.getD (stepCount j1.desc), issued := j1.issued + 1 }
  if x.next = none then Rule.passedOn done rows cols else { done with feed := j1.feed.drop 1 ++ more }

/-- The group after a step of a pass. -/
def groupAfter (fmt : BitVec 2) (j1 : OpaJob) (g1 : Group) (x : FeedStep) : Group :=
  (openTile j1 g1).mod j1.setY fun t => { t with
    regs := stepRegs fmt x t, st := if x.next.isNone then .settle else .accum,
    blind := if t.blind.contains (blindTo j1.groups x) then t.blind else t.blind ++ [blindTo j1.groups x] }

/-- A step that issues: its group and its job, the counts, and what the feeders read on. -/
theorem stepIssued_eq (n : Fin 16) (j1 : OpaJob) (g1 : Group) (x : FeedStep) (u : State) : ∃ v more, Kept u v ∧
    (j1.feed.length ≤ 64 → (j1.feed.drop 1 ++ more).length ≤ 64) ∧
    stepIssued n.val j1 g1 x u = modInst n.val
      (fun i => { i.realStep with interval := if x.next.isNone then modeRows (pmode v) else i.interval })
      (countStep n.val x.skip (modGroup n.val (opaGroupNo j1.desc) (fun _ => groupAfter u.opa.inst[n].fmt j1 g1 x)
        (modJob n.val j1.q.val j1.idx
          (fun _ => jobAfter j1 x (g1.set j1.setY).rows (g1.set j1.setY).cols more) v))) := by
  have kd := kept_drawNat (65 - (j1.feed.drop 1).length) u
  have hk : (drawNat (65 - (j1.feed.drop 1).length) u).1 = Config.freeNat u.ctl.free % (65 - (j1.feed.drop 1).length) := rfl
  unfold stepIssued
  simp only [getInst_fin]
  generalize drawNat (65 - (j1.feed.drop 1).length) u = kv at kd hk
  obtain ⟨k, v⟩ := kv
  cases hn : x.next with
  | none =>
    refine ⟨v, [], kd, fun h => by simp; omega, ?_⟩
    simp only [hn, Option.isNone_none, if_true, jobAfter, nextPass_eq_passedOn, groupAfter]
    rfl
  | some p =>
    obtain ⟨more, hl, he, kr⟩ := readOn_feed (g1.set j1.setY).rows (g1.set j1.setY).cols k
      { j1 with s := p, issued := j1.issued + 1, feed := j1.feed.drop 1 } v
    refine ⟨_, more, kd.trans kr, fun h => ?_, ?_⟩
    · have hlen : (j1.feed.drop 1).length ≤ 64 := by rw [List.length_drop]; omega
      have hlt := Nat.mod_lt (Config.freeNat u.ctl.free) (show 0 < 65 - (j1.feed.drop 1).length by omega)
      have hk : k = _ := hk
      rw [← hk] at hlt
      rw [List.length_append]
      omega
    · simp only [hn, Option.isNone_some, Option.getD_some, reduceCtorEq, Bool.false_eq_true, if_false, jobAfter, he,
        groupAfter]

end

end Sys2Proof.Machine

/-! SUPPORT. O44: the state of a partition after a step, and the statement of a-cycles (03:R70, R85, R87, R91). -/

namespace Sys2Proof.Machine

theorem opaGroupNo_lt (d : Desc) : opaGroupNo d < 4 := Nat.mod_lt _ (by norm_num)

theorem realStep_lambda (i : OpaInst) : i.realStep.lambda =
    match i.activity with | .longGap => max i.lambda 1 | .ramp => i.lambda | _ => 16 := by
  cases h : i.activity with
  | longGap => rw [OpaInst.realStep_of_longGap h]
  | ramp => rw [OpaInst.realStep_of_ramp h]
  | full => rw [OpaInst.realStep_of_other (.inl h)]
  | shortGap => rw [OpaInst.realStep_of_other (.inr h)]

theorem realStep_activity (i : OpaInst) : i.realStep.activity =
    match i.activity with | .longGap => .ramp | .ramp => .ramp | _ => .full := by
  cases h : i.activity with
  | longGap => rw [OpaInst.realStep_of_longGap h]
  | ramp => rw [OpaInst.realStep_of_ramp h, h]
  | full => rw [OpaInst.realStep_of_other (.inl h)]
  | shortGap => rw [OpaInst.realStep_of_other (.inr h)]

section
variable (j1 : OpaJob) (g1 : Group)

@[simp] theorem openTile_set (y : Bool) : (openTile j1 g1).set y = g1.set y := by
  unfold openTile
  split
  · cases y <;> rfl
  · rfl

theorem openTile_tile : (openTile j1 g1).tile =
    if opaKeep j1.desc then some ⟨j1.m, j1.n, opaKBase j1.desc + j1.k⟩ else g1.tile := by
  unfold openTile
  split <;> rfl

variable (fmt : BitVec 2) (x : FeedStep)

/-- The set of the pass after a step. -/
theorem groupAfter_set : (groupAfter fmt j1 g1 x).set j1.setY = { g1.set j1.setY with
    regs := stepRegs fmt x (g1.set j1.setY), st := if x.next.isNone then .settle else .accum,
    blind := if (g1.set j1.setY).blind.contains (blindTo j1.groups x) then (g1.set j1.setY).blind
      else (g1.set j1.setY).blind ++ [blindTo j1.groups x] } := by
  simp [groupAfter]

end

/-- The registers that an output has after a step (04:R105, R107). -/
theorem reg_stepRegs {fmt : BitVec 2} {x : FeedStep} {T T2 : AccSet} (h : T2.regs = stepRegs fmt x T) {row col : Nat}
    (hr : row < T.rows) (hc : col < T.cols) :
    T2.reg row col = if x.zero = true then T.reg row col else stepped fmt x T row col := by
  rw [stepRegs_eq] at h
  by_cases hz : x.zero = true
  · rw [if_pos hz] at h ⊢
    simp only [AccSet.reg, h]
  · rw [if_neg hz] at h ⊢
    exact reg_of_listed h hr hc

theorem realStep_groups (i : OpaInst) : i.realStep.groups = i.groups := by rw [OpaInst.realStep_eq]
theorem realStep_jobs (i : OpaInst) : i.realStep.jobs = i.jobs := by rw [OpaInst.realStep_eq]

/-- The partition after a step of a pass of its job j. -/
def instAfter (i : OpaInst) (j j1 : OpaJob) (g1 : Group) (x : FeedStep) (more : List FeedStep) (h : Nat) : OpaInst :=
  { OpaInst.realStep { i with
      groups := vmod i.groups (opaGroupNo j.desc) fun _ => groupAfter i.fmt j1 g1 x
      jobs := Rule.replaced i.jobs j (jobAfter j1 x (g1.set j1.setY).rows (g1.set j1.setY).cols more) } with
    interval := if x.next.isNone then h else i.interval }

section
variable {s u : State} {n : Fin 16} {j j1 : OpaJob} {g1 : Group} {x : FeedStep}

theorem stepIssued_own (h : Rule.OwnJob u.opa.inst[n] j) (hq : j1.q = j.q) (hx : j1.idx = j.idx) (hd : j1.desc = j.desc) :
    ∃ v more, Kept u v ∧ (j1.feed.length ≤ 64 → (j1.feed.drop 1 ++ more).length ≤ 64) ∧
      stepIssued n.val j1 g1 x u = Rule.withInst (countStep n.val x.skip v) n
        (instAfter u.opa.inst[n] j j1 g1 x more (modeRows (pmode u))) := by
  obtain ⟨v, more, hv, hl, he⟩ := stepIssued_eq n j1 g1 x u
  have ho : v.opa.inst[n] = u.opa.inst[n] := by rw [hv.opa]
  refine ⟨v, more, hv, hl, he.trans ?_⟩
  rw [hq, hx, hd, modJob_own h ho, modGroup_fin, modInst_fin, withInst_withInst]
  simp only [countStep, pmode, Rule.withInst, instAfter, hv.opa]
  simp

variable {i : OpaInst} {more : List FeedStep} {h k : Nat}

theorem instAfter_same : getGroup (instAfter i j j1 g1 x more h) (opaGroupNo j.desc) = groupAfter i.fmt j1 g1 x := by
  rw [getGroup, instAfter, realStep_groups, vget_vmod_same _ _ _ _ (opaGroupNo_lt _)]

theorem instAfter_other (hk : k ≠ opaGroupNo j.desc) : getGroup (instAfter i j j1 g1 x more h) k = getGroup i k := by
  rw [getGroup, instAfter, realStep_groups, vget_vmod_other _ _ _ _ _ hk.symm]
  rfl

theorem instAfter_jobs : (instAfter i j j1 g1 x more h).jobs =
    Rule.replaced i.jobs j (jobAfter j1 x (g1.set j1.setY).rows (g1.set j1.setY).cols more) := by
  rw [instAfter, realStep_jobs]

theorem groupAfter_shadow {fmt : BitVec 2} : (groupAfter fmt j1 g1 x).set (!j1.setY) = g1.set (!j1.setY) := by
  simp [groupAfter]

/-- The pass that is to issue: one that has begun, or one that now begins. -/
theorem opaStep_issues (hon : Rule.ArrayOn s) (hi : issuing s.opa.inst[n] = some j) (hr : j.restart = false)
    (hb : (j.begun = true ∧ j1 = j ∧ g1 = getGroup s.opa.inst[n] (opaGroupNo j.desc)) ∨
      (j.begun = false ∧ beginPass (ticked s n) n.val j = .ready j1 g1)) :
    opaStep n.val s = issueStep n.val j1 g1 (ticked s n) ∧ j1.q = j.q ∧ j1.idx = j.idx ∧ j1.desc = j.desc ∧
      g1.set (!j1.setY) = (getGroup s.opa.inst[n] (opaGroupNo j.desc)).set (!j1.setY) := by
  rcases hb with ⟨hb, rfl, rfl⟩ | ⟨hb, hp⟩
  · exact ⟨opaStep_of_begun hon hi hr hb, rfl, rfl, rfl, rfl⟩
  · obtain ⟨hj, f, hg⟩ := beginPass_ready hp
    refine ⟨opaStep_of_ready hon hi hr hb hp, by rw [hj], by rw [hj], by rw [hj], ?_⟩
    rw [hg, Group.set_mod_other, ticked_inst]
    rfl

/-- The step that a pass issues next, as the feeders hold it or read it. -/
theorem nextStep_eq (h : (∃ rest, j1.feed = x :: rest ∧ u = s) ∨
      (j1.feed = [] ∧ readStep j1 (g1.set j1.setY).rows (g1.set j1.setY).cols j1.s s = (.ok x, u))) :
    nextStep j1 (g1.set j1.setY).rows (g1.set j1.setY).cols s = (.ok x, u) ∧ Kept s u := by
  rcases h with ⟨rest, hf, rfl⟩ | ⟨hf, hread⟩
  · exact ⟨nextStep_of_feed hf _, .refl u⟩
  · have k := kept_readStep j1 (g1.set j1.setY).rows (g1.set j1.setY).cols j1.s s
    rw [hread] at k
    exact ⟨(nextStep_of_read hf s).trans hread, k⟩

end

theorem mem_added {α : Type} [BEq α] [LawfulBEq α] {l : List α} {b c : α} :
    c ∈ (if l.contains b then l else l ++ [b]) ↔ c ∈ l ∨ c = b := by
  split
  · rename_i h
    exact ⟨.inl, fun hc => hc.elim id (· ▸ List.contains_iff_mem.mp h)⟩
  · simp

@[simp] theorem countStep_inst (n k : Nat) (s : State) : (countStep n k s).opa.inst = s.opa.inst := rfl

theorem stepsIssue : Rule.StepsIssue := by
  refine ⟨?_, ?_⟩
  · intro s u v w j rows cols at_ p m1 m2 m3 next np span rd
    refine ⟨readStep_of_none, fun h he hn => ⟨_, readStep_of_some h he hn, rfl, rfl, rfl, rfl, ?_, ?_⟩⟩
    · exact fun row hr => getD_map_lineRange _ _ hr
    · exact fun col hc => getD_map_lineRange _ _ hc
  · intro s u n j j1 g1 x i a T now hon hi hown hr hb
    obtain ⟨hstep, hq, hx, hd, hsh⟩ := opaStep_issues hon hi hr hb
    have hlists : listsOut (ticked s n) j1.q.val j1.idx = listsOut s j.q.val j.idx := by rw [hq, hx]; rfl
    refine ⟨fun hl => ?_, fun hl hnext => ?_⟩
    · exact gives_of_next rfl ((hstep.trans (issueStep_of_lists (hlists.trans hl))).trans (starve_ticked s n))
    · obtain ⟨hnx, hk⟩ := nextStep_eq hnext
      have hissue := hstep.trans (issueStep_of_step (hlists.trans hl) hnx)
      rw [ticked_inst] at hissue
      refine ⟨fun hlast hint => ?_, fun hint => ?_⟩
      · refine gives_of_next rfl ((hissue.trans (if_pos ?_)).trans (drainWait_ticked s n))
        simp only [hlast, Option.isNone_none, Bool.true_and, decide_eq_true_eq]
        exact Nat.sub_pos_of_lt hint
      · have hno : ¬ (x.next.isNone && decide (0 < i.interval - 1)) = true := by
          rw [Bool.and_eq_true, Option.isNone_iff_eq_none, decide_eq_true_eq]
          exact fun ⟨hl, hp⟩ => absurd (hint hl) (by omega)
        have hu : u.opa = (ticked s n).opa := hk.opa
        have hui : u.opa.inst[n] = { i with interval := i.interval - 1 } := by rw [hu, ticked_inst]
        obtain ⟨v, more, hv, hlen, hss⟩ := stepIssued_own (u := u) (g1 := g1) (x := x) (j1 := j1) (n := n)
          (hui ▸ ⟨hown.mem, hown.only⟩) hq hx hd
        refine ends_of_next rfl (hissue.trans ((if_neg hno).trans hss) ▸ ?_)
        set t := Rule.withInst (countStep n.val x.skip v) n
          (instAfter u.opa.inst[n] j j1 g1 x more (modeRows (pmode u))) with ht
        have hv' : v.opa = (ticked s n).opa := hv.opa.trans hu
        have hti : t.opa.inst[n] =
            instAfter { i with interval := i.interval - 1 } j j1 g1 x more (modeRows (pmode s)) := by
          rw [ht, withInst_inst, hui, pmode, hu]
          rfl
        have hg2 : getGroup t.opa.inst[n] a = groupAfter i.fmt j1 g1 x := by rw [hti]; exact instAfter_same
        have hT2 := (congrArg (fun g => g.set j1.setY) hg2).trans (groupAfter_set ..)
        intro g2 T2 done
        refine ⟨fun row col hrow hcol => ?_, ?_, fun c => ?_, ?_, ⟨more, hlen, ?_⟩, ⟨fun k hk => ?_, fun k hk => ?_, ?_⟩,
          ?_, ?_, ?_, ?_, ?_, ?_, ?_, ?_, ?_⟩
        · exact reg_stepRegs (congrArg AccSet.regs hT2) hrow hcol
        · rw [show T2 = _ from hT2]
          simp only [Option.isNone_iff_eq_none, T]
        · exact (iff_of_eq (congrArg (c ∈ ·) (congrArg AccSet.blind hT2))).trans mem_added
        · rw [show g2.tile = _ from congrArg Group.tile hg2, groupAfter, Group.mod_tile, openTile_tile, hd]
        · rw [hti, instAfter_jobs]
          rfl
        · rw [ht, withInst_inst_other _ _ hk, countStep_inst, hv']
          exact withInst_inst_other _ _ hk
        · rw [hti, instAfter_other hk]
          rfl
        · rw [hg2, groupAfter_shadow, hsh]
        · exact (hv.mem.trans hk.mem)
        · exact (hv.dq.trans hk.dq)
        · exact (congrArg (fun o : Opa => vmod o.steps n.val (· + 1)) hv').trans (vmod_fin ..)
        · exact (congrArg (fun o : Opa => vmod o.skip n.val (· + w64 x.skip)) hv').trans (vmod_fin ..)
        · exact (congrArg Opa.starve hv' :)
        · exact (congrArg Opa.drainwait hv' :)
        · rw [hti, instAfter]
          simp only [Option.isNone_iff_eq_none]
        · rw [hti, instAfter]
          exact realStep_lambda _
        · rw [hti, instAfter]
          exact realStep_activity _

/-- Settles O44: an a-cycle begins a pass, waits or issues a step, and a step puts its set, its job and the counts in
place of the old. -/
theorem arraySteps : Obligations.ArraySteps := ⟨passesBegin, stepsIssue⟩

end Sys2Proof.Machine

/-! SUPPORT. What the writes of an engine do that all land (08:R235, R236; 12:R350, R352). -/

namespace Sys2Proof.Machine

/-- In t cells have been put into the memory of s by an engine's writes. -/
structure EngineWrote (s t : State) (cs : List Host.Cell) : Prop where
  mem    : ∀ a, Memory.get t.mem a = Memory.get (Memory.puts s.mem cs) a
  opa    : t.opa = s.opa
  dq     : t.dq = s.dq
  region : region t = region s
  words  : s.sm.ueWords = [] → t.sm.ueWords = []

/-- Memory after writes depends on what was there before at the same address only. -/
theorem Memory.get_puts_congr {m m' : List Host.Cell} {a : Nat} (h : Memory.get m a = Memory.get m' a)
    (cs : List Host.Cell) : Memory.get (Memory.puts m cs) a = Memory.get (Memory.puts m' cs) a := by
  rw [Memory.get_puts, Memory.get_puts, h]

theorem region_of_kept {s t : State} (h : Kept s t) : region t = region s := by
  have hg : gradeB t = gradeB s := by unfold gradeB fuseByte; rw [h.fuses]
  funext pa
  unfold region memBytes smBytes
  rw [hg]

theorem ueWords_of_kept {s t : State} (h : Kept s t) : t.sm.ueWords = s.sm.ueWords := by rw [h.sm]

theorem EngineWrote.refl (s : State) : EngineWrote s s [] := ⟨fun _ => rfl, rfl, rfl, rfl, id⟩

theorem EngineWrote.trans {s t u : State} {cs ds : List Host.Cell} (h : EngineWrote s t cs) (k : EngineWrote t u ds) :
    EngineWrote s u (cs ++ ds) where
  mem a := by rw [k.mem, Memory.puts_append, Memory.get_puts_congr (h.mem a)]
  opa := k.opa.trans h.opa
  dq := k.dq.trans h.dq
  region := k.region.trans h.region
  words hw := k.words (h.words hw)

theorem EngineWrote.of_kept {s t : State} (h : Kept s t) : EngineWrote s t [] :=
  ⟨fun a => by rw [h.mem]; rfl, h.opa, h.dq, region_of_kept h, (ueWords_of_kept h).trans⟩

theorem EngineWrote.of_wrote {s t : State} {cs : List Host.Cell} (h : Wrote s t (Memory.puts s.mem cs)) :
    EngineWrote s t cs :=
  ⟨fun a => by rw [h.mem], h.kept.opa, h.kept.dq, (region_of_kept h.kept).trans rfl, (ueWords_of_kept h.kept).trans⟩

/-! Stage memory. -/

theorem readSmWord_of_sound {s : State} (h : s.sm.ueWords = []) (word : Nat) : (readSmWord word s).1 ≠ .uncorrectable := by
  simp only [readSmWord, h, List.contains_nil, Bool.false_eq_true, if_false]
  split <;> simp

theorem storeSmWord_engineWrote (word : Nat) (cs : List Host.Cell) (s : State) :
    EngineWrote s (storeSmWord word cs s) cs :=
  ⟨fun _ => rfl, rfl, rfl, rfl, fun h => by simp [storeSmWord, h]⟩

theorem writeSmWord_engineWrote {s : State} (h : s.sm.ueWords = []) (word : Nat) (cs : List Host.Cell) :
    (writeSmWord word cs s).1 = true ∧ EngineWrote s (writeSmWord word cs s).2 cs := by
  have hr := readSmWord_of_sound h word
  have hk := kept_readSmWord word s
  unfold writeSmWord
  split
  · exact ⟨rfl, storeSmWord_engineWrote ..⟩
  · split
    · rename_i e; rw [e] at hr; exact absurd rfl hr
    · rename_i t _ e
      rw [e] at hk
      exact ⟨rfl, (EngineWrote.of_kept hk).trans (storeSmWord_engineWrote ..)⟩

theorem writeSmGroups_engineWrote (gs : List (List Host.Cell)) {s : State} (h : gs ≠ [] → s.sm.ueWords = []) :
    (writeSmGroups gs s).1 = none ∧ EngineWrote s (writeSmGroups gs s).2 gs.flatten := by
  induction gs generalizing s with
  | nil => exact ⟨rfl, .refl s⟩
  | cons g gs ih =>
    obtain ⟨hok, hw⟩ := writeSmWord_engineWrote (h (List.cons_ne_nil g gs)) ((g.headD (0, 0)).1 / 32) g
    obtain ⟨hn, hws⟩ := ih fun _ => hw.words (h (List.cons_ne_nil g gs))
    simp only [writeSmGroups, hok, if_true, List.flatten_cons]
    exact ⟨hn, hw.trans hws⟩

/-! Writes of bytes, and the writes of a descriptor. -/

theorem groupCells_flatten (k : Nat) (cs : List Host.Cell) : (groupCells k cs).flatten = cs := List.flatten_splitBy _ cs

/-- Cells of external memory, then those of stage memory, leave memory as all of them in order do. -/
theorem get_puts_by_region {s : State} {cs : List Host.Cell} (h : ∀ c ∈ cs, region s c.1 = .ext ∨ region s c.1 = .stage)
    (m : List Host.Cell) (a : Nat) :
    Memory.get (Memory.puts (Memory.puts m (cs.filter fun c => region s c.1 == .ext))
      (cs.filter fun c => region s c.1 == .stage)) a = Memory.get (Memory.puts m cs) a := by
  have hs := Memory.get_puts_filter (fun a => region s a == .stage) cs
    (Memory.puts m (cs.filter fun c => region s c.1 == .ext)) a
  have he := Memory.get_puts_filter (fun a => region s a == .ext) cs m a
  rw [hs, he]
  by_cases ha : ∃ c ∈ cs, c.1 = a
  · obtain ⟨c, hc, rfl⟩ := ha
    rcases h c hc with hr | hr
    · simp [hr]
    · simp only [hr, beq_self_eq_true, if_true]
      exact Memory.get_puts_congr (by rw [he]; simp [hr]) cs
  · have hm : ∀ m', Memory.get (Memory.puts m' cs) a = Memory.get m' a := fun m' =>
      Memory.get_puts_other cs m' a fun c hc e => ha ⟨c, hc, e⟩
    simp only [hm, he, ite_self]

/-- The parts of cells that lie in external and in stage memory. -/
def extCells (s : State) (cs : List Host.Cell) : List Host.Cell := cs.filter fun c => region s c.1 == .ext
def stageCells (s : State) (cs : List Host.Cell) : List Host.Cell := cs.filter fun c => region s c.1 == .stage

theorem EngineWrote.congr {s t : State} {cs ds : List Host.Cell} (h : EngineWrote s t cs)
    (he : ∀ a, Memory.get (Memory.puts s.mem cs) a = Memory.get (Memory.puts s.mem ds) a) : EngineWrote s t ds :=
  ⟨fun a => (h.mem a).trans (he a), h.opa, h.dq, h.region, h.words⟩

theorem writeUnits_engineWrote (al th : Bool) (w : Waiter) (cs : List Host.Cell) (s : State) :
    EngineWrote s (writeUnits al th w (groupCells 64 cs) (mendLines cs s)) cs := by
  have h := wrote_writeUnits al th w (groupCells 64 cs) (mendLines cs s)
  rw [groupCells_flatten] at h
  exact (EngineWrote.of_kept (kept_bc ..)).trans (.of_wrote h)

/-- Bytes that can be written are (08:R235, R236). -/
theorem writeAccess_engineWrote {s : State} {cs : List Host.Cell} (h : Rule.Writable s cs) (al th : Bool) (w : Waiter) :
    (writeAccess al th w cs s).1 = none ∧ EngineWrote s (writeAccess al th w cs s).2 cs := by
  have hext := writeUnits_engineWrote al th w (extCells s cs) s
  obtain ⟨hn, hsm⟩ := writeSmGroups_engineWrote (groupCells 32 (stageCells s cs))
    (s := writeUnits al th w (groupCells 64 (extCells s cs)) (mendLines (extCells s cs) s)) fun hne => hext.words (by
      obtain ⟨c, hc⟩ := List.exists_mem_of_ne_nil _ (mt (congrArg (groupCells 32)) hne)
      obtain ⟨hc, hr⟩ := List.mem_filter.mp hc
      exact (h c hc).elim (fun he => absurd hr (by simp [he])) And.right)
  rw [groupCells_flatten] at hsm
  refine ⟨hn, (hext.trans hsm).congr fun a => ?_⟩
  rw [Memory.puts_append]
  exact get_puts_by_region (fun c hc => (h c hc).imp_right And.left) ..

theorem writable_of_engineWrote {s t : State} {cs ds : List Host.Cell} (h : EngineWrote s t cs) (hd : Rule.Writable s ds) :
    Rule.Writable t ds := fun c hc => by
  rw [h.region]
  exact (hd c hc).imp_right (And.imp_right h.words)

/-- Writes that can land, all do (08:R235). -/
theorem performWrites_engineWrote (q : Nat) (idx : BitVec 32) (ws : List EngWrite) {s : State}
    (h : Rule.Writable s (ws.flatMap (·.cells))) :
    (performWrites q idx ws s).1 = none ∧ EngineWrote s (performWrites q idx ws s).2 (ws.flatMap (·.cells)) := by
  induction ws generalizing s with
  | nil => exact ⟨rfl, .refl s⟩
  | cons w ws ih =>
    rw [List.flatMap_cons] at h ⊢
    obtain ⟨hn, hw⟩ := writeAccess_engineWrote (fun c hc => h c (List.mem_append_left _ hc)) false w.through
      (.engine (qFin q) idx w.part w.va)
    obtain ⟨hn', hws⟩ := ih (writable_of_engineWrote hw fun c hc => h c (List.mem_append_right _ hc))
    unfold performWrites
    split
    · rename_i e; rw [e] at hn; cases hn
    · rename_i e; rw [e] at hw hn' hws; exact ⟨hn', hw.trans hws⟩

/-- The cells of a part land at the places that translation gives them (12:R350). -/
theorem writeVa_ok {j : OpaJob} {part : Nat} {cs : List Host.Cell} {m : PageMap} {s u : State}
    (hx : xlatReqs j.ctx [⟨part, .engWrite, cs.map fun c => (c.1, 1)⟩] [] s = (.ok m, u))
    (hw : Rule.Writable s ((engWrites part m cs).flatMap (·.cells))) :
    ∃ t, writeVa j part cs s = (.ok (), t) ∧ EngineWrote s t ((engWrites part m cs).flatMap (·.cells)) := by
  have hk := kept_xlatReqs j.ctx [⟨part, .engWrite, cs.map fun c => (c.1, 1)⟩] [] s
  rw [hx] at hk
  have hu := EngineWrote.of_kept hk
  obtain ⟨hn, hp⟩ := performWrites_engineWrote j.q.val j.idx (engWrites part m cs) (writable_of_engineWrote hu hw)
  refine ⟨_, ?_, hu.trans hp⟩
  unfold writeVa
  rw [hx]
  dsimp only
  split
  · rename_i e; rw [e] at hn; cases hn
  · rename_i e; rw [e]

/-- No cells, no writes. -/
theorem writeVa_nil (j : OpaJob) (part : Nat) (s : State) : writeVa j part [] s = (.ok (), s) := rfl

end Sys2Proof.Machine

/-! SUPPORT. O46: passes settle, drain, and end their descriptors (03:R90; 04:R101, R102, R110, R114). -/

namespace Sys2Proof.Machine

/-- A group without its open tile has the same sets. -/
@[simp] theorem Group.set_of_tile (g : Group) (x : Option OpenTile) (y : Bool) :
    Group.set { g with tile := x } y = g.set y := by
  cases y <;> rfl

/-- A group whose set begins to drain: of a CONT descriptor its tile is no longer open. -/
def finalGroup (j : OpaJob) (g : Group) : Group :=
  let h := g.mod (drainSet j) fun t => { t with st := .drain, cubeRow := 0 }
  if opaCont j.desc then { h with tile := none } else h

section
variable (j : OpaJob) (g : Group)

theorem finalGroup_set : (finalGroup j g).set (drainSet j) = { g.set (drainSet j) with st := .drain, cubeRow := 0 } := by
  unfold finalGroup
  split
  · rw [Group.set_of_tile, Group.set_mod_same]
  · rw [Group.set_mod_same]

theorem finalGroup_shadow : (finalGroup j g).set (!drainSet j) = g.set (!drainSet j) := by
  unfold finalGroup
  split
  · rw [Group.set_of_tile, Group.set_mod_other]
  · rw [Group.set_mod_other]

theorem finalGroup_tile : (finalGroup j g).tile = if opaCont j.desc then none else g.tile := by
  unfold finalGroup
  split <;> simp

/-- A group whose held set begins to drain under a drain-only descriptor. -/
def heldGroup (j : OpaJob) (g : Group) : Group :=
  { g.mod g.inY fun t => { t with st := .drain, cubeRow := 0, owner := some (j.q.val, j.idx) } with tile := none }

theorem heldGroup_set : (heldGroup j g).set g.inY =
    { g.open_ with st := .drain, cubeRow := 0, owner := some (j.q.val, j.idx) } := by
  rw [heldGroup, Group.set_of_tile, Group.set_mod_same]
  rfl

theorem heldGroup_shadow : (heldGroup j g).set (!g.inY) = g.set (!g.inY) := by
  rw [heldGroup, Group.set_of_tile, Group.set_mod_other]

end

section
variable {s : State} {n : Fin 16} {j : OpaJob}

theorem groupFinal_of_draining (h : (drainingSet s.opa.inst[n]).isSome = true) : groupFinal n.val s = s := by
  simp only [groupFinal, getInst_fin, h, Bool.true_or, if_true]

theorem heldDrain_of_draining (h : (drainingSet s.opa.inst[n]).isSome = true) : heldDrain n.val s = s := by
  simp only [heldDrain, getInst_fin, h, Bool.true_or, if_true]

theorem drainCube_of_none (h : drainingSet s.opa.inst[n] = none) : drainCube n.val s = s := by
  simp only [drainCube, getInst_fin, h]

variable (hon : Rule.ArrayOn s)
include hon

theorem groupFinal_of_first (hd : drainingSet s.opa.inst[n] = none)
    (hf : Rule.First (Rule.DrainsNext s s.opa.inst[n]) s.opa.inst[n] j) : groupFinal n.val s =
      Rule.withInst s n { s.opa.inst[n] with
        groups := vmod s.opa.inst[n].groups (opaGroupNo j.desc) (finalGroup j) } := by
  have hfind := find?_of_first hf (p := fun x => !x.only && opaDrains x.desc && x.fail.isNone &&
    ((getGroup s.opa.inst[n] (opaGroupNo x.desc)).set (drainSet x)).owner == some (x.q.val, x.idx) &&
    ((getGroup s.opa.inst[n] (opaGroupNo x.desc)).set (drainSet x)).st == .settle &&
    ((getGroup s.opa.inst[n] (opaGroupNo x.desc)).set (drainSet x)).pass == x.drained && !readsOut s x.q.val x.idx)
    fun x => by simp [Rule.DrainsNext, Rule.OfPass, and_assoc, -Fin.getElem_fin]
  simp only [groupFinal, getInst_fin, hd, running_of_arrayOn hon, hfind, Option.isSome_none, Bool.not_true, Bool.or_self,
    Bool.false_eq_true, if_false]
  exact modGroup_fin n _ (finalGroup j) s

theorem heldDrain_of_first (hd : drainingSet s.opa.inst[n] = none)
    (hf : Rule.First (Rule.DrainsHeld s s.opa.inst[n]) s.opa.inst[n] j)
    (ht : (getGroup s.opa.inst[n] (opaGroupNo j.desc)).tile ≠ none)
    (hb : (getGroup s.opa.inst[n] (opaGroupNo j.desc)).open_.bad = none) : heldDrain n.val s =
      Rule.withInst s n { s.opa.inst[n] with
        groups := vmod s.opa.inst[n].groups (opaGroupNo j.desc) (heldGroup j) } := by
  have hfind := find?_of_first hf (p := fun x => x.only && x.fail.isNone && x.drained == 0 &&
    ((getGroup s.opa.inst[n] (opaGroupNo x.desc)).tile.isNone ||
      ((getGroup s.opa.inst[n] (opaGroupNo x.desc)).open_.st == .held && !readsOut s x.q.val x.idx)))
    fun x => by simp [Rule.DrainsHeld, and_assoc, -Fin.getElem_fin]
  have htile := Option.isNone_eq_false_iff.mpr (Option.isSome_iff_ne_none.mpr ht)
  simp only [heldDrain, getInst_fin, hd, running_of_arrayOn hon, hfind, htile, hb, Option.isSome_none, Bool.not_true,
    Bool.or_self, Bool.false_eq_true, if_false]
  exact modGroup_fin n _ (heldGroup j) s

end

/-! A cube row drains (04:R110, R114). -/

section
variable {s t : State} {n : Fin 16} {j j' : OpaJob} {a : Nat} {z : Bool}

/-- A cube row of a set of an unscaled destination is written whole. -/
theorem drainRow_of_unscaled {fmt : BitVec 2} {D : AccSet} {m : PageMap} {u : State} (hsc : (dC j.desc).scaled = false)
    (hrow : 8 * D.cubeRow < D.rows) :
    let j1 := gatherRow fmt D D.cubeRow j
    let r := readyRect j1 D D.cubeRow
    let cells := rectCells (dC j.desc) j.listC r fun row col => (drainCode j1 row col).1
    xlatReqs j.ctx [⟨3, .engWrite, cells.map fun c => (c.1, 1)⟩] [] s = (.ok m, u) →
    Rule.Writable s ((engWrites 3 m cells).flatMap (·.cells)) →
    ∃ t, drainRow fmt D D.cubeRow j s = (.ok (writtenRect r j1), t) ∧
      EngineWrote s t ((engWrites 3 m cells).flatMap (·.cells)) := by
  intro j1 r cells hx hw
  obtain ⟨t, ht, he⟩ := writeVa_ok (j := j1) hx hw
  have hnil : rectScales j1 r = [] := by
    have : (dC j1.desc).scaled = false := hsc
    simp only [rectScales, this, Bool.not_false, if_true]
  refine ⟨t, ?_, he⟩
  unfold drainRow
  rw [if_neg (Nat.not_le.mpr hrow)]
  dsimp only
  split
  · rename_i e; cases e.symm.trans ht
  · rename_i e; cases e.symm.trans ht
  · rename_i e
    cases e.symm.trans ht
    rw [show rectScales (gatherRow fmt D D.cubeRow j) _ = _ from hnil, writeVa_nil]

/-- The set that drains after a cube row. -/
def setAfterRow (last : Bool) (t : AccSet) : AccSet := if last then .reset else { t with cubeRow := t.cubeRow + 1 }

/-- The partition after a cube row of set z of group a has drained. -/
def instAfterRow (i : OpaInst) (a : Nat) (z : Bool) (jobs : List OpaJob) (last : Bool) : OpaInst :=
  let i := { i with jobs := jobs, groups := vmod i.groups a fun x => x.mod z (setAfterRow last) }
  if last then i.intervalOver else i

theorem drainCube_of_row (hd : drainingSet s.opa.inst[n] = some (a, z)) (h : Rule.OwnJob s.opa.inst[n] j)
    (ho : ((getGroup s.opa.inst[n] a).set z).owner = some (j.q.val, j.idx))
    (hr : drainRow s.opa.inst[n].fmt ((getGroup s.opa.inst[n] a).set z) ((getGroup s.opa.inst[n] a).set z).cubeRow j s =
      (.ok j', t)) (ht : t.opa = s.opa) (last : Bool)
    (hl : last = true ↔ modeRows (pmode s) ≤ ((getGroup s.opa.inst[n] a).set z).cubeRow + 1) : drainCube n.val s =
      Rule.withInst t n (instAfterRow s.opa.inst[n] a z (Rule.replaced s.opa.inst[n].jobs j
        (if last then j'.passDone ((getGroup s.opa.inst[n] a).set z) else j')) last) := by
  have hfind := find?_own h (p := fun x => ((getGroup s.opa.inst[n] a).set z).owner == some (x.q.val, x.idx))
    (by simp only [ho, beq_self_eq_true]) fun x _ hx => by
      rw [ho, beq_iff_eq, owner_eq_iff] at hx
      exact hx
  have hti : t.opa.inst[n] = s.opa.inst[n] := by rw [ht]
  have hm : pmode t = pmode s := by rw [pmode, ht]; rfl
  simp only [drainCube, getInst_fin, hd, hfind, hr, hm, ← hl]
  rw [modJob_own h hti, modGroup_fin, withInst_inst, withInst_withInst]
  cases last with
  | true => simp only [if_true, modInst_fin, withInst_inst, withInst_withInst, instAfterRow]; rfl
  | false => simp only [Bool.false_eq_true, if_false, instAfterRow]; rfl

theorem any_settle_iff (i : OpaInst) : (i.groups.toList.any fun g => g.x.st == .settle || g.y.st == .settle) = true ↔
    ∃ k : Fin 4, (i.groups[k]).x.st = .settle ∨ (i.groups[k]).y.st = .settle := by
  simp only [List.any_eq_true, Bool.or_eq_true, beq_iff_eq]
  constructor
  · rintro ⟨g, hg, h⟩
    obtain ⟨k, hk, rfl⟩ := List.mem_iff_getElem.mp hg
    exact ⟨⟨k, by simpa using hk⟩, by simpa using h⟩
  · rintro ⟨k, h⟩
    exact ⟨_, by simp, h⟩

/-- The end of a pass leaves what is not the interval. -/
theorem intervalOver_eq (i : OpaInst) : i.intervalOver = { i with
    interval := if ∃ k : Fin 4, (i.groups[k]).x.st = .settle ∨ (i.groups[k]).y.st = .settle then i.interval else 0 } := by
  unfold OpaInst.intervalOver
  by_cases h : ∃ k : Fin 4, (i.groups[k]).x.st = .settle ∨ (i.groups[k]).y.st = .settle
  · rw [if_pos ((any_settle_iff i).mpr h), if_pos h]
  · rw [if_neg (mt (any_settle_iff i).mp h), if_neg h]

end

/-! The end of descriptors (04:R101, R114, R125). -/

section
variable {s t : State} {n : Fin 16} {j : OpaJob} (hon : Rule.ArrayOn s)
include hon

/-- A group with the finished pass of a KEEP job HELD. -/
def keptGroup (j : OpaJob) (g : Group) : Group :=
  g.mod (drainSet j) fun t => if t.st == .settle && t.owner == some (j.q.val, j.idx) then { t with st := .held } else t

theorem keepFinish_of_first (hf : Rule.First (Rule.KeepsNow s) s.opa.inst[n] j) :
    keepFinish n.val s = closeJob n.val j endOk (Rule.withInst s n { s.opa.inst[n] with
      groups := vmod s.opa.inst[n].groups (opaGroupNo j.desc) (keptGroup j) }) := by
  have hfind := find?_of_first hf
    (p := fun x => !x.only && !opaDrains x.desc && x.done && x.fail.isNone && !readsOut s x.q.val x.idx)
    fun x => by simp [Rule.KeepsNow, and_assoc]
  simp only [keepFinish, getInst_fin, running_of_arrayOn hon, hfind, Bool.not_true, Bool.false_eq_true, if_false]
  exact congrArg (closeJob n.val j endOk) (modGroup_fin n _ (keptGroup j) s)

section
variable (hd : Rule.Drained s.opa.inst[n] j)
include hd

theorem drainFinish_of_fail {e : Ended} (he : j.fail = some e) : drainFinish n.val s = closeJob n.val j e s := by
  unfold Rule.Drained at hd
  simp only [drainFinish, getInst_fin, running_of_arrayOn hon, hd, he, Bool.not_true, Bool.false_eq_true, if_false]

variable {f : InFlight} (he : j.fail = none) (hf : getFlight s j.q.val j.idx = some f)
include he hf

theorem drainFinish_of_posted (hp : f.posted = true) : drainFinish n.val s =
    if portReqs s j.q.val j.idx = [] then closeJob n.val j (drainOutcome j) s else s := by
  unfold Rule.Drained at hd
  simp only [drainFinish, getInst_fin, running_of_arrayOn hon, hd, he, hf, hp, Bool.not_true, Bool.false_eq_true, if_false,
    if_true, List.isEmpty_iff]

/-- The descriptor's last records are written, and its writes wait for their answers. -/
theorem drainFinish_of_unposted (hp : f.posted = false) (hw : writeStats j s = (.ok (), t)) : drainFinish n.val s =
    if portReqs t j.q.val j.idx = [] then
      closeJob n.val j (drainOutcome j) (modFlight j.q.val j.idx (fun f => { f with posted := true }) t)
    else modFlight j.q.val j.idx (fun f => { f with posted := true }) t := by
  unfold Rule.Drained at hd
  simp only [drainFinish, getInst_fin, running_of_arrayOn hon, hd, he, hf, hp, hw, Bool.not_true, Bool.false_eq_true,
    if_false, List.isEmpty_iff]
  rfl

end

end

theorem keptGroup_set {g : Group} {j : OpaJob} (h : Rule.OfPass (g.set (drainSet j)) j .settle) :
    (keptGroup j g).set (drainSet j) = { g.set (drainSet j) with st := .held } := by
  obtain ⟨ho, hs⟩ := h
  rw [keptGroup, Group.set_mod_same, if_pos (by simp [ho, hs])]

theorem modFlight_opa (q : Nat) (idx : BitVec 32) (g : InFlight → InFlight) (s : State) :
    (modFlight q idx g s).opa = s.opa := rfl

/-- A descriptor finishes whose last writes have just been posted. -/
theorem finished_posted {s t : State} {n : Fin 16} {j : OpaJob} {e : Ended} (ho : t.opa = s.opa) (hdq : t.dq = s.dq)
    (hend : ∀ f ∈ (s.dq[j.q]).inflight, f.idx = j.idx → f.ended = none) : Rule.Finished s
      (closeJob n.val j e (modFlight j.q.val j.idx (fun f => { f with posted := true }) t)) n j e := by
  refine finished_closeJob ?_ (fun p hp => ?_) fun f hf hi => ?_
  · rw [modFlight_opa, ho]
  · rw [modFlight_dq_other _ hp, hdq]
  · rw [modFlight_inflight, hdq] at hf
    obtain ⟨f', hf', rfl⟩ := List.mem_map.mp hf
    by_cases hx : f'.idx = j.idx
    · simpa [hx] using hend f' hf' hx
    · simp [hx] at hi

section
variable {i : OpaInst} {a : Nat} {z last : Bool} {jobs : List OpaJob}

theorem instAfterRow_groups : (instAfterRow i a z jobs last).groups =
    vmod i.groups a fun x => x.mod z (setAfterRow last) := by
  cases last with
  | false => rfl
  | true => rw [instAfterRow, if_pos rfl, intervalOver_eq]

theorem instAfterRow_jobs : (instAfterRow i a z jobs last).jobs = jobs := by
  cases last with
  | false => rfl
  | true => rw [instAfterRow, if_pos rfl, intervalOver_eq]

theorem getGroup_instAfterRow (ha : a < 4) :
    (getGroup (instAfterRow i a z jobs last) a).set z = setAfterRow last ((getGroup i a).set z) := by
  rw [getGroup, instAfterRow_groups, vget_vmod_same _ _ _ _ ha, Group.set_mod_same]
  rfl

end

/-- Settles O46: each command of the end of a pass finds its job and puts its set, its cells or its outcome in place. -/
theorem passesDrain : Obligations.PassesDrain := by
  unfold Obligations.PassesDrain
  intro s u n j m i a g hon hown y T
  refine ⟨fun hd hf => ?_, fun hd => ⟨?_, ?_⟩, fun hd hf ht hb => ?_, fun hd => ?_, ?_, ?_⟩
  · refine ends_of_next rfl ?_
    rw [groupFinal_of_first hon hd hf]
    refine ⟨by rw [withInst_inst], ?_, ?_, ?_⟩
    · exact onlySet_of_mod (f := finalGroup j) (opaGroupNo_lt _) rfl rfl (finalGroup_shadow ..)
    · rw [withInst_inst, getGroup_vmod_same (opaGroupNo_lt _), finalGroup_set]
    · rw [withInst_inst, getGroup_vmod_same (opaGroupNo_lt _), finalGroup_tile]
  · exact gives_of_next rfl (groupFinal_of_draining hd)
  · exact gives_of_next rfl (heldDrain_of_draining hd)
  · refine ends_of_next rfl ?_
    rw [heldDrain_of_first hon hd hf ht hb]
    refine ⟨by rw [withInst_inst], ?_, ?_, ?_⟩
    · exact onlySet_of_mod (f := heldGroup j) (opaGroupNo_lt _) rfl rfl (heldGroup_shadow ..)
    · rw [withInst_inst, getGroup_vmod_same (opaGroupNo_lt _), heldGroup_set]
    · rw [withInst_inst, getGroup_vmod_same (opaGroupNo_lt _)]
      rfl
  · exact gives_of_next rfl (drainCube_of_none hd)
  · intro z hd ho hsc D j1 r cells written last hrow hx hw
    obtain ⟨t, ht, hwr⟩ := drainRow_of_unscaled hsc hrow hx hw
    refine ends_of_next rfl ?_
    rw [drainCube_of_row hd hown ho ht hwr.opa (decide last) decide_eq_true_iff]
    refine ⟨hwr.mem, ?_, fun p => congrArg (fun q : Vector Queue 32 => q[p]) hwr.dq, fun hl => ?_, fun hl => ?_⟩
    · refine onlySet_of_mod (i := instAfterRow ..) (f := fun x => x.mod z (setAfterRow (decide last))) (opaGroupNo_lt _)
        (by rw [← hwr.opa]; rfl) instAfterRow_groups (Group.set_mod_other ..)
    · rw [decide_eq_false hl, withInst_inst]
      refine ⟨?_, rfl, rfl⟩
      rw [getGroup_instAfterRow (opaGroupNo_lt _)]
      rfl
    · rw [decide_eq_true hl, withInst_inst]
      refine ⟨?_, ?_, ?_⟩
      · rw [getGroup_instAfterRow (opaGroupNo_lt _)]
        rfl
      · rw [instAfterRow_jobs]
        rfl
      · rw [instAfterRow, if_pos rfl, intervalOver_eq]
  · intro hend
    refine ⟨fun hf hp => ?_, fun e hd he => ?_, fun f hd he hf => ⟨fun hp hr => ?_, fun hp hr => ?_, ?_⟩⟩
    · refine ends_of_next rfl ?_
      rw [keepFinish_of_first hon hf]
      refine ⟨finished_closeJob ?_ (fun _ _ => rfl) hend, ?_, rfl⟩
      · rw [withInst_inst]
      · rw [closeJob_inst, withInst_inst]
        exact (congrArg (fun g => Group.set g y) (getGroup_vmod_same (opaGroupNo_lt _))).trans (keptGroup_set hp)
    · refine ends_of_next rfl ?_
      rw [drainFinish_of_fail hon hd he]
      exact ⟨finished_closeJob rfl (fun _ _ => rfl) hend, rfl⟩
    · refine ends_of_next rfl ?_
      rw [drainFinish_of_posted hon hd he hf hp, if_pos hr]
      exact ⟨finished_closeJob rfl (fun _ _ => rfl) hend, rfl⟩
    · exact gives_of_next rfl ((drainFinish_of_posted hon hd he hf hp).trans (if_neg hr))
    · intro hp cells written hx hw
      obtain ⟨t, ht, hwr⟩ := writeVa_ok hx hw
      refine ends_of_next rfl ?_
      rw [drainFinish_of_unposted hon hd he hf hp ht]
      by_cases hr : portReqs t j.q.val j.idx = []
      · rw [if_pos hr]
        refine ⟨hwr.mem, fun _ => finished_posted hwr.opa hwr.dq hend, fun h => absurd hr h⟩
      · rw [if_neg hr]
        refine ⟨hwr.mem, fun h => absurd h hr, fun _ => ?_⟩
        rw [modFlight_opa, hwr.opa]

end Sys2Proof.Machine

/-! SUPPORT. O45: the step sum of an output's products, and what it makes of the output's registers (04:R105, R107). -/

namespace Sys2Proof.Machine

/-! The FP32 step sum (04:R105). -/

theorem any_xIsInf_iff {neg : Bool} {ps : List XVal} : ps.any (xIsInf neg) = true ↔ .inf neg ∈ ps := by
  have hinf (p : XVal) : xIsInf neg p = true ↔ p = .inf neg := by cases p <;> simp [xIsInf]
  simp [hinf]

theorem stepSum_of_nan {ps : List XVal} (h : ps.any xIsNan = true) : stepSum ps = some 0x7FC00000 := by
  simp only [stepSum, h, Bool.true_or, if_true]

theorem stepSum_of_infs {ps : List XVal} (hpos : .inf false ∈ ps) (hneg : .inf true ∈ ps) :
    stepSum ps = some 0x7FC00000 := by
  simp only [stepSum, any_xIsInf_iff.mpr hpos, any_xIsInf_iff.mpr hneg, Bool.and_self, Bool.or_true, if_true]

theorem stepSum_of_posInf {ps : List XVal} (hpos : .inf false ∈ ps) (hneg : .inf true ∉ ps)
    (hnan : ps.any xIsNan = false) : stepSum ps = some 0x7F800000 := by
  have hno : ps.any (xIsInf true) = false := Bool.eq_false_iff.mpr (mt any_xIsInf_iff.mp hneg)
  simp only [stepSum, hnan, any_xIsInf_iff.mpr hpos, hno, Bool.and_false, Bool.or_self, Bool.false_eq_true, if_false,
    if_true]

theorem any_eq_false_of_isZero {ps : List XVal} {P : XVal → Bool} (h : ∀ p ∈ ps, p.isZero = true)
    (hP : ∀ x, P (.real x) = false) : ps.any P = false := by
  refine List.any_eq_false.mpr fun p hp => ?_
  cases p with
  | real x => simp [hP]
  | nan | inf => simpa [XVal.isZero] using h _ hp

/-- Zero products alone give ZERO. -/
theorem stepSum_of_zeros {ps : List XVal} (h : ∀ p ∈ ps, p.isZero = true) : stepSum ps = none := by
  have hany (P : XVal → Bool) (hP : ∀ x, P (.real x) = false) := any_eq_false_of_isZero h hP
  simp only [stepSum, hany xIsNan fun _ => rfl, hany (xIsInf _) fun _ => rfl, Bool.and_self, Bool.or_self,
    Bool.false_eq_true, if_false]
  rw [List.filterMap_eq_nil_iff.mpr]
  · rfl
  · intro p hp
    cases p with
    | real x => exact if_pos (h _ hp)
    | nan | inf => rfl

/-! The integer step sum (04:R105). -/

theorem intSum_of_nan {ps : List XVal} (h : ps.any xIsNan = true) : intSum ps = some none := by
  simp only [intSum, h, if_true]

theorem valInt_exact (v : Int) : valInt (xToVal (.real ⟨decide (v < 0), v.natAbs, 1, 0⟩)) = v := by
  rcases lt_or_ge v 0 with hv | hv
  · simp [xToVal, valInt, shiftTo, hv, abs_of_neg hv]
  · simp [xToVal, valInt, shiftTo, hv.not_gt, abs_of_nonneg hv]

theorem intSum_exactInts (vs : List Int) :
    intSum (Rule.exactInts vs) = if vs.sum = 0 then none else some (some vs.sum) := by
  have hnan : (Rule.exactInts vs).any xIsNan = false := by simp [Rule.exactInts, xIsNan]
  have hvals : (Rule.exactInts vs).map (fun p => valInt (xToVal p)) = vs := by
    simp [Rule.exactInts, Function.comp_def, valInt_exact]
  simp only [intSum, hnan, hvals, ← List.sum_eq_foldl, Bool.false_eq_true, if_false, beq_iff_eq]

/-! A step sum added into the registers of an output (04:R107). -/

theorem accumulate_int_of_zero {ps : List XVal} (h : intSum ps = none) (r : BitVec 32 × BitVec 32) :
    accumulate 1 r ps = r := by
  simp [accumulate, h]

theorem accumulate_int_of_nan {ps : List XVal} (h : intSum ps = some none) (r : BitVec 32 × BitVec 32) :
    accumulate 1 r ps = (0x80000000, 0) := by
  simp [accumulate, h]

/-- The sum held within the range of INT32 values. -/
def clampInt32 (v : Int) : Int := max (-(2 ^ 31 - 1)) (min (2 ^ 31 - 1) v)

theorem accumulate_int_of_sum {ps : List XVal} {v : Int} (h : intSum ps = some (some v)) {r : BitVec 32 × BitVec 32}
    (hr : r.1 ≠ 0x80000000) : accumulate 1 r ps = (BitVec.ofInt 32 (clampInt32 (r.1.toInt + v)), 0) := by
  simp only [accumulate, h, beq_iff_eq, hr, if_false]
  rfl

theorem toInt_ofInt_clampInt32 (v : Int) : (BitVec.ofInt 32 (clampInt32 v)).toInt = clampInt32 v := by
  have hlow : -(2 ^ 31 - 1) ≤ clampInt32 v := le_max_left ..
  have hhigh : clampInt32 v ≤ 2 ^ 31 - 1 := max_le (by decide) (min_le_left ..)
  exact BitVec.toInt_ofInt_eq_self (by decide) (by omega) (by omega)

theorem accumulate_of_zero {ps : List XVal} (hint : intSum ps = none) (hfp : stepSum ps = none) (fmt : BitVec 2)
    (r : BitVec 32 × BitVec 32) : accumulate fmt r ps = r := by
  unfold accumulate
  split
  · rw [hint]
  · rw [hfp]
  · rw [hfp]

/-! A NaN step sum makes every register that it is added to NaN. -/

theorem xIsNan_xAdd_right (dn : Bool) (a : XVal) {b : XVal} (h : xIsNan b = true) : xIsNan (xAdd dn a b) = true := by
  cases b with
  | nan => cases a <;> rfl
  | inf | real => simp [xIsNan] at h

/-- The last exponent code with a significand is a NaN (02:R51). -/
theorem valIsNan_decode32 {code : Nat} (hexp : flt32.expField code = 255) (hsig : flt32.sigField code ≠ 0) :
    valIsNan (decode32 code) = true := by
  have hieee : flt32.ieee = true := rfl
  have hlast : 2 ^ flt32.k - 1 = 255 := rfl
  simp [decode32, Flt.decode_eq, hieee, hlast, hexp, hsig, valIsNan]

/-- The codes of quiet NaNs, with either sign and any payload below the quiet bit. -/
theorem valIsNan_decode32_quiet (neg : Bool) {pay : Nat} (hpay : pay < 2 ^ 22) :
    valIsNan (decode32 (flt32.signBit neg ||| flt32.nanCode ||| pay)) = true := by
  have hhigh : flt32.signBit neg ||| flt32.nanCode = (if neg then 0x3FF else 0x1FF) <<< 22 := by cases neg <;> rfl
  rw [hhigh, ← Nat.shiftLeft_add_eq_or_of_lt hpay, Nat.shiftLeft_eq]
  apply valIsNan_decode32
  · rw [Flt.expField, Nat.shiftRight_eq_div_pow]
    simp only [flt32]
    split <;> omega
  · rw [Flt.sigField]
    simp only [flt32]
    split <;> omega

/-- A NaN rounds to a NaN. -/
theorem valIsNan_rne32 {x : XVal} (h : xIsNan x = true) : valIsNan (decode32 (rne32 x).1) = true := by
  cases x with
  | inf | real => simp [xIsNan] at h
  | nan neg sig pay =>
    have hpay : pay.toNat >>> (51 - (flt32.p - 1)) < 2 ^ 22 := by
      simp only [flt32, Nat.shiftRight_eq_div_pow]
      omega
    simp only [rne32, convIeee, Flt.nanTo]
    split
    · rfl
    · exact valIsNan_decode32_quiet neg hpay

theorem accumulate_fp_of_nan {ps : List XVal} (h : stepSum ps = some 0x7FC00000) (r : BitVec 32 × BitVec 32) :
    accumulate 0 r ps = (0x7FC00000, 0) ∧ accumulate 2 r ps = (0x7FC00000, 0) := by
  have hsum := valIsNan_rne32 (xIsNan_xAdd_right false (valX (decode32 r.1.toNat))
    (show xIsNan (valX (decode32 0x7FC00000)) = true from rfl))
  have hfin : valIsFinite (decode32 0x7FC00000) = false := rfl
  constructor
  · simp [accumulate, h, hsum]
  · simp [accumulate, h, hsum, hfin]

/-- Settles O45: the two step sums case by case, and what each makes of the registers. -/
theorem accumulatorArithmetic : Obligations.AccumulatorArithmetic := by
  refine ⟨fun r vs hr hsum => ?_, fun r vs hsum => ?_, fun fmt r k => ?_, fun r ps hnan => ?_,
    fun ps => stepSum_of_infs, fun ps hpos hneg hnan => ?_⟩
  · have hint : intSum (Rule.exactInts vs) = some (some vs.sum) := by rw [intSum_exactInts, if_neg hsum]
    rw [accumulate_int_of_sum hint hr]
    exact ⟨toInt_ofInt_clampInt32 _, rfl⟩
  · exact accumulate_int_of_zero (by rw [intSum_exactInts, if_pos hsum]) r
  · refine accumulate_of_zero ?_ (stepSum_of_zeros ?_) fmt r
    · simp [intSum_exactInts]
    · simp [Rule.exactInts, XVal.isZero]
  · have hany : ps.any xIsNan = true := List.any_eq_true.mpr hnan
    obtain ⟨hplain, hcomp⟩ := accumulate_fp_of_nan (stepSum_of_nan hany) r
    exact ⟨hplain, hcomp, accumulate_int_of_nan (intSum_of_nan hany) r⟩
  · exact stepSum_of_posInf hpos hneg (by simpa using hnan)

end Sys2Proof.Machine

/-! SUPPORT. O11: writes of flags (06:R181, R182). -/

namespace Sys2Proof.Machine

/-! Where no register holds a mismatch nothing is held (13:R388). -/

theorem flagHeld_of_noMismatch {s : State} (h : Rule.NoMismatch s) (f : Nat) : flagHeld s f = false := by
  simp [flagHeld, parityAt, h.1]

theorem queueHeld_of_noMismatch {s : State} (h : Rule.NoMismatch s) (q : Nat) : queueHeld s q = false := by
  simp [queueHeld, h.1]

theorem flagsOpen_iff {s : State} :
    flagsOpen s = true ↔ s.ctl.state = .config ∨ s.ctl.state = .run ∨ s.ctl.state = .hold := by
  simp [flagsOpen, or_assoc]

/-- The state with a flag update in its source's order (06:R182). -/
def withUpd (s : State) (order f : Nat) (op : FlagOp) : State :=
  { s with flags := { s.flags with upds := insertUpd ⟨order, f, op⟩ s.flags.upds } }

theorem flagPost_of_open {s : State} (ho : flagsOpen s = true) (h : Rule.NoMismatch s) (order f : Nat) (op : FlagOp) :
    flagPost order f op s = withUpd s order f op := by
  have hm : endMismatch (0x200000 + 8 * f) (withUpd s order f op) = withUpd s order f op := endMismatch_of_noMismatch h
  cases op with
  | set v =>
    simp only [flagPost, ho, Bool.not_true, Bool.false_eq_true, if_false]
    exact hm
  | cas o n => simp [flagPost, ho, flagHeld_of_noMismatch h, withUpd]
  | add v => simp [flagPost, ho, flagHeld_of_noMismatch h, withUpd]

/-- A write of FLAG_n falls in the flag store (01:R35). -/
theorem regWrite_flag (src : Src) (f : Fin 4096) (v : Word) (s : State) :
    regWrite src (0x200000 + 8 * f.val) v s = flagWrite src f.val v s := by
  have hreg : (0x200000 + 8 * f.val) / 0x100000 = 2 := by omega
  have hlow : 0x200000 + 8 * f.val < 0x208000 := by omega
  have h8 : (0x200000 + 8 * f.val) % 8 = 0 := by omega
  have hf : past 0x200000 (0x200000 + 8 * f.val) / 8 = f := by unfold past; omega
  simp [regWrite, hreg, hlow, h8, hf]

/-- ADD = 0 sets (06:R181). -/
theorem flagWrite_set (src : Src) (f : Nat) (v : BitVec 32) (s : State) :
    flagWrite src f (v.setWidth 64) s = flagPost (srcOrder src) f (.set v) s := by
  have hadd : (v.setWidth 64).getLsbD 63 = false := by simp
  have hv : (v.setWidth 64).extractLsb' 0 32 = v := by ext i hi; simp [hi]; omega
  rw [flagWrite, hadd, hv]
  rfl

/-- ADD = 1 adds (06:R181). -/
theorem flagWrite_add (src : Src) (f : Nat) (v : BitVec 32) (s : State) :
    flagWrite src f (v.setWidth 64 ||| 0x8000000000000000) s = flagPost (srcOrder src) f (.add v) s := by
  have hadd : (v.setWidth 64 ||| 0x8000000000000000 : Word).getLsbD 63 = true := by simp
  have hlow : (0x8000000000000000 : Word).extractLsb' 0 32 = 0 := rfl
  have hv : (v.setWidth 64 ||| 0x8000000000000000 : Word).extractLsb' 0 32 = v := by
    rw [BitVec.extractLsb'_or, hlow]
    ext i hi
    simp [hi]
    omega
  rw [flagWrite, hadd, hv]
  rfl

/-- With no other update of the f-cycle a flag has the value that its own update gives it (06:R182). -/
theorem flagVal_withUpd {s : State} (h : s.flags.upds = []) (order : Nat) (op : FlagOp) (f g : Fin 4096) :
    flagVal (withUpd s order f op) g =
      if g = f then flagResolve s.flags.base[g] [⟨order, f, op⟩] else s.flags.base[g] := by
  by_cases e : g = f
  · simp [flagVal, withUpd, h, insertUpd, updsOf, e]
  · have hne : ¬ f.val = g.val := fun k => e (Fin.ext k.symm)
    simp [flagVal, withUpd, h, insertUpd, updsOf, e, hne, flagResolve, flagPhase1, flagPhase2]

/-- Settles O11: each write posts one update, and a flag's value is resolved from its own updates. -/
theorem flagUpdates : Obligations.FlagUpdates := by
  intro s src f v h hw hst
  have hopen := flagsOpen_iff.mpr hst
  have gives {i : Instr} {w : Word} {op : FlagOp} (he : effect i s = writeReg src (0x200000 + 8 * f.val) w s)
      (hop : flagWrite src f w s = flagPost (srcOrder src) f op s) : Rule.Gives i s (withUpd s (srcOrder src) f op) := by
    apply gives_of_effect
    rw [he]
    exact writeReg_eq_next hw (by omega) (.inl (by omega))
      ((regWrite_flag src f w s).trans (hop.trans (flagPost_of_open hopen h ..)))
  refine ⟨gives rfl (flagWrite_set ..), gives rfl (flagWrite_add ..), fun hn => ⟨flagVal_of_upds_eq_nil hn f, ?_, ?_, ?_⟩⟩
  · exact (flagVal_withUpd hn ..).trans (if_pos rfl)
  · exact (flagVal_withUpd hn ..).trans (if_pos rfl)
  · intro g hg
    exact ⟨(flagVal_withUpd hn ..).trans (if_neg hg), (flagVal_withUpd hn ..).trans (if_neg hg)⟩

end Sys2Proof.Machine

/-! SUPPORT. O10: writes of a queue's registers, doorbells, and the commands of DQ_CTRL (06:R151, R165, R178). -/

namespace Sys2Proof.Machine

section
variable (s : State) (q : Fin 32)

@[simp] theorem withQ_dq_same (d : Queue) : (Rule.withQ s q d).dq[q] = d := by simp [Rule.withQ]

@[simp] theorem withQ_withQ (d e : Queue) : Rule.withQ (Rule.withQ s q d) q e = Rule.withQ s q e := by
  simp [Rule.withQ]

theorem withQ_dq_other {p : Fin 32} (h : p ≠ q) (d : Queue) : (Rule.withQ s q d).dq[p] = s.dq[p] := by
  have hne : q.val ≠ p.val := fun e => h (Fin.ext e.symm)
  simp [Rule.withQ, hne]

@[simp] theorem queueHeld_withQ (d : Queue) (n : Nat) : queueHeld (Rule.withQ s q d) n = queueHeld s n := rfl

/-- An event of a queue's status register. -/
theorem dqEvent_fin (i : Nat) : dqEvent q.val i s = Rule.dqWithEvent s q i := by
  simp [dqEvent, Rule.dqWithEvent, Rule.withQ, sqcBit]

end

/-- A queue is quiet (06:R151). -/
theorem queueQuiet_iff (s : State) (q : Fin 32) : queueQuiet s q.val = true ↔
    (s.dq[q]).enable = false ∨ s.ctl.state = .config ∨ ((s.dq[q]).halted = true ∧ (s.dq[q]).inflight = []) := by
  simp [queueQuiet, or_assoc]

section
variable {s : State} {q : Fin 32} (v : Word)

theorem dqConfig_of_not_quiet (h : ¬ queueQuiet s q.val = true) (reg : Nat) :
    dqConfig q.val reg v s = Rule.dqWithEvent s q 4 := by
  simp [dqConfig, h, dqEvent_fin]

theorem dqConfig_of_reserved (hq : queueQuiet s q.val = true) (hv : 5 < fld v 24 4 ∨ 16 < fld v 16 5) :
    dqConfig q.val 0 v s = Rule.dqWithEvent s q 4 := by
  simp [dqConfig, hq, hv, dqEvent_fin]

variable (hq : queueQuiet s q.val = true) (hm : Rule.NoMismatch s)
include hq hm

theorem dqConfig_enable (hc : fld v 24 4 ≤ 5) (hz : fld v 16 5 ≤ 16) (he : v.getLsbD 0 = true) :
    dqConfig q.val 0 v s = Rule.withQ s q
      (let e := { s.dq[q] with
        ctx := v.extractLsb' 48 16, inst := v.extractLsb' 32 8, cls := v.extractLsb' 24 4,
        log2size := v.extractLsb' 16 5, enable := true, fetched := none, ahead := [] }
      if (s.dq[q]).enable then e
      else { e with tail := 0, head := 0, done := 0, halted := false, halting := false, inflight := [], signalled := [] }) := by
  have hv : (decide (5 < fld v 24 4) || decide (16 < fld v 16 5)) = false := by simp; omega
  simp only [dqConfig, hq, hv, he, Bool.not_true, Bool.and_false, Bool.false_eq_true, if_false, getQ_fin, modQ_fin]
  rw [endMismatch_of_noMismatch (by exact hm)]
  cases (s.dq[q]).enable <;> rfl

theorem dqConfig_disable (hc : fld v 24 4 ≤ 5) (hz : fld v 16 5 ≤ 16) (he : v.getLsbD 0 = false)
    (hi : (s.dq[q]).inflight = []) :
    dqConfig q.val 0 v s = Rule.withQ s q { s.dq[q] with
        ctx := v.extractLsb' 48 16, inst := v.extractLsb' 32 8, cls := v.extractLsb' 24 4,
        log2size := v.extractLsb' 16 5, enable := false, tail := (s.dq[q]).head, fetched := none, ahead := [],
        signalled := [] } := by
  have hv : (decide (5 < fld v 24 4) || decide (16 < fld v 16 5)) = false := by simp; omega
  simp only [dqConfig, hq, hv, he, Bool.not_true, Bool.not_false, Bool.and_true, Bool.false_and, Bool.false_eq_true,
    if_false, if_true, getQ_fin, modQ_fin, hi, stopFlights, ite_self]
  rw [endMismatch_of_noMismatch (by exact hm)]

theorem dqConfig_rbase : dqConfig q.val 1 v s = Rule.withQ s q
    { s.dq[q] with rbase := v.extractLsb' 0 48 &&& 0xFFFFFFFFF000, fetched := none, ahead := [] } := by
  simp only [dqConfig, hq, Bool.not_true, Bool.false_eq_true, if_false, modQ_fin]
  exact endMismatch_of_noMismatch hm

theorem dqConfig_cbase : dqConfig q.val 2 v s = Rule.withQ s q
    { s.dq[q] with cbase := v.extractLsb' 0 48 &&& 0xFFFFFFFFF000 } := by
  simp only [dqConfig, hq, Bool.not_true, Bool.false_eq_true, if_false, modQ_fin]
  exact endMismatch_of_noMismatch hm

end

/-! Doorbells (06:R165). -/

theorem doorbell_eq {s : State} {q : Fin 32} (ho : flagsOpen s = true) (t : BitVec 32) :
    doorbell q.val t s =
      if (s.dq[q]).enable = true ∧ Rule.ahead (s.dq[q]).tail (s.dq[q]).done ≤ Rule.ahead t (s.dq[q]).done ∧
        Rule.ahead t (s.dq[q]).done ≤ 2 ^ (s.dq[q]).log2size.toNat
      then Rule.withQ s q { s.dq[q] with tail := t } else Rule.dqWithEvent s q 3 := by
  simp only [doorbell, ho, Bool.not_true, Bool.false_eq_true, if_false, modQ_fin, dqEvent_fin, getQ_fin]
  refine if_congr ?_ rfl rfl
  simp only [Bool.and_eq_true, decide_eq_true_eq, and_assoc]
  rfl

theorem doorbell_of_closed {s : State} (q : Nat) (t : BitVec 32) (h : s.ctl.state = .service ∨ s.ctl.state = .fault) :
    doorbell q t s = s := by
  rcases h with h | h <;> simp [doorbell, flagsOpen, h]

/-! The commands of DQ_CTRL (06:R178). -/

section
variable {s : State} {q : Fin 32}

theorem flushQueue_of_halted (h : (s.dq[q]).halted = true) : flushQueue q.val s = Rule.withQ s q { s.dq[q] with
    tail := (s.dq[q]).head, fetched := none, ahead := [], signalled := [],
    halted := decide ((s.dq[q]).haltEvent ≠ dqDeadlock) } := by
  have hb : ((s.dq[q]).haltEvent != dqDeadlock) = decide ((s.dq[q]).haltEvent ≠ dqDeadlock) := by
    rw [bne, decide_not, beq_eq_decide]
  rw [flushQueue, getQ_fin, if_pos h, modQ_fin, hb]

theorem resumeQueue_of_halted (h : (s.dq[q]).halted = true) (hm : Rule.NoMismatch s) :
    resumeQueue q.val s = Rule.withQ s q { s.dq[q] with halted := false } := by
  simp only [resumeQueue, getQ_fin, h, queueHeld_of_noMismatch hm, Bool.not_false, Bool.and_self, if_true, modQ_fin]

theorem haltCommand_of_halted (h : (s.dq[q]).halted = true) : haltCommand q.val s = s := by
  rw [haltCommand, getQ_fin, h, if_pos rfl]

variable (h : (s.dq[q]).halted = false)
include h

theorem flushQueue_of_running : flushQueue q.val s = s := by
  rw [flushQueue, getQ_fin, h]
  rfl

theorem resumeQueue_of_running : resumeQueue q.val s = s := by
  rw [resumeQueue, getQ_fin, h]
  rfl

/-- HALT marks the queue, which halts at once if nothing is in flight. -/
theorem haltCommand_of_running :
    haltCommand q.val s = settleHalt q.val (Rule.withQ s q { s.dq[q] with halting := true }) := by
  rw [haltCommand, getQ_fin, h, modQ_fin]
  rfl

theorem haltCommand_of_inflight (hi : (s.dq[q]).inflight ≠ []) :
    haltCommand q.val s = Rule.withQ s q { s.dq[q] with halting := true } := by
  have hne : (s.dq[q]).inflight.isEmpty = false := by simpa using hi
  rw [haltCommand_of_running h]
  simp only [settleHalt, getQ_fin, withQ_dq_same, hne, Bool.and_false, Bool.false_eq_true, if_false]

theorem haltCommand_of_idle (hi : (s.dq[q]).inflight = []) (hm : Rule.NoMismatch s) :
    haltCommand q.val s = Rule.dqWithEvent (Rule.withQ s q { s.dq[q] with
      halted := true, halting := false, evHalt := true, haltEvent := 0, haltDetail := 0, haltIndex := (s.dq[q]).head,
      fetched := (s.dq[q]).fetched.filter (·.barrier), ahead := [] }) q 0 := by
  rw [haltCommand_of_running h]
  simp only [settleHalt, getQ_fin, withQ_dq_same, withQ_withQ, modQ_fin, hi, List.isEmpty_nil, Bool.and_self, if_true,
    queueHeld_withQ, queueHeld_of_noMismatch hm, Bool.false_eq_true, if_false, haltQueue, stopFlights, barrierHead,
    dqEvent_fin, List.map_nil, List.nil_append]

end

/-- DQ_CFG, DQ_RBASE and DQ_CBASE are the first three registers of a queue. -/
theorem dqWrite_config (q : Nat) (reg : Fin 3) (v : Word) (s : State) :
    dqWrite q (8 * reg.val) v s = dqConfig q reg.val v s := by
  match reg with
  | 0 => rfl
  | 1 => rfl
  | 2 => rfl

/-- Settles O10: each register's write by the lemma of its function, on a queue that is quiet, open, halted or running. -/
theorem queueControl : Obligations.QueueControl := by
  intro s src q v hm hw d quiet
  have gives {i : Instr} {r : Nat} {w : Word} {t : State} (hr : r < 0x1000) (he : effect i s = writeReg src (dqOff q r) w s)
      (ht : dqWrite q r w s = t) : Rule.Gives i s t := by
    apply gives_of_effect
    rw [he]
    exact writeReg_eq_next hw (by unfold dqOff; omega) (.inl (by unfold dqOff; omega))
      ((regWrite_dq src q hr w s).trans ht)
  have quiet_iff : quiet ↔ queueQuiet s q.val = true := (queueQuiet_iff s q).symm
  refine ⟨fun hq hc hz he => ?_, fun hq hc hz he hi => ?_, fun hq hv => ?_, fun hq => ?_, fun hq => ?_, fun hq reg => ?_,
    fun hst => ?_, fun hst => ?_, fun hh => ⟨?_, ?_, ?_⟩, fun hh => ⟨?_, ?_, fun hi => ?_, fun hi => ?_⟩⟩
  · exact gives (by decide) rfl (dqConfig_enable v (quiet_iff.mp hq) hm hc hz he)
  · exact gives (by decide) rfl (dqConfig_disable v (quiet_iff.mp hq) hm hc hz he hi)
  · exact gives (by decide) rfl (dqConfig_of_reserved v (quiet_iff.mp hq) hv)
  · exact gives (by decide) rfl (dqConfig_rbase v (quiet_iff.mp hq) hm)
  · exact gives (by decide) rfl (dqConfig_cbase v (quiet_iff.mp hq) hm)
  · have hn := mt quiet_iff.mpr hq
    exact gives (by omega) rfl ((dqWrite_config q.val reg v s).trans (dqConfig_of_not_quiet v hn _))
  · have ho := flagsOpen_iff.mpr hst
    exact ⟨fun ha => gives (by decide) rfl ((doorbell_eq ho _).trans (if_pos ha)),
      fun ha => gives (by decide) rfl ((doorbell_eq ho _).trans (if_neg ha))⟩
  · exact gives (by decide) rfl (doorbell_of_closed q.val _ hst)
  · exact gives (by decide) rfl (congrArg Rule.late (flushQueue_of_halted hh))
  · exact gives (by decide) rfl (congrArg Rule.late (resumeQueue_of_halted hh hm))
  · exact gives (by decide) rfl (congrArg Rule.late (haltCommand_of_halted hh))
  · exact gives (by decide) rfl (congrArg Rule.late (flushQueue_of_running hh))
  · exact gives (by decide) rfl (congrArg Rule.late (resumeQueue_of_running hh))
  · exact gives (by decide) rfl (congrArg Rule.late (haltCommand_of_inflight hh hi))
  · exact gives (by decide) rfl (congrArg Rule.late (haltCommand_of_idle hh hi hm))

end Sys2Proof.Machine

/-! SUPPORT. O17: when a head can start, and which of several an engine takes (06:R171, R172, R173). -/

namespace Sys2Proof.Machine

/-! The conditions of a start (06:R171). -/

theorem readyHead_eq_some_iff {s : State} {q : Fin 32} {f : Fetched} : readyHead s q.val = some f ↔
    (s.ctl.state = .run ∧ (s.dq[q]).enable = true ∧ (s.dq[q]).halted = false ∧ (s.dq[q]).halting = false ∧
      queueHeld s q.val = false) ∧ (s.dq[q]).fetched = some f ∧ f.event = none ∧ f.idx = (s.dq[q]).head := by
  simp only [readyHead, getQ_fin]
  cases hf : (s.dq[q]).fetched with
  | none => simp
  | some g =>
    simp only [Option.ite_none_right_eq_some, Option.some.injEq, Bool.and_eq_true, beq_iff_eq, Bool.not_eq_true',
      Option.isNone_iff_eq_none, and_assoc]
    constructor
    · rintro ⟨h1, h2, h3, h4, h5, h6, h7, rfl⟩
      exact ⟨h1, h2, h3, h4, h5, rfl, h6, h7⟩
    · rintro ⟨h1, h2, h3, h4, h5, rfl, h6, h7⟩
      exact ⟨h1, h2, h3, h4, h5, h6, h7, rfl⟩

theorem waitMet_iff {s : State} {f : Fetched} : waitMet s f = true ↔
    if dPred f.desc = true then f.tested = true
    else waitHolds s (dCmp f.desc) (dWaitFlag f.desc) (dWaitValue f.desc) = true := by
  unfold waitMet
  split <;> rfl

theorem beatMet_iff {s : State} {d : Desc} : beatMet s d = true ↔
    (dTimed d = true → dNb d ≤ s.beat.value.toNat) ∧
    (dHasDeadline d = true → s.beat.value.toNat ≤ dDeadline d) := by
  simp only [beatMet, Bool.and_eq_true, Bool.or_eq_true, Bool.not_eq_true', decide_eq_true_eq, Bool.and_eq_false_iff,
    decide_eq_false_iff_not, Nat.not_lt]
  cases dTimed d <;> cases dHasDeadline d <;> simp

theorem hazardMet_iff {s : State} {q : Fin 32} {d : Desc} : hazardMet s q.val d = true ↔
    ∀ g ∈ (s.dq[q]).inflight, hazardFree s d g.desc g.prof = true := by
  simp [hazardMet]

/-- A queue's head can start exactly under the conditions of 06:R171, arbitration aside. -/
theorem startable_eq_some_iff {s : State} {q : Fin 32} {f : Fetched} :
    startable s q.val = some f ↔ Rule.MayStart s q f := by
  simp only [startable, Option.bind_eq_some_iff, Option.ite_none_right_eq_some, Option.some.injEq, readyHead_eq_some_iff,
    Bool.and_eq_true, waitMet_iff, beatMet_iff, hazardMet_iff, getQ_fin, decide_eq_true_eq]
  constructor
  · rintro ⟨g, ⟨⟨hrun, hen, hhalt, hhalting, hheld⟩, hf, hev, hidx⟩,
      ⟨⟨⟨⟨⟨hw, hnb, hdl⟩, hbar⟩, hhaz⟩, hfew⟩, hacc⟩, rfl⟩
    exact ⟨hrun, hen, ⟨hhalt, hhalting, hheld⟩, hf, ⟨hev, hidx⟩, hw, hnb, hdl, hbar, hhaz, hfew, hacc⟩
  · intro h
    obtain ⟨hhalt, hhalting, hheld⟩ := h.goes
    exact ⟨f, ⟨⟨h.run, h.enabled, hhalt, hhalting, hheld⟩, h.fetched, h.passed.1, h.passed.2⟩,
      ⟨⟨⟨⟨⟨h.waits, h.notEarly, h.notLate⟩, h.barriers⟩, h.hazards⟩, h.fewer⟩, h.accepts⟩, rfl⟩

theorem startable_isSome_iff {s : State} {q : Fin 32} :
    (startable s q.val).isSome = true ↔ ∃ f, Rule.MayStart s q f := by
  simp [Option.isSome_iff_exists, startable_eq_some_iff]

/-! Arbitration (06:R173). -/

/-- The first queue with a property after the one taken last, cyclically, is the one that follows it at the least
distance. -/
theorem find?_after_eq_some_iff {last : Nat} {q : Fin 32} {P : Nat → Bool} :
    ((List.range 32).map fun k => (last + 1 + k) % 32).find? P = some q.val ↔
      P q.val = true ∧ ∀ p : Fin 32, P p.val = true → Rule.after last q ≤ Rule.after last p := by
  rw [List.find?_map, Option.map_eq_some_iff]
  have hafter (p : Fin 32) : ∃ k : Nat, k < 32 ∧ (k : Int) = Rule.after last p ∧ (last + 1 + k) % 32 = p.val := by
    refine ⟨(Rule.after last p).toNat, ?_⟩
    unfold Rule.after
    omega
  constructor
  · rintro ⟨k, hk, hkq⟩
    obtain ⟨hP, hmem, hmin⟩ := List.find?_range_eq_some.mp hk
    simp only [Function.comp_apply, hkq] at hP
    refine ⟨hP, fun p hp => ?_⟩
    obtain ⟨kq, hkq32, hkqa, hkqv⟩ := hafter q
    obtain ⟨kp, hkp32, hkpa, hkpv⟩ := hafter p
    have hk32 : k < 32 := List.mem_range.mp hmem
    have hle : k ≤ kp := by
      by_contra hlt
      have := hmin kp (Nat.lt_of_not_le hlt)
      simp [hkpv, hp] at this
    have : k = kq := by omega
    omega
  · rintro ⟨hP, hmin⟩
    obtain ⟨kq, hkq32, hkqa, hkqv⟩ := hafter q
    refine ⟨kq, List.find?_range_eq_some.mpr ⟨by simpa [hkqv] using hP, List.mem_range.mpr hkq32, fun j hj => ?_⟩, hkqv⟩
    let p : Fin 32 := ⟨(last + 1 + j) % 32, Nat.mod_lt _ (by decide)⟩
    by_contra hPj
    have hp : P p.val = true := by simpa using hPj
    have hle := hmin p hp
    obtain ⟨kp, hkp32, hkpa, hkpv⟩ := hafter p
    have hv : p.val = (last + 1 + j) % 32 := rfl
    omega

theorem arbitrated_iff {s : State} {q : Fin 32} {f : Fetched} (h : Rule.MayStart s q f) : arbitrated s q.val = true ↔
    ((s.dq[q]).cls.toNat, (s.dq[q]).inst.toNat) ∉ s.arb.taken ∧
    ∀ (p : Fin 32) (g : Fetched), Rule.MayStart s p g → (s.dq[p]).cls = (s.dq[q]).cls →
      (s.dq[p]).inst = (s.dq[q]).inst →
      Rule.after (lastTaken s (s.dq[q]).cls.toNat (s.dq[q]).inst.toNat) q ≤
        Rule.after (lastTaken s (s.dq[q]).cls.toNat (s.dq[q]).inst.toNat) p := by
  simp only [arbitrated, getQ_fin, Bool.and_eq_true, beq_iff_eq, find?_after_eq_some_iff, startable_isSome_iff,
    Bool.not_eq_true', List.contains_eq_mem, decide_eq_false_iff_not, BitVec.toNat_inj]
  exact and_congr_right fun _ =>
    ⟨fun hmin p g hg hc hi => hmin.2 p ⟨⟨hc, hi⟩, g, hg⟩,
      fun hmin => ⟨⟨by simp, f, h⟩, fun p hp => hmin p hp.2.choose hp.2.choose_spec hp.1.1 hp.1.2⟩⟩

theorem startHead_eq_some_iff {s : State} {q : Fin 32} {cls op : Nat} {f : Fetched} :
    startHead s q.val cls op = some f ↔
      Rule.MayStart s q f ∧ dClass f.desc = cls ∧ dOpcode f.desc = op ∧ arbitrated s q.val = true := by
  unfold startHead
  cases hs : startable s q.val with
  | none =>
    have hn : ¬ Rule.MayStart s q f := fun h => by simp [startable_eq_some_iff.mpr h] at hs
    simp [hn]
  | some g =>
    have hg := startable_eq_some_iff.mp hs
    simp only [Option.ite_none_right_eq_some, Option.some.injEq, Bool.and_eq_true, beq_iff_eq, and_assoc]
    constructor
    · rintro ⟨hc, ho, ha, rfl⟩
      exact ⟨hg, hc, ho, ha⟩
    · rintro ⟨hm, hc, ho, ha⟩
      have he : g = f := Option.some.inj (hg.fetched.symm.trans hm.fetched)
      subst he
      exact ⟨hc, ho, ha, rfl⟩

/-! Hazards (06:R172). -/

theorem rangesMeet_eq_false_iff {xs ys : List (Nat × Nat)} : rangesMeet xs ys = false ↔ Rule.Apart xs ys := by
  simp only [rangesMeet, List.any_eq_false, Bool.not_eq_true, Bool.and_eq_false_iff, decide_eq_false_iff_not, Rule.Apart]
  refine forall₂_congr fun x _ => forall₂_congr fun y _ => ⟨fun h a ha => by omega, fun h => ?_⟩
  have := h (max x.1 y.1)
  omega

theorem hazardFree_iff (s : State) (d e : Desc) (prof : BitVec 17) : hazardFree s d e prof = true ↔
    Rule.Apart (srcRanges d (profileOf s d) ++ dstRanges d (profileOf s d)) (dstRanges e prof) ∧
    Rule.Apart (dstRanges d (profileOf s d)) (srcRanges e prof) := by
  simp only [hazardFree, Bool.and_eq_true, Bool.not_eq_true', rangesMeet_eq_false_iff]

/-- Settles O17: the conditions one by one, the arbitration by the distance from the queue taken last, and the hazard
condition by ranges that share no address. -/
theorem startConditions : Obligations.StartConditions := by
  intro s q cls op f
  refine ⟨?_, hazardFree_iff s⟩
  rw [startHead_eq_some_iff]
  exact and_congr_right fun h => by rw [arbitrated_iff h]

end Sys2Proof.Machine

/-! SUPPORT. A descriptor that starts (06:R159, R171): what it leaves of the state, and of its queue. -/

namespace Sys2Proof.Machine

/-! The on-start signal (06:R159). -/

/-- Of a signal on a local flag only the next f-cycle's updates change. -/
theorem startSignal_local {d : Desc} (h : Rule.LocalSignal d) (q : Fin 32) (idx : BitVec 32) (s : State) :
    startSignal q idx (dSignal d) s = { s with flags := { s.flags with
      next := if (dSignal d).when_ = 1 then Rule.signalUpds q.val [dSignal d] s.flags.next else s.flags.next } } := by
  have hsame : s = { s with flags := { s.flags with next := s.flags.next } } := rfl
  unfold startSignal
  rcases h with h0 | ⟨h3, hnode⟩
  · simp [h0, Rule.signalUpds]
  · by_cases hw : (dSignal d).when_ = 1
    · obtain h0 | h1 | h2 : (dSignal d).op = 0 ∨ (dSignal d).op = 1 ∨ (dSignal d).op = 2 := by omega
      · simp [h0, Rule.signalUpds]
      · simp [h1, hw, hnode, Rule.signalUpds]
      · simp [h2, hw, hnode, Rule.signalUpds]
    · simp [hw]

/-! The arbiter (06:R173). -/

@[simp] theorem setTaken_dq (cls inst q : Nat) (s : State) : (setTaken cls inst q s).dq = s.dq := by
  unfold setTaken; split <;> rfl
@[simp] theorem setTaken_flags (cls inst q : Nat) (s : State) : (setTaken cls inst q s).flags = s.flags := by
  unfold setTaken; split <;> rfl
@[simp] theorem setTaken_mem (cls inst q : Nat) (s : State) : (setTaken cls inst q s).mem = s.mem := by
  unfold setTaken; split <;> rfl
@[simp] theorem setTaken_cores (cls inst q : Nat) (s : State) : (setTaken cls inst q s).cores = s.cores := by
  unfold setTaken; split <;> rfl

/-! The start. -/

/-- The queue of a head that has started as fl (06:R171). -/
def startedQueue (d : Queue) (f : Fetched) (fl : InFlight) : Queue :=
  { d with
    head := f.idx + 1, fetched := none, inflight := d.inflight ++ [fl], signalled := d.signalled.filter (· ≠ f.idx) }

/-- A start with a signal on a local flag: the arbiter's note, the queue, and the flags. -/
theorem beginFlight_eq {f : Fetched} (h : Rule.LocalSignal f.desc) (q : Fin 32) (fl : InFlight) (s : State) :
    beginFlight q.val f fl s =
      { Rule.withQ (setTaken (s.dq[q]).cls.toNat (s.dq[q]).inst.toNat q.val s) q (startedQueue s.dq[q] f fl) with
        flags := Rule.startFlags s q f } := by
  have hq : qFin q.val = q := by simp [qFin]
  unfold beginFlight
  simp only [getQ_fin, modQ_fin, hq, setTaken_dq, startSignal_local h, List.contains_eq_mem, decide_eq_true_eq]
  by_cases hs : f.idx ∈ (s.dq[q]).signalled
  · have hflags : Rule.startFlags s q f = s.flags := by simp only [Rule.startFlags, hs, true_or, if_true]
    rw [if_pos hs, hflags, ← setTaken_flags (s.dq[q]).cls.toNat (s.dq[q]).inst.toNat q.val s]
    rfl
  · have hflags : Rule.startFlags s q f = { s.flags with
        next := if (dSignal f.desc).when_ = 1 then Rule.signalUpds q.val [dSignal f.desc] s.flags.next else s.flags.next } := by
      simp only [Rule.startFlags, hs, false_or, ne_eq, ite_not]
    rw [if_neg hs, hflags]
    simp only [Rule.withQ, setTaken_flags]
    rfl

section
variable {s u : State} {q : Fin 32} {f : Fetched} {fl : InFlight}

theorem fresh_of_newFlight (h : u.dq = s.dq)
    (hx : fl.idx = f.idx ∧ fl.desc = f.desc ∧ fl.seed = (newFlight u q.val f).seed ∧ fl.w = (newFlight u q.val f).w ∧
      fl.fast = (newFlight u q.val f).fast ∧ fl.attempts = 1 ∧ fl.replayed = false ∧ fl.missed = false ∧
      fl.posted = false) : Rule.Fresh (s.dq[q]) f fl := by
  obtain ⟨hidx, hdesc, hseed, hw, hfast, hatt, hrep, hmiss, hpost⟩ := hx
  simp only [newFlight, getQ_fin, h] at hseed hw hfast
  exact ⟨⟨hidx, hdesc⟩, ⟨hseed, hw, hfast⟩, ⟨hatt, hrep, hmiss, hpost⟩⟩

/-- What has kept queues, flags and memory since s starts a descriptor as it would have started in s. -/
theorem starts_beginFlight (h : Rule.LocalSignal f.desc) (hdq : u.dq = s.dq) (hfl : u.flags = s.flags)
    (hmem : u.mem = s.mem) (hx : Rule.Fresh (s.dq[q]) f fl) : Rule.Starts s (beginFlight q.val f fl u) q f fl := by
  rw [beginFlight_eq h]
  refine ⟨hx, ?_, fun p hp => ?_, ?_, ?_⟩
  · simp only [withQ_dq_same, startedQueue, hdq]
  · have := withQ_dq_other (setTaken (u.dq[q]).cls.toNat (u.dq[q]).inst.toNat q.val u) q hp (startedQueue u.dq[q] f fl)
    simpa [hdq] using this
  · simp [Rule.startFlags, hdq, hfl]
  · simp [Rule.withQ, hmem]

/-- A descriptor that starts with an event: it has nothing to write, and has ended. -/
theorem starts_startFailed (h : Rule.LocalSignal f.desc) (hdq : u.dq = s.dq) (hfl : u.flags = s.flags)
    (hmem : u.mem = s.mem) (e : Ended) :
    ∃ x, Rule.Starts s (startFailed q.val f e u) q f x ∧ x.writes = [] ∧ x.ended = some e :=
  ⟨_, starts_beginFlight h hdq hfl hmem
    (fresh_of_newFlight hdq ⟨rfl, rfl, rfl, rfl, rfl, rfl, rfl, rfl, rfl⟩), rfl, rfl⟩

end

/-! What the arbiter notes of each class (06:R173). -/

section
variable {s : State} {q : Fin 32} {f : Fetched} (h : Rule.LocalSignal f.desc) (fl : InFlight)
include h

theorem beginFlight_arb : (beginFlight q.val f fl s).arb =
    (setTaken (s.dq[q]).cls.toNat (s.dq[q]).inst.toNat q.val s).arb := by
  rw [beginFlight_eq h]
  rfl

theorem beginFlight_cores : (beginFlight q.val f fl s).cores = s.cores := by
  rw [beginFlight_eq h]
  exact setTaken_cores ..

theorem beginFlight_opa : (beginFlight q.val f fl s).opa =
    (setTaken (s.dq[q]).cls.toNat (s.dq[q]).inst.toNat q.val s).opa := by
  rw [beginFlight_eq h]
  rfl

end

section
variable {s u : State} {q : Fin 32} {f : Fetched} (h : Rule.LocalSignal f.desc) (hdq : u.dq = s.dq) (fl : InFlight)
include h hdq

theorem beginFlight_arb_ve (harb : u.arb = s.arb) (hc : (s.dq[q]).cls = 2) : (beginFlight q.val f fl u).arb =
    { s.arb with ve := q.val, taken := (2, (s.dq[q]).inst.toNat) :: s.arb.taken } := by
  rw [beginFlight_arb h, hdq, hc, ← harb]
  rfl

theorem beginFlight_arb_move {n : Fin 4} (harb : u.arb = s.arb) (hc : (s.dq[q]).cls = 3)
    (hn : (s.dq[q]).inst.toNat = n.val) : (beginFlight q.val f fl u).arb =
      { s.arb with move := s.arb.move.set n.val q.val, taken := (3, n.val) :: s.arb.taken } := by
  rw [beginFlight_arb h, hdq, hc, hn, ← harb]
  simp [setTaken]

theorem beginFlight_arb_core {n : Fin 8} (harb : u.arb = s.arb) (hc : (s.dq[q]).cls = 5)
    (hn : (s.dq[q]).inst.toNat = n.val) : (beginFlight q.val f fl u).arb =
      { s.arb with cc := s.arb.cc.set n.val q.val, taken := (5, n.val) :: s.arb.taken } := by
  rw [beginFlight_arb h, hdq, hc, hn, ← harb]
  simp [setTaken]

/-- Of the array a start notes the queue at its partition. -/
theorem beginFlight_opa_array {n : Fin 16} (hc : (s.dq[q]).cls = 1) (hn : (s.dq[q]).inst.toNat = n.val) :
    (beginFlight q.val f fl u).opa = (Rule.withInst u n { u.opa.inst[n] with lastQ := q.val }).opa := by
  rw [beginFlight_opa h, hdq, hc, hn]
  simp [setTaken, modInst, Rule.withInst]

end

/-! Translating and reading what a descriptor names changes no more than reads do. -/

theorem kept_loadList (q : Nat) (idx : BitVec 32) (ctx : BitVec 16) (part : Nat) (o : Operand) (n : Nat) (s : State) :
    Kept s (loadList q idx ctx part o n s).2 := by
  have k := kept_loadPart q idx ctx part [(o.listBase, 4 * n)] [] s
  unfold loadList
  split
  · exact .refl s
  · split <;> rename_i h <;> rw [h] at k <;> exact k

theorem kept_loadSrc (q : Nat) (idx : BitVec 32) (ctx : BitVec 16) (src : VeSrc) (m : PageMap) (s : State) :
    Kept s (loadSrc q idx ctx src m s).2 := by
  cases src with
  | raw part ps => exact kept_loadPart ..
  | unlessZero part ps => exact kept_loadPart ..
  | use part o list r =>
    have k := kept_loadPart q idx ctx (part + 6) (o.scalePieces list r) m s
    simp only [loadSrc]
    split
    next h => rw [h] at k; exact k.trans (kept_loadPart ..)
    next => exact k

theorem kept_loadSrcs (q : Nat) (idx : BitVec 32) (ctx : BitVec 16) (xs : List VeSrc) (m : PageMap) (s : State) :
    Kept s (loadSrcs q idx ctx xs m s).2 := by
  induction xs generalizing m s with
  | nil => exact .refl s
  | cons x xs ih =>
    have k := kept_loadSrc q idx ctx x m s
    unfold loadSrcs
    split
    next h => rw [h] at k; exact k.trans (ih ..)
    next => exact k

end Sys2Proof.Machine

/-! SUPPORT. O18, O20, O25: descriptors of the vector, MOVE and mailbox engines start (07:R200, R207, R220, R227). -/

namespace Sys2Proof.Machine

/-! What a start reads and translates (12:R350). -/

theorem kept_vePrepare (q : Nat) (idx : BitVec 32) (ctx : BitVec 16) (d : Desc) (s : State) :
    Kept s (vePrepare q idx ctx d s).2 := by
  have kl := kept_loadList q idx ctx 4 (dA d) ((dC d).rows * wsumE d) s
  unfold vePrepare
  generalize hx : (if dOpcode d == 0x31 then loadList q idx ctx 4 (dA d) ((dC d).rows * wsumE d) s
    else (EngRes.ok [], s)) = x
  have k1 : Kept s x.2 := by
    subst hx
    split
    · exact kl
    · exact .refl s
  obtain ⟨_ | _ | _, s1⟩ := x
  · rename_i list
    have k2 := k1.trans (kept_loadSrcs q idx ctx (veSources d list) [] s1)
    dsimp only
    split <;> rename_i h2 <;> rw [h2] at k2
    · exact k2
    · exact k2
    · have k3 := k2.trans (kept_xlatReqs ctx (veDests d) ‹_› ‹_›)
      split <;> rename_i h3 <;> rw [h3] at k3 <;> exact k3
  · exact k1
  · exact k1

theorem kept_movePrepare (q : Nat) (idx : BitVec 32) (ctx : BitVec 16) (d : Desc) (s : State) :
    Kept s (movePrepare q idx ctx d s).2 := by
  have klist (part : Nat) (o : Operand) (t : State) (k : Kept s t) :
      Kept s (if dOpcode d == 1 then loadList q idx ctx part o o.rows t else (EngRes.ok [], t)).2 := by
    split
    · exact k.trans (kept_loadList ..)
    · exact k
  unfold movePrepare
  extract_lets a c
  have k1 := klist 4 a s (.refl s)
  split <;> rename_i h1 <;> rw [h1] at k1
  · exact k1
  · exact k1
  · have k2 := klist 6 c _ k1
    split <;> rename_i h2 <;> rw [h2] at k2
    · exact k2
    · exact k2
    · extract_lets srcs dsts
      have k3 := k2.trans (kept_loadSrcs q idx ctx srcs [] _)
      split <;> rename_i h3 <;> rw [h3] at k3
      · exact k3
      · exact k3
      · have k4 := k3.trans (kept_xlatReqs ctx dsts ‹_› _)
        split <;> rename_i h4 <;> rw [h4] at k4 <;> exact k4

/-- A start of an engine that computes is counted: a raw bit of the next (log 7). -/
def countStart (s : State) : State := { s with ctl := { s.ctl with free := s.ctl.free + 1 } }

/-! VE (07:R200, R207, R217). -/

/-- Each VE command starts the head of its opcode. -/
theorem effect_veCommand {q : Fin 32} {op : Nat} {i : Instr} (h : Rule.VeCommand q op i) (s : State) :
    effect i s = .next (settle s (startVe q.val op s)) := by
  cases h <;> rfl

section
variable {s u : State} {q : Fin 32} {op : Nat} {f : Fetched}

theorem startVe_of_none (h : startHead s q.val 2 op = none) : startVe q.val op s = s := by
  simp [startVe, h]

theorem veTable_ok_iff (d : Desc) : ((veTable s d).all fun t => tableOk t.2) = true ↔
    ∀ t, veTable s d = some t → tableOk t.2 = true := by
  cases veTable s d <;> simp

variable (h : startHead s q.val 2 op = some f)
include h

theorem startVe_of_absent (hv : veInService s = 0) :
    startVe q.val op s = startFailed q.val f (endWith dqEngineAbsent) s := by
  simp [startVe, h, hv]

theorem startVe_of_badTable (hv : veInService s ≠ 0) (ht : ∃ t, veTable s f.desc = some t ∧ tableOk t.2 = false) :
    startVe q.val op s = startFailed q.val f (endWith dqOperand) s := by
  obtain ⟨t, ht, hbad⟩ := ht
  have hb : (veInService s == 0) = false := beq_eq_false_iff_ne.mpr hv
  simp only [startVe, h, hb, ht, Option.all_some, hbad, Bool.not_false, Bool.false_eq_true, if_false, if_true]

/-- With a slice and a good table what the preparation answers decides. -/
theorem startVe_of_ready (hv : veInService s ≠ 0) (ht : ∀ t, veTable s f.desc = some t → tableOk t.2 = true) :
    startVe q.val op s = match vePrepare q.val f.idx (s.dq[q]).ctx f.desc s with
      | (.wait, _) => s
      | (.fail e, u) => startFailed q.val f e u
      | (.ok (m, list), u) =>
        beginFlight q.val f (veFlight u q.val f m list) (countStart u) := by
  have hb : (veInService s == 0) = false := beq_eq_false_iff_ne.mpr hv
  simp only [startVe, h, hb, veTable_ok_iff f.desc |>.mpr ht, Bool.not_true, Bool.false_eq_true, if_false, getQ_fin]
  rfl

end

theorem vectorStarts : Rule.VectorStarts := by
  intro s u q op i f m list hi hs hc hl hv ht hp o
  have k : Kept s u := by have := kept_vePrepare q.val f.idx (s.dq[q]).ctx f.desc s; rwa [hp] at this
  refine ends_of_next (effect_veCommand hi s) ?_
  rw [startVe_of_ready hs hv ht, hp]
  dsimp only
  have hreader : vaReader u m = fun va => Memory.get s.mem (mapVa m va) := by rw [← k.mem]; rfl
  have ho : veCompute (veCfg u q.val f.desc) f.desc list u.ctl.free m (vaReader u m) = o := by rw [hreader]
  refine ⟨veFlight u q.val f m list, starts_beginFlight hl k.dq k.flags k.mem
    (fresh_of_newFlight k.dq ⟨rfl, rfl, rfl, rfl, rfl, rfl, rfl, rfl, rfl⟩),
    beginFlight_arb_ve (u := countStart u) hl k.dq _ k.arb hc, ?_, ?_, ?_, ?_, ?_, rfl⟩
  · rw [← ho]; rfl
  · rw [← ho]; rfl
  · rw [← ho]; rfl
  · show veTable u f.desc = _
    simp only [veTable, k.opa]
  · rw [← ho]; rfl

theorem vectorStartsFail : Rule.VectorStartsFail := by
  intro s u q op i f hi hc
  have fails {v : State} {e : Ended} (hl : Rule.LocalSignal f.desc) (k : Kept s v)
      (hst : startVe q.val op s = startFailed q.val f e v) : Rule.Ends i s fun t =>
        ∃ x, Rule.Starts s t q f x ∧ t.arb = { s.arb with ve := q.val, taken := (2, (s.dq[q]).inst.toNat) :: s.arb.taken } ∧
          x.writes = [] ∧ x.ended = some e := by
    obtain ⟨x, hx, hw, he⟩ := starts_startFailed hl k.dq k.flags k.mem e
    refine ends_of_next (effect_veCommand hi s) ?_
    rw [hst]
    exact ⟨x, hx, beginFlight_arb_ve hl k.dq _ k.arb hc, hw, he⟩
  refine ⟨fun hs => gives_of_next (effect_veCommand hi s) (startVe_of_none hs), fun hs hl => ?_⟩
  intro endsWith
  refine ⟨fun hv => fails hl (.refl s) (startVe_of_absent hs hv),
    fun hv ht => fails hl (.refl s) (startVe_of_badTable hs hv ht), fun hv ht => ⟨fun e hp => ?_, fun hp => ?_⟩⟩
  · have k : Kept s u := by have := kept_vePrepare q.val f.idx (s.dq[q]).ctx f.desc s; rwa [hp] at this
    exact fails hl k (by rw [startVe_of_ready hs hv ht, hp])
  · exact gives_of_next (effect_veCommand hi s) (by rw [startVe_of_ready hs hv ht, hp])

/-- Settles O18: what the preparation of the head answers decides how it starts, and what it computes comes from memory as
it is at the start. -/
theorem vectorCommands : Obligations.VectorCommands := ⟨vectorStarts, vectorStartsFail⟩

/-! MOVE (07:R220, R222). -/

/-- Each MOVE command starts the head of its opcode. -/
theorem effect_moveCommand {q : Fin 32} {op : Nat} {i : Instr} (h : Rule.MoveCommand q op i) (s : State) :
    effect i s = .next (settle s (startMove q.val op s)) := by
  cases h <;> rfl

/-- A MOVE descriptor in flight with the cells that it has computed. -/
def moveFlight (s : State) (q : Nat) (f : Fetched) (m : PageMap) (l : MoveLists) : InFlight :=
  let cs := moveCells f.desc l s.ctl.free m (vaReader s m)
  { newFlight s q f with writes := Rule.placed m cs.1, count := cs.2 }

theorem startMove_of_head {s : State} {q : Fin 32} {op : Nat} {f : Fetched} (h : startHead s q.val 3 op = some f) :
    startMove q.val op s = match movePrepare q.val f.idx (s.dq[q]).ctx f.desc s with
      | (.wait, _) => s
      | (.fail e, u) => startFailed q.val f e u
      | (.ok (m, l), u) =>
        beginFlight q.val f (moveFlight u q.val f m l) (countStart u) := by
  simp only [startMove, h, getQ_fin]
  rfl

/-- Settles O20: what the preparation of the head answers decides how it starts. -/
theorem moveStarts : Obligations.MoveStarts := by
  intro s u q n op i f hi hc hn
  have keeps {r : EngRes (PageMap × MoveLists)} (hp : movePrepare q.val f.idx (s.dq[q]).ctx f.desc s = (r, u)) :
      Kept s u := by
    have := kept_movePrepare q.val f.idx (s.dq[q]).ctx f.desc s
    rwa [hp] at this
  refine ⟨fun hs => gives_of_next (effect_moveCommand hi s) (by simp [startMove, hs]), fun hs hl =>
    ⟨fun m l hp => ?_, fun e hp => ?_, fun hp => ?_⟩⟩
  · intro cs
    have k := keeps hp
    have hreader : vaReader u m = fun va => Memory.get s.mem (mapVa m va) := by rw [← k.mem]; rfl
    have hcs : moveCells f.desc l u.ctl.free m (vaReader u m) = cs := by rw [hreader]
    refine ends_of_next (effect_moveCommand hi s) ?_
    rw [startMove_of_head hs, hp]
    refine ⟨moveFlight u q.val f m l, starts_beginFlight hl k.dq k.flags k.mem
      (fresh_of_newFlight k.dq ⟨rfl, rfl, rfl, rfl, rfl, rfl, rfl, rfl, rfl⟩),
      beginFlight_arb_move (u := countStart u) hl k.dq _ k.arb hc hn, ?_, ?_, rfl, rfl⟩
    · rw [← hcs]; rfl
    · rw [← hcs]; rfl
  · have k := keeps hp
    refine ends_of_next (effect_moveCommand hi s) ?_
    rw [startMove_of_head hs, hp]
    exact starts_startFailed hl k.dq k.flags k.mem e
  · exact gives_of_next (effect_moveCommand hi s) (by rw [startMove_of_head hs, hp])

/-! CCM_POST (07:R227, R228). -/

/-- The first free entry of a mailbox. -/
theorem freeEntry_eq_some {c : Core} (h : (freeEntry c).isSome = true) : ∃ m : Fin 16, freeEntry c = some m.val ∧
    (c.mbx[m]).valid = false ∧ ∀ k : Fin 16, k < m → (c.mbx[k]).valid = true := by
  obtain ⟨m, hm⟩ := Option.isSome_iff_exists.mp h
  obtain ⟨hfree, hmem, hfirst⟩ := List.find?_range_eq_some.mp hm
  refine ⟨⟨m, List.mem_range.mp hmem⟩, hm, ?_, fun k hk => ?_⟩
  · simpa [vget_of_lt _ _ _ (List.mem_range.mp hmem)] using hfree
  · simpa using hfirst k.val hk

/-- The fields of the operand section are bits of the descriptor (06:R161). -/
theorem ofNat_osf (d : Desc) (lo n : Nat) : BitVec.ofNat n (osf d lo n) = d.extractLsb' (896 + lo) n := by
  apply BitVec.eq_of_toNat_eq
  simp [osf, fld]

theorem ccmTask_eq (d : Desc) : ccmTask d = d.extractLsb' 896 8 := ofNat_osf d 0 8

theorem ccmArg_eq (d : Desc) : ccmArg d = d.extractLsb' (896 + 64) 64 := ofNat_osf d 64 64

section
variable {s : State} {q : Fin 32} {n : Fin 8} {f : Fetched} (h : startHead s q.val 5 1 = some f)
  (hi : dInstance f.desc = n.val)
include h hi

theorem postMailbox_of_absent (ha : (ccInService s).getLsbD n.val = false ∨ (s.cores[n]).halted = true) :
    postMailbox q s = startFailed q.val f (endWith dqEngineAbsent) s := by
  have ha : (!(ccInService s).getLsbD n.val || (s.cores[n.val]).halted) = true := by simpa using ha
  simp only [postMailbox, h, hi, getCore_fin, ha, if_true]

/-- Of a post to a core in service the state of its task decides. -/
theorem postMailbox_of_present (ha : ¬ ((ccInService s).getLsbD n.val = false ∨ (s.cores[n]).halted = true)) :
    postMailbox q s =
      if ((s.cores[n]).tasks[(ccmTask f.desc).toNat]).st = .invalid then startFailed q.val f (endWith dqState) s
      else match freeEntry s.cores[n] with
        | none => s
        | some m => modCore n (postEntry q f m) (beginFlight q.val f { newFlight s q.val f with entry := some m } s) := by
  have ha : (!(ccInService s).getLsbD n.val || (s.cores[n.val]).halted) = false := by simpa using ha
  have ht : getTask s.cores[n.val] (ccmTask f.desc) = (s.cores[n]).tasks[(ccmTask f.desc).toNat] :=
    vget_of_lt _ _ _ (ccmTask f.desc).isLt
  simp only [postMailbox, h, hi, getCore_fin, ha, ht, Bool.false_eq_true, if_false, beq_iff_eq]
  rfl

/-- A head that can start finds a free entry (06:R171; 07:R227). -/
theorem freeEntry_of_startHead : ∃ m : Fin 16, freeEntry s.cores[n] = some m.val ∧
    ((s.cores[n]).mbx[m]).valid = false ∧ ∀ k : Fin 16, k < m → ((s.cores[n]).mbx[k]).valid = true := by
  obtain ⟨hmay, hclass, -, -⟩ := startHead_eq_some_iff.mp h
  have hacc := hmay.accepts
  simp only [engineAccepts, hclass, hi, getCore_fin] at hacc
  exact freeEntry_eq_some hacc

end

theorem postEntry_eq (q : Fin 32) (f : Fetched) (m : Fin 16) (c : Core) : postEntry q f m c = { c with
    mbx := c.mbx.set m.val ⟨true, q, ccmTask f.desc, f.idx, BitVec.ofNat 32 (dTag f.desc), ccmArg f.desc⟩,
    tasks := c.tasks.set (ccmTask f.desc).toNat (causeTask 2 c.tasks[(ccmTask f.desc).toNat]) } := by
  simp [postEntry, modTask, vmod_of_lt _ _ _ (ccmTask f.desc).isLt]

/-- A post that starts has its entry put and its task caused, and waits. -/
theorem ends_posted {s : State} {q : Fin 32} {n : Fin 8} {f : Fetched} (hl : Rule.LocalSignal f.desc)
    (hc : (s.dq[q]).cls = 5) (hn : (s.dq[q]).inst.toNat = n.val) (m : Fin 16)
    (hst : postMailbox q s =
      modCore n (postEntry q f m) (beginFlight q.val f { newFlight s q.val f with entry := some m.val } s)) :
    Rule.Ends (.ccmPost q) s fun t => ∃ x, Rule.Starts s t q f x ∧ x.entry = some m.val ∧ x.ended = none ∧
      t.arb = { s.arb with cc := s.arb.cc.set n.val q.val, taken := (5, n.val) :: s.arb.taken } ∧
      t.cores = s.cores.set n.val (postEntry q f m s.cores[n]) := by
  refine ends_of_next rfl ?_
  rw [hst, modCore_fin, beginFlight_cores hl]
  have hx : Rule.Starts s _ q f { newFlight s q.val f with entry := some m.val } :=
    starts_beginFlight (s := s) (u := s) hl rfl rfl rfl
      (fresh_of_newFlight rfl ⟨rfl, rfl, rfl, rfl, rfl, rfl, rfl, rfl, rfl⟩)
  exact ⟨_, ⟨hx.fresh, hx.queue, hx.others, hx.flags, hx.memory⟩, rfl, rfl, beginFlight_arb_core hl rfl _ rfl hc hn, rfl⟩

/-- Settles O25: the engine's acceptance of the head gives the free entry. -/
theorem mailboxPosts : Obligations.MailboxPosts := by
  intro s q n f hs hc hn hi hl c task absent
  have htask : ccmTask f.desc = task := ccmTask_eq f.desc
  have fails {e : Ended} (hst : postMailbox q s = startFailed q.val f e s) : Rule.Ends (.ccmPost q) s fun t =>
      ∃ x, Rule.Starts s t q f x ∧ x.ended = some e ∧ t.cores = s.cores := by
    obtain ⟨x, hx, -, he⟩ := starts_startFailed (q := q) hl rfl rfl rfl e
    refine ends_of_next rfl ?_
    rw [hst]
    exact ⟨x, hx, he, beginFlight_cores hl _⟩
  refine ⟨fun ha => fails (postMailbox_of_absent hs hi ha), fun ha hinv => fails ?_, fun ha hinv => ?_⟩
  · rw [postMailbox_of_present hs hi ha]
    simp only [htask]
    exact if_pos hinv
  · obtain ⟨m, hm, hfree, hfirst⟩ := freeEntry_of_startHead hs hi
    have hst := postMailbox_of_present hs hi ha
    simp only [htask, hm] at hst
    obtain ⟨t, hg, x, hx, he, hend, harb, hcores⟩ := ends_posted hl hc hn m (hst.trans (if_neg hinv))
    refine ⟨t, hg, x, m, hx, he, hend, hfree, hfirst, harb, hcores.trans ?_⟩
    rw [postEntry_eq, ccmArg_eq]
    simp only [htask]
    rfl

end Sys2Proof.Machine

/-! SUPPORT. O13, O14: a completion ring that is not aligned to its records. DQ_CBASE is a multiple of 4096 (06:R150), but
the statements are about every state, and of the slot they ask only that the address of its first byte be memory. -/

namespace Sys2Proof.Machine

/-- The state in which a command ends. -/
def stateOf (o : Host.Outcome State Fault Refusal) : State :=
  match o with
  | .next t => t
  | _ => State.reset

theorem answered_of_asks {i : Instr} {s : State} (h : (stateOf (effect i s)).memp.asks = []) : Rule.Answered i s :=
  .inr fun t ht => by rwa [ht] at h

/-- What holds of the state in which a command ends holds of one with the memory that its execution leaves. -/
theorem mem_of_ends {i : Instr} {s : State} {P : State → Prop} (ha : Rule.Answered i s) (hl : (livesIn i).now s = true)
    (hf : Rule.finds i s = s) (h : Rule.Ends i s P) : ∃ t, P t ∧ t.mem = (stateOf (exec i s)).mem := by
  obtain ⟨t, hg, ht⟩ := h
  refine ⟨t, ht, ?_⟩
  rw [hg ha s hl hf]
  unfold Rule.leaves
  split <;> rfl

/-- A queue whose completion ring begins 16 bytes before the end of a page, with index 1 as its next record. -/
def edgeQueue : Queue :=
  { Queue.reset with cls := 1, log2size := 4, enable := true, cbase := 0xFD0, tail := 2, head := 1 }

/-- The last page of external memory, which an engine may write. -/
def edgePage : TlbEntry := ⟨0, 0, 3, 0xA000000000 - 4096, 0x5E3⟩

/-- The block in RUN, with queue 0 as given. -/
def edgeState (d : Queue) : State :=
  { State.reset with
    ctl := { Ctl.reset with phase := .none, state := .run, place := 3 },
    dq := State.reset.dq.set 0 d, xlat := { Xlat.reset with tlb := [edgePage] } }

/-- Where the record of index 1 begins: 16 bytes before the end of external memory (15:R421). -/
def edgeSlot : Nat := 0xA000000000 - 16

theorem slotOpen_of_ext {s : State} {d : Queue} {idx : BitVec 32} {pa : Nat} {attr : BitVec 3}
    (h : (xlatEngine d.ctx (d.cbase.toNat + idx.toNat % 2 ^ d.log2size.toNat * 32) .engWrite s).1 = .ok pa attr)
    (hr : region s pa = .ext) :
    Rule.SlotOpen s (xlatEngine d.ctx (d.cbase.toNat + idx.toNat % 2 ^ d.log2size.toNat * 32) .engWrite s).2 d idx pa
      attr := ⟨Prod.ext h rfl, .inl hr⟩

/-- No record is stored whose byte 18, beyond the end of memory, is not as the memory left reads there. -/
theorem not_stored_of_byte {s t : State} {pa : Nat} {bs : List Byte} (hn : 18 < bs.length)
    (h : Memory.get t.mem (pa + 18) ≠ bs.getD 18 0) : ¬ Rule.Stored s t pa bs := fun hs =>
  h ((hs (pa + 18)).trans (by simp [hn]))

/-- A descriptor of an engine that has ended without an event. -/
def edgeFlight : InFlight :=
  { newFlight State.reset 0 ⟨1, 0x100, none, false, false⟩ with ended := some endOk }

def edgeFlying : State := edgeState { edgeQueue with head := 2, inflight := [edgeFlight] }

/-- Refutes O13: of a record that runs over the end of memory the bytes beyond it, with OPND = 0xFF, are not written. -/
theorem not_oldestCompletes : ¬ Obligations.OldestCompletes := by
  intro h
  obtain ⟨hok, -, -⟩ := h edgeFlying 0 edgeFlight [] endOk edgeSlot 0 rfl rfl (.inl rfl) rfl (by simp) rfl (by decide)
    ⟨rfl, rfl, rfl⟩
  obtain ⟨t, ⟨hstored, -⟩, ht⟩ := mem_of_ends (answered_of_asks (by decide +kernel)) (by decide +kernel) rfl
    (hok (by decide +kernel) rfl rfl (.inl (by decide +kernel)) (by decide +kernel) _
      (slotOpen_of_ext (by decide +kernel) (by decide +kernel)))
  refine not_stored_of_byte (by decide +kernel) ?_ hstored
  rw [ht]
  decide +kernel

/-- A head that failed its checks at the fetch. -/
def edgeHead : Fetched := ⟨1, 0x100, some ⟨dqOpcode, 0, 0xFF, 0, false⟩, false, false⟩

def edgeFetched : State := edgeState { edgeQueue with fetched := some edgeHead }

/-- Refutes O14: the record of a fetch-time event is written, as every record, only where memory is. -/
theorem not_queueHeads : ¬ Obligations.QueueHeads := by
  rintro ⟨-, h⟩
  obtain ⟨t, ⟨hstored, -⟩, ht⟩ := mem_of_ends (answered_of_asks (by decide +kernel)) (by decide +kernel) rfl
    (h edgeFetched _ 0 edgeHead _ edgeSlot 0 rfl rfl (by decide) rfl rfl rfl (.inl rfl) ⟨rfl, rfl, rfl⟩
      (slotOpen_of_ext (by decide +kernel) (by decide +kernel)))
  refine not_stored_of_byte (by decide +kernel) ?_ hstored
  rw [ht]
  decide +kernel

end Sys2Proof.Machine

/-! SUPPORT. O16: deadline misses and the declared deadlock (06:R186, R188, R189). -/

namespace Sys2Proof.Machine

/-! A deadline miss (06:R186). -/

theorem isLate_iff {s : State} {d : Desc} :
    isLate s d = true ↔ dHasDeadline d = true ∧ dDeadline d < s.beat.value.toNat := by
  simp [isLate]

/-- The miss is counted and its record waits. -/
def missNoted (q : Fin 32) (idx : BitVec 32) (d : Desc) (s : State) : State :=
  { s with
    beat := { s.beat with misses := s.beat.misses + 1 },
    flt := (descRecord q.val ⟨idx, d, endOk, 0, false, false, false, false⟩ dqDeadline (endWith dqDeadline) s).flt }

/-- A queue with DEADLINE set in its status. -/
def missQueue (now : Word) (d : Queue) : Queue := { d with status := d.status.event now (sqcBit 2) }

section
variable (q : Fin 32) (s : State)

theorem detectMiss_eq (idx : BitVec 32) (d : Desc) : detectMiss q.val idx d s =
    Rule.withQ (missNoted q idx d s) q (missQueue s.ctl.fcycles s.dq[q]) := by
  unfold detectMiss
  rw [dqEvent_fin]
  rfl

theorem missFlight_eq (f : InFlight) : missFlight q.val f s = Rule.withQ (missNoted q f.idx f.desc s) q
    { missQueue s.ctl.fcycles s.dq[q] with
      inflight := (s.dq[q]).inflight.map fun g => if g.idx == f.idx then { g with missed := true } else g } := by
  rw [missFlight, detectMiss_eq, modFlight, modQ_fin, withQ_withQ, withQ_dq_same]
  rfl

theorem setFetched_detectMiss (idx : BitVec 32) (d : Desc) (f : Fetched) :
    setFetched q.val f (detectMiss q.val idx d s) =
      Rule.withQ (missNoted q idx d s) q { missQueue s.ctl.fcycles s.dq[q] with fetched := some f } := by
  rw [setFetched, detectMiss_eq, modQ_fin, withQ_withQ, withQ_dq_same]

/-- What is seen of a noted miss, whatever else its queue comes to. -/
theorem missNoted_detected (idx : BitVec 32) (d : Desc) (e : Queue)
    (he : e.status = (missQueue s.ctl.fcycles s.dq[q]).status) :
    let t := Rule.withQ (missNoted q idx d s) q e
    t.beat = { s.beat with misses := s.beat.misses + 1 } ∧ (t.dq[q]).status.status.getLsbD 2 = true ∧
      t.flt = { s.flt with detected := t.flt.detected } ∧ t.flt.detected.length = s.flt.detected.length + 1 := by
  refine ⟨rfl, ?_, rfl, insertDetected_length ..⟩
  rw [withQ_dq_same, he, missQueue, Sqc.event_status]
  simp [sqcBit]

end

theorem deadlineMiss_of_flight {s : State} {q : Fin 32} {f : InFlight} {index : BitVec 32} (hf : f ∈ (s.dq[q]).inflight)
    (hi : f.idx = index) (hu : ∀ g ∈ (s.dq[q]).inflight, g.idx = index → g = f) (hr : running s = true)
    (hl : isLate s f.desc = true) (hm : f.missed = false) : deadlineMiss q.val index s = missFlight q.val f s := by
  have hfind : (s.dq[q]).inflight.find? (fun g => g.idx == index) = some f := by
    have hsome : ((s.dq[q]).inflight.find? fun g => g.idx == index).isSome = true := by
      rw [List.find?_isSome]
      exact ⟨f, hf, by simp [hi]⟩
    obtain ⟨g, hg⟩ := Option.isSome_iff_exists.mp hsome
    rw [hg, hu g (List.mem_of_find?_eq_some hg) (by simpa using List.find?_some hg)]
  simp only [deadlineMiss, getQ_fin, hfind, hr, hl, hm, Bool.not_false, Bool.and_self, if_true]

theorem deadlineMiss_of_fetched {s : State} {q : Fin 32} {f : Fetched} {index : BitVec 32}
    (hn : ∀ g ∈ (s.dq[q]).inflight, g.idx ≠ index) (hf : (s.dq[q]).fetched = some f) (hi : f.idx = index)
    (he : f.event = none) (hl : isLate s f.desc = true) (hr : s.ctl.state = .run) :
    deadlineMiss q.val index s = setFetched q.val
      { f with event := some (endWith dqDeadline 0xFF (dDeadline f.desc)) } (detectMiss q.val index f.desc s) := by
  have hfind : (s.dq[q]).inflight.find? (fun g => g.idx == index) = none := by simpa using hn
  have hc : (s.ctl.state == .run && f.idx == index && f.event.isNone && isLate s f.desc) = true := by
    simp [hr, hi, he, hl]
  simp only [deadlineMiss, getQ_fin, hfind, hf]
  exact if_pos hc

theorem deadlineMisses : Rule.DeadlineMisses := by
  intro s q index d late detected
  refine ⟨fun f hf hi hu hl hm hst => ends_of_next rfl ?_, fun f hn hf hi he hl hst => ends_of_next rfl ?_⟩
  · have hr : running s = true := by rcases hst with h | h <;> simp [running, h]
    rw [deadlineMiss_of_flight hf hi hu hr (isLate_iff.mpr hl) hm, missFlight_eq]
    obtain ⟨hbeat, hbit, hflt, hlen⟩ := missNoted_detected q s f.idx f.desc { missQueue s.ctl.fcycles s.dq[q] with
      inflight := (s.dq[q]).inflight.map fun g => if g.idx == f.idx then { g with missed := true } else g } rfl
    refine ⟨⟨hbeat, hbit, hflt, hlen, ?_, ?_, ?_, rfl, rfl⟩, ?_, ?_⟩ <;> rw [withQ_dq_same]
    · rfl
    · rfl
    · rfl
    · rfl
    · simp only [hi, beq_iff_eq]
      rfl
  · rw [deadlineMiss_of_fetched hn hf hi he (isLate_iff.mpr hl) hst, setFetched_detectMiss]
    obtain ⟨hbeat, hbit, hflt, hlen⟩ := missNoted_detected q s index f.desc { missQueue s.ctl.fcycles s.dq[q] with
      fetched := some { f with event := some (endWith dqDeadline 0xFF (dDeadline f.desc)) } } rfl
    refine ⟨⟨hbeat, hbit, hflt, hlen, ?_, ?_, ?_, rfl, rfl⟩, ?_, ?_⟩ <;> rw [withQ_dq_same] <;> rfl

/-! The declared deadlock (06:R188, R189). -/

/-- A queue of a wait cycle waits for flag f: it halts with DQ_DEADLOCK. -/
def deadQueue (now : Word) (d : Queue) (f : Nat) : Queue :=
  { d with
    halted := true, halting := false, evHalt := true, haltEvent := dqDeadlock, haltDetail := BitVec.ofNat 16 f,
    haltIndex := d.head, inflight := [], fetched := d.fetched.filter (·.barrier), ahead := [],
    status := (d.status.event now (sqcBit 0)).event now (sqcBit 5) }

/-- What a declaration does to one queue of a wait cycle and its flag. -/
def declareQueue (s : State) (b : Nat × Nat) : State :=
  dqEvent b.1 5 (haltQueue b.1 dqDeadlock (BitVec.ofNat 16 b.2) (getQ s b.1).head s)

theorem declareQueue_eq {s : State} {q : Fin 32} (h : (s.dq[q]).inflight = []) (f : Nat) :
    declareQueue s (q.val, f) = Rule.withQ s q (deadQueue s.ctl.fcycles s.dq[q] f) := by
  simp only [declareQueue, haltQueue, getQ_fin, h, stopFlights, barrierHead, List.isEmpty_nil, if_true, modQ_fin,
    dqEvent_fin, Rule.dqWithEvent, withQ_dq_same, withQ_withQ, List.map_nil, List.nil_append]
  rfl

/-- Of distinct queues with nothing in flight each halts, and no other changes. -/
theorem foldl_declareQueue (l : List (Nat × Nat)) (s : State) (hd : (l.map (·.1)).Nodup)
    (hl : ∀ b ∈ l, ∃ q : Fin 32, q.val = b.1 ∧ (s.dq[q]).inflight = []) :
    l.foldl declareQueue s = { s with dq := (l.foldl declareQueue s).dq } ∧
    ∀ q : Fin 32, (∀ f, (q.val, f) ∈ l → (l.foldl declareQueue s).dq[q] = deadQueue s.ctl.fcycles s.dq[q] f) ∧
      ((∀ f, (q.val, f) ∉ l) → (l.foldl declareQueue s).dq[q] = s.dq[q]) := by
  induction l generalizing s with
  | nil => exact ⟨rfl, fun q => ⟨by simp, fun _ => rfl⟩⟩
  | cons b l ih =>
    obtain ⟨p, g⟩ := b
    obtain ⟨p, rfl, hp⟩ := hl _ List.mem_cons_self
    obtain ⟨hnot, hd⟩ := List.nodup_cons.mp hd
    have hother {q : Fin 32} (h : q ≠ p) :
        (Rule.withQ s p (deadQueue s.ctl.fcycles s.dq[p] g)).dq[q] = s.dq[q] := withQ_dq_other s p h _
    have hapart {q : Fin 32} {f : Nat} (h : (q.val, f) ∈ l) : q ≠ p := fun e =>
      hnot (List.mem_map.mpr ⟨(q.val, f), h, congrArg Fin.val e⟩)
    obtain ⟨hframe, hqueues⟩ := ih (Rule.withQ s p (deadQueue s.ctl.fcycles s.dq[p] g)) hd fun b hb => by
      obtain ⟨q, hq, hi⟩ := hl b (List.mem_cons_of_mem _ hb)
      refine ⟨q, hq, ?_⟩
      rwa [hother (hapart (f := b.2) (by rwa [hq]))]
    rw [List.foldl_cons, declareQueue_eq hp]
    refine ⟨hframe, fun q => ⟨fun f hf => ?_, fun hn => ?_⟩⟩
    · rcases List.mem_cons.mp hf with he | hf
      · obtain ⟨hq, rfl⟩ := Prod.mk.inj he
        obtain rfl := Fin.ext hq
        rw [(hqueues q).2 fun f hf => hapart hf rfl, withQ_dq_same]
      · rw [(hqueues q).1 f hf, hother (hapart hf)]
        rfl
    · have hne : q ≠ p := fun e => hn g (by simp [e])
      rw [(hqueues q).2 fun f hf => hn f (List.mem_cons_of_mem _ hf), hother hne]

theorem blockedOn_inflight {s : State} {q : Fin 32} {f : Nat} (h : blockedOn s q.val = some f) :
    (s.dq[q]).inflight = [] := by
  unfold blockedOn at h
  split at h
  · simp only [getQ_fin, Option.ite_none_right_eq_some, Bool.and_eq_true] at h
    obtain ⟨⟨⟨⟨⟨⟨⟨-, hi⟩, -⟩, -⟩, -⟩, -⟩, -⟩, -⟩ := h
    simpa using hi
  · exact absurd h (by simp)

/-- The queues of the wait cycles are distinct and have nothing in flight. -/
theorem deadlocked_sublist (s : State) : (deadlocked s).Sublist
    (((List.range 32).filter fun q => hasWork (getQ s q)).filterMap fun q => (blockedOn s q).map fun f => (q, f)) := by
  unfold deadlocked
  dsimp only
  split
  · exact List.filter_sublist
  · exact List.nil_sublist _

theorem deadlocked_nodup (s : State) : ((deadlocked s).map (·.1)).Nodup := by
  refine List.Nodup.sublist ((deadlocked_sublist s).map _) ?_
  rw [List.Nodup, List.pairwise_map, List.pairwise_filterMap]
  refine (List.nodup_range.filter _).imp fun {p q} hne b hb c hc => ?_
  obtain ⟨f, -, rfl⟩ := Option.map_eq_some_iff.mp hb
  obtain ⟨g, -, rfl⟩ := Option.map_eq_some_iff.mp hc
  exact hne

theorem inflight_of_deadlocked {s : State} {b : Nat × Nat} (h : b ∈ deadlocked s) :
    ∃ q : Fin 32, q.val = b.1 ∧ (s.dq[q]).inflight = [] := by
  obtain ⟨q, hq, hb⟩ := List.mem_filterMap.mp ((deadlocked_sublist s).subset h)
  obtain ⟨f, hf, rfl⟩ := Option.map_eq_some_iff.mp hb
  have hlt : q < 32 := List.mem_range.mp (List.mem_filter.mp hq).1
  exact ⟨⟨q, hlt⟩, rfl, blockedOn_inflight (q := ⟨q, hlt⟩) hf⟩

/-- Where there is a wait cycle, its record waits and its queues halt. -/
theorem declareDeadlock_eq {s : State} (h : deadlocked s ≠ []) : ∃ u : State,
    u = { s with flt := u.flt } ∧ u.flt.detected.length = s.flt.detected.length + 1 ∧
    declareDeadlock s = (deadlocked s).foldl declareQueue u := by
  unfold declareDeadlock
  dsimp only
  split
  next hn => exact absurd hn h
  next q f l hl => exact ⟨_, rfl, insertDetected_length .., by rw [hl]; rfl⟩

theorem deadlocks : Rule.Deadlocks := by
  intro s
  refine ⟨fun h => gives_of_next rfl (by simp [declareDeadlock, h]), fun h => ends_of_next rfl ?_⟩
  obtain ⟨u, hu, hlen, heq⟩ := declareDeadlock_eq h
  have hdq : u.dq = s.dq := by rw [hu]
  have hctl : u.ctl = s.ctl := by rw [hu]
  obtain ⟨hframe, hqueues⟩ := foldl_declareQueue (deadlocked s) u (deadlocked_nodup s) fun b hb => by
    rw [hdq]
    exact inflight_of_deadlocked hb
  rw [heq]
  refine ⟨?_, ?_, ?_, ?_, fun q => ⟨fun f hf => ?_, fun hn => ?_⟩⟩
  · rw [hframe, hu]
  · rw [hframe, hu]
  · rw [hframe, hu]
  · rw [hframe, hlen]
  · rw [(hqueues q).1 f hf, hdq]
    simp [deadQueue, Sqc.event_status, sqcBit]
  · rw [(hqueues q).2 hn, hdq]

/-- Settles O16: a miss is noted whatever its descriptor's state, and a declaration halts the cycles' queues one by one. -/
theorem deadlinesAndDeadlocks : Obligations.DeadlinesAndDeadlocks := ⟨deadlineMisses, deadlocks⟩

end Sys2Proof.Machine

/-! SUPPORT. O58: an APPLY edge with nothing in use and no mismatch (01:R25; 13:R386), and the end of an f-cycle (log 1). -/

namespace Sys2Proof.Machine

/-! The flag store at the end of an f-cycle (06:R181, R182). -/

/-- Each flag that is updated takes a value of its own; the others keep theirs. -/
theorem foldl_vmod_getElem (v : Nat → BitVec 32) (us : List FlagUpd) (b : Vector (BitVec 32) 4096) (f : Fin 4096) :
    (us.foldl (fun b u => vmod b u.flag fun _ => v u.flag) b)[f] =
      if us.any (·.flag == f.val) then v f.val else b[f] := by
  induction us generalizing b with
  | nil => rfl
  | cons u us ih =>
    have hstep : (vmod b u.flag fun _ => v u.flag)[f] = if u.flag = f.val then v f.val else b[f] := by
      by_cases e : u.flag = f.val
      · simp [e]
      · have := vget_vmod_other b u.flag f.val (fun _ => v u.flag) 0 e
        simpa [e] using this
    simp only [List.foldl_cons, ih, hstep, List.any_cons]
    by_cases e : u.flag = f.val <;> simp [e]

/-- The base of the next f-cycle holds each flag's value. -/
theorem flagsTick_base (s : State) (next : List FlagUpd) (f : Fin 4096) :
    (flagsTick { s.flags with next := next }).base[f] = flagVal s f := by
  have h := foldl_vmod_getElem (fun g => flagResolve (vget s.flags.base g 0) (updsOf g s.flags.upds)) s.flags.upds
    s.flags.base f
  refine h.trans ?_
  split
  · rfl
  next hn =>
    have hu : updsOf f.val s.flags.upds = [] := by simpa [updsOf] using hn
    simp [flagVal, hu, flagResolve, flagPhase1, flagPhase2]

theorem nextFlags_eq (s : State) : nextFlags s = flagsTick { s.flags with
    next := match s.ctl.state with | .config | .run | .hold => s.flags.next | _ => [] } := by
  unfold nextFlags flagsOpen
  cases s.ctl.state <;> rfl

/-! The end of an f-cycle (log 1). -/

/-- The state in which the next f-cycle begins. -/
def cycled (s : State) : State :=
  dropPulses { s with
    ctl := { s.ctl with fcycles := s.ctl.fcycles + 1 }, flags := nextFlags s,
    cores := vmap (fun c => { c with cycle := c.cycle + 1 }) s.cores }

theorem cycled_dq (s : State) (q : Fin 32) :
    (cycled s).dq[q] = { s.dq[q] with evNotify := false, evHalt := false } := by
  have hq := vmap_getElem (fun q : Queue => { q with evNotify := false, evHalt := false }) s.dq q.val q.isLt
  exact hq

theorem cycleEnded_cycled (s : State) : Rule.CycleEnded s (cycled s) where
  ctl := rfl
  gen := rfl
  flags := by
    have hf : (cycled s).flags = nextFlags s := rfl
    rw [hf, nextFlags_eq]
    exact ⟨flagsTick_base s _, rfl, rfl⟩
  cores c := by
    have hc := vmap_getElem (fun c : Core => { c with cycle := c.cycle + 1 }) s.cores c.val c.isLt
    exact hc
  dq q := cycled_dq s q
  falls := ⟨rfl, rfl, rfl, rfl, rfl, rfl, rfl⟩
  others := rfl

/-- With no request waiting for a memory port, the next f-cycle begins with the edge that was asked for, if any. -/
theorem beginCycle_of_no_requests (now : Bool) {s : State} (hb : s.bnd.hostHeld = []) (hr : s.rme.inHeld = [])
    (he : now = true → (applyEdge s).bnd = s.bnd ∧ (applyEdge s).rme = s.rme) :
    beginCycle now s = if now then applyEdge s else s := by
  cases now with
  | false => simp [beginCycle, hb, hr, hostRun, inboundRun]
  | true =>
    obtain ⟨hbnd, hrme⟩ := he rfl
    simp [beginCycle, hbnd, hrme, hb, hr, hostRun, inboundRun]

theorem endCycle_live {s : State} (hp : s.ctl.por = false) (hw : s.ctl.wres = false) :
    endCycle s = settle s (beginCycle s.gen.now (cycled s)) := by
  simp [endCycle, hp, hw, cycled]

/-! An APPLY edge (01:R25; 13:R386). -/

theorem stagedBad_of_noMismatch {s : State} (h : Rule.NoMismatch s) (off : Nat) : stagedBad s off = false := by
  simp [stagedBad, parityAt, h.1]

/-- What the check of the staged request changes. -/
structure RequestTaken (s t : State) : Prop where
  staged : t.gen.reqStaged = 0
  state  : t.ctl.state = match Rule.transition s.ctl.state s.gen.reqStaged.toNat with
    | some x => if s.gen.reqStaged = 1 ∧ quiet s = false then s.ctl.state else x
    | none => s.ctl.state
  others : t = { s with
    ctl := { s.ctl with state := t.ctl.state },
    gen := { s.gen with
      reqStaged := t.gen.reqStaged, reqActive := t.gen.reqActive, reqResult := t.gen.reqResult, status := t.gen.status },
    flt := { s.flt with detected := t.flt.detected } }

/-- Whether a request other than a withdrawal is granted (01:R25). -/
def requestGranted (st : BlockState) (code : BitVec 3) (q : Bool) : Bool :=
  legalRequest st code.toNat && (code.toNat != 1 || q)

/-- A request is granted exactly when its transition exists, and to CONFIG only when the block is quiet. -/
theorem requestGranted_state (st : BlockState) (code : BitVec 3) (q : Bool) (h : code ≠ 0) :
    (if requestGranted st code q then requestedState code.toNat else st) =
      match Rule.transition st code.toNat with
      | some x => if code = 1 ∧ q = false then st else x
      | none => st := by
  revert code q
  cases st <;> decide

theorem requestRecord_eq (p : ReqPath) (s : State) :
    requestRecord p s = { s with flt := { s.flt with detected := (requestRecord p s).flt.detected } } := by
  cases p <;> rfl

section
variable {s : State}

theorem checkRequest_of_none (h : s.gen.reqStaged = 0) : checkRequest s = s := by
  simp [checkRequest, h]

/-- The copies of the request once it is consumed. -/
def requestConsumed (s : State) (granted : Bool) : State :=
  { s with gen := { s.gen with reqStaged := 0, reqActive := s.gen.reqStaged, reqResult := if granted then 1 else 2 } }

theorem checkRequest_of_some (h : s.gen.reqStaged ≠ 0) : checkRequest s =
    if requestGranted s.ctl.state s.gen.reqStaged (quiet s) then
      { requestConsumed s true with ctl := { s.ctl with state := requestedState s.gen.reqStaged.toNat } }
    else requestRecord s.gen.reqPath (genEvent 3 (requestConsumed s false)) := by
  have hne : (s.gen.reqStaged.toNat == 0) = false := by simpa [← BitVec.toNat_inj] using h
  unfold checkRequest
  dsimp only
  rw [hne, if_neg Bool.false_ne_true]
  cases hg : requestGranted s.ctl.state s.gen.reqStaged (quiet s) <;> rw [requestGranted] at hg <;> rw [hg] <;> rfl

theorem checkRequest_taken : RequestTaken s (checkRequest s) := by
  by_cases h : s.gen.reqStaged = 0
  · have hnone : Rule.transition s.ctl.state s.gen.reqStaged.toNat = none := by
      rw [h]
      cases s.ctl.state <;> rfl
    rw [checkRequest_of_none h]
    exact ⟨h, by rw [hnone], rfl⟩
  · have hstate := requestGranted_state s.ctl.state s.gen.reqStaged (quiet s) h
    rw [checkRequest_of_some h]
    cases hg : requestGranted s.ctl.state s.gen.reqStaged (quiet s) <;> rw [hg] at hstate
    · rw [if_neg Bool.false_ne_true, requestRecord_eq]
      exact ⟨rfl, hstate, rfl⟩
    · rw [if_pos rfl]
      exact ⟨rfl, hstate, rfl⟩

end

/-- What the mode and the band map come to at an edge changes nothing else. -/
theorem applyMode_eq (s : State) : applyMode s = { s with opa := { s.opa with
    pmode := (applyMode s).opa.pmode, bandmap := (applyMode s).opa.bandmap, leaving := (applyMode s).opa.leaving,
    mstatus := (applyMode s).opa.mstatus } } := by
  unfold applyMode
  dsimp only
  repeat' split
  all_goals rfl

section
variable {s : State} (h : Rule.NoMismatch s)
include h

theorem applyFill_of_noMismatch : applyFill s = { s with opa := { s.opa with fill := s.opa.fillStaged } } := by
  rw [applyFill, stagedBad_of_noMismatch h, if_neg Bool.false_ne_true]

theorem nextProf_of_noMismatch (d : Fin 16) : nextProf s d.val = s.opa.dprofStaged[d] := by
  rw [nextProf, stagedBad_of_noMismatch h, if_neg Bool.false_ne_true, vget_fin]

theorem nextTable_of_noMismatch (t : Fin 8) : nextTable s t.val = s.opa.actStaged[t] := by
  simp [nextTable, h.1]

/-- Where nothing is in use nothing is deferred: profiles and tables take their staged values (04:R119). -/
theorem applyProfiles_of_noUses (hu : Rule.NoUses s) : applyProfiles s =
    { s with opa := { s.opa with dprof := s.opa.dprofStaged, act := s.opa.actStaged } } := by
  have hjobs : s.opa.inst.toList.flatMap (·.jobs) = [] := by
    simp only [List.flatMap_eq_nil_iff, Vector.mem_toList_iff, Vector.mem_iff_getElem]
    rintro _ ⟨n, hn, rfl⟩
    exact hu.1 ⟨n, hn⟩
  have hflights : ∀ f ∈ s.dq.toList.flatMap (·.inflight), f.actTab = none := by
    simp only [List.mem_flatMap, Vector.mem_toList_iff, Vector.mem_iff_getElem]
    rintro f ⟨_, ⟨q, hq, rfl⟩, hf⟩
    exact hu.2 ⟨q, hq⟩ f hf
  have hprof (d : Nat) : profUses s d = [] := by rw [profUses, hjobs]; rfl
  have htab (t : Nat) : tableUses s t = [] := by
    rw [tableUses, hjobs, List.filterMap_nil, List.nil_append, List.filterMap_eq_nil_iff]
    exact fun f hf => by rw [hflights f hf]
  have hdp : vmapIdx (fun d _ => nextProf s d) s.opa.dprof = s.opa.dprofStaged := by
    ext d hd
    rw [vmapIdx_getElem, nextProf_of_noMismatch h ⟨d, hd⟩]
    rfl
  have hact : vmapIdx (fun t _ => nextTable s t) s.opa.act = s.opa.actStaged := Vector.ext fun t ht => by
    rw [vmapIdx_getElem, nextTable_of_noMismatch h ⟨t, ht⟩]
    rfl
  simp [applyProfiles, thirdGen, hprof, htab, hdp, hact]

theorem checkStaged_of_noMismatch : checkStaged s = s := by
  simp [checkStaged, h.2.2]

end

/-- What an edge adds once the request and the mode have been taken. -/
def edgeEnd (a : State) : State :=
  genEvent 0 { a with
    gen := { a.gen with applies := a.gen.applies + 1 },
    opa := { a.opa with fill := a.opa.fillStaged, dprof := a.opa.dprofStaged, act := a.opa.actStaged } }

/-- It is noted that the f-cycle has had its edge. -/
def edgeBegun (s : State) : State := { s with gen := { s.gen with edged := true } }

section
variable {s : State}

/-- The edge takes the request and the mode, and then the fill, the profiles and the tables (13:R386). -/
theorem applyEdge_eq (ho : applyOpen s = true) (he : s.gen.edged = false) (h : Rule.NoMismatch s) (hu : Rule.NoUses s) :
    applyEdge s = edgeEnd (applyMode (checkRequest (edgeBegun s))) := by
  have hheld : parityHeld (edgeBegun s) 0 = false := by simp [parityHeld, edgeBegun, h.1]
  have hb : Rule.NoMismatch (edgeBegun s) := h
  generalize hc : checkRequest (edgeBegun s) = c
  have hct : RequestTaken (edgeBegun s) c := hc ▸ checkRequest_taken
  have hcm : Rule.NoMismatch c := by rw [hct.others]; exact h
  have hcu : Rule.NoUses c := by rw [hct.others]; exact hu
  generalize ha : applyMode c = a
  have hae := applyMode_eq c
  rw [ha] at hae
  have ham : Rule.NoMismatch a := by rw [hae]; exact hcm
  have hau : Rule.NoUses a := by rw [hae]; exact hcu
  have hfm : Rule.NoMismatch (applyFill a) := by rw [applyFill_of_noMismatch ham]; exact ham
  have hfu : Rule.NoUses (applyFill a) := by rw [applyFill_of_noMismatch ham]; exact hau
  have hlast : applyProfiles (applyFill a) = { a with opa := { a.opa with
      fill := a.opa.fillStaged, dprof := a.opa.dprofStaged, act := a.opa.actStaged } } := by
    rw [applyProfiles_of_noUses hfm hfu, applyFill_of_noMismatch ham]
  unfold applyEdge
  rw [ho, he, Bool.not_true, Bool.or_self, if_neg Bool.false_ne_true]
  change (if parityHeld (edgeBegun s) 0 = true then _ else _) = _
  rw [hheld, if_neg Bool.false_ne_true]
  dsimp only
  rw [show checkStaged { s with gen := { s.gen with edged := true } } = edgeBegun s from checkStaged_of_noMismatch hb,
    stagedBad_of_noMismatch hb, if_neg Bool.false_ne_true, hc, ha, hlast]
  rfl

/-- A state that differs from s in four parts at most is known by those parts. -/
theorem eq_of_parts {u : State} {c : Ctl} {g : Gen} {o : Opa} {f : FaultLog}
    (h : u = { s with ctl := u.ctl, gen := u.gen, opa := u.opa, flt := u.flt })
    (hc : u.ctl = c) (hg : u.gen = g) (ho : u.opa = o) (hf : u.flt = f) :
    u = { s with ctl := c, gen := g, opa := o, flt := f } := by
  rw [← hc, ← hg, ← ho, ← hf]
  exact h

/-- What request and mode come to at an edge changes nothing else. -/
structure EdgeMode (s a : State) : Prop where
  ctl    : a.ctl = { s.ctl with state := a.ctl.state }
  gen    : a.gen = { s.gen with
    reqStaged := 0, reqActive := a.gen.reqActive, reqResult := a.gen.reqResult, status := a.gen.status, edged := true }
  opa    : a.opa = { s.opa with
    pmode := a.opa.pmode, bandmap := a.opa.bandmap, leaving := a.opa.leaving, mstatus := a.opa.mstatus }
  flt    : a.flt = { s.flt with detected := a.flt.detected }
  others : a = { s with ctl := a.ctl, gen := a.gen, opa := a.opa, flt := a.flt }

theorem edgeMode_applyMode {c : State} (hc : RequestTaken (edgeBegun s) c) : EdgeMode s (applyMode c) := by
  obtain ⟨hstaged, -, hc⟩ := hc
  generalize ha : applyMode c = a
  have hae := applyMode_eq c
  rw [ha] at hae
  have hctl : a.ctl = c.ctl := by rw [hae]
  have hgen : a.gen = c.gen := by rw [hae]
  have hflt : a.flt = c.flt := by rw [hae]
  have hopa : c.opa = s.opa := by rw [hc]; rfl
  refine ⟨?_, ?_, ?_, ?_, ?_⟩
  · rw [hctl]
    exact congrArg State.ctl hc
  · rw [hgen, ← hstaged]
    exact congrArg State.gen hc
  · rw [← hopa]
    exact congrArg State.opa hae
  · rw [hflt]
    exact congrArg State.flt hc
  · rw [hae, hc]
    rfl

theorem edgeTaken_edgeEnd {a : State} (h : EdgeMode s a)
    (hst : a.ctl.state = match Rule.transition s.ctl.state s.gen.reqStaged.toNat with
      | some x => if s.gen.reqStaged = 1 ∧ quiet s = false then s.ctl.state else x
      | none => s.ctl.state) : Rule.EdgeTaken s (edgeEnd a) := by
  have hgen : (edgeEnd a).gen = { s.gen with
      reqStaged := 0, reqActive := (edgeEnd a).gen.reqActive, reqResult := (edgeEnd a).gen.reqResult,
      status := (edgeEnd a).gen.status, applies := (edgeEnd a).gen.applies, armed := (edgeEnd a).gen.armed,
      edged := true } := by
    have := congrArg (fun g : Gen => { g with
      status := (edgeEnd a).gen.status, applies := (edgeEnd a).gen.applies, armed := (edgeEnd a).gen.armed }) h.gen
    exact this
  have hopa : (edgeEnd a).opa = { s.opa with
      pmode := (edgeEnd a).opa.pmode, fill := (edgeEnd a).opa.fill, bandmap := (edgeEnd a).opa.bandmap,
      leaving := (edgeEnd a).opa.leaving, mstatus := (edgeEnd a).opa.mstatus, dstatus := (edgeEnd a).opa.dstatus,
      dprof := (edgeEnd a).opa.dprof, act := (edgeEnd a).opa.act } := by
    have := congrArg (fun o : Opa => { o with
      fill := (edgeEnd a).opa.fill, dprof := (edgeEnd a).opa.dprof, act := (edgeEnd a).opa.act,
      dstatus := (edgeEnd a).opa.dstatus }) h.opa
    exact this
  have hothers : edgeEnd a = { s with
      ctl := (edgeEnd a).ctl, gen := (edgeEnd a).gen, opa := (edgeEnd a).opa, flt := (edgeEnd a).flt } := by
    rw [h.others]
    rfl
  have happlies : a.gen.applies = s.gen.applies := by rw [h.gen]
  have hfill : a.opa.fillStaged = s.opa.fillStaged := by rw [h.opa]
  have hprof : a.opa.dprofStaged = s.opa.dprofStaged := by rw [h.opa]
  have hact : a.opa.actStaged = s.opa.actStaged := by rw [h.opa]
  exact {
    counted := congrArg (· + 1) happlies
    applied := by simp [edgeEnd, genEvent, Sqc.event_status, sqcBit]
    one := by rw [hgen]
    consumed := by rw [hgen]
    state := hst
    fill := hfill
    profiles := hprof
    tables := hact
    others := eq_of_parts hothers h.ctl hgen hopa h.flt }

/-- The first edge of an f-cycle with no mismatch and nothing in use; an armed APPLY stays armed. -/
theorem applyEdge_taken (ho : applyOpen s = true) (he : s.gen.edged = false) (h : Rule.NoMismatch s)
    (hu : Rule.NoUses s) : Rule.EdgeTaken s (applyEdge s) ∧ (applyEdge s).gen.armed = s.gen.armed := by
  have hc : RequestTaken (edgeBegun s) (checkRequest (edgeBegun s)) := checkRequest_taken
  have ha := edgeMode_applyMode hc
  have hctl : (applyMode (checkRequest (edgeBegun s))).ctl = (checkRequest (edgeBegun s)).ctl := by rw [applyMode_eq]
  have harmed : (applyMode (checkRequest (edgeBegun s))).gen.armed = s.gen.armed := by rw [ha.gen]
  rw [applyEdge_eq ho he h hu]
  exact ⟨edgeTaken_edgeEnd ha (by rw [hctl]; exact hc.state), harmed⟩

end

/-! The step (log 1). -/

theorem step_of_no_pending {s : State} (h : s.pending = []) : step s = .next (endCycle s) := by
  rw [step, h]

/-- In reset only the timebase goes on (13:R452). -/
theorem endCycle_reset {s : State} (h : s.ctl.por = true ∨ s.ctl.wres = true) : endCycle s = { s with
    ctl := { s.ctl with place := 0 }, beat := { s.beat with loaded := false }, mg := { s.mg with chainOut := [] } } := by
  rw [endCycle, if_pos (by simpa using h)]

theorem noUses_cycled {s : State} (h : Rule.NoUses s) : Rule.NoUses (cycled s) :=
  ⟨h.1, fun q f hf => h.2 q f (by rwa [cycled_dq] at hf)⟩

/-- Settles O58: an f-cycle ends alike whatever the block does, and the edge that was asked for is its successor's first. -/
theorem cyclesEnd : Obligations.CyclesEnd := by
  intro s hp
  refine ⟨fun h => by rw [step_of_no_pending hp, endCycle_reset h], fun hpor hwres hhost hin =>
    ⟨cycled s, cycleEnded_cycled s, fun hnow => ?_, fun hnow hm hu hst => ?_⟩⟩
  · rw [step_of_no_pending hp, endCycle_live hpor hwres, hnow,
      beginCycle_of_no_requests (s := cycled s) false hhost hin (by simp)]
    rfl
  · obtain ⟨hedge, harmed⟩ := applyEdge_taken (s := cycled s) (applyOpen_of_open hst) rfl hm (noUses_cycled hu)
    refine ⟨applyEdge (cycled s), hedge, harmed, ?_⟩
    rw [step_of_no_pending hp, endCycle_live hpor hwres, hnow,
      beginCycle_of_no_requests (s := cycled s) true hhost hin fun _ => ?_]
    · rfl
    · rw [hedge.others]
      exact ⟨rfl, rfl⟩

end Sys2Proof.Machine

/-! SUPPORT. O43: an array descriptor starts as a job of its partition, or ends at once (07:R196, R197; 04:R118; 14:R402). -/

namespace Sys2Proof.Machine

/-! What a start reads and translates (12:R350). -/

section
variable (q : Nat) (idx : BitVec 32) (ctx : BitVec 16) (d : Desc) (p : BitVec 17) (s : State)

theorem kept_opaPrepareC (x : OpaData) : Kept s (opaPrepareC q idx ctx d p x s).2 := by
  have k1 := kept_loadList q idx ctx 6 (dC d) (dC d).rows s
  unfold opaPrepareC
  split
  · exact .refl s
  · split <;> rename_i h1 <;> rw [h1] at k1
    · exact k1
    · exact k1
    · dsimp only
      split <;> rename_i h2 <;> have k2 := k1.trans (h2 ▸ kept_xlatReqs ctx _ [] _)
      · exact k2
      · exact k2
      · split <;> rename_i h3 <;> have k3 := k2.trans (h3 ▸ kept_loadPart q idx ctx 0xA _ [] _) <;> exact k3

theorem kept_opaPrepare : Kept s (opaPrepare q idx ctx d p s).2 := by
  have k1 := kept_loadList q idx ctx 4 (opaA d) (opaA d).rows s
  unfold opaPrepare
  dsimp only
  split
  · exact kept_opaPrepareC ..
  · split <;> rename_i h1 <;> rw [h1] at k1
    · exact k1
    · exact k1
    · split <;> rename_i h2 <;> have k2 := k1.trans (h2 ▸ kept_loadList q idx ctx 5 (opaB d) (opaB d).rows _)
      · exact k2
      · exact k2
      · split <;> rename_i h3 <;> have k3 := k2.trans (h3 ▸ kept_stageReqs ctx _ [] _)
        · exact k3
        · exact k3
        · exact k3.trans (kept_opaPrepareC ..)

end

/-! A set found bad at the start (14:R402, R404). -/

/-- Queues, flags and memory are as they were. -/
structure QueuesKept (s t : State) : Prop where
  dq    : t.dq = s.dq
  flags : t.flags = s.flags
  mem   : t.mem = s.mem

theorem QueuesKept.trans {s t u : State} (h : QueuesKept s t) (h' : QueuesKept t u) : QueuesKept s u :=
  ⟨h'.dq.trans h.dq, h'.flags.trans h.flags, h'.mem.trans h.mem⟩

theorem queuesKept_startLeaving (g : Nat) (s : State) : QueuesKept s (startLeaving g s) := by
  obtain ⟨l, h⟩ := startLeaving_eq g s
  rw [h]
  exact ⟨rfl, rfl, rfl⟩

theorem queuesKept_programFuse (w : Nat) (b : BitVec 32) (s : State) : QueuesKept s (programFuse w b s) := by
  obtain ⟨p, h⟩ := programFuse_eq w b s
  rw [h]
  exact ⟨rfl, rfl, rfl⟩

/-- The retirement of a column group touches no queue. -/
theorem queuesKept_retireUnit {u : BitVec 16} (hu : uClass u = 1) (cause : BitVec 16) (count : Nat) (s : State) :
    QueuesKept s (retireUnit u cause count s) := by
  have hset : QueuesKept s (setRetired u (setSub u false (endTrans u s))) := ⟨rfl, rfl, rfl⟩
  simp only [retireUnit, programRetire, hu]
  have hleft := hset.trans (queuesKept_startLeaving (uIdx u) _)
  have hrec : QueuesKept s (detect hwRetired clsUnit u cause (w64 count) 0
      (startLeaving (uIdx u) (setRetired u (setSub u false (endTrans u s))))) := hleft.trans ⟨rfl, rfl, rfl⟩
  exact hrec.trans (queuesKept_programFuse ..)

/-- A column counts for a unit of class 1. -/
theorem uClass_cubeGroup (col : BitVec 8) : uClass (unitOf 1 (cubeGroup col)) = 1 := by
  have hcol := col.isLt
  simp only [uClass, unitOf, cubeGroup, BitVec.toNat_ofNat]
  omega

theorem queuesKept_cgDetection (col : BitVec 8) (s : State) : QueuesKept s (cgDetection (cubeGroup col) s) := by
  have hcount : QueuesKept s (countCg (cubeGroup col) s).2 := ⟨rfl, rfl, rfl⟩
  unfold cgDetection
  dsimp only
  split
  · exact hcount.trans (queuesKept_retireUnit (uClass_cubeGroup col) ..)
  · exact hcount

theorem queuesKept_heldBad (n q : Nat) (idx : BitVec 32) (b : BitVec 8 × BitVec 8 × Bool) (s : State) :
    QueuesKept s (heldBad n q idx b s) := by
  have hrec : QueuesKept s
      (opaRecord opaAccParity clsQueue (cubeSource b.2.1 b.2.2) 1 n (some (q, idx)) b.1 b.2.1 0 s) := ⟨rfl, rfl, rfl⟩
  unfold heldBad opaCount
  split
  · exact hrec
  · dsimp only
    rw [Bool.false_and, Bool.false_and, if_neg Bool.false_ne_true]
    exact hrec.trans (queuesKept_cgDetection ..)

theorem queuesKept_dropTile (n : Fin 16) (g : Nat) (s : State) : QueuesKept s (dropTile n.val g s) := by
  rw [dropTile, modGroup_fin]
  exact ⟨rfl, rfl, rfl⟩

/-- A dropped tile is no longer open. -/
theorem dropTile_tile (n : Fin 16) {g : Nat} (hg : g < 4) (s : State) :
    (getGroup (dropTile n.val g s).opa.inst[n] g).tile = none := by
  rw [dropTile, modGroup_fin, withInst_inst, getGroup_vmod_same hg]

/-! The start of an array descriptor (07:R196, R197). -/

theorem effect_arrayCommand {q : Fin 32} {op : Nat} {i : Instr} (h : Rule.ArrayCommand q op i) (s : State) :
    effect i s = .next (settle s (startOpa q.val op s)) := by
  cases h <;> rfl

section
variable {s : State} {q : Fin 32} {n : Fin 16} {op : Nat} {f : Fetched} (h : startHead s q.val 1 op = some f)
  (hn : dInstance f.desc = n.val)
include h hn

theorem startOpa_of_absent (hp : opaPresent s n.val = false) :
    startOpa q.val op s = startFailed q.val f (endWith dqEngineAbsent) s := by
  simp only [startOpa, h, hn, hp, Bool.not_false, if_true]

variable (hp : opaPresent s n.val = true)
include hp

theorem startOpa_of_wrongState (ho : opaStateOk s n.val f.desc = false) :
    startOpa q.val op s = startFailed q.val f (endWith dqState) s := by
  simp only [startOpa, h, hn, hp, ho, Bool.not_true, Bool.false_eq_true, Bool.not_false, if_true, if_false]

variable (ho : opaStateOk s n.val f.desc = true)
include ho

theorem startOpa_of_badProfile (hb : ¬ (opaDrains f.desc = true →
    profileOk f.desc (profileOf s f.desc) (profTable s (profileOf s f.desc)) (s.dq[q]).w = true)) :
    startOpa q.val op s = startFailed q.val f (endWith dqOperand) s := by
  have hbad : (opaDrains f.desc && !profileOk f.desc (profileOf s f.desc) (profTable s (profileOf s f.desc))
      (s.dq[q]).w) = true := by simpa using hb
  simp only [startOpa, h, hn, hp, ho, Bool.not_true, Bool.false_eq_true, if_false, getQ_fin]
  exact if_pos hbad

variable (hg : opaDrains f.desc = true →
  profileOk f.desc (profileOf s f.desc) (profTable s (profileOf s f.desc)) (s.dq[q]).w = true)
include hg

/-- With a good profile, what the held set holds decides, and then what the preparation answers. -/
theorem startOpa_of_goodProfile : startOpa q.val op s =
    match if op == 2 then (getGroup s.opa.inst[n] (opaGroupNo f.desc)).open_.bad else none with
    | some b => startFailed q.val f (endWith opaAccParity)
        (dropTile n.val (opaGroupNo f.desc) (heldBad n.val q.val f.idx b s))
    | none => match opaPrepare q.val f.idx (s.dq[q]).ctx f.desc (profileOf s f.desc) s with
      | (.wait, _) => s
      | (.fail e, u) => startFailed q.val f e u
      | (.ok x, u) => modInst n.val (OpaInst.join u.opa.fill.toNat (newJob u q.val f x))
          (beginFlight q.val f (newFlight u q.val f) u) := by
  have hgood : (opaDrains f.desc && !profileOk f.desc (profileOf s f.desc) (profTable s (profileOf s f.desc))
      (s.dq[q]).w) = false := by simpa using hg
  simp only [startOpa, h, hn, hp, ho, Bool.not_true, Bool.false_eq_true, if_false, getQ_fin, getInst_fin]
  exact if_neg (ne_true_of_eq_false hgood)

theorem startOpa_of_heldBad (hop : op = 2) {b : BitVec 8 × BitVec 8 × Bool}
    (hb : (getGroup s.opa.inst[n] (opaGroupNo f.desc)).open_.bad = some b) :
    startOpa q.val op s = startFailed q.val f (endWith opaAccParity)
      (dropTile n.val (opaGroupNo f.desc) (heldBad n.val q.val f.idx b s)) := by
  rw [startOpa_of_goodProfile h hn hp ho hg, hb, hop]
  rfl

theorem startOpa_of_ready (hb : op = 2 → (getGroup s.opa.inst[n] (opaGroupNo f.desc)).open_.bad = none) :
    startOpa q.val op s = match opaPrepare q.val f.idx (s.dq[q]).ctx f.desc (profileOf s f.desc) s with
      | (.wait, _) => s
      | (.fail e, u) => startFailed q.val f e u
      | (.ok x, u) => modInst n.val (OpaInst.join u.opa.fill.toNat (newJob u q.val f x))
          (beginFlight q.val f (newFlight u q.val f) u) := by
  have hnone : (if op == 2 then (getGroup s.opa.inst[n] (opaGroupNo f.desc)).open_.bad else none) = none := by
    simpa using hb
  rw [startOpa_of_goodProfile h hn hp ho hg, hnone]

end

/-- A descriptor that joins a partition whose last queue has just been noted. -/
theorem join_lastQ (fill q : Nat) (j : OpaJob) (i : OpaInst) : OpaInst.join fill j { i with lastQ := q } =
    { (if issuing i = none then Rule.gapped fill i else i) with lastQ := q, jobs := i.jobs ++ [j] } := by
  have hi : issuing { i with lastQ := q } = issuing i := rfl
  have hg : Rule.gapped fill { i with lastQ := q } = { Rule.gapped fill i with lastQ := q } := by
    unfold Rule.gapped
    split <;> rfl
  have hjobs : (Rule.gapped fill i).jobs = i.jobs := by
    unfold Rule.gapped
    split <;> rfl
  simp only [OpaInst.join, hi, Option.isNone_iff_eq_none, OpaInst.gap_eq_gapped, hg]
  split
  · rw [hjobs]
  · rfl

/-- The job is made of the descriptor, its queue and the array's registers. -/
theorem newJob_congr {s u : State} (hdq : u.dq = s.dq) (hopa : u.opa = s.opa) (q : Fin 32) (f : Fetched) (x : OpaData) :
    newJob u q.val f x = newJob s q.val f x := by
  unfold newJob profTable profileOf getQ
  rw [hdq, hopa]

section
variable {s : State} {q : Fin 32} {n : Fin 16} {op : Nat} {i : Instr} {f : Fetched} (hi : Rule.ArrayCommand q op i)
  (hc : (s.dq[q]).cls = 1) (hn : (s.dq[q]).inst.toNat = n.val) (hl : Rule.LocalSignal f.desc)
include hi hc hn hl

/-- An array descriptor that starts with an event notes its queue at its partition, and else changes none. -/
theorem ends_arrayFailed {u : State} {e : Ended} (k : Kept s u)
    (hst : startOpa q.val op s = startFailed q.val f e u) : Rule.Ends i s fun t =>
      ∃ x, Rule.Starts s t q f x ∧ x.writes = [] ∧ x.ended = some e ∧
        t.opa.inst[n] = { s.opa.inst[n] with lastQ := q.val } ∧ ∀ k : Fin 16, k ≠ n → t.opa.inst[k] = s.opa.inst[k] := by
  obtain ⟨x, hx, hw, he⟩ := starts_startFailed (q := q) hl k.dq k.flags k.mem e
  refine ends_of_next (effect_arrayCommand hi s) ?_
  rw [hst]
  have hopa : (startFailed q.val f e u).opa = (Rule.withInst u n { u.opa.inst[n] with lastQ := q.val }).opa :=
    beginFlight_opa_array hl k.dq _ hc hn
  rw [hopa, withInst_inst, k.opa]
  refine ⟨x, hx, hw, he, rfl, fun m hm => ?_⟩
  rw [withInst_inst_other _ _ hm, k.opa]

/-- One that needs a held set with a parity error ends at once, and the tile is gone. -/
theorem ends_heldBad {b : BitVec 8 × BitVec 8 × Bool}
    (hst : startOpa q.val op s = startFailed q.val f (endWith opaAccParity)
      (dropTile n.val (opaGroupNo f.desc) (heldBad n.val q.val f.idx b s))) : Rule.Ends i s fun t =>
      ∃ x, Rule.Starts s t q f x ∧ x.writes = [] ∧ x.ended = some (endWith opaAccParity) ∧
        (getGroup t.opa.inst[n] (opaGroupNo f.desc)).tile = none := by
  have k := (queuesKept_heldBad n.val q.val f.idx b s).trans (queuesKept_dropTile n (opaGroupNo f.desc) _)
  have htile := dropTile_tile n (opaGroupNo_lt f.desc) (heldBad n.val q.val f.idx b s)
  generalize dropTile n.val (opaGroupNo f.desc) (heldBad n.val q.val f.idx b s) = u at hst k htile
  obtain ⟨x, hx, hw, he⟩ := starts_startFailed (q := q) hl k.dq k.flags k.mem (endWith opaAccParity)
  refine ends_of_next (effect_arrayCommand hi s) ?_
  rw [hst]
  have hopa : (startFailed q.val f (endWith opaAccParity) u).opa =
      (Rule.withInst u n { u.opa.inst[n] with lastQ := q.val }).opa := beginFlight_opa_array hl k.dq _ hc hn
  rw [hopa, withInst_inst]
  exact ⟨x, hx, hw, he, htile⟩

/-- One that is prepared joins its partition. -/
theorem ends_arrayJoined {u : State} {x : OpaData} (k : Kept s u)
    (hst : startOpa q.val op s = modInst n.val (OpaInst.join u.opa.fill.toNat (newJob u q.val f x))
      (beginFlight q.val f (newFlight u q.val f) u)) : Rule.Ends i s fun t =>
      ∃ y, Rule.Starts s t q f y ∧ y.writes = [] ∧ y.ended = none ∧
        t.opa.inst[n] = { (if issuing s.opa.inst[n] = none then Rule.gapped s.opa.fill.toNat s.opa.inst[n]
            else s.opa.inst[n]) with
          lastQ := q.val, jobs := s.opa.inst[n].jobs ++ [newJob s q.val f x] } ∧
        ∀ k : Fin 16, k ≠ n → t.opa.inst[k] = s.opa.inst[k] := by
  have hx : Rule.Starts s (beginFlight q.val f (newFlight u q.val f) u) q f (newFlight u q.val f) :=
    starts_beginFlight hl k.dq k.flags k.mem (fresh_of_newFlight k.dq ⟨rfl, rfl, rfl, rfl, rfl, rfl, rfl, rfl, rfl⟩)
  have hopa := beginFlight_opa_array hl k.dq (newFlight u q.val f) hc hn
  refine ends_of_next (effect_arrayCommand hi s) ?_
  rw [hst, modInst_fin, withInst_inst, hopa, withInst_inst, join_lastQ, newJob_congr k.dq k.opa, k.opa]
  refine ⟨_, ⟨hx.fresh, hx.queue, hx.others, hx.flags, hx.memory⟩, rfl, rfl, rfl, fun m hm => ?_⟩
  rw [withInst_inst_other _ _ hm, hopa, withInst_inst_other _ _ hm, k.opa]

end

/-- Settles O43: presence, state, profile, the held set and the preparation decide in this order. -/
theorem arrayStarts : Obligations.ArrayStarts := by
  intro s u q n op i f hi hc hq hn
  refine ⟨fun hs => gives_of_next (effect_arrayCommand hi s) (by simp [startOpa, hs]), fun hs hl => ?_⟩
  intro d prof held fails profiled
  have hkept {r : EngRes OpaData} (hp : opaPrepare q.val f.idx (s.dq[q]).ctx d prof s = (r, u)) : Kept s u := by
    have := kept_opaPrepare q.val f.idx (s.dq[q]).ctx d prof s
    rwa [hp] at this
  refine ⟨fun hp => ends_arrayFailed hi hc hq hl (.refl s) (startOpa_of_absent hs hn hp),
    fun hp ho => ends_arrayFailed hi hc hq hl (.refl s) (startOpa_of_wrongState hs hn hp ho),
    fun hp ho hprof => ends_arrayFailed hi hc hq hl (.refl s) (startOpa_of_badProfile hs hn hp ho hprof),
    fun hp ho hprof hop b hb => ends_heldBad hi hc hq hl (startOpa_of_heldBad hs hn hp ho hprof hop hb),
    fun hp ho hprof hheld => ?_⟩
  have hst := startOpa_of_ready hs hn hp ho hprof hheld
  refine ⟨fun x hx => ends_arrayJoined hi hc hq hl (hkept hx) ?_,
    fun e hx => ends_arrayFailed hi hc hq hl (hkept hx) ?_,
    fun hx => gives_of_next (effect_arrayCommand hi s) ?_⟩
  all_goals rw [hst, hx]

end Sys2Proof.Machine

/-! SUPPORT. O15: as for O13 and O14, a completion ring that is not aligned to its records, the last of which runs over the
end of memory. -/

namespace Sys2Proof.Machine

/-- A NULL_NOP that waits for nothing, with index 1. -/
def edgeNull : Fetched := ⟨1, 0, none, false, false⟩

/-- The turn of NULL_NOP, which queue 0 has fetched. -/
def edgeStarting : State :=
  let s := edgeState { edgeQueue with cls := 0, fetched := some edgeNull }
  { s with ctl := { s.ctl with place := placeOf (.nullNop 0) } }

/-- Refutes O15: the record of a NULL descriptor is written, as every record, only where memory is. -/
theorem not_nullDescriptors : ¬ Obligations.NullDescriptors := by
  intro h
  obtain ⟨t, ⟨hstored, -⟩, ht⟩ := mem_of_ends (answered_of_asks (by decide +kernel)) (by decide +kernel) rfl
    (h edgeStarting _ 0 0 edgeNull edgeSlot 0 (by decide) rfl (by decide +kernel) rfl rfl ⟨rfl, rfl, rfl⟩
      (.inl (by decide +kernel)) (slotOpen_of_ext (by decide +kernel) (by decide +kernel)))
  refine not_stored_of_byte (by decide +kernel) ?_ hstored
  rw [ht]
  decide +kernel

end Sys2Proof.Machine

/-! SUPPORT. O19: the engines of VE and MOVE finish (07:R219, R222; 06:R184; 12:R350). -/

namespace Sys2Proof.Machine

/-! What an engine's writes leave alone, whether or not they land (08:R235, R236). -/

/-- Flags and the engines' counters are as they were. -/
structure CountersKept (s t : State) : Prop where
  flags     : t.flags = s.flags
  veElems   : t.veElems = s.veElems
  moveBytes : t.moveBytes = s.moveBytes

theorem CountersKept.refl (s : State) : CountersKept s s := ⟨rfl, rfl, rfl⟩

theorem CountersKept.trans {s t u : State} (h : CountersKept s t) (k : CountersKept t u) : CountersKept s u :=
  ⟨k.flags.trans h.flags, k.veElems.trans h.veElems, k.moveBytes.trans h.moveBytes⟩

theorem CountersKept.of_kept {s t : State} (h : Kept s t) : CountersKept s t := ⟨h.flags, h.veElems, h.moveBytes⟩

theorem countersKept_writeSmWord (word : Nat) (cs : List Host.Cell) (s : State) :
    CountersKept s (writeSmWord word cs s).2 := by
  have store (t : State) : CountersKept t (storeSmWord word cs t) := ⟨rfl, rfl, rfl⟩
  have hread := CountersKept.of_kept (kept_readSmWord word s)
  unfold writeSmWord
  split
  · exact store s
  · split
    next h => rwa [h] at hread
    next h => rw [h] at hread; exact hread.trans (store _)

theorem countersKept_writeSmGroups (gs : List (List Host.Cell)) (s : State) :
    CountersKept s (writeSmGroups gs s).2 := by
  induction gs generalizing s with
  | nil => exact .refl s
  | cons g gs ih => exact (countersKept_writeSmWord _ g s).trans (ih _)

theorem countersKept_writeAccess (al th : Bool) (w : Waiter) (cs : List Host.Cell) (s : State) :
    CountersKept s (writeAccess al th w cs s).2 := by
  have hunits : CountersKept s (writeUnits al th w (groupCells 64 (extCells s cs)) (mendLines (extCells s cs) s)) :=
    have k := (wrote_writeUnits al th w (groupCells 64 (extCells s cs)) (mendLines (extCells s cs) s)).kept
    ⟨k.flags, k.veElems, k.moveBytes⟩
  exact hunits.trans (countersKept_writeSmGroups ..)

theorem countersKept_performWrites (q : Nat) (idx : BitVec 32) (ws : List EngWrite) (s : State) :
    CountersKept s (performWrites q idx ws s).2 := by
  induction ws generalizing s with
  | nil => exact .refl s
  | cons w ws ih =>
    have hw := countersKept_writeAccess false w.through (.engine (qFin q) idx w.part w.va) w.cells s
    unfold performWrites
    split
    next h => rw [h] at hw; exact hw.trans ⟨rfl, rfl, rfl⟩
    next h => rw [h] at hw; exact hw.trans (ih _)

/-! A descriptor in flight, found by its index. -/

/-- A queue with each descriptor in flight of an index changed. -/
def flightQueue (d : Queue) (idx : BitVec 32) (g : InFlight → InFlight) : Queue :=
  { d with inflight := d.inflight.map fun f => if f.idx = idx then g f else f }

theorem modFlight_eq (q : Fin 32) (idx : BitVec 32) (g : InFlight → InFlight) (s : State) :
    modFlight q.val idx g s = Rule.withQ s q (flightQueue s.dq[q] idx g) := by
  simp only [modFlight, modQ_fin, flightQueue, beq_iff_eq]

/-- Changes of the same descriptors are one change. -/
theorem flightQueue_flightQueue (d : Queue) (idx : BitVec 32) (g h : InFlight → InFlight) (hg : ∀ f, (g f).idx = f.idx) :
    flightQueue (flightQueue d idx g) idx h = flightQueue d idx (h ∘ g) := by
  simp only [flightQueue, List.map_map]
  congr 1
  refine List.map_congr_left fun f _ => ?_
  by_cases hi : f.idx = idx
  · simp [hi, hg]
  · simp [hi]

/-- Changes that agree on the queue's descriptors of the index leave the same queue. -/
theorem flightQueue_congr {d : Queue} {idx : BitVec 32} {g h : InFlight → InFlight}
    (he : ∀ f ∈ d.inflight, f.idx = idx → g f = h f) : flightQueue d idx g = flightQueue d idx h := by
  unfold flightQueue
  congr 1
  refine List.map_congr_left fun f hf => ?_
  by_cases hi : f.idx = idx
  · rw [if_pos hi, if_pos hi, he f hf hi]
  · rw [if_neg hi, if_neg hi]

theorem getFlight_eq_some {s : State} {q : Fin 32} {f : InFlight} (hf : f ∈ (s.dq[q]).inflight)
    (hu : ∀ g ∈ (s.dq[q]).inflight, g.idx = f.idx → g = f) : getFlight s q.val f.idx = some f := by
  have hsome : ((s.dq[q]).inflight.find? fun g => g.idx == f.idx).isSome = true := by
    rw [List.find?_isSome]
    exact ⟨f, hf, by simp⟩
  obtain ⟨g, hg⟩ := Option.isSome_iff_exists.mp hsome
  have he : g = f := hu g (List.mem_of_find?_eq_some hg) (by simpa using List.find?_some hg)
  rw [getFlight, getQ_fin, hg, he]

theorem oldestOf_eq_some {s : State} {q : Fin 32} {cls : Nat} {f : InFlight} (h : oldestOf s q.val cls = some f) :
    f ∈ (s.dq[q]).inflight ∧ f.ended = none := by
  rw [oldestOf, getQ_fin] at h
  have hp := List.find?_some h
  rw [Bool.and_eq_true, Option.isNone_iff_eq_none] at hp
  exact ⟨List.mem_of_find?_eq_some h, hp.2⟩

theorem running_of_run_or_hold {s : State} (h : s.ctl.state = .run ∨ s.ctl.state = .hold) : running s = true := by
  simpa [running] using h

/-! The finish (06:R184; 07:R219, R222). -/

/-- A descriptor whose writes have been performed, with its outcome where nothing of it is left at the memory ports. -/
def performedFlight (out : List PortReq) (e : Ended) (g : InFlight) : InFlight :=
  { g with posted := true, ended := if out = [] then some e else none }

/-- In t the writes of a descriptor of s have been performed, and its queue has it so. -/
structure Performed (s t : State) (q : Fin 32) (f : InFlight) (cells : List Host.Cell) : Prop where
  wrote  : Rule.Wrote s t cells
  flags  : t.flags = s.flags
  others : ∀ p : Fin 32, p ≠ q → t.dq[p] = s.dq[p]
  queue  : t.dq[q] = flightQueue s.dq[q] f.idx (performedFlight (portReqs t q.val f.idx) (f.verdict.getD endOk))

/-- What a finish counts, of VE and of MOVE. -/
def engineCounted (elems : Word → Word) (bytes : Vector Word 4 → Vector Word 4) (s : State) : State :=
  { s with veElems := elems s.veElems, moveBytes := bytes s.moveBytes }

/-- The state in which a finish performs its writes: the descriptor posted, and counted. -/
def postedState (q : Fin 32) (idx : BitVec 32) (elems : Word → Word) (bytes : Vector Word 4 → Vector Word 4)
    (u : State) : State :=
  engineCounted elems bytes (modFlight q.val idx (fun f => { f with posted := true }) u)

section
variable {s u : State} {q : Fin 32} (elems : Word → Word) (bytes : Vector Word 4 → Vector Word 4)

theorem posted_dq (h : u.dq = s.dq) (idx : BitVec 32) : (postedState q idx elems bytes u).dq =
    (Rule.withQ s q (flightQueue s.dq[q] idx fun f => { f with posted := true })).dq := by
  have he : (postedState q idx elems bytes u).dq = (modFlight q.val idx (fun f => { f with posted := true }) u).dq := rfl
  rw [he, modFlight_eq, h]
  simp only [Rule.withQ, h]

/-- Of writes translated again that can land all do, and the counts stand beside them. -/
theorem performWrites_posted (k : Kept s u) {ws : List EngWrite} (h : Rule.Writable s (ws.flatMap (·.cells)))
    (idx : BitVec 32) : ∃ t, performWrites q.val idx ws (postedState q idx elems bytes u) = (none, t) ∧
      Rule.Wrote s t (ws.flatMap (·.cells)) ∧ t.flags = s.flags ∧
      t.dq = (Rule.withQ s q (flightQueue s.dq[q] idx fun f => { f with posted := true })).dq ∧
      t.veElems = elems s.veElems ∧ t.moveBytes = bytes s.moveBytes := by
  have hregion : region (postedState q idx elems bytes u) = region s := Eq.trans (b := region u) rfl (region_of_kept k)
  have hopen : Rule.Writable (postedState q idx elems bytes u) (ws.flatMap (·.cells)) := fun c hc => by
    rw [hregion]
    exact (h c hc).imp_right (And.imp_right (ueWords_of_kept k).trans)
  have hmem : (postedState q idx elems bytes u).mem = s.mem := k.mem
  obtain ⟨hnone, hwrote⟩ := performWrites_engineWrote q.val idx ws hopen
  have hkept := countersKept_performWrites q.val idx ws (postedState q idx elems bytes u)
  exact ⟨_, Prod.ext hnone rfl, fun a => by rw [hwrote.mem, hmem], hkept.flags.trans k.flags,
    hwrote.dq.trans (posted_dq elems bytes k.dq idx), hkept.veElems.trans (congrArg elems k.veElems),
    hkept.moveBytes.trans (congrArg bytes k.moveBytes)⟩

end

section
variable {s u : State} {q : Fin 32} {f : InFlight} (hu : ∀ g ∈ (s.dq[q]).inflight, g.idx = f.idx → g = f)
  (he : f.ended = none)
include hu he

/-- The queue of a posted descriptor, which ends where nothing of it is left at the memory ports. -/
theorem queue_endFlight_posted {t : State} (e : Ended)
    (ht : t.dq[q] = flightQueue s.dq[q] f.idx fun f => { f with posted := true }) :
    (if portReqs t q.val f.idx = [] then endFlight q.val f.idx e t else t).dq[q] =
      flightQueue s.dq[q] f.idx (performedFlight (portReqs t q.val f.idx) e) := by
  split
  next hout =>
    rw [endFlight, modFlight_eq, withQ_dq_same, ht,
      flightQueue_flightQueue _ _ (fun f => { f with posted := true }) _ fun _ => rfl]
    refine flightQueue_congr fun g hg hi => ?_
    rw [hu g hg hi]
    simp only [Function.comp_apply, he, performedFlight, hout, if_true]
  next hout =>
    rw [ht]
    refine flightQueue_congr fun g hg hi => ?_
    rw [hu g hg hi]
    simp only [he, performedFlight, hout, if_false]

variable (hf : f ∈ (s.dq[q]).inflight)
include hf

/-- A finish whose reads are answered and whose writes all land. -/
theorem finishFlight_eq {ws : List EngWrite} {t : State} (hp : f.posted = false)
    (hst : s.ctl.state = .run ∨ s.ctl.state = .hold) (ho : readsOut s q.val f.idx = false)
    (hx : retranslate (s.dq[q]).ctx f.writes s = (.ok ws, u)) {elems : Word → Word}
    {bytes : Vector Word 4 → Vector Word 4}
    (hw : performWrites q.val f.idx ws (postedState q f.idx elems bytes u) = (none, t)) :
    finishFlight q.val f.idx (engineCounted elems bytes) s =
      if portReqs t q.val f.idx = [] then endFlight q.val f.idx (f.verdict.getD endOk) t else t := by
  unfold postedState at hw
  simp only [finishFlight, getFlight_eq_some hf hu, he, running_of_run_or_hold hst, hp, ho, getQ_fin, hx, hw,
    Option.isSome_none, Bool.not_true, Bool.not_false, Bool.or_self, Bool.false_eq_true, if_false, if_true,
    List.isEmpty_iff]

/-- A finish performs the pending bytes, counts, and ends the descriptor where nothing of it is left at the ports. -/
theorem performed_finishFlight {ws : List EngWrite} (hp : f.posted = false)
    (hst : s.ctl.state = .run ∨ s.ctl.state = .hold) (ho : readsOut s q.val f.idx = false)
    (hx : retranslate (s.dq[q]).ctx f.writes s = (.ok ws, u)) (hw : Rule.Writable s (ws.flatMap (·.cells)))
    (elems : Word → Word) (bytes : Vector Word 4 → Vector Word 4) :
    let t := finishFlight q.val f.idx (engineCounted elems bytes) s
    Performed s t q f (ws.flatMap (·.cells)) ∧ t.veElems = elems s.veElems ∧ t.moveBytes = bytes s.moveBytes := by
  have k : Kept s u := by have := kept_retranslate (s.dq[q]).ctx f.writes s; rwa [hx] at this
  obtain ⟨t, ht, hwrote, hflags, hdq, hcounts⟩ := performWrites_posted (q := q) elems bytes k hw f.idx
  have hqueue := queue_endFlight_posted hu he (f.verdict.getD endOk) (t := t) (by rw [hdq, withQ_dq_same])
  have hothers (p : Fin 32) (h : p ≠ q) : t.dq[p] = s.dq[p] := by rw [hdq, withQ_dq_other s q h]
  rw [finishFlight_eq hu he hf hp hst ho hx ht]
  split at hqueue
  next hout =>
    rw [if_pos hout]
    exact ⟨⟨hwrote, hflags, fun p h => (modFlight_dq_other t h ..).trans (hothers p h), hqueue⟩, hcounts⟩
  next hout =>
    rw [if_neg hout]
    exact ⟨⟨hwrote, hflags, hothers, hqueue⟩, hcounts⟩

end

/-- VE counts elements and MOVE bytes; the finish is the same (07:R219, R222). -/
theorem engineFinishes : Rule.EngineFinishes := by
  intro s u q f ws n cells finished hf hu he hp hst ho hx hw
  have finishes := performed_finishFlight hu he hf hp hst ho hx hw
  refine ⟨fun hold => ends_of_next rfl ?_, fun hold hn => ends_of_next rfl ?_⟩
  · obtain ⟨⟨hwrote, hflags, hothers, hqueue⟩, hcounts⟩ := finishes (· + w64 f.count) id
    rw [finishVe, hold]
    exact ⟨⟨hwrote, hflags, hothers, hqueue⟩, hcounts⟩
  · obtain ⟨⟨hwrote, hflags, hothers, hqueue⟩, helems, hbytes⟩ :=
      finishes id fun v => vmod v (dInstance f.desc) (· + w64 f.count)
    rw [finishMove, hold]
    refine ⟨⟨hwrote, hflags, hothers, hqueue⟩, hbytes.trans ?_, helems⟩
    rw [hn, vmod_fin]
    rfl

end Sys2Proof.Machine

/-! SUPPORT. O19: a parity miss in a VE slice (14:R397, R403, R404). -/

namespace Sys2Proof.Machine

/-! A descriptor that ends early (01:R30). -/

/-- Of the bytes that may land only some do. -/
theorem landSome_sublist (k : Nat) (cs : List Host.Cell) : (landSome k cs).Sublist cs := by
  induction cs generalizing k with
  | nil => exact .slnil
  | cons c cs ih =>
    rw [landSome]
    split
    · exact (ih _).cons_cons c
    · exact (ih _).cons c

/-- An address holds what it held, or a byte that has been put there. -/
theorem Memory.get_puts_or (cs m : List Host.Cell) (a : Nat) : Memory.get (Memory.puts m cs) a = Memory.get m a ∨
    ∃ c ∈ cs, c.1 = a ∧ Memory.get (Memory.puts m cs) a = c.2 := by
  rw [Memory.get_puts]
  cases h : cs.reverse.find? (·.1 == a) with
  | none => exact .inl rfl
  | some c => exact .inr ⟨c, by simpa using List.mem_of_find?_eq_some h, by simpa using List.find?_some h, rfl⟩

/-- With no flag update held back, requests that end change nothing but the remote engine. -/
theorem dropRequests_eq {s : State} (h : s.rme.held = []) (lasts : Bool) (p : OutReq → Bool) :
    ∃ r, dropRequests lasts p s = { s with rme := r } := by
  simp only [dropRequests, releaseHeld, h, List.filter_nil, List.foldl_nil]
  exact ⟨_, rfl⟩

theorem failedExc_eq (f : InFlight) (s : State) :
    ∃ n, (failedExc f s).2 = { s with ctl := { s.ctl with free := n } } := by
  unfold failedExc
  split
  · exact ⟨_, rfl⟩
  · exact ⟨_, rfl⟩
  · exact ⟨_, rfl⟩

/-- A descriptor that has ended with an event: nothing of it is left to write. -/
def failedFlight (e : Ended) (exc : BitVec 5) (f : InFlight) : InFlight :=
  { f with ended := some e, writes := [], exc := exc }

/-- A descriptor that is no post ends with an event: of what it had still to write, some bytes land. -/
theorem failFlight_eq {s : State} {q : Fin 32} {f : InFlight} (hf : getFlight s q.val f.idx = some f)
    (he : f.ended = none) (hp : f.posted = false) (hh : s.rme.held = []) (e : Ended) :
    ∃ x n r o k, failFlight q.val f.idx e s =
      { Rule.withQ s q (flightQueue s.dq[q] f.idx (failedFlight e x)) with
        ctl := { s.ctl with free := n }, rme := r, opa := o,
        mem := Memory.puts s.mem (landSome k (f.writes.flatMap (·.cells))) } := by
  obtain ⟨n, hx⟩ := failedExc_eq f s
  obtain ⟨r, hr⟩ := dropRequests_eq (s := landPending (f.writes.flatMap (·.cells)) (failedExc f s).2) (by rw [hx]; exact hh)
    true (ofDescriptor q.val f.idx)
  refine ⟨(failedExc f s).1, n + (f.writes.flatMap (·.cells)).length, r, (dropJob q.val f.idx s).opa, n, ?_⟩
  simp only [failFlight, hf, he, Option.isSome_none, Bool.false_eq_true, if_false, stopFlight, hp, hr, modFlight_eq]
  rw [hx]
  rfl

/-! Counting and retiring a slice (14:R404, R405). -/

theorem uClass_slice (n : Fin 8) : uClass (unitOf 4 n.val) = 4 := by
  simp only [uClass, unitOf, BitVec.toNat_ofNat]; omega

theorem uIdx_slice (n : Fin 8) : uIdx (unitOf 4 n.val) = n := by
  simp only [uIdx, unitOf, BitVec.toNat_ofNat]; omega

theorem putBit_eq_withBit {n : Nat} (v : BitVec n) (i : Nat) (b : Bool) : putBit v i b = Rule.withBit v i b := by
  have h : BitVec.ofNat n (2 ^ i) = 1#n <<< i := by
    apply BitVec.eq_of_toNat_eq
    simp [Nat.shiftLeft_eq, ← Nat.pow_mod]
  rw [putBit, Rule.withBit, h]

/-- The retirement of a slice: its bit, one record, and its fuse to be programmed. -/
theorem retireUnit_slice (n : Fin 8) (cause : BitVec 16) (count : Nat) (s : State) :
    ∃ p tr ve r, retireUnit (unitOf 4 n.val) cause count s = { s with
      fuses := { s.fuses with prog := p },
      svc := { s.svc with trans := tr, ve := ve, retVE := Rule.withBit s.svc.retVE n.val true },
      flt := { s.flt with detected := insertDetected s.ctl.fcycles r s.flt.detected } } := by
  simp only [retireUnit, uClass_slice, uIdx_slice, programRetire, setRetired, setSub, putBit_eq_withBit]
  obtain ⟨p, hp⟩ := programFuse_eq 196 (BitVec.ofNat 32 (2 ^ (24 + n.val)))
    (detect hwRetired clsUnit (unitOf 4 n.val) cause (w64 count) 0
      { endTrans (unitOf 4 n.val) s with svc :=
        { (endTrans (unitOf 4 n.val) s).svc with
          ve := Rule.withBit s.svc.ve n.val false, retVE := Rule.withBit s.svc.retVE n.val true } })
  exact ⟨p, _, _, _, hp⟩

/-- The counts of the slices with one more detection. -/
def sliceCounted (s : State) (n : Fin 8) : Svc :=
  { s.svc with veCount := s.svc.veCount.set n.val (s.svc.veCount[n] + 1) }

/-- One more detection retires the slice: it has failed in the same descriptor before, or comes to the limit. -/
abbrev SliceAtLimit (s : State) (n : Fin 8) (repeated : Bool) : Prop :=
  repeated = true ∨ s.svc.veLimit.toNat ≤ s.svc.veCount[n] + 1

section
variable {s : State} {n : Fin 8} {repeated : Bool}

theorem countSlice_eq : countSlice n.val repeated s =
    if (s.svc.auto = 1 ∧ s.svc.retVE.getLsbD n.val = false) ∧ SliceAtLimit s n repeated then
      retireUnit (unitOf 4 n.val) (if repeated then 0x0002 else 0x0003) (s.svc.veCount[n] + 1)
        { s with svc := sliceCounted s n }
    else { s with svc := sliceCounted s n } := by
  have hc : vget (s.svc.veCount.set n.val (s.svc.veCount[n] + 1)) n.val 0 = s.svc.veCount[n] + 1 := by simp
  simp only [countSlice, vmod_fin, hc, Bool.and_eq_true, Bool.or_eq_true, decide_eq_true_eq, beq_iff_eq, Bool.not_eq_true']
  rfl

theorem countSlice_counts (h : s.svc.auto ≠ 1 ∨ ¬ SliceAtLimit s n repeated) :
    countSlice n.val repeated s = { s with svc := sliceCounted s n } := by
  rw [countSlice_eq]
  exact if_neg fun hr => h.elim (absurd hr.1.1) (absurd hr.2)

theorem countSlice_retires (ha : s.svc.auto = 1) (hr : s.svc.retVE.getLsbD n.val = false)
    (hl : SliceAtLimit s n repeated) : ∃ p tr ve r, countSlice n.val repeated s = { s with
      fuses := { s.fuses with prog := p },
      svc := { sliceCounted s n with trans := tr, ve := ve, retVE := Rule.withBit s.svc.retVE n.val true },
      flt := { s.flt with detected := insertDetected s.ctl.fcycles r s.flt.detected } } := by
  rw [countSlice_eq, if_pos ⟨⟨ha, hr⟩, hl⟩]
  exact retireUnit_slice ..

end

/-! A miss in the oldest descriptor (14:R397, R403). -/

/-- The descriptor runs again (14:R403). -/
abbrev Replays (f : InFlight) : Prop := dReplay f.desc = true ∧ f.attempts < 3

/-- The record of a miss (14:R397). -/
def missRecord (s : State) (q : Fin 32) (n : Fin 8) (elem : Word) (f : InFlight) : FRec :=
  ⟨veParity, if Replays f then clsCorrected else clsQueue, false, BitVec.ofNat 16 (0x0400 + n.val),
    BitVec.ofNat 16 f.attempts, s.beat.value, BitVec.ofNat 64 (f.idx.toNat + q.val * 2 ^ 32), elem⟩

/-- The state with the miss recorded. -/
def missRecorded (s : State) (q : Fin 32) (n : Fin 8) (elem : Word) (f : InFlight) : State :=
  { s with flt := { s.flt with
      detected := insertDetected s.ctl.fcycles (missRecord s q n elem f) s.flt.detected } }

/-- A descriptor that is to run again after a miss in a slice. -/
def replayedFlight (n : Fin 8) (f : InFlight) : InFlight :=
  { f with attempts := f.attempts + 1, replayed := true, slices := n.val :: f.slices }

/-- The state with the descriptor that a miss meets run again, or ended. -/
def missAnswered (s : State) (q : Fin 32) (n : Fin 8) (f : InFlight) : State :=
  if Replays f then Rule.withQ s q (flightQueue s.dq[q] f.idx (replayedFlight n))
  else failFlight q.val f.idx (endWith veParity) s

theorem veParityMiss_eq {s : State} {q : Fin 32} {n : Fin 8} {elem : Word} {f : InFlight}
    (ho : oldestOf s q.val 2 = some f) (hp : f.posted = false) (hst : s.ctl.state = .run ∨ s.ctl.state = .hold)
    (hv : (veInService s).getLsbD n.val = true) : veParityMiss q.val n.val elem s =
      countSlice n.val (f.slices.contains n.val) (missAnswered (missRecorded s q n elem f) q n f) := by
  have hinfo : f.idx.setWidth 64 ||| w64 (q.val * 2 ^ 32) = BitVec.ofNat 64 (f.idx.toNat + q.val * 2 ^ 32) :=
    detectionInfo_descriptor q f.idx
  simp only [veParityMiss, ho, running_of_run_or_hold hst, hp, hv, Bool.not_true, Bool.or_self, Bool.false_eq_true, if_false,
    Bool.and_eq_true, decide_eq_true_eq, hinfo, modFlight_eq]
  rfl

/-- What an answered miss leaves before it is counted. -/
structure MissAnswered (s t : State) (q : Fin 32) (n : Fin 8) (f : InFlight) : Prop where
  svc     : t.svc = s.svc
  flt     : t.flt = s.flt
  veElems : t.veElems = s.veElems
  others  : ∀ p : Fin 32, p ≠ q → t.dq[p] = s.dq[p]
  landed  : ∀ a, Memory.get t.mem a = Memory.get s.mem a ∨
    ∃ w ∈ f.writes, ∃ c ∈ w.cells, c.1 = a ∧ Memory.get t.mem a = c.2
  again   : Replays f → t.mem = s.mem ∧ t.dq[q] = flightQueue s.dq[q] f.idx (replayedFlight n)
  ended   : ¬ Replays f → ∃ x, t.dq[q] = flightQueue s.dq[q] f.idx (failedFlight (endWith veParity) x)

theorem missAnswered_leaves {s : State} {q : Fin 32} (n : Fin 8) {f : InFlight} (hf : getFlight s q.val f.idx = some f)
    (he : f.ended = none) (hp : f.posted = false) (hh : s.rme.held = []) : MissAnswered s (missAnswered s q n f) q n f := by
  unfold missAnswered
  split
  next hmore =>
    exact ⟨rfl, rfl, rfl, fun p h => withQ_dq_other s q h _, fun a => .inl rfl,
      fun _ => ⟨rfl, withQ_dq_same ..⟩, absurd hmore⟩
  next hmore =>
    obtain ⟨x, m, r, o, k, ht⟩ := failFlight_eq hf he hp hh (endWith veParity)
    rw [ht]
    refine ⟨rfl, rfl, rfl, fun p h => withQ_dq_other s q h _, fun a => ?_, fun h => absurd h hmore,
      fun _ => ⟨x, withQ_dq_same ..⟩⟩
    refine (Memory.get_puts_or _ s.mem a).imp_right fun ⟨c, hc, ha, hget⟩ => ?_
    obtain ⟨w, hw, hcw⟩ := List.mem_flatMap.mp ((landSome_sublist k _).subset hc)
    exact ⟨w, hw, c, hcw, ha, hget⟩

/-- A failed descriptor has its outcome and nothing to write. -/
theorem ended_of_failed {d : Queue} {idx : BitVec 32} {e : Ended} {x : BitVec 5} {g : InFlight}
    (hg : g ∈ (flightQueue d idx (failedFlight e x)).inflight) (hi : g.idx = idx) : g.ended = some e ∧ g.writes = [] := by
  obtain ⟨f, -, rfl⟩ := List.mem_map.mp hg
  split at hi
  next h => rw [if_pos h]; exact ⟨rfl, rfl⟩
  next h => exact absurd hi h

theorem veInService_retVE {s : State} {n : Fin 8} (h : (veInService s).getLsbD n.val = true) :
    s.svc.retVE.getLsbD n.val = false := by
  simp only [veInService, BitVec.getLsbD_and, BitVec.getLsbD_not, Bool.and_eq_true, Bool.not_eq_true'] at h
  exact h.2.2

/-- A miss is recorded and answered, then counted, which may retire the slice (14:R403, R404). -/
theorem vectorParity : Rule.VectorParity := by
  intro s q n elem f hold hu hp hst hv hh more atLimit
  obtain ⟨hf, he⟩ := oldestOf_eq_some hold
  have hmiss := missAnswered_leaves (s := missRecorded s q n elem f) n (getFlight_eq_some hf hu) he hp hh
  have heq := veParityMiss_eq (elem := elem) hold hp hst hv
  generalize missAnswered (missRecorded s q n elem f) q n f = u at hmiss heq
  have hlimit : SliceAtLimit u n (f.slices.contains n.val) ↔ atLimit := by
    rw [SliceAtLimit, hmiss.svc, List.contains_iff_mem]
    rfl
  have hauto : u.svc.auto = s.svc.auto := congrArg Svc.auto hmiss.svc
  have hcounted : sliceCounted u n = sliceCounted s n := by rw [sliceCounted, hmiss.svc]; rfl
  have hrecord : u.flt.detected = insertDetected s.ctl.fcycles (missRecord s q n elem f) s.flt.detected :=
    congrArg (·.detected) hmiss.flt
  refine ⟨fun ha hl => ends_of_next rfl ?_, fun hn => ends_of_next rfl ?_⟩ <;> rw [heq]
  · obtain ⟨p, tr, ve, r, hr⟩ := countSlice_retires (hauto.trans ha) (veInService_retVE (s := u) (by
      rw [veInService, hmiss.svc]; exact hv)) (hlimit.mpr hl)
    rw [hr, hcounted, hmiss.svc]
    refine ⟨rfl, hmiss.veElems, hmiss.others, ?_⟩
    rw [insertDetected_length, hrecord, insertDetected_length]
  · rw [countSlice_counts (hn.imp (hauto ▸ ·) (mt hlimit.mp)), hcounted]
    refine ⟨rfl, hmiss.veElems, hmiss.others, fun hm => (hmiss.again hm).1, hmiss.landed, hrecord, fun hm => ?_,
      fun hm g hg hi => ?_⟩
    · exact congrArg Queue.inflight (hmiss.again hm).2
    · obtain ⟨x, hx⟩ := hmiss.ended hm
      exact ended_of_failed (hx ▸ hg) hi

/-- Settles O19: a finish whose writes all land performs them in order, and a miss is answered and then counted. -/
theorem enginesFinish : Obligations.EnginesFinish := ⟨engineFinishes, vectorParity⟩

end Sys2Proof.Machine

/-! SUPPORT. What the requesters of the memory ports do (15:R425, R426; log 9). -/

namespace Sys2Proof.Machine

theorem setBnd_eq (i : Nat) (s : State) :
    setBnd i s = { s with bnd := { s.bnd with flags := Rule.withBit s.bnd.flags i true } } := by
  rw [← putBit_eq_withBit]
  rfl

/-- Asking for reads changes the memory ports only. -/
theorem askPorts_eq (k : Nat) (us : List Nat) (s : State) : ∃ m, askPorts k us s = { s with memp := m } := by
  induction us generalizing s with
  | nil => exact ⟨s.memp, rfl⟩
  | cons u us ih =>
    have hpost : ∃ m, (if (s.memp.out ++ s.memp.waiting).any fun r => r.waiter == .command k && r.unit == u then s
        else postReq u false (.command k) [] s) = { s with memp := m } := by
      unfold postReq
      split
      · exact ⟨s.memp, rfl⟩
      · dsimp only
        split <;> exact ⟨_, rfl⟩
    obtain ⟨m, hm⟩ := hpost
    rw [askPorts, hm]
    exact ih _

theorem tryPorts_of_answered {k : Nat} {f : State → State} {s : State} (h : (f (portView k s)).memp.asks = []) :
    tryPorts k f s = (portDone k s (f (portView k s)), true) := by
  simp [tryPorts, h]

theorem tryPorts_of_unanswered {k : Nat} {f : State → State} {s : State} (h : (f (portView k s)).memp.asks ≠ []) :
    ∃ m, tryPorts k f s = ({ s with memp := m }, false) := by
  obtain ⟨m, hm⟩ := askPorts_eq k (f (portView k s)).memp.asks s
  exact ⟨m, by simp [tryPorts, h, hm]⟩

end Sys2Proof.Machine

/-! SUPPORT. Clean stage memory, and what memory holds after writes (01:R32; 08:R233, R236). -/

namespace Sys2Proof.Machine

theorem region_eq_stage_iff {s : State} {pa : Nat} :
    region s pa = .stage ↔ stageBase ≤ pa ∧ pa < stageBase + smBytes s := by
  have hm : memBytes s ≤ stageBase := by unfold memBytes stageBase; split <;> norm_num
  unfold region
  by_cases h : stageBase ≤ pa ∧ pa < stageBase + smBytes s
  · simp [h, show ¬ pa < memBytes s by omega]
  · simp only [h, iff_false, Bool.and_eq_true, decide_eq_true_eq, if_false]
    split
    · simp
    · split
      · simp
      · split <;> simp

/-- A block that begins in stage memory ends there: its size is a number of blocks. -/
theorem region_block_stage {s : State} {n i : Nat} (h : region s (n * 256) = .stage) (hi : i < 256) :
    region s (n * 256 + i) = .stage := by
  rw [region_eq_stage_iff] at *
  obtain ⟨h1, h2⟩ := h
  have hs : smBytes s % 256 = 0 := by unfold smBytes; split <;> rfl
  have hb : stageBase % 256 = 0 := rfl
  omega

/-- Where every write to an address is of one byte, and there is one, that byte is read. -/
theorem Memory.get_puts_of_mem {m cs : List Host.Cell} {a : Nat} {b : Byte} (h : ∃ c ∈ cs, c.1 = a)
    (hb : ∀ c ∈ cs, c.1 = a → c.2 = b) : Memory.get (Memory.puts m cs) a = b := by
  obtain ⟨c, hc, ha⟩ := h
  rw [Memory.get_puts]
  cases hf : cs.reverse.find? (·.1 == a) with
  | none => exact absurd (List.find?_eq_none.mp hf c (List.mem_reverse.mpr hc)) (by simp [ha])
  | some x => exact hb x (List.mem_reverse.mp (List.mem_of_find?_eq_some hf)) (by simpa using List.find?_some hf)

section
variable {s : State} (hu : s.sm.ueWords = []) (hc : s.sm.ceWords = [])
include hu hc

theorem readSmWords_clean (ws : List Nat) : readSmWords ws s = (.clean, s) := by
  induction ws with
  | nil => rfl
  | cons w ws ih => simp [readSmWords, readSmWord, hu, hc, ih, worse]

theorem storeSmWord_clean (w : Nat) (cs : List Host.Cell) :
    storeSmWord w cs s = { s with mem := Memory.puts s.mem cs } := by
  have he (l : List Nat) (h : l = []) : l.erase w = l := by rw [h]; rfl
  rw [storeSmWord, he _ hu, he _ hc]

theorem writeSmWord_clean (w : Nat) (cs : List Host.Cell) :
    writeSmWord w cs s = (true, { s with mem := Memory.puts s.mem cs }) := by
  have hr : readSmWord w s = (.clean, s) := by simp [readSmWord, hu, hc]
  simp [writeSmWord, hr, storeSmWord_clean hu hc]

theorem writeSmGroups_clean (gs : List (List Host.Cell)) :
    writeSmGroups gs s = (none, { s with mem := Memory.puts s.mem gs.flatten }) := by
  induction gs generalizing s with
  | nil => rfl
  | cons g gs ih =>
    simp only [writeSmGroups, writeSmWord_clean hu hc, if_true, List.flatten_cons, Memory.puts_append]
    exact ih (s := { s with mem := Memory.puts s.mem g }) hu hc

/-- Bytes of stage memory without errors are written, and nothing else changes. -/
theorem writeAccess_clean (al th : Bool) (w : Waiter) {cs : List Host.Cell} (hr : ∀ c ∈ cs, region s c.1 = .stage) :
    writeAccess al th w cs s = (none, { s with mem := Memory.puts s.mem cs }) := by
  have hext : (cs.filter fun c => region s c.1 == .ext) = [] :=
    List.filter_eq_nil_iff.mpr fun c hc => by simp [hr c hc]
  have hstage : (cs.filter fun c => region s c.1 == .stage) = cs :=
    List.filter_eq_self.mpr fun c hc => by simp [hr c hc]
  have hmend : mendLines [] s = s := by simp [mendLines, groupCells]
  simp only [writeAccess, hext, hstage, hmend]
  rw [show writeUnits al th w (groupCells 64 []) s = s from rfl, writeSmGroups_clean hu hc, groupCells_flatten]

end

end Sys2Proof.Machine

/-! SUPPORT. O12: requests of the host window (08:R243; 13:R382; 15:R430). -/

namespace Sys2Proof.Machine

/-! Reads and writes of stage memory. -/

/-- The granules of a block, in order, are its bytes. -/
theorem flatMap_enabledIn (be : BitVec 256) : (List.range 8).flatMap (enabledIn be 32) = maskBits be := by
  have hall : (List.range 8).flatMap (fun g => (List.range 32).map (· + g * 32)) = List.range 256 := by decide +kernel
  unfold enabledIn maskBits
  rw [← List.filter_flatMap, hall]

section
variable {s : State} {n : Nat} (hu : s.sm.ueWords = []) (hc : s.sm.ceWords = []) (hr : region s (n * 256) = .stage)
include hu hc hr

theorem hostGranule_clean (be : BitVec 256) {g : Nat} (hg : g < 8) : hostGranule be (n * 256) 32 g s =
    ((enabledIn be 32 g).map fun j => (j, Memory.get s.mem (n * 256 + j)), s) := by
  have ha : readAccess false (n * 256 + g * 32) 32 s = (.clean, s) := by
    rw [readAccess, region_block_stage hr (by omega)]
    exact readSmWords_clean hu hc _
  unfold hostGranule
  split
  · rename_i he; rw [he]; rfl
  · rename_i he; simp [ha, he]

theorem hostGranules_clean (be : BitVec 256) {gs : List Nat} (hg : ∀ g ∈ gs, g < 8) :
    hostGranules be (n * 256) 32 gs s =
      ((gs.flatMap (enabledIn be 32)).map fun j => (j, Memory.get s.mem (n * 256 + j)), s) := by
  induction gs with
  | nil => rfl
  | cons g gs ih =>
    obtain ⟨hg, hgs⟩ := List.forall_mem_cons.mp hg
    simp [hostGranules, hostGranule_clean hu hc hr be hg, ih hgs]

theorem hostMemRead_clean (be : BitVec 256) : hostMemRead be (n * 256) s =
    ((maskBits be).map fun j => (j, Memory.get s.mem (n * 256 + j)), s) := by
  rw [hostMemRead, if_pos (by simp [hr]), hostGranules_clean hu hc hr be (by simp), flatMap_enabledIn]

theorem hostMemWrite_clean (be : BitVec 256) (data : BitVec 2048) :
    hostMemWrite be data (n * 256) s = { s with mem := Memory.puts s.mem (hostCells be data (n * 256)) } := by
  have hcells : ∀ c ∈ hostCells be data (n * 256), region s c.1 = .stage := fun c hc => by
    obtain ⟨i, hi, rfl⟩ := List.mem_map.mp hc
    exact region_block_stage hr (List.mem_range.mp (List.mem_filter.mp hi).1)
  suffices h : ∀ (gs : List (List Host.Cell)) (m : List Host.Cell), (∀ c ∈ gs.flatten, region s c.1 = .stage) →
      gs.foldl (fun s g => match writeAccess false true .hostWrite g s with
        | (some a, s) => detect smUe clsInfo 0x0900 0 (w64 a) 0 s true
        | (none, s) => s) { s with mem := m } = { s with mem := Memory.puts m gs.flatten } by
    have := h (groupCells 32 (hostCells be data (n * 256))) s.mem (by rwa [groupCells_flatten])
    rwa [groupCells_flatten] at this
  intro gs
  induction gs with
  | nil => exact fun _ _ => rfl
  | cons g gs ih =>
    intro m hg
    rw [List.flatten_cons] at hg
    have hw := writeAccess_clean (s := { s with mem := m }) hu hc false true .hostWrite
      fun c hc => hg c (List.mem_append_left _ hc)
    rw [List.foldl_cons, hw, List.flatten_cons, Memory.puts_append]
    exact ih _ fun c hc => hg c (List.mem_append_right _ hc)

end

theorem get_puts_hostCells (be : BitVec 256) (data : BitVec 2048) (pa : Nat) (m : List Host.Cell) (a : Nat) :
    Memory.get (Memory.puts m (hostCells be data pa)) a =
      if pa ≤ a ∧ a < pa + 256 ∧ be.getLsbD (a - pa) = true then data.extractLsb' (8 * (a - pa)) 8
      else Memory.get m a := by
  have hmem (c : Host.Cell) : c ∈ hostCells be data pa ↔
      ∃ i, (i < 256 ∧ be.getLsbD i = true) ∧ (pa + i, data.extractLsb' (8 * i) 8) = c := by
    simp [hostCells, maskBits]
  split
  next h =>
    refine Memory.get_puts_of_mem ⟨_, (hmem _).mpr ⟨a - pa, ⟨by omega, h.2.2⟩, rfl⟩, by simp; omega⟩ fun c hc ha => ?_
    obtain ⟨i, -, rfl⟩ := (hmem c).mp hc
    rw [← ha, Nat.add_sub_cancel_left]
  next h =>
    refine Memory.get_puts_other _ m a fun c hc ha => h ?_
    obtain ⟨i, ⟨hi, hb⟩, rfl⟩ := (hmem c).mp hc
    subst ha
    exact ⟨by simp, by simpa using hi, by simpa using hb⟩

/-! The request and its turn. -/

/-- The state in which a request has been taken, behind those that wait. -/
def hostTaken (r : HostReq) (s : State) : State :=
  { s with bnd := { s.bnd with hwCred := s.bnd.hwCred + 1, hostHeld := s.bnd.hostHeld ++ [r] } }

section
variable {s : State} {r : HostReq}

/-- The state with the request's credit returned, and of the answers of the memory ports the window's own used up. -/
def hostServed (s : State) : State :=
  { s with
    bnd := { s.bnd with hwCred := s.bnd.hwCred + 1 },
    memp := { s.memp with got := s.memp.got.filter (·.1 != hostPlace), asks := [] } }

/-- A request that finds none waiting, and asks for no read, changes memory and the answers as its performance does. -/
theorem hostRequest_of_idle {m : List Host.Cell} {o : List (BitVec 6 × BitVec 2048)} (h : s.bnd.hostHeld = [])
    (hp : hostPerform r (portView hostPlace (hostTaken r s)) =
      { portView hostPlace (hostTaken r s) with mem := m, bnd := { (hostTaken r s).bnd with hostOut := o } }) :
    hostRequest r s = { hostServed s with mem := m, bnd := { (hostServed s).bnd with hostOut := o } } := by
  have hl : (hostTaken r s).bnd.hostHeld = [r] := by simp [hostTaken, h]
  change hostRun (hostTaken r s).bnd.hostHeld.length (hostTaken r s) = _
  rw [hl]
  simp only [List.length_singleton, hostRun, hl, tryPorts_of_answered (f := hostPerform r) (by rw [hp]; rfl), hp]
  simp only [hostServed, h]
  rfl

/-- A request behind one whose reads are not answered waits. -/
theorem hostRequest_of_held {x : HostReq} {rest : List HostReq} (h : s.bnd.hostHeld = x :: rest)
    (ha : (hostPerform x (portView hostPlace (hostTaken r s))).memp.asks ≠ []) :
    ∃ m, hostRequest r s = { hostTaken r s with memp := m } := by
  have hl : (hostTaken r s).bnd.hostHeld = x :: (rest ++ [r]) := by simp [hostTaken, h]
  obtain ⟨m, hm⟩ := tryPorts_of_unanswered ha
  refine ⟨m, ?_⟩
  change hostRun (hostTaken r s).bnd.hostHeld.length (hostTaken r s) = _
  rw [hl]
  simp only [List.length_cons, hostRun, hl, hm]

theorem hostStop_eq_none {addr : BitVec 44} (be : BitVec 256) (data : BitVec 2048)
    (h : region s (addr.toNat * 256) ≠ .ctl) : hostStop s addr be data = none := by
  simp [hostStop, h]

theorem effect_hostWindowWrite {addr : BitVec 44} {be : BitVec 256} {data : BitVec 2048}
    (h : hostStop s addr be data = none) : effect (.hostWindowWrite addr be data false) s =
      .next (settle s (hostRequest (.write addr be data) s)) := by
  simp [effect, effectHostWindowWrite, h, finish]

theorem hostRead_of_unassigned {tag : BitVec 6} {addr : BitVec 44} {be : BitVec 256}
    (h : region s (addr.toNat * 256) = .none ∨ region s (addr.toNat * 256) = .remote) :
    hostRead tag addr be s = hostAnswer tag (onesIn be) s := by
  rcases h with h | h <;> simp only [hostRead, h]

theorem hostWrite_of_unassigned {addr : BitVec 44} {be : BitVec 256} {data : BitVec 2048}
    (h : region s (addr.toNat * 256) = .none ∨ region s (addr.toNat * 256) = .remote) :
    hostWrite addr be data s = s := by
  rcases h with h | h <;> simp [hostWrite, h]

theorem hostWrite_in_boot {addr : BitVec 44} {be : BitVec 256} {data : BitVec 2048} (h : s.ctl.state = .boot) :
    hostWrite addr be data s = s := by
  simp [hostWrite, h]

theorem hostRead_of_stage {tag : BitVec 6} {addr : BitVec 44} {be : BitVec 256} (hb : s.ctl.state ≠ .boot)
    (hu : s.sm.ueWords = []) (hc : s.sm.ceWords = []) (h : region s (addr.toNat * 256) = .stage) :
    hostRead tag addr be s =
      hostAnswer tag ((maskBits be).map fun j => (j, Memory.get s.mem (addr.toNat * 256 + j))) s := by
  simp [hostRead, h, hb, hostMemRead_clean hu hc h]

theorem hostWrite_of_stage {addr : BitVec 44} {be : BitVec 256} {data : BitVec 2048} (hb : s.ctl.state ≠ .boot)
    (hu : s.sm.ueWords = []) (hc : s.sm.ceWords = []) (h : region s (addr.toNat * 256) = .stage) :
    hostWrite addr be data s =
      { s with mem := Memory.puts s.mem (hostCells be data (addr.toNat * 256)) } := by
  simp [hostWrite, h, hb, hostMemWrite_clean hu hc h]

/-- A write that nothing stops, of a request that is performed at once. -/
theorem gives_hostWindowWrite {addr : BitVec 44} {be : BitVec 256} {data : BitVec 2048} {t : State}
    (hs : hostStop s addr be data = none) (h : hostRequest (.write addr be data) s = t) :
    Rule.Gives (.hostWindowWrite addr be data false) s t :=
  gives_of_next (effect_hostWindowWrite hs) h

end

/-! The timeout of a read (15:R430). -/

theorem heldRead_eq_some_iff {tag : BitVec 6} {r : HostReq} {e : BitVec 256} :
    heldRead tag r = some e ↔ ∃ a, r = .read tag a e := by
  cases r with
  | read t a be => by_cases h : t = tag <;> simp [heldRead, h]
  | write => simp [heldRead]

theorem heldRead_eq_none {tag : BitVec 6} {l : List HostReq} (h : ∀ x f, .read tag x f ∉ l) {r : HostReq} (hr : r ∈ l) :
    heldRead tag r = none := by
  cases he : heldRead tag r with
  | none => rfl
  | some e => obtain ⟨a, rfl⟩ := heldRead_eq_some_iff.mp he; exact absurd hr (h a e)

/-- Of the requests that wait the one read of a tag leaves the others, in their order. -/
theorem heldRead_of_split {tag : BitVec 6} {old young : List HostReq} {a : BitVec 44} {e : BitVec 256}
    (hn : ∀ x f, .read tag x f ∉ old ++ young) :
    (old ++ .read tag a e :: young).findSome? (heldRead tag) = some e ∧
    (old ++ .read tag a e :: young).filter (fun r => (heldRead tag r).isNone) = old ++ young := by
  have hread : heldRead tag (.read tag a e) = some e := heldRead_eq_some_iff.mpr ⟨a, rfl⟩
  have hother (r : HostReq) (hr : r ∈ old ++ young) : heldRead tag r = none := heldRead_eq_none hn hr
  have hold : old.findSome? (heldRead tag) = none :=
    List.findSome?_eq_none_iff.mpr fun r hr => hother r (List.mem_append_left _ hr)
  constructor
  · rw [List.findSome?_append, hold, Option.none_or, List.findSome?_cons, hread]
  · have hall : (old ++ young).filter (fun r => (heldRead tag r).isNone) = old ++ young :=
      List.filter_eq_self.mpr fun r hr => by rw [hother r hr]; rfl
    rwa [List.filter_append, List.filter_cons, hread, if_neg (by simp), ← List.filter_append]

theorem effect_hostWindowReadTimeout {s : State} {tag : BitVec 6} {old young : List HostReq} {a : BitVec 44}
    {e : BitVec 256} (hh : s.bnd.hostHeld = old ++ .read tag a e :: young)
    (hn : ∀ x f, .read tag x f ∉ old ++ young) : effect (.hostWindowReadTimeout tag) s =
      .next (settle s (hostAnswer tag (onesIn e) { s with bnd := { s.bnd with hostHeld := old ++ young } })) := by
  obtain ⟨hfirst, hrest⟩ := heldRead_of_split (a := a) (e := e) hn
  simp only [effect, effectHostWindowReadTimeout, hh, hfirst, hrest]

/-- Settles O12: a request is performed in its turn; what it does there follows from the region of its address. -/
theorem hostWindow : Obligations.HostWindow := by
  intro s tag addr be data pa answer ones credit taken split
  have reads {d : List Host.Cell} (h : hostRequest (.read tag addr be) s = hostAnswer tag d (hostServed s)) :
      Rule.Gives (.hostWindowRead tag addr be false) s (answer taken (hostData d)) :=
    gives_of_next (u := hostRequest (.read tag addr be) s) rfl h
  refine ⟨gives_of_next (u := splitRequest (some (tag, be)) s) rfl ?_,
    gives_of_next (u := splitRequest none s) rfl (setBnd_eq 12 credit), fun hi hr => ⟨?_, ?_⟩, fun hi hb => ?_,
    fun hi hb hu hc hr => ⟨?_, ?_⟩, fun r rest hh hr => ⟨fun ha => ?_, fun ha => ?_⟩, fun old a e young hh hn => ?_⟩
  · exact congrArg (hostAnswer tag (onesIn be)) (setBnd_eq 12 credit)
  · exact reads (hostRequest_of_idle hi (hostRead_of_unassigned hr))
  · exact gives_hostWindowWrite (hostStop_eq_none be data fun h => by rcases hr with hr | hr <;> cases hr.symm.trans h)
      (hostRequest_of_idle hi (hostWrite_of_unassigned hr))
  · exact gives_hostWindowWrite (by simp [hostStop, hb]) (hostRequest_of_idle hi (hostWrite_in_boot hb))
  · exact reads (hostRequest_of_idle hi (hostRead_of_stage hb hu hc hr))
  · exact ⟨_, gives_hostWindowWrite (hostStop_eq_none be data fun h => by cases hr.symm.trans h)
      (hostRequest_of_idle hi (hostWrite_of_stage hb hu hc hr)), fun a => get_puts_hostCells .., rfl⟩
  · obtain ⟨m, hm⟩ := hostRequest_of_held (r := .read tag addr be) hh ha
    exact ends_of_next (u := hostRequest (.read tag addr be) s) rfl (by rw [hm]; rfl)
  · obtain ⟨m, hm⟩ := hostRequest_of_held (r := .write addr be data) hh ha
    exact ends_of_next (effect_hostWindowWrite (hostStop_eq_none be data hr)) (by rw [hm]; rfl)
  · exact gives_of_effect (effect_hostWindowReadTimeout hh hn)

end Sys2Proof.Machine

/-! SUPPORT. O39: the scrubber, the counts and the spares of stage memory (08:R234, R236, R238, R239; 14:R404, R405). -/

namespace Sys2Proof.Machine

theorem uClass_bank {b : Nat} (h : b < 128) : uClass (unitOf 6 b) = 6 := by
  simp only [uClass, unitOf, BitVec.toNat_ofNat]; omega

theorem uIdx_bank {b : Nat} (h : b < 128) : uIdx (unitOf 6 b) = b := by
  simp only [uIdx, unitOf, BitVec.toNat_ofNat]; omega

/-! Spares (08:R238). -/

/-- The copies that wait decide which one runs, and nothing else. -/
theorem nextCopy_eq (s : State) : ∃ c, nextCopy s = { s with sm := { s.sm with copy := c } } := by
  unfold nextCopy
  split
  · exact ⟨s.sm.copy, rfl⟩
  · split
    · split
      · exact ⟨_, rfl⟩
      · exact ⟨s.sm.copy, rfl⟩
    · exact ⟨s.sm.copy, rfl⟩

theorem nextCopy_of_none {s : State} (h : ∀ t ∈ s.svc.trans, t.2 = .entering ∧ uIdx t.1 ∈ s.sm.copied) :
    nextCopy s = s := by
  have hf : (s.svc.trans.find? fun t => uClass t.1 == 6 && (spareOf s (uIdx t.1)).isSome &&
      !(t.2 == .entering && s.sm.copied.contains (uIdx t.1))) = none :=
    List.find?_eq_none.mpr fun t ht => by simp [h t ht]
  unfold nextCopy
  split
  · rfl
  · rw [hf]

theorem spareOf_eq (s : State) (b : Nat) :
    spareOf s b = (List.finRange 4).find? fun i => (vget s.sm.spare i.val none).any (·.val == b) := by
  unfold spareOf
  congr 1
  funext i
  cases vget s.sm.spare i.val none <;> rfl

theorem spareOf_congr {s t : State} (h : t.sm.spare = s.sm.spare) : spareOf t = spareOf s := by
  funext b
  rw [spareOf, spareOf, h]

/-- A spare taken for a bank that none served serves it. -/
theorem spareOf_takeSpare {s : State} {b : Nat} (hb : b < 128) (h : spareOf s b = none) (i : Fin 4) :
    spareOf (takeSpare i b s) b = some i := by
  rw [spareOf_eq, List.find?_eq_none] at h
  have hserves : (fun j : Fin 4 => (vget (takeSpare i b s).sm.spare j.val none).any (·.val == b)) = fun j => j == i := by
    funext j
    by_cases hj : j = i
    · subst hj
      simp [takeSpare, bankFin, Nat.mod_eq_of_lt hb]
    · have hother : vget (takeSpare i b s).sm.spare j.val none = vget s.sm.spare j.val none :=
        vget_vmod_other _ _ _ _ _ fun e => hj (Fin.ext e.symm)
      rw [hother, Bool.eq_false_iff.mpr (h j (List.mem_finRange j)), beq_eq_false_iff_ne.mpr hj]
  have hfound : ∀ i : Fin 4, (List.finRange 4).find? (fun j => j == i) = some i := by decide
  rw [spareOf_eq, hserves, hfound]

/-! Retirement (14:R405). -/

theorem programRetire_eq (u : BitVec 16) (s : State) :
    ∃ p, programRetire u s = { s with fuses := { s.fuses with prog := p } } := by
  unfold programRetire
  dsimp only
  split
  · exact programFuse_eq ..
  · exact programFuse_eq ..
  · exact programFuse_eq ..
  · obtain ⟨p, hp⟩ := programFuse_eq (197 + uIdx u / 32) (BitVec.ofNat 32 (2 ^ (uIdx u % 32))) s
    rw [hp]
    split
    · exact programFuse_eq ..
    · exact ⟨p, rfl⟩
  · exact ⟨s.fuses.prog, rfl⟩

/-- A bank that no spare serves takes a free one. -/
theorem bankToSpare_eq {s : State} {b : Nat} {i : Fin 4} (hn : spareOf s b = none) (hf : freeSpare s = some i) :
    ∃ c, bankToSpare b s = { s with
      svc := { s.svc with trans := s.svc.trans ++ [(unitOf 6 b, .retiring)] },
      sm := { (takeSpare i b s).sm with copy := c } } := by
  obtain ⟨c, hc⟩ := nextCopy_eq (addTrans (unitOf 6 b) .retiring (takeSpare i b s))
  refine ⟨c, ?_⟩
  rw [bankToSpare, hn, hf]
  exact hc

/-- The state in which a bank is retired, with no transition of it under way. -/
def bankRetired (b : Nat) (s : State) : State :=
  { s with svc := { s.svc with
      trans := s.svc.trans.filter (·.1 != unitOf 6 b),
      bank := putBit s.svc.bank b false, retBank := putBit s.svc.retBank b true } }

/-- The retirement of a bank that no spare serves takes a free one. -/
theorem retireBank_leaves {s : State} {b : Nat} {i : Fin 4} (hb : b < 128) (hn : spareOf s b = none)
    (hf : freeSpare s = some i) (cause : BitVec 16) (count : Nat) :
    let t := retireBank b cause count s
    t.svc.retBank = putBit s.svc.retBank b true ∧ spareOf t b = some i ∧ t.dq = s.dq ∧
      t.sm.ceCount = s.sm.ceCount := by
  have hset : setRetired (unitOf 6 b) (setSub (unitOf 6 b) false (endTrans (unitOf 6 b) s)) = bankRetired b s := by
    simp only [setRetired, setSub, uClass_bank hb, uIdx_bank hb, endTrans, bankRetired]
  obtain ⟨c, hc⟩ := bankToSpare_eq (s := bankRetired b s) (b := b) hn hf
  rw [retireBank, hset, hc]
  obtain ⟨p, hp⟩ := programRetire_eq (unitOf 6 b) (detect hwRetired clsUnit (unitOf 6 b) cause (w64 count) 0
    { bankRetired b s with
      svc := { (bankRetired b s).svc with trans := (bankRetired b s).svc.trans ++ [(unitOf 6 b, .retiring)] },
      sm := { (takeSpare i b (bankRetired b s)).sm with copy := c } })
  intro t
  have ht : t = _ := hp
  rw [ht]
  exact ⟨rfl, (congrFun (spareOf_congr rfl) b).trans (spareOf_takeSpare (s := bankRetired b s) hb hn i), rfl, rfl⟩

/-! A corrected word (08:R234, R239; 14:R404). -/

/-- The corrected words of a bank in the window, one more counted. -/
def ceCounted (s : State) (b : Nat) : Nat := ((s.sm.ceWindow.find? (·.1 == b)).map (·.2)).getD 0 + 1

/-- The state with one more of them counted in the window. -/
def ceWindowed (b : Nat) (s : State) : State :=
  { s with sm := { s.sm with ceWindow := (b, ceCounted s b) :: s.sm.ceWindow.filter (·.1 != b) } }

section
variable {s : State} {b : Nat}

theorem smWindow_counts (h : s.svc.auto ≠ 1 ∨ ¬ s.svc.smLimit.toNat ≤ ceCounted s b) : smWindow b s = ceWindowed b s := by
  have hc : (s.svc.smLimit.toNat ≤ ceCounted s b && s.svc.auto == 1) = false := by
    rcases h with h | h
    · rw [beq_eq_false_iff_ne.mpr h, Bool.and_false]
    · rw [decide_eq_false h, Bool.false_and]
  unfold ceCounted at hc
  simp only [smWindow, hc, Bool.false_and, Bool.false_eq_true, if_false]
  rfl

theorem smWindow_retires (ha : s.svc.auto = 1) (hl : s.svc.smLimit.toNat ≤ ceCounted s b)
    (hr : s.svc.retBank.getLsbD b = false) (hn : spareOf s b = none) (hf : freeSpare s ≠ none)
    (ht : transOf s (unitOf 6 b) = none) : smWindow b s = retireBank b 4 (ceCounted s b) (ceWindowed b s) := by
  have hn' : spareOf (ceWindowed b s) b = none := hn
  have hf' : (freeSpare (ceWindowed b s)).isSome = true := Option.isSome_iff_ne_none.mpr hf
  have ht' : transOf (ceWindowed b s) (unitOf 6 b) = none := ht
  unfold ceWindowed ceCounted at *
  simp only [smWindow, hn', hf', ht', ha, hr, hl]
  rfl

end

/-- The state in which a corrected word has been counted and, the first of its bank in the beat, recorded. -/
def ceNoted (pa : Nat) (s : State) : State :=
  let u := { s with sm := { s.sm with ceLast := BitVec.ofNat 8 (bankOf pa), ceCount := s.sm.ceCount + 1 } }
  if (smCe, bankOf pa) ∈ s.beat.marks then u
  else detect smCe clsCorrected (BitVec.ofNat 16 (0x0600 + bankOf pa)) 0 (w64 pa) 0
    { u with beat := { s.beat with marks := (smCe, bankOf pa) :: s.beat.marks } } true

theorem countSmCe_eq (pa : Nat) (s : State) : countSmCe pa s = smWindow (bankOf pa) (ceNoted pa s) := by
  by_cases h : (smCe, bankOf pa) ∈ s.beat.marks <;> simp [countSmCe, ceNoted, firstInBeat, h]

section
variable (pa : Nat) (s : State)

theorem ceNoted_sm : (ceNoted pa s).sm =
    { s.sm with ceLast := BitVec.ofNat 8 (bankOf pa), ceCount := s.sm.ceCount + 1 } := by
  unfold ceNoted; split <;> rfl

@[simp] theorem ceNoted_svc : (ceNoted pa s).svc = s.svc := by unfold ceNoted; split <;> rfl
@[simp] theorem ceNoted_mem : (ceNoted pa s).mem = s.mem := by unfold ceNoted; split <;> rfl
@[simp] theorem ceNoted_dq : (ceNoted pa s).dq = s.dq := by unfold ceNoted; split <;> rfl

theorem ceNoted_detected : (ceNoted pa s).flt.detected.length =
    s.flt.detected.length + if (smCe, bankOf pa) ∈ s.beat.marks then 0 else 1 := by
  unfold ceNoted
  split
  · rfl
  · exact insertDetected_length ..

end

/-- The corrected word that brings a bank to the limit retires it onto a free spare. -/
theorem countSmCe_retires {pa : Nat} {s : State} {i : Fin 4} (ha : s.svc.auto = 1)
    (hl : s.svc.smLimit.toNat ≤ ceCounted s (bankOf pa)) (hr : s.svc.retBank.getLsbD (bankOf pa) = false)
    (hn : spareOf s (bankOf pa) = none) (hf : freeSpare s = some i) (ht : transOf s (unitOf 6 (bankOf pa)) = none) :
    let t := countSmCe pa s
    t.svc.retBank.getLsbD (bankOf pa) = true ∧ spareOf t (bankOf pa) = some i ∧ t.dq = s.dq ∧
      t.sm.ceCount = s.sm.ceCount + 1 := by
  have hsm := ceNoted_sm pa s
  have hcount : ceCounted (ceNoted pa s) (bankOf pa) = ceCounted s (bankOf pa) := by rw [ceCounted, hsm]; rfl
  have hspare : spareOf (ceNoted pa s) (bankOf pa) = none := by rw [spareOf_congr (s := s) (by rw [hsm]), hn]
  have hfree : freeSpare (ceNoted pa s) = some i := by rw [← hf]; simp only [freeSpare, hsm]
  obtain ⟨hbank, hserves, hdq, hce⟩ := retireBank_leaves (s := ceWindowed (bankOf pa) (ceNoted pa s)) (bankOf_lt pa)
    hspare hfree 4 (ceCounted (ceNoted pa s) (bankOf pa))
  intro t
  have h : t = _ := (countSmCe_eq pa s).trans (smWindow_retires (by rwa [ceNoted_svc]) (by rwa [ceNoted_svc, hcount])
    (by rwa [ceNoted_svc]) hspare (by rw [hfree]; exact Option.some_ne_none i) (by rwa [transOf, ceNoted_svc]))
  rw [h]
  refine ⟨?_, hserves, hdq.trans (ceNoted_dq pa s), hce.trans (congrArg Stage.ceCount hsm)⟩
  rw [hbank]
  exact getLsbD_putBit_same _ (bankOf_lt pa)

/-! The scrubber (08:R236). -/

section
variable {s : State} {word : Nat} {found : ReadStat}

theorem scrubWord_absent (h : smBytes s ≤ word * 32) : scrubWord word found s = s := by simp [scrubWord, h]

variable (ha : ¬ smBytes s ≤ word * 32)

theorem scrubWord_clean (hu : (stageBase + word * 32) / 32 ∉ s.sm.ueWords)
    (hc : (stageBase + word * 32) / 32 ∉ s.sm.ceWords) : scrubWord word .clean s = s := by
  simp [scrubWord, hu, hc]

include ha

theorem scrubWord_corrected (hu : (stageBase + word * 32) / 32 ∉ s.sm.ueWords)
    (hf : found = .corrected ∨ (found = .clean ∧ (stageBase + word * 32) / 32 ∈ s.sm.ceWords)) :
    scrubWord word found s = countSmCe (stageBase + word * 32)
      { s with sm := { s.sm with ceWords := s.sm.ceWords.erase ((stageBase + word * 32) / 32) } } := by
  rcases hf with rfl | ⟨rfl, hc⟩
  · by_cases hc : (stageBase + word * 32) / 32 ∈ s.sm.ceWords <;> simp [scrubWord, ha, hu, hc, worse]
  · simp [scrubWord, ha, hu, hc, worse]

theorem scrubWord_uncorrectable (hf : (stageBase + word * 32) / 32 ∈ s.sm.ueWords ∨ found = .uncorrectable) :
    scrubWord word found s = detect smUe clsInfo (BitVec.ofNat 16 (0x0600 + bankOf (stageBase + word * 32))) 4
      (w64 (stageBase + word * 32)) 0 (countSmUe (stageBase + word * 32)
        { s with sm := { s.sm with ueWords := addOnce ((stageBase + word * 32) / 32) s.sm.ueWords } }) true := by
  by_cases hu : (stageBase + word * 32) / 32 ∈ s.sm.ueWords
  · simp [scrubWord, ha, hu]
  · obtain rfl := hf.resolve_left hu
    by_cases hc : (stageBase + word * 32) / 32 ∈ s.sm.ceWords <;> simp [scrubWord, ha, hu, hc, worse]

end

theorem mem_addOnce {α : Type} [BEq α] [LawfulBEq α] {x y : α} {l : List α} : y ∈ addOnce x l ↔ y = x ∨ y ∈ l := by
  unfold addOnce
  split
  · rename_i h
    exact ⟨.inr, fun e => e.elim (fun e => e ▸ List.contains_iff_mem.mp h) id⟩
  · exact List.mem_cons

/-! Copies (08:R238; 14:R411). -/

section
variable {s : State} {spare : Fin 4} {bank : Fin 128} {tr : Trans}

theorem endCopy_of_none (h : s.sm.copy = none) (n : Nat) : endCopy n s = s := by simp [endCopy, h]

theorem endCopy_of_other {c : SpareCopy} (h : s.sm.copy = some c) (hn : c.spare ≠ spare) : endCopy spare.val s = s := by
  simp [endCopy, h, Fin.val_inj, hn]

/-- Copied back, the spare is free and the bank's sub-state has ended. -/
theorem endCopy_back (ht : s.svc.trans = [(unitOf 6 bank.val, tr)]) (h : s.sm.copy = some ⟨spare, bank, true, false⟩) :
    endCopy spare.val s = { s with
      sm := { s.sm with copy := none, spare := s.sm.spare.set spare.val none },
      svc := { s.svc with trans := [], bank := Rule.withBit s.svc.bank bank.val false } } := by
  simp only [endCopy, h, bne_self_eq_false, Bool.false_eq_true, if_false, if_true, vmod_fin, setSub,
    uClass_bank bank.isLt, uIdx_bank bank.isLt, putBit_eq_withBit, endTrans, ht]
  simp [nextCopy]

/-- Onto the spare of a retired bank: the transition has ended. -/
theorem endCopy_retired (ht : s.svc.trans = [(unitOf 6 bank.val, tr)]) (h : s.sm.copy = some ⟨spare, bank, false, true⟩) :
    endCopy spare.val s = { s with sm := { s.sm with copy := none }, svc := { s.svc with trans := [] } } := by
  simp only [endCopy, h, bne_self_eq_false, Bool.false_eq_true, if_false, if_true, endTrans, ht]
  simp [nextCopy]

/-- Onto the spare of a bank that enters its sub-state: the sub-state can take effect. -/
theorem endCopy_entering (ht : s.svc.trans = [(unitOf 6 bank.val, .entering)])
    (h : s.sm.copy = some ⟨spare, bank, false, false⟩) :
    endCopy spare.val s = { s with sm := { s.sm with copy := none, copied := bank.val :: s.sm.copied } } := by
  simp only [endCopy, h, bne_self_eq_false, Bool.false_eq_true, if_false]
  refine nextCopy_of_none fun t htr => ?_
  obtain rfl : t = _ := List.mem_singleton.mp (ht ▸ htr)
  exact ⟨rfl, by simp [uIdx_bank bank.isLt]⟩

end

/-- Settles O39: the status of the word decides what a scrub does, and the end of a copy by what it was for. -/
theorem stageMemory : Obligations.StageMemory := by
  intro s word spare bank tr pa absent bad wrong atLimit
  refine ⟨fun found h => gives_of_next rfl (scrubWord_absent h), fun hu hc => gives_of_next rfl (scrubWord_clean hu hc),
    fun found hf ha hu hl => ?_, fun ha hu hauto hl hr hn hf ht => ?_,
    fun ha found hf => ?_, fun h => gives_of_next rfl (endCopy_of_none h _),
    fun c h hn => gives_of_next rfl (endCopy_of_other h hn), fun ht =>
      ⟨fun h => gives_of_next rfl (endCopy_back ht h), fun h => gives_of_next rfl (endCopy_retired ht h),
       fun h he => gives_of_next rfl (endCopy_entering (he ▸ ht) h)⟩⟩
  · refine ends_of_next rfl ?_
    rw [scrubWord_corrected ha hu hf, countSmCe_eq, smWindow_counts (by
      rw [ceNoted_svc, ceCounted, ceNoted_sm]; exact hl)]
    refine ⟨?_, ceNoted_mem .., ceNoted_dq .., ceNoted_svc .., ceNoted_detected ..⟩
    simp only [ceWindowed, ceNoted_sm]
    rfl
  · obtain ⟨i, hi⟩ := Option.ne_none_iff_exists'.mp hf
    refine ends_of_next rfl ?_
    rw [scrubWord_corrected ha hu (.inl rfl), hi]
    exact countSmCe_retires (s := { s with sm := { s.sm with ceWords := s.sm.ceWords.erase (pa / 32) } })
      hauto hl hr hn hi ht
  · refine ends_of_next rfl ?_
    rw [scrubWord_uncorrectable ha hf]
    exact ⟨rfl, mem_addOnce.mpr (.inl rfl), fun w hw => mem_addOnce.mpr (.inr hw), rfl, rfl, rfl⟩

end Sys2Proof.Machine

/-! SUPPORT. The stream to the remote nodes: what leaves it, and what does not change with it (15:R427; 08:R253, R254). -/

namespace Sys2Proof.Machine

/-! The bytes of a packet (15:R427). -/

@[simp] theorem natLe_length (v n : Nat) : (natLe v n).length = n := by
  induction n generalizing v with
  | zero => rfl
  | succ n ih => simp [natLe, ih]

theorem packetBytes_length (p : TxPacket) :
    (packetBytes p).length = 36 + (p.hdr.payload.length + 3) / 4 * 4 := by
  simp [packetBytes, headerBytes]
  omega

theorem takeStream_eq (n : Nat) (s : State) : takeStream n s = Rule.received n s := by
  have h : s.rme.rxOff + 36 + n + (4 - n % 4) % 4 = s.rme.rxOff + 36 + (n + 3) / 4 * 4 := by omega
  rw [takeStream, h]
  rfl

/-! The limit of a descriptor (08:R253). -/

/-- The state with the limits of the descriptor of a request started, unless they run. -/
def limited (s : State) (r : OutReq) : State := Rule.withQ s r.q { s.dq[r.q] with
  inflight := (s.dq[r.q]).inflight.map fun f => if f.idx = r.idx ∧ f.limit = none
    then { f with limit := some (s.beat.value.toNat + f.tmo) } else f }

theorem noLimits_limited (s : State) (r : OutReq) (q : Fin 32) :
    Rule.noLimits (limited s r).dq[q] = Rule.noLimits s.dq[q] := by
  by_cases h : q = r.q
  · subst h
    rw [limited, withQ_dq_same]
    simp only [Rule.noLimits, List.map_map]
    congr 1
    refine List.map_congr_left fun f _ => ?_
    simp only [Function.comp_apply]
    split <;> rfl
  · rw [limited, withQ_dq_other s r.q h]

theorem startLimit_of_some {s : State} {txid : BitVec 32} {r : OutReq}
    (h : (s.rme.out.find? fun r => r.txid == txid && !isSignal r.kind) = some r) : startLimit txid s = limited s r := by
  simp only [startLimit, h, modQ_fin, limited, Bool.and_eq_true, beq_iff_eq, Option.isNone_iff_eq_none]

theorem startLimit_of_none {s : State} {txid : BitVec 32}
    (h : (s.rme.out.find? fun r => r.txid == txid && !isSignal r.kind) = none) : startLimit txid s = s := by
  simp only [startLimit, h]

/-- The request of a packet starts the limit of its descriptor as the packet begins to leave. -/
def leaving (p : TxPacket) (s : State) : State :=
  if s.rme.txOff = 0 ∧ isRequest p.op = true then startLimit p.hdr.txid s else s

theorem startLimit_cases (txid : BitVec 32) (s : State) :
    startLimit txid s = s ∨ ∃ r, startLimit txid s = limited s r := by
  cases h : s.rme.out.find? fun r => r.txid == txid && !isSignal r.kind with
  | none => exact .inl (startLimit_of_none h)
  | some r => exact .inr ⟨r, startLimit_of_some h⟩

theorem leaving_cases (p : TxPacket) (s : State) : leaving p s = s ∨ ∃ r, leaving p s = limited s r := by
  unfold leaving
  split
  · exact startLimit_cases ..
  · exact .inl rfl

theorem leaving_rme (p : TxPacket) (s : State) : (leaving p s).rme = s.rme := by
  rcases leaving_cases p s with h | ⟨r, h⟩ <;> rw [h]
  rfl

/-! What leaves (15:R427). -/

section
variable {s : State} {p : TxPacket} {rest : List TxPacket}

theorem sendFront_of_empty (h : s.rme.txq = []) : sendFront s = s := by simp only [sendFront, h]

theorem sendFront_of_no_room (h : s.rme.txRoom = 0) : sendFront s = s := by
  unfold sendFront
  split
  · rfl
  · simp [h]

theorem sendAll_of_still (h : sendFront s = s) (n : Nat) : sendAll n s = s := by
  induction n with
  | zero => rfl
  | succ n ih => rw [sendAll, h, ih]

/-- The part of a packet that the credits cover. -/
def partSent (u s : State) (p : TxPacket) : State :=
  { u with rme := { s.rme with
    tx := s.rme.tx ++ ((packetBytes p).drop s.rme.txOff).take s.rme.txRoom,
    txOff := s.rme.txOff + s.rme.txRoom, txRoom := 0 } }

/-- The rest of a packet, which the credits cover. -/
def wholeSent (u s : State) (p : TxPacket) (rest : List TxPacket) : State :=
  { u with rme := { s.rme with
    tx := s.rme.tx ++ (packetBytes p).drop s.rme.txOff, txq := rest, txOff := 0,
    txRoom := s.rme.txRoom - ((packetBytes p).drop s.rme.txOff).length,
    outbytes := s.rme.outbytes + BitVec.ofNat 64 p.hdr.payload.length } }

theorem sendFront_of_part (hq : s.rme.txq = p :: rest) (hr : s.rme.txRoom ≠ 0)
    (hl : s.rme.txRoom < ((packetBytes p).drop s.rme.txOff).length) : sendFront s = partSent (leaving p s) s p := by
  have hlim : (if (s.rme.txOff == 0 && isRequest p.op) = true then startLimit p.hdr.txid s else s) = leaving p s := by
    simp [leaving]
  simp only [sendFront, hq, beq_iff_eq, hr, if_false, hl, if_true, hlim, leaving_rme, partSent]

theorem sendFront_of_whole (hq : s.rme.txq = p :: rest) (hr : s.rme.txRoom ≠ 0)
    (hl : ((packetBytes p).drop s.rme.txOff).length ≤ s.rme.txRoom) :
    sendFront s = wholeSent (leaving p s) s p rest := by
  have hlim : (if (s.rme.txOff == 0 && isRequest p.op) = true then startLimit p.hdr.txid s else s) = leaving p s := by
    simp [leaving]
  simp only [sendFront, hq, beq_iff_eq, hr, if_false, Nat.not_lt.mpr hl, hlim, leaving_rme, List.take_of_length_le hl,
    wholeSent]
  rfl

end

/-- t is s but for the stream, to which bytes have been added and of which packets have left, and for the limits that have
started with them. -/
structure Streamed (s : State) (bs : List Byte) (t : State) : Prop where
  rest   : t = { s with dq := t.dq, rme := { s.rme with
    tx := t.rme.tx, txq := t.rme.txq, txOff := t.rme.txOff, txRoom := t.rme.txRoom, outbytes := t.rme.outbytes } }
  queues : ∀ q : Fin 32, Rule.noLimits t.dq[q] = Rule.noLimits s.dq[q]
  bytes  : Rule.StreamWell s → Rule.StreamWell t ∧ Rule.stream t = Rule.stream s ++ bs

theorem Streamed.refl (s : State) : Streamed s [] s := ⟨rfl, fun _ => rfl, fun h => ⟨h, (List.append_nil _).symm⟩⟩

theorem Streamed.trans {s t u : State} {bs cs : List Byte} (h : Streamed s bs t) (k : Streamed t cs u) :
    Streamed s (bs ++ cs) u where
  rest := by rw [k.rest, h.rest]
  queues q := (k.queues q).trans (h.queues q)
  bytes hw := by
    obtain ⟨hw', hs⟩ := h.bytes hw
    obtain ⟨hw'', hs'⟩ := k.bytes hw'
    exact ⟨hw'', by rw [hs', hs, List.append_assoc]⟩

theorem noLimits_leaving (p : TxPacket) (s : State) (q : Fin 32) :
    Rule.noLimits (leaving p s).dq[q] = Rule.noLimits s.dq[q] := by
  rcases leaving_cases p s with h | ⟨r, h⟩ <;> rw [h]
  exact noLimits_limited s r q

theorem leaving_rest (p : TxPacket) (s : State) : leaving p s = { s with dq := (leaving p s).dq } := by
  rcases leaving_cases p s with h | ⟨r, h⟩ <;> rw [h]
  rfl

/-- The stream is what has left and what is still to leave of its first packet, and the packets behind it. -/
theorem stream_cons {s : State} {p : TxPacket} {rest : List TxPacket} (hq : s.rme.txq = p :: rest)
    (hw : s.rme.txOff ≤ (packetBytes p).length) :
    Rule.stream s = s.rme.tx ++ ((packetBytes p).drop s.rme.txOff ++ rest.flatMap packetBytes) := by
  rw [Rule.stream, hq, List.flatMap_cons, List.drop_append_of_le_length hw]

theorem txOff_le {s : State} {p : TxPacket} {rest : List TxPacket} (hw : Rule.StreamWell s)
    (hq : s.rme.txq = p :: rest) : s.rme.txOff ≤ (packetBytes p).length := by
  rcases hw with h | ⟨p', rest', hq', h⟩
  · omega
  · cases hq.symm.trans hq'
    exact h.le

theorem streamed_sendFront (s : State) : Streamed s [] (sendFront s) := by
  cases hq : s.rme.txq with
  | nil => rw [sendFront_of_empty hq]; exact .refl s
  | cons p rest =>
    by_cases hr : s.rme.txRoom = 0
    · rw [sendFront_of_no_room hr]; exact .refl s
    · by_cases hl : s.rme.txRoom < ((packetBytes p).drop s.rme.txOff).length
      · rw [sendFront_of_part hq hr hl]
        rw [List.length_drop] at hl
        refine ⟨?_, noLimits_leaving p s, fun hw => ⟨.inr ⟨p, rest, hq, ?_⟩, ?_⟩⟩
        · rw [leaving_rest p s]; rfl
        · change s.rme.txOff + s.rme.txRoom < _
          omega
        · have hsent := stream_cons (s := partSent (leaving p s) s p) hq
            (show s.rme.txOff + s.rme.txRoom ≤ (packetBytes p).length by omega)
          rw [hsent, stream_cons hq (txOff_le hw hq)]
          change s.rme.tx ++ ((packetBytes p).drop s.rme.txOff).take s.rme.txRoom ++
            ((packetBytes p).drop (s.rme.txOff + s.rme.txRoom) ++ _) = _
          rw [← List.drop_drop, List.append_assoc, ← List.append_assoc (List.take _ _), List.take_append_drop,
            List.append_nil]
      · rw [sendFront_of_whole hq hr (Nat.not_lt.mp hl)]
        refine ⟨?_, noLimits_leaving p s, fun hw => ⟨.inl rfl, ?_⟩⟩
        · rw [leaving_rest p s]; rfl
        · rw [stream_cons hq (txOff_le hw hq), ← List.append_assoc, List.append_nil]
          rfl

theorem streamed_sendAll (n : Nat) (s : State) : Streamed s [] (sendAll n s) := by
  induction n generalizing s with
  | zero => exact .refl s
  | succ n ih => exact (streamed_sendFront s).trans (ih _)

/-- A packet behind those of the stream lengthens it by its bytes. -/
theorem streamed_queued (p : TxPacket) (s : State) :
    Streamed s (packetBytes p) { s with rme := { s.rme with txq := s.rme.txq ++ [p] } } := by
  refine ⟨rfl, fun _ => rfl, fun hw =>
    ⟨hw.imp_right fun ⟨x, rest, hq, h⟩ => ⟨x, rest ++ [p], by simp [hq], h⟩, ?_⟩⟩
  have hoff : s.rme.txOff ≤ (s.rme.txq.flatMap packetBytes).length := by
    rcases hw with h | ⟨x, rest, hq, h⟩
    · omega
    · rw [hq, List.flatMap_cons, List.length_append]; omega
  simp only [Rule.stream, List.flatMap_append, List.flatMap_singleton, List.drop_append_of_le_length hoff,
    List.append_assoc]

/-- A packet that joins the stream: it leaves, in its turn, as far as the credits reach. -/
theorem streamed_sendPacket (p : TxPacket) (s : State) : Streamed s (packetBytes p) (sendPacket p s) := by
  have h := (streamed_queued p s).trans (streamed_sendAll (s.rme.txq ++ [p]).length _)
  rwa [List.append_nil] at h

/-- Packets that join the stream one behind the other. -/
theorem streamed_sendPackets (ps : List TxPacket) (s : State) :
    Streamed s (ps.flatMap packetBytes) (ps.foldl (fun s p => sendPacket p s) s) := by
  induction ps generalizing s with
  | nil => exact .refl s
  | cons p ps ih => exact (streamed_sendPacket p s).trans (ih _)

/-- A packet that joins an empty stream, and that the credits cover, has left; a request starts its limit. -/
theorem sendPacket_of_open {s : State} {n : Nat} (h : Rule.StreamOpen s n) {p : TxPacket}
    (hl : (packetBytes p).length ≤ n) : sendPacket p s =
      { leaving p { s with rme := { s.rme with txq := [p] } } with rme := (Rule.sent s p).rme } := by
  obtain ⟨hq, hoff, hroom⟩ := h
  have hpos : 36 ≤ (packetBytes p).length := by rw [packetBytes_length]; omega
  have hwhole := sendFront_of_whole (s := { s with rme := { s.rme with txq := [p] } }) (p := p) (rest := []) rfl
    (show s.rme.txRoom ≠ 0 by omega) (by rw [List.length_drop]; exact (Nat.sub_le ..).trans (hl.trans hroom))
  have hsend : sendPacket p s = sendAll 1 { s with rme := { s.rme with txq := [p] } } := by
    simp only [sendPacket, hq, List.nil_append, List.length_singleton]
  rw [hsend, sendAll, sendAll, hwhole, wholeSent]
  congr 1
  simp only [Rule.sent, hq, hoff, List.drop_zero]

/-- A packet that asks for nothing starts no limit. -/
theorem sendPacket_of_open_answer {s : State} {n : Nat} (h : Rule.StreamOpen s n) {p : TxPacket}
    (hl : (packetBytes p).length ≤ n) (hp : isRequest p.op = false) : sendPacket p s = Rule.sent s p := by
  rw [sendPacket_of_open h hl, leaving, if_neg (by simp [hp])]
  rfl

end Sys2Proof.Machine

/-! SUPPORT. O23: limits of remote requests, and credits of the stream (07:R226; 08:R252 to R254; 15:R427). -/

namespace Sys2Proof.Machine

/-! Requests that end (08:R251, R253). -/

/-- The remote engine with the requests of a property ended: their answers are discarded, and those that write go on
holding flag updates back where their descriptor has still to complete. -/
def endedRequests (lasts : Bool) (p : OutReq → Bool) (r : Rme) : Rme :=
  { r with
    out := r.out.filter fun o => !p o,
    linger := if lasts then r.linger ++ (r.out.filter p).filter fun o => writesRemote o.kind
      else r.linger.filter fun o => !p o,
    stale := r.stale ++ (r.out.filter p).map (·.txid) }

/-- With nothing of the stream still to leave, and no update held back, that is all that changes. -/
theorem dropRequests_of_idle {s : State} (hh : s.rme.held = []) (hq : s.rme.txq = []) (hu : s.rme.unsent = [])
    (lasts : Bool) (p : OutReq → Bool) :
    dropRequests lasts p s = { s with rme := endedRequests lasts p s.rme } := by
  simp only [dropRequests, releaseHeld, hh, hq, hu, List.filter_nil, List.foldl_nil, List.any_nil, List.append_nil,
    Bool.not_false, Bool.and_true, endedRequests, List.filter_filter]
  have hand : (fun o => p o && writesRemote o.kind) = fun o => writesRemote o.kind && p o :=
    funext fun o => Bool.and_comm ..
  rw [hand]

theorem jobOf_eq_none {s : State} (h : ∀ n : Fin 16, (s.opa.inst[n]).jobs = []) (q : Nat) (idx : BitVec 32) :
    jobOf s q idx = none := by
  refine List.findSome?_eq_none_iff.mpr fun n hn => ?_
  have hjobs : (getInst s n).jobs = [] := by
    rw [getInst_fin s ⟨n, List.mem_range.mp hn⟩]
    exact h _
  rw [hjobs]
  rfl

/-- Of what a descriptor had still to write, some bytes land, unless it was a post. -/
theorem landed_eq (f : InFlight) (s : State) :
    ∃ n m, (if f.posted = true then s else landPending (f.writes.flatMap (·.cells)) s) =
      { s with ctl := { s.ctl with free := n }, mem := m } := by
  split
  · exact ⟨s.ctl.free, s.mem, rfl⟩
  · exact ⟨_, _, rfl⟩

/-- A descriptor of the remote engine ends with an event, and its requests with it. -/
theorem failFlight_remote {s : State} {q : Fin 32} {f : InFlight} (hf : getFlight s q.val f.idx = some f)
    (hc : dClass f.desc = 4) (he : f.ended = none) (hh : s.rme.held = []) (hq : s.rme.txq = []) (hu : s.rme.unsent = [])
    (e : Ended) : ∃ n m o, failFlight q.val f.idx e s =
      { Rule.withQ s q (flightQueue s.dq[q] f.idx (failedFlight e 0)) with
        ctl := { s.ctl with free := n }, mem := m, opa := o,
        rme := endedRequests true (ofDescriptor q.val f.idx) s.rme } := by
  have hexc : failedExc f s = (0, s) := by simp only [failedExc, hc]
  obtain ⟨n, m, hl⟩ := landed_eq f s
  refine ⟨n, m, (dropJob q.val f.idx s).opa, ?_⟩
  simp only [failFlight, hf, he, Option.isSome_none, Bool.false_eq_true, if_false, hexc, stopFlight, hl, modFlight_eq]
  rw [dropRequests_of_idle (s := { s with ctl := { s.ctl with free := n }, mem := m }) hh hq hu]
  rfl

/-! Limits that have passed (08:R252, R253). -/

theorem lateFlight_eq (s : State) (q : Fin 32) : lateFlight s q.val = (s.dq[q]).inflight.find? fun f =>
    dClass f.desc == 4 && f.ended.isNone && f.limit.any fun l => l < s.beat.value.toNat := by
  rw [lateFlight, getQ_fin]
  congr 1
  funext f
  cases f.limit <;> rfl

theorem rmeTimeout_of_none {s : State} {q : Fin 32} (h : lateFlight s q.val = none) : rmeTimeout q.val s = s := by
  simp only [rmeTimeout, h]

/-- The address that RME_TIMEOUT names: that of the first request without an answer. -/
def timeoutAddress (s : State) (q : Fin 32) (f : InFlight) : Nat :=
  match s.rme.out.find? (ofDescriptor q.val f.idx) with | some r => r.va | none => 0

theorem rmeTimeout_of_some {s : State} {q : Fin 32} {f : InFlight} (hj : ∀ n : Fin 16, (s.opa.inst[n]).jobs = [])
    (h : lateFlight s q.val = some f) :
    rmeTimeout q.val s = failFlight q.val f.idx (endWith rmeTimeoutEv 0xFF (timeoutAddress s q f)) s := by
  simp only [rmeTimeout, h, failDesc, jobOf_eq_none hj]
  rfl

/-- The signal's limit has passed. -/
def signalLate (s : State) (txid : BitVec 32) (r : OutReq) : Bool :=
  r.txid == txid && isSignal r.kind && r.limit < s.beat.value.toNat

theorem signalTimeout_of_none {s : State} {txid : BitVec 32} (hh : s.rme.held = [])
    (h : s.rme.out.find? (signalLate s txid) = none) : signalTimeout txid s = s := by
  have hfind : (s.rme.out ++ s.rme.held.map (·.req)).find? (signalLate s txid) = none := by
    rw [hh, List.map_nil, List.append_nil, h]
  unfold signalTimeout
  simp only [← signalLate.eq_1, hfind]

/-- A signal past its limit is dropped, with its record. -/
theorem signalTimeout_of_some {s : State} {txid : BitVec 32} {r : OutReq} (hh : s.rme.held = []) (hq : s.rme.txq = [])
    (hu : s.rme.unsent = []) (h : s.rme.out.find? (signalLate s txid) = some r) :
    ∃ flag, signalTimeout txid s = signalRecord rmeTimeoutEv r.q.val r.idx r.node flag 0
      (rmeEvent 2 { s with rme := endedRequests false (signalLate s txid) s.rme }) := by
  have hfind : (s.rme.out ++ s.rme.held.map (·.req)).find? (signalLate s txid) = some r := by
    rw [hh, List.map_nil, List.append_nil, h]
  unfold signalTimeout
  simp only [← signalLate.eq_1, hfind]
  rw [dropRequests_of_idle hh hq hu]
  exact ⟨_, rfl⟩

/-- An event of RME_STATUS leaves its bit set. -/
theorem rmeEvent_status_bit (s : State) {i : Nat} (hi : i < 48) :
    (rmeEvent i s).rme.status.status.getLsbD i = true := by
  have hbit : (sqcBit i).getLsbD i = true := by
    rw [sqcBit, BitVec.getLsbD_ofNat, Nat.testBit_two_pow]
    simp [hi]
  change (Sqc.event _ _ _).status.getLsbD i = true
  rw [Sqc.event_status, BitVec.getLsbD_or, hbit, Bool.or_true]

theorem descriptorTimeout {s : State} {q : Fin 32} {f : InFlight} (hj : ∀ n : Fin 16, (s.opa.inst[n]).jobs = [])
    (hh : s.rme.held = []) (hq : s.rme.txq = []) (hu : s.rme.unsent = []) (hf : (s.dq[q]).inflight = [f])
    (hl : lateFlight s q.val = some f) (hc : dClass f.desc = 4) (he : f.ended = none) :
    ∃ n m o, rmeTimeout q.val s =
      { Rule.withQ s q { s.dq[q] with
          inflight := [failedFlight (endWith rmeTimeoutEv 0xFF (timeoutAddress s q f)) 0 f] } with
        ctl := { s.ctl with free := n }, mem := m, opa := o,
        rme := endedRequests true (ofDescriptor q.val f.idx) s.rme } := by
  have hget : getFlight s q.val f.idx = some f := getFlight_eq_some (by rw [hf]; simp) (by rw [hf]; simp)
  have hfl (g : InFlight → InFlight) : flightQueue s.dq[q] f.idx g = { s.dq[q] with inflight := [g f] } := by
    rw [flightQueue, hf, List.map_singleton, if_pos rfl]
  rw [rmeTimeout_of_some hj hl, ← hfl]
  exact failFlight_remote hget hc he hh hq hu _

theorem endedRequests_signal {r : OutReq} {x : Rme} {p : OutReq → Bool} (ho : x.out = [r]) (hr : p r = true)
    (hg : ∀ o ∈ x.linger, p o = false) :
    endedRequests false p x = { x with out := [], stale := x.stale ++ [r.txid] } := by
  have hlinger : x.linger.filter (fun o => !p o) = x.linger := by
    rw [List.filter_eq_self]
    exact fun o h => by simp [hg o h]
  simp [endedRequests, ho, hr, hlinger]

theorem remoteTimeouts : Rule.RemoteTimeouts := by
  intro s q txid f r hj hh hq hu late
  have hlate (g : InFlight) :
      (dClass g.desc == 4 && g.ended.isNone && g.limit.any fun l => l < s.beat.value.toNat) = true ↔ late g := by
    simp [late, Option.any_eq_true, and_assoc]
  refine ⟨fun hn => gives_of_next rfl (rmeTimeout_of_none ?_), fun hf hl => ?_,
    fun ho ht hs hg => ⟨fun hl => ?_, fun hl => ?_⟩⟩
  · rw [lateFlight_eq, List.find?_eq_none]
    exact fun g hg => mt (hlate g).mp (hn g hg)
  · have hfind : lateFlight s q.val = some f := by
      rw [lateFlight_eq, hf]
      exact List.find?_cons_of_pos ((hlate f).mpr hl)
    obtain ⟨hc, he, -⟩ := hl
    obtain ⟨n, m, o, heq⟩ := descriptorTimeout hj hh hq hu hf hfind hc he
    refine ends_of_next rfl (heq ▸ ⟨⟨_, congrArg Queue.inflight (withQ_dq_same s q _), rfl, rfl, _, rfl, fun o ho => ?_⟩,
      fun p hp => withQ_dq_other s q hp _, rfl⟩)
    simp only [timeoutAddress, ho, w64]
  · have hr : signalLate s txid r = true := by simp [signalLate, ht, hs, hl]
    have hfind : s.rme.out.find? (signalLate s txid) = some r := by rw [ho, List.find?_cons_of_pos hr]
    obtain ⟨flag, heq⟩ := signalTimeout_of_some hh hq hu hfind
    rw [endedRequests_signal ho hr fun o h => by simp [signalLate, hg o h], ht] at heq
    exact ends_of_next rfl (heq ▸ ⟨rfl, rmeEvent_status_bit _ (by decide), rfl, rfl, insertDetected_length ..⟩)
  · refine gives_of_next rfl (signalTimeout_of_none hh ?_)
    simp [ho, signalLate, Nat.not_lt.mpr hl]

/-! Credits (15:R427). -/

/-- The state with a credit more. -/
def credited (s : State) : State := { s with rme := { s.rme with txRoom := s.rme.txRoom + 1152 } }

section
variable {s : State} {p : TxPacket} {rest : List TxPacket}

/-- A credit that does not cover what is left of the first packet sends a part of it. -/
theorem sendAll_credited_part (hq : s.rme.txq = p :: rest)
    (hl : s.rme.txRoom + 1152 < ((packetBytes p).drop s.rme.txOff).length) :
    sendAll s.rme.txq.length (credited s) = partSent (leaving p (credited s)) (credited s) p := by
  rw [hq, List.length_cons, sendAll, sendFront_of_part (s := credited s) hq (Nat.succ_ne_zero _) hl]
  exact sendAll_of_still (sendFront_of_no_room rfl) _

/-- A credit that covers the last packet, or just the first, sends that packet. -/
theorem sendAll_credited_whole (hq : s.rme.txq = p :: rest)
    (hl : ((packetBytes p).drop s.rme.txOff).length ≤ s.rme.txRoom + 1152)
    (hend : rest = [] ∨ s.rme.txRoom + 1152 = ((packetBytes p).drop s.rme.txOff).length) :
    sendAll s.rme.txq.length (credited s) = wholeSent (leaving p (credited s)) (credited s) p rest := by
  rw [hq, List.length_cons, sendAll, sendFront_of_whole (s := credited s) hq (Nat.succ_ne_zero _) hl]
  rcases hend with hr | hr
  · exact sendAll_of_still (sendFront_of_empty hr) _
  · exact sendAll_of_still (sendFront_of_no_room (Nat.sub_eq_zero_of_le hr.le)) _

end

theorem leaving_of_none {s : State} {p : TxPacket}
    (h : ∀ r, ¬ (isRequest p.op = true ∧ s.rme.txOff = 0 ∧
      s.rme.out.find? (fun r => r.txid == p.hdr.txid && !isSignal r.kind) = some r)) : leaving p s = s := by
  unfold leaving
  split
  · rename_i hfirst
    exact startLimit_of_none (Option.eq_none_iff_forall_ne_some.mpr fun r hr => h r ⟨hfirst.2, hfirst.1, hr⟩)
  · rfl

theorem leaving_of_first {s : State} {p : TxPacket} {r : OutReq} (hp : isRequest p.op = true) (ho : s.rme.txOff = 0)
    (h : s.rme.out.find? (fun r => r.txid == p.hdr.txid && !isSignal r.kind) = some r) : leaving p s = limited s r := by
  rw [leaving, if_pos ⟨ho, hp⟩, startLimit_of_some h]

theorem remoteCredits : Rule.RemoteCredits := by
  intro s p rest room left first limits leaves
  have hleaves (u : State) (hq : s.rme.txq = p :: rest)
      (hu : ∀ x : Rme, { leaving p (credited s) with rme := x } = { u with rme := x }) :
      Rule.Ends .remoteCredit s (leaves u) := by
    refine ends_of_next (u := sendAll s.rme.txq.length (credited s)) rfl ?_
    simp only [leaves]
    split
    · rename_i hl
      intro hend
      rw [sendAll_credited_whole hq hl hend, wholeSent, hu]
      rfl
    · rename_i hl
      rw [sendAll_credited_part hq (Nat.lt_of_not_le hl), partSent, hu]
      rfl
  refine ⟨fun hq => gives_of_next rfl ?_, fun hq hn => hleaves s hq fun x => ?_,
    fun r hq hr => hleaves (limits r) hq fun x => ?_⟩
  · rw [hq]
    rfl
  · rw [leaving_of_none (s := credited s) hn]
    rfl
  · obtain ⟨hp, ho, hfind⟩ := hr
    rw [leaving_of_first (s := credited s) hp ho hfind]
    rfl

/-- Settles O23: a limit that has passed drops the requests of its descriptor or its signal, and a credit sends what it
covers of the first packet. -/
theorem remoteTimeoutsAndCredits : Obligations.RemoteTimeoutsAndCredits := ⟨remoteTimeouts, remoteCredits⟩

end Sys2Proof.Machine

/-! SUPPORT. O21: descriptors of the remote engine start (06:R171; 07:R223, R226; 08:R251, R253; 15:R428). -/

namespace Sys2Proof.Machine

/-- Each RME command starts the head of its opcode. -/
theorem effect_rmeCommand {q : Fin 32} {op : Nat} {i : Instr} (h : Rule.RmeCommand q op i) (s : State) :
    effect i s = .next (settle s (startRme q.val op s)) := by
  cases h <;> rfl

/-! Plans (07:R223). -/

section
variable {α β : Type} {x : EngRes α × State} {f : α → State → EngRes β × State}

theorem andThen_eq_ok {b : β} {u : State} (h : EngRes.andThen x f = (.ok b, u)) :
    ∃ a t, x = (.ok a, t) ∧ f a t = (.ok b, u) := by
  obtain ⟨_ | _ | _, t⟩ := x
  · exact ⟨_, _, rfl, h⟩
  · cases h
  · cases h

theorem kept_andThen {s : State} (hx : Kept s x.2) (hf : ∀ a t, Kept t (f a t).2) : Kept s (EngRes.andThen x f).2 := by
  obtain ⟨_ | _ | _, t⟩ := x
  · exact hx.trans (hf _ t)
  · exact hx
  · exact hx

end

theorem kept_remotePieces (ctx : BitVec 16) (part : Nat) (acc : Access) (ps : List (Nat × Nat)) (s : State) :
    Kept s (remotePieces ctx part acc ps s).2 := by
  refine kept_andThen (kept_xlatReqs ..) fun m t => ?_
  split
  · exact .refl t
  · dsimp only
    split
    · exact .refl t
    · split <;> exact .refl t

theorem kept_planPut (q : Nat) (idx : BitVec 32) (ctx : BitVec 16) (d : Desc) (s : State) :
    Kept s (planPut q idx ctx d s).2 :=
  kept_andThen (kept_loadList ..) fun _ _ => kept_andThen (kept_loadList ..) fun _ _ =>
    kept_andThen (kept_remotePieces ..) fun _ _ => kept_andThen (kept_loadPart ..) fun _ t => .refl t

theorem kept_planGet (ctx : BitVec 16) (d : Desc) (s : State) : Kept s (planGet ctx d s).2 :=
  kept_andThen (kept_xlatReqs ..) fun _ _ => kept_andThen (kept_remotePieces ..) fun _ t => .refl t

theorem kept_planAtomic (ctx : BitVec 16) (d : Desc) (s : State) : Kept s (planAtomic ctx d s).2 :=
  kept_andThen (kept_xlatReqs ..) fun _ _ => kept_andThen (kept_remotePieces ..) fun _ t => .refl t

/-- A plan translates and reads, and leaves the rest as it was. -/
theorem kept_rmePlan (q : Nat) (idx : BitVec 32) (ctx : BitVec 16) (d : Desc) (s : State) :
    Kept s (rmePlan q idx ctx d s).2 := by
  unfold rmePlan
  split
  · exact kept_planGet ..
  · exact .refl s
  · exact .refl s
  · exact kept_planAtomic ..
  · exact kept_planAtomic ..
  · exact kept_planPut ..

theorem kept_of_rmePlan {q : Nat} {idx : BitVec 32} {ctx : BitVec 16} {d : Desc} {s u : State} {r : EngRes RmePlan}
    (h : rmePlan q idx ctx d s = (r, u)) : Kept s u := by
  have k := kept_rmePlan q idx ctx d s
  rwa [h] at k

theorem linesPackets_kind {d : Desc} {rd : Nat → Byte} {node : BitVec 16} {rb : Nat} {ls : List (Nat × Nat)}
    {ps : List RemPiece} {r : RmeReq} (h : r ∈ linesPackets d rd node rb ls ps) : isSignal r.kind = false := by
  induction ls generalizing ps with
  | nil => cases h
  | cons l ls ih =>
    rw [linesPackets, List.mem_append] at h
    rcases h with h | h
    · obtain ⟨p, -, rfl⟩ := List.mem_map.mp h
      dsimp only
      split <;> rfl
    · exact ih h

theorem planPut_kind {q : Nat} {idx : BitVec 32} {ctx : BitVec 16} {d : Desc} {s u : State} {p : RmePlan}
    (h : planPut q idx ctx d s = (.ok p, u)) : ∀ r ∈ p.data, isSignal r.kind = false := by
  obtain ⟨_, _, -, h⟩ := andThen_eq_ok h
  obtain ⟨_, _, -, h⟩ := andThen_eq_ok h
  obtain ⟨_, _, -, h⟩ := andThen_eq_ok h
  obtain ⟨_, _, -, h⟩ := andThen_eq_ok h
  cases h
  intro r hr
  dsimp only at hr
  split at hr
  · cases hr
  · exact linesPackets_kind hr

theorem planGet_kind {ctx : BitVec 16} {d : Desc} {s u : State} {p : RmePlan} (h : planGet ctx d s = (.ok p, u)) :
    ∀ r ∈ p.data, isSignal r.kind = false := by
  obtain ⟨_, _, -, h⟩ := andThen_eq_ok h
  obtain ⟨_, _, -, h⟩ := andThen_eq_ok h
  cases h
  intro r hr
  obtain ⟨l, -, hr⟩ := List.mem_flatMap.mp hr
  obtain ⟨x, -, rfl⟩ := List.mem_map.mp hr
  rfl

theorem planAtomic_kind {ctx : BitVec 16} {d : Desc} {s u : State} {p : RmePlan} (h : planAtomic ctx d s = (.ok p, u)) :
    ∀ r ∈ p.data, isSignal r.kind = false := by
  obtain ⟨_, _, -, h⟩ := andThen_eq_ok h
  obtain ⟨_, _, -, h⟩ := andThen_eq_ok h
  cases h
  intro r hr
  obtain rfl := List.mem_singleton.mp hr
  split <;> rfl

/-- The data requests of a plan are no signals. -/
theorem rmePlan_kind {q : Nat} {idx : BitVec 32} {ctx : BitVec 16} {d : Desc} {s u : State} {p : RmePlan}
    (h : rmePlan q idx ctx d s = (.ok p, u)) : ∀ r ∈ p.data, isSignal r.kind = false := by
  unfold rmePlan at h
  split at h
  · exact planGet_kind h
  · cases h; exact fun r hr => nomatch hr
  · cases h; exact fun r hr => nomatch hr
  · exact planAtomic_kind h
  · exact planAtomic_kind h
  · exact planPut_kind h

/-! How a head starts (06:R171, 08:R245). -/

section
variable {s u : State} {q : Fin 32} {op : Nat} {f : Fetched}

theorem startRme_of_none (h : startHead s q.val 4 op = none) : startRme q.val op s = s := by
  simp only [startRme, h]

theorem startRme_without_node (h : startHead s q.val 4 op = some f) (hs : s.rme.self = 0xFFFF) :
    startRme q.val op s = startFailed q.val f (endWith rmeNode 0xFF (rmeRemoteVa f.desc)) s := by
  simp [startRme, h, hs]

theorem startRme_of_fail (h : startHead s q.val 4 op = some f) (hs : s.rme.self ≠ 0xFFFF) {e : Ended}
    (hp : rmePlan q.val f.idx (s.dq[q]).ctx f.desc s = (.fail e, u)) : startRme q.val op s = startFailed q.val f e u := by
  simp only [startRme, h, beq_eq_false_iff_ne.mpr hs, Bool.false_eq_true, if_false, getQ_fin, hp]

/-- The descriptor in flight of a plan that asks for something. -/
theorem startRme_of_plan (h : startHead s q.val 4 op = some f) (hs : s.rme.self ≠ 0xFFFF) {p : RmePlan}
    (hp : rmePlan q.val f.idx (s.dq[q]).ctx f.desc s = (.ok p, u)) (hd : p.data ≠ [] ∨ p.flag ≠ none) :
    startRme q.val op s = sendPlan q.val f.idx p (beginFlight q.val f (newFlight u q.val f) u) := by
  have hbusy : (p.data.isEmpty && p.flag.isNone && !readsOut u q.val f.idx) = false := by
    rcases hd with hd | hd <;> simp [hd]
  simp only [startRme, h, beq_eq_false_iff_ne.mpr hs, Bool.false_eq_true, if_false, getQ_fin, hp, hbusy]
  rfl

theorem freshNewFlight (hdq : u.dq = s.dq) : Rule.Fresh (s.dq[q]) f (newFlight u q.val f) :=
  fresh_of_newFlight hdq ⟨rfl, rfl, rfl, rfl, rfl, rfl, rfl, rfl, rfl⟩

end

/-- Of the remote engine a start changes nothing but what its signal sends. -/
theorem setTaken_rme (cls inst q : Nat) (s : State) : (setTaken cls inst q s).rme = s.rme := by
  unfold setTaken; split <;> rfl
theorem setTaken_memp (cls inst q : Nat) (s : State) : (setTaken cls inst q s).memp = s.memp := by
  unfold setTaken; split <;> rfl
theorem setTaken_beat (cls inst q : Nat) (s : State) : (setTaken cls inst q s).beat = s.beat := by
  unfold setTaken; split <;> rfl

theorem beginFlight_rme {f : Fetched} (h : Rule.LocalSignal f.desc) (q : Fin 32) (fl : InFlight) (s : State) :
    (beginFlight q.val f fl s).rme = s.rme := by
  rw [beginFlight_eq h]
  exact setTaken_rme ..

theorem beginFlight_memp {f : Fetched} (h : Rule.LocalSignal f.desc) (q : Fin 32) (fl : InFlight) (s : State) :
    (beginFlight q.val f fl s).memp = s.memp := by
  rw [beginFlight_eq h]
  exact setTaken_memp ..

theorem beginFlight_beat {f : Fetched} (h : Rule.LocalSignal f.desc) (q : Fin 32) (fl : InFlight) (s : State) :
    (beginFlight q.val f fl s).beat = s.beat := by
  rw [beginFlight_eq h]
  exact setTaken_beat ..

/-! The requests of a plan (05:R144, 08:R251). -/

/-- The packets of a plan's data requests. -/
def planPackets (s : State) (data : List RmeReq) : List TxPacket := data.mapIdx fun k r => Rule.packet s k r.op r.pkt

/-- The state with the data requests of a plan made, and none sent. -/
def asked (s : State) (q : Fin 32) (idx : BitVec 32) (data : List RmeReq) : State :=
  { s with rme := { s.rme with
      txid := s.rme.txid + BitVec.ofNat 32 data.length,
      out := s.rme.out ++ data.mapIdx (Rule.request s q idx),
      unsent := s.rme.unsent ++ planPackets s data } }

/-- The state with the requests of a plan made: the next transaction identifier, and the updates held back. -/
def planned (s : State) (q : Fin 32) (idx : BitVec 32) (data : List RmeReq) (txid : BitVec 32) (held : List HeldUpdate) :
    State :=
  { asked s q idx data with rme := { (asked s q idx data).rme with txid := txid, held := held } }

theorem request_congr {s b : State} (h : b.rme = s.rme) : Rule.request b = Rule.request s := by
  funext q idx k r
  rw [Rule.request, h]
  rfl

theorem planPackets_congr {s b : State} (h : b.rme = s.rme) (data : List RmeReq) :
    planPackets b data = planPackets s data := by
  simp only [planPackets, Rule.packet, h]

theorem txid_succ (t : BitVec 32) (k : Nat) : t + 1 + BitVec.ofNat 32 k = t + BitVec.ofNat 32 (k + 1) := by
  rw [BitVec.add_assoc, Nat.add_comm k 1, BitVec.ofNat_add]
  rfl

theorem asked_cons (s : State) (q : Fin 32) (idx : BitVec 32) (r : RmeReq) (data : List RmeReq) :
    asked (asked s q idx [r]) q idx data = asked s q idx (r :: data) := by
  have hreq (k : Nat) (x : RmeReq) : Rule.request (asked s q idx [r]) q idx k x = Rule.request s q idx (k + 1) x := by
    rw [Rule.request, Rule.request, ← txid_succ]
    rfl
  have hpkt (k : Nat) (x : RmeReq) :
      Rule.packet (asked s q idx [r]) k x.op x.pkt = Rule.packet s (k + 1) x.op x.pkt := by
    rw [Rule.packet, Rule.packet, ← txid_succ]
    rfl
  have hout : data.mapIdx (Rule.request (asked s q idx [r]) q idx) = data.mapIdx fun k => Rule.request s q idx (k + 1) :=
    congrArg (List.mapIdx · data) (funext₂ hreq)
  have hunsent : planPackets (asked s q idx [r]) data = data.mapIdx fun k x => Rule.packet s (k + 1) x.op x.pkt :=
    congrArg (List.mapIdx · data) (funext₂ hpkt)
  have htxid : s.rme.txid + BitVec.ofNat 32 (r :: data).length = s.rme.txid + 1 + BitVec.ofNat 32 data.length :=
    (txid_succ ..).symm
  rw [asked, hout, hunsent, asked.eq_1 s q idx (r :: data), htxid]
  simp only [asked, planPackets, List.mapIdx_cons, List.mapIdx_nil, List.append_assoc, List.singleton_append]
  rfl

theorem holdRequests_eq (q : Fin 32) (idx : BitVec 32) (data : List RmeReq) (s : State) :
    data.foldl (fun s r => holdRequest r.op r.pkt ⟨0, r.pkt.dest, q, idx, r.kind, r.va, 0⟩ s) s = asked s q idx data := by
  induction data generalizing s with
  | nil => simp [asked, planPackets]
  | cons r data ih =>
    have hone : holdRequest r.op r.pkt ⟨0, r.pkt.dest, q, idx, r.kind, r.va, 0⟩ s = asked s q idx [r] := by
      simp [holdRequest, asked, planPackets, Rule.request, Rule.packet]
    rw [List.foldl_cons, hone, ih, asked_cons]

/-- A flag update behind requests that write at its node is held back, by each of them. -/
theorem postUpdate_held {s : State} {q : Fin 32} {idx : BitVec 32} {data : List RmeReq} (hd : data ≠ []) {op : Byte}
    {k : Packet} (hw : ∀ r ∈ data, writesRemote r.kind = true ∧ r.pkt.dest = k.dest) :
    ∃ before, postUpdate op k ⟨0, k.dest, q, idx, .flag, 0, 0⟩ (asked s q idx data) =
      { asked s q idx data with rme := { (asked s q idx data).rme with
          txid := (asked s q idx data).rme.txid + 1,
          held := s.rme.held ++ [⟨Rule.packet s data.length op k,
            ⟨s.rme.txid + BitVec.ofNat 32 data.length, k.dest, q, idx, .flag, 0, 0⟩, before⟩] } } ∧
      ∀ n, n < data.length → s.rme.txid + BitVec.ofNat 32 n ∈ before := by
  have hmem (n : Nat) (hn : n < data.length) : s.rme.txid + BitVec.ofNat 32 n ∈
      (((asked s q idx data).rme.out ++ (asked s q idx data).rme.linger).filter
        fun o => o.q == q && o.node == k.dest && writesRemote o.kind).map (·.txid) := by
    obtain ⟨hk, hnode⟩ := hw data[n] (List.getElem_mem hn)
    refine List.mem_map.mpr ⟨Rule.request s q idx n data[n], List.mem_filter.mpr ⟨?_, ?_⟩, rfl⟩
    · exact List.mem_append_left _ (List.mem_append_right _ (List.mem_mapIdx.mpr ⟨n, hn, rfl⟩))
    · simp [Rule.request, hk, hnode]
  refine ⟨_, ?_, hmem⟩
  rw [postUpdate, if_neg]
  · rfl
  · intro he
    have := hmem 0 (List.length_pos_iff.mpr hd)
    rw [List.isEmpty_iff.mp he] at this
    cases this

/-- The flag update that a plan holds back. -/
def HeldFlag (s : State) (q : Fin 32) (idx : BitVec 32) (p : RmePlan) (held : List HeldUpdate) : Prop :=
  (p.flag = none → held = s.rme.held) ∧
  ∀ c, p.flag = some c → ∃ before, held = s.rme.held ++ [⟨Rule.packet s p.data.length c.1 c.2,
      ⟨s.rme.txid + BitVec.ofNat 32 p.data.length, c.2.dest, q, idx, .flag, 0, 0⟩, before⟩] ∧
    ∀ k, k < p.data.length → s.rme.txid + BitVec.ofNat 32 k ∈ before

/-- The requests of a plan with data: they are made, and leave with the local bytes; the flag update is held back. -/
theorem sendPlan_eq {s : State} {q : Fin 32} {idx : BitVec 32} {p : RmePlan} (hd : p.data ≠ [])
    (hw : ∀ c, p.flag = some c → ∀ r ∈ p.data, writesRemote r.kind = true ∧ r.pkt.dest = c.2.dest) :
    ∃ txid held, HeldFlag s q idx p held ∧
      sendPlan q.val idx p s = releaseUnsent q.val idx (planned s q idx p.data txid held) := by
  have hq : qFin q.val = q := by simp [qFin]
  rw [sendPlan, hq, holdRequests_eq]
  obtain ⟨data, _ | ⟨op, k⟩⟩ := p
  · exact ⟨_, _, ⟨fun _ => rfl, fun _ => (nomatch ·)⟩, rfl⟩
  · obtain ⟨before, heq, hmem⟩ := postUpdate_held (s := s) (q := q) (idx := idx) (op := op) hd (hw _ rfl)
    refine ⟨_, _, ⟨(nomatch ·), fun c hc => ?_⟩, congrArg (releaseUnsent q.val idx) heq⟩
    cases hc
    exact ⟨before, rfl, hmem⟩

theorem releaseUnsent_of_reads {s : State} {q : Nat} {idx : BitVec 32} (h : readsOut s q idx = true) :
    releaseUnsent q idx s = s := by
  rw [releaseUnsent, if_pos h]

/-- With no local byte still to come, all packets that wait leave, where all are the descriptor's. -/
theorem releaseUnsent_of_none {s : State} {q : Nat} {idx : BitVec 32} (h : readsOut s q idx = false)
    (hm : ∀ k ∈ s.rme.unsent, k.hdr.txid ∈ (s.rme.out.filter (ofDescriptor q idx)).map (·.txid)) :
    releaseUnsent q idx s =
      s.rme.unsent.foldl (fun s k => sendPacket k s) { s with rme := { s.rme with unsent := [] } } := by
  have hgo : (s.rme.unsent.filter fun k =>
      ((s.rme.out.filter (ofDescriptor q idx)).map (·.txid)).contains k.hdr.txid) = s.rme.unsent := by
    rw [List.filter_eq_self]
    exact fun k hk => List.contains_iff_mem.mpr (hm k hk)
  have hstay : (s.rme.unsent.filter fun k =>
      !((s.rme.out.filter (ofDescriptor q idx)).map (·.txid)).contains k.hdr.txid) = [] := by
    rw [List.filter_eq_nil_iff]
    exact fun k hk => by rw [List.contains_iff_mem.mpr (hm k hk)]; decide
  simp only [releaseUnsent, h, Bool.false_eq_true, if_false, hgo, hstay]

/-- The packets of a plan belong to its requests. -/
theorem planPackets_asked {s : State} {q : Fin 32} {idx : BitVec 32} {data : List RmeReq}
    (hk : ∀ r ∈ data, isSignal r.kind = false) : ∀ k ∈ planPackets s data,
      k.hdr.txid ∈ ((asked s q idx data).rme.out.filter (ofDescriptor q.val idx)).map (·.txid) := by
  intro k hmem
  obtain ⟨n, hn, rfl⟩ := List.mem_mapIdx.mp hmem
  refine List.mem_map.mpr ⟨Rule.request s q idx n data[n], List.mem_filter.mpr ⟨?_, ?_⟩, rfl⟩
  · exact List.mem_append_right _ (List.mem_mapIdx.mpr ⟨n, hn, rfl⟩)
  · simp [ofDescriptor, Rule.request, hk _ (List.getElem_mem hn)]

/-- The packets that wait for a descriptor's local bytes, in t sent if there are none to come. -/
structure Released (reads : Bool) (s t : State) : Prop where
  queues : ∀ p : Fin 32, Rule.noLimits t.dq[p] = Rule.noLimits s.dq[p]
  memory : t.mem = s.mem
  flags  : t.flags = s.flags
  out    : t.rme.out = s.rme.out
  held   : t.rme.held = s.rme.held
  waits  : reads = true → t = s
  leaves : reads = false → t.rme.unsent = [] ∧
    (Rule.StreamWell s → Rule.stream t = Rule.stream s ++ s.rme.unsent.flatMap packetBytes)

theorem released_releaseUnsent {s : State} {q : Nat} {idx : BitVec 32}
    (hm : ∀ k ∈ s.rme.unsent, k.hdr.txid ∈ (s.rme.out.filter (ofDescriptor q idx)).map (·.txid)) :
    Released (readsOut s q idx) s (releaseUnsent q idx s) := by
  cases h : readsOut s q idx with
  | true =>
    rw [releaseUnsent_of_reads h]
    exact ⟨fun _ => rfl, rfl, rfl, rfl, rfl, fun _ => rfl, (nomatch ·)⟩
  | false =>
    rw [releaseUnsent_of_none h hm]
    obtain ⟨hrest, hqueues, hbytes⟩ := streamed_sendPackets s.rme.unsent { s with rme := { s.rme with unsent := [] } }
    refine ⟨hqueues, ?_, ?_, ?_, ?_, (nomatch ·), fun _ => ⟨?_, fun hw => (hbytes hw).2⟩⟩ <;> rw [hrest]

/-- The start of a plan with data requests (07:R223; 08:R251). -/
theorem remotePlanStarts {s u : State} {q : Fin 32} {f : Fetched} {p : RmePlan} (hl : Rule.LocalSignal f.desc)
    (hp : rmePlan q.val f.idx (s.dq[q]).ctx f.desc s = (.ok p, u)) (hd : p.data ≠ [])
    (hw : ∀ c, p.flag = some c → ∀ r ∈ p.data, writesRemote r.kind = true ∧ r.pkt.dest = c.2.dest)
    (hu : s.rme.unsent = []) :
    ∃ v, Rule.Starts s v q f (newFlight u q.val f) ∧
      v.rme.out = s.rme.out ++ p.data.mapIdx (Rule.request s q f.idx) ∧ v.rme.unsent = planPackets s p.data ∧
      v.rme.tx = s.rme.tx ∧ Rule.stream v = Rule.stream s ∧ (Rule.StreamWell s → Rule.StreamWell v) ∧
      HeldFlag s q f.idx p v.rme.held ∧
      Released (readsOut u q.val f.idx) v
        (sendPlan q.val f.idx p (beginFlight q.val f (newFlight u q.val f) u)) := by
  have k : Kept s u := kept_of_rmePlan hp
  have hstart : Rule.Starts s (beginFlight q.val f (newFlight u q.val f) u) q f (newFlight u q.val f) :=
    starts_beginFlight hl k.dq k.flags k.mem (freshNewFlight k.dq)
  have hrme : (beginFlight q.val f (newFlight u q.val f) u).rme = s.rme := (beginFlight_rme hl ..).trans k.rme
  have hmemp : (beginFlight q.val f (newFlight u q.val f) u).memp = u.memp := beginFlight_memp hl ..
  generalize beginFlight q.val f (newFlight u q.val f) u = b at hstart hrme hmemp ⊢
  obtain ⟨txid, held, hheld, heq⟩ := sendPlan_eq (s := b) (q := q) (idx := f.idx) hd hw
  have hout : (planned b q f.idx p.data txid held).rme.out = s.rme.out ++ p.data.mapIdx (Rule.request s q f.idx) := by
    simp only [planned, asked, hrme, request_congr hrme]
  have hunsent : (planned b q f.idx p.data txid held).rme.unsent = planPackets s p.data := by
    simp only [planned, asked, hrme, hu, planPackets_congr hrme, List.nil_append]
  have hreads : readsOut (planned b q f.idx p.data txid held) q.val f.idx = readsOut u q.val f.idx := by
    simp only [readsOut, portReqs, planned, asked, hmemp]
  refine ⟨planned b q f.idx p.data txid held,
    ⟨hstart.fresh, hstart.queue, hstart.others, hstart.flags, hstart.memory⟩, hout, hunsent, ?_, ?_, ?_, ?_, ?_⟩
  · simp only [planned, asked, hrme]
  · simp only [Rule.stream, planned, asked, hrme]
  · simp only [Rule.StreamWell, planned, asked, hrme, imp_self]
  · simpa only [HeldFlag, Rule.packet, hrme, planned] using hheld
  · rw [heq, ← hreads]
    refine released_releaseUnsent fun x hx => ?_
    rw [hunsent, ← planPackets_congr hrme] at hx
    exact planPackets_asked (rmePlan_kind hp) x hx

/-- A queue that has started a descriptor, with the limits left aside. -/
theorem noLimits_started {s v t : State} {q : Fin 32} {f : Fetched} {x : InFlight} (h : Rule.Starts s v q f x)
    (ht : ∀ p : Fin 32, Rule.noLimits t.dq[p] = Rule.noLimits v.dq[p]) :
    Rule.noLimits t.dq[q] = Rule.noLimits (startedQueue s.dq[q] f x) ∧
      ∀ p : Fin 32, p ≠ q → Rule.noLimits t.dq[p] = Rule.noLimits s.dq[p] :=
  ⟨by rw [ht, h.queue, startedQueue], fun p hp => by rw [ht, h.others p hp]⟩

theorem remoteTransfersStart : Rule.RemoteTransfersStart := by
  intro s u q op i f hi hc
  have he := effect_rmeCommand hi s
  refine ⟨fun h => gives_of_next he (startRme_of_none h), fun h hl => ⟨fun hs => ?_, fun hs p hp hd hw hu hwell => ?_,
    fun hs e hp => ?_⟩⟩
  · obtain ⟨x, hx, -, hend⟩ := starts_startFailed (q := q) (s := s) (u := s) hl rfl rfl rfl
      (endWith rmeNode 0xFF (rmeRemoteVa f.desc))
    exact ends_of_next he (startRme_without_node h hs ▸ ⟨x, hx, hend, beginFlight_rme hl ..⟩)
  · obtain ⟨v, hstart, hout, hunsent, htx, hstream, hkeep, hheld, hrel⟩ := remotePlanStarts hl hp hd hw hu
    obtain ⟨hq, hothers⟩ := noLimits_started hstart hrel.queues
    refine ends_of_next he (startRme_of_plan h hs hp (.inl hd) ▸
      ⟨⟨_, hstart.fresh, rfl, hq⟩, hothers, hrel.memory.trans hstart.memory, hrel.flags.trans hstart.flags,
        hrel.out.trans hout, ?_, fun hf => hrel.held.trans (hheld.1 hf), fun c hf => hrel.held ▸ hheld.2 c hf⟩)
    intro packets
    split
    · rename_i hreads
      rw [hrel.waits hreads]
      exact ⟨hunsent, htx⟩
    · rename_i hreads
      obtain ⟨hnone, hsent⟩ := hrel.leaves (Bool.not_eq_true _ ▸ hreads)
      exact ⟨hnone, by rw [hsent (hkeep hwell), hunsent, hstream]; rfl⟩
  · have k : Kept s u := kept_of_rmePlan hp
    obtain ⟨x, hx, -, hend⟩ := starts_startFailed (q := q) hl k.dq k.flags k.mem e
    exact ends_of_next he (startRme_of_fail h hs hp ▸ ⟨x, hx, hend⟩)

/-! Flag updates on their own (07:R223; 08:R251). -/

/-- The packet of RME_FLAG_ADD and RME_FLAG_SET. -/
def flagPacket (d : Desc) : Packet :=
  { attr := 0, dest := d.extractLsb' (896 + 16) 16, src := 0, len := 0, addr := (d.extractLsb' 896 12).setWidth 64,
    txid := 0, arg := (d.extractLsb' (896 + 32) 32).setWidth 64, payload := [] }

theorem w64_osf (d : Desc) (lo n : Nat) : w64 (osf d lo n) = (d.extractLsb' (896 + lo) n).setWidth 64 := by
  apply BitVec.eq_of_toNat_eq
  simp [w64, osf, fld]

theorem rmePacket_flag (d : Desc) :
    rmePacket (BitVec.ofNat 16 (osf d 16 16)) (osf d 0 12) 0 0 (w64 (osf d 32 32)) [] = flagPacket d := by
  rw [rmePacket, ofNat_osf, w64_osf, w64_osf]
  rfl

theorem rmePlan_flag {d : Desc} {set : Bool} (h : dOpcode d = if set then 5 else 4) (q : Nat) (idx : BitVec 32)
    (ctx : BitVec 16) (s : State) :
    rmePlan q idx ctx d s = (.ok ⟨[], some (if set then 0x04 else 0x03, flagPacket d)⟩, s) := by
  cases set <;> simp only [rmePlan, h, if_true, Bool.false_eq_true, if_false, rmePacket_flag] <;> rfl

/-- An update that no earlier write holds back is sent as any request. -/
theorem postUpdate_of_free {s : State} {r : OutReq}
    (h : ∀ o ∈ s.rme.out ++ s.rme.linger, o.q = r.q → o.node = r.node → writesRemote o.kind = false) (op : Byte)
    (p : Packet) : postUpdate op p r s = postRequest op p r s := by
  have hnone : ((s.rme.out ++ s.rme.linger).filter
      fun o => o.q == r.q && o.node == r.node && writesRemote o.kind) = [] := by
    rw [List.filter_eq_nil_iff]
    intro o ho
    simp only [Bool.and_eq_true, beq_iff_eq, not_and, Bool.not_eq_true]
    exact fun hh => h o ho hh.1 hh.2
  rw [postUpdate, hnone]
  rfl

theorem releaseUnsent_of_nothing {s : State} (h : s.rme.unsent = []) (q : Nat) (idx : BitVec 32) :
    releaseUnsent q idx s = s := by
  cases hr : readsOut s q idx with
  | true => exact releaseUnsent_of_reads hr
  | false =>
    have hsame : ({ s.rme with unsent := s.rme.unsent } : Rme) = s.rme := rfl
    rw [h] at hsame
    rw [releaseUnsent_of_none hr (by rw [h]; exact fun _ hk => nomatch hk), h, List.foldl_nil, hsame]

/-- The request of a state, with its transaction identifier. -/
def posted (s : State) (r : OutReq) : State :=
  { s with rme := { s.rme with txid := s.rme.txid + 1, out := s.rme.out ++ [{ r with txid := s.rme.txid }] } }

/-- A request of a descriptor, on an empty stream with its credits: it leaves, and starts the limit. -/
theorem postRequest_of_open {s : State} {op : Byte} {p : Packet} {r : OutReq} (hp : p.payload = [])
    (hr : isRequest op = true) (hk : isSignal r.kind = false) (hf : ∀ o ∈ s.rme.out, o.txid ≠ s.rme.txid)
    (ho : Rule.StreamOpen s 36) :
    postRequest op p r s = { limited s r with
      rme := (Rule.sent (posted s r) ⟨op, { p with src := s.rme.self, txid := s.rme.txid }, 0⟩).rme } := by
  have hfind : (s.rme.out ++ [{ r with txid := s.rme.txid }]).find?
      (fun r => r.txid == s.rme.txid && !isSignal r.kind) = some { r with txid := s.rme.txid } := by
    rw [List.find?_append, List.find?_eq_none.mpr fun o h => by simp [hf o h]]
    simp [hk]
  have hlen : (packetBytes ⟨op, { p with src := s.rme.self, txid := s.rme.txid }, 0⟩).length ≤ 36 := by
    rw [packetBytes_length, hp]
    decide
  have hleave (q : List TxPacket) := leaving_of_first (p := ⟨op, { p with src := s.rme.self, txid := s.rme.txid }, 0⟩)
    (s := { posted s r with rme := { (posted s r).rme with txq := q } }) hr ho.2.1 hfind
  exact (sendPacket_of_open (s := posted s r) (n := 36) ho hlen).trans (by rw [hleave]; rfl)

/-- A plan with nothing but a flag update posts it. -/
theorem sendPlan_flag (q : Fin 32) (idx : BitVec 32) (op : Byte) (k : Packet) (s : State) :
    sendPlan q.val idx ⟨[], some (op, k)⟩ s =
      releaseUnsent q.val idx (postUpdate op k ⟨0, k.dest, q, idx, .flag, 0, 0⟩ s) := by
  simp [sendPlan, qFin]

/-- A queue that has just started a descriptor, with its limit started. -/
theorem limited_started {s b : State} {q : Fin 32} {f : Fetched} {x : InFlight} {r : OutReq}
    (hb : Rule.Starts s b q f x) (hx : x.limit = none) (hq : r.q = q) (hi : r.idx = f.idx)
    (hn : ∀ g ∈ (s.dq[q]).inflight, g.idx ≠ f.idx) (y : Rme) :
    Rule.Starts s { limited b r with rme := y } q f { x with limit := some (b.beat.value.toNat + x.tmo) } := by
  subst hq
  have hold : (s.dq[r.q]).inflight.map (fun g => if g.idx = r.idx ∧ g.limit = none
      then { g with limit := some (b.beat.value.toNat + g.tmo) } else g) = (s.dq[r.q]).inflight := by
    refine (List.map_congr_left fun g hg => if_neg fun h => hn g hg (h.1.trans hi)).trans (List.map_id _)
  have hnew : (if x.idx = r.idx ∧ x.limit = none then { x with limit := some (b.beat.value.toNat + x.tmo) } else x) =
      { x with limit := some (b.beat.value.toNat + x.tmo) } := if_pos ⟨hb.fresh.desc.1.trans hi.symm, hx⟩
  refine ⟨⟨hb.fresh.desc, hb.fresh.rounding, hb.fresh.attempts⟩, ?_, fun p hp => ?_, hb.flags, hb.memory⟩
  · refine (withQ_dq_same b r.q _).trans ?_
    rw [hb.queue, List.map_append, hold, List.map_singleton, hnew]
  · exact (withQ_dq_other b r.q hp _).trans (hb.others p hp)

theorem effect_flagCommand (set : Bool) (q : Fin 32) (s : State) :
    effect (if set then .rmeFlagSet q else .rmeFlagAdd q) s =
      .next (settle s (startRme q.val (if set then 5 else 4) s)) := by
  cases set <;> rfl

theorem remoteFlagsStart : Rule.RemoteFlagsStart := by
  intro s q set f op i node hh hc hl hs hfree htx hu hn ho
  obtain ⟨-, -, hop, -⟩ := startHead_eq_some_iff.mp hh
  have hplan := rmePlan_flag hop q.val f.idx (s.dq[q]).ctx s
  have hstart : Rule.Starts s (beginFlight q.val f (newFlight s q.val f) s) q f (newFlight s q.val f) :=
    starts_beginFlight hl rfl rfl rfl (freshNewFlight rfl)
  have hrme := beginFlight_rme hl q (newFlight s q.val f) s
  have hbeat := beginFlight_beat hl q (newFlight s q.val f) s
  refine ends_of_next (effect_flagCommand set q s) ((startRme_of_plan hh hs hplan (.inr (nomatch ·))).symm ▸ ?_)
  generalize beginFlight q.val f (newFlight s q.val f) s = b at hstart hrme hbeat ⊢
  obtain ⟨hsq, hsoff, hsroom⟩ := ho
  have hpost := postRequest_of_open (s := b) (op := if set then 0x04 else 0x03) (p := flagPacket f.desc)
    (r := ⟨0, node, q, f.idx, .flag, 0, 0⟩) rfl (by cases set <;> rfl) rfl (hrme ▸ htx)
    (by rw [Rule.StreamOpen, hrme]; exact ⟨hsq, hsoff, hsroom⟩)
  have hupdate := (postUpdate_of_free (s := b) (r := ⟨0, node, q, f.idx, .flag, 0, 0⟩) (hrme ▸ hfree) _ _).trans hpost
  rw [sendPlan_flag]
  refine (congrArg (releaseUnsent q.val f.idx) hupdate).symm ▸ ?_
  rw [releaseUnsent_of_nothing (by simp only [Rule.sent, posted, hrme, hu])]
  refine ⟨⟨_, limited_started (r := ⟨0, node, q, f.idx, .flag, 0, 0⟩) hstart rfl rfl rfl hn _, ?_, rfl⟩, ?_⟩
  · rw [hbeat]
    rfl
  · simp only [Rule.sent, posted, hrme, flagPacket]
    rfl

/-- Settles O21: a flag update is posted at once; the requests of the other descriptors are made, and sent when the local
bytes have come. -/
theorem remoteStarts : Obligations.RemoteStarts := ⟨remoteFlagsStart, remoteTransfersStart⟩

end Sys2Proof.Machine

/-! SUPPORT. Accesses of memory neither read nor change the remote engine (08:R231 to R240; 12:R351 to R358). -/

namespace Sys2Proof.Machine

/-- A change of the state beside a value. -/
def onState {α : Type} (w : State → State) (x : α × State) : α × State := (x.1, w x.2)

/-- A choice whose condition and outcomes a change does not touch. -/
theorem ite_change {α : Type} (w : α → α) {c d : Prop} [Decidable c] [Decidable d] {a b x y : α} (h : c ↔ d)
    (ha : x = w a) (hb : y = w b) : (if c then x else y) = w (if d then a else b) := by
  rw [apply_ite w, ← ha, ← hb]
  exact if_congr h rfl rfl

/-! Stage memory: neither the remote engine nor the ports and the block cache (08:R234 to R239; 14:R404, R405). -/

/-- The state with another remote engine, other memory ports and another block cache. -/
def withPorts (r : Rme) (m : Memp) (b : Bc) (s : State) : State := { s with rme := r, memp := m, bc := b }

section
variable (r : Rme) (m : Memp) (b : Bc) (s : State)

theorem withPorts_sm : (withPorts r m b s).sm = s.sm := rfl
theorem withPorts_svc : (withPorts r m b s).svc = s.svc := rfl
theorem spareOf_withPorts (k : Nat) : spareOf (withPorts r m b s) k = spareOf s k := rfl
theorem freeSpare_withPorts : freeSpare (withPorts r m b s) = freeSpare s := rfl

theorem programFuse_withPorts (word : Nat) (bits : BitVec 32) :
    programFuse word bits (withPorts r m b s) = withPorts r m b (programFuse word bits s) := by
  unfold programFuse
  exact ite_change _ Iff.rfl rfl rfl

theorem programRetire_withPorts (u : BitVec 16) :
    programRetire u (withPorts r m b s) = withPorts r m b (programRetire u s) := by
  simp only [programRetire, programFuse_withPorts, spareOf_withPorts]
  split
  · rfl
  · rfl
  · rfl
  · cases spareOf (programFuse _ _ s) (uIdx u) <;> rfl
  · rfl

theorem nextCopy_withPorts : nextCopy (withPorts r m b s) = withPorts r m b (nextCopy s) := by
  simp only [nextCopy, withPorts_sm, withPorts_svc, spareOf_withPorts]
  cases s.sm.copy with
  | some c => rfl
  | none =>
    cases List.find? _ s.svc.trans with
    | none => rfl
    | some x =>
      dsimp only
      cases spareOf s _ <;> rfl

theorem bankToSpare_withPorts (k : Nat) : bankToSpare k (withPorts r m b s) = withPorts r m b (bankToSpare k s) := by
  unfold bankToSpare
  refine ite_change _ Iff.rfl rfl ?_
  rw [freeSpare_withPorts]
  cases freeSpare s with
  | none => rfl
  | some i => exact nextCopy_withPorts r m b (addTrans (unitOf 6 k) .retiring (takeSpare i k s))

theorem retireBank_withPorts (k : Nat) (cause : BitVec 16) (n : Nat) :
    retireBank k cause n (withPorts r m b s) = withPorts r m b (retireBank k cause n s) := by
  have hspare := bankToSpare_withPorts r m b
    (setRetired (unitOf 6 k) (setSub (unitOf 6 k) false (endTrans (unitOf 6 k) s))) k
  unfold retireBank
  dsimp only
  rw [← programRetire_withPorts]
  exact congrArg (fun t => programRetire (unitOf 6 k) (detect hwRetired clsUnit (unitOf 6 k) cause (w64 n) 0 t)) hspare

theorem smWindow_withPorts (k : Nat) : smWindow k (withPorts r m b s) = withPorts r m b (smWindow k s) := by
  unfold smWindow
  exact ite_change _ Iff.rfl (retireBank_withPorts r m b { s with sm := { s.sm with
    ceWindow := (k, ((s.sm.ceWindow.find? (·.1 == k)).map (·.2)).getD 0 + 1) :: s.sm.ceWindow.filter (·.1 != k) } } k ..)
    rfl

theorem firstInBeat_withPorts (ev : BitVec 16) (u : Nat) :
    firstInBeat ev u (withPorts r m b s) = onState (withPorts r m b) (firstInBeat ev u s) := by
  unfold firstInBeat
  exact ite_change _ Iff.rfl rfl rfl

theorem countSmCe_withPorts (pa : Nat) : countSmCe pa (withPorts r m b s) = withPorts r m b (countSmCe pa s) := by
  have hfirst := firstInBeat_withPorts r m b
    { s with sm := { s.sm with ceLast := BitVec.ofNat 8 (bankOf pa), ceCount := s.sm.ceCount + 1 } } smCe (bankOf pa)
  unfold countSmCe
  dsimp only
  rw [← smWindow_withPorts]
  congr 1
  refine (congrArg (fun x : Bool × State => if x.1 = true then detect smCe clsCorrected
    (BitVec.ofNat 16 (0x0600 + bankOf pa)) 0 (w64 pa) 0 x.2 true else x.2) hfirst).trans ?_
  exact ite_change _ Iff.rfl rfl rfl

theorem readSmWord_withPorts (w : Nat) :
    readSmWord w (withPorts r m b s) = onState (withPorts r m b) (readSmWord w s) := by
  unfold readSmWord
  exact ite_change _ Iff.rfl rfl (ite_change _ Iff.rfl (congrArg _ (countSmCe_withPorts ..)) rfl)

theorem readSmWords_withPorts (ws : List Nat) :
    readSmWords ws (withPorts r m b s) = onState (withPorts r m b) (readSmWords ws s) := by
  induction ws generalizing s with
  | nil => rfl
  | cons w ws ih =>
    simp only [readSmWords, readSmWord_withPorts, onState, ih]

theorem writeSmWord_withPorts (w : Nat) (cs : List Host.Cell) :
    writeSmWord w cs (withPorts r m b s) = onState (withPorts r m b) (writeSmWord w cs s) := by
  unfold writeSmWord
  refine ite_change _ Iff.rfl rfl ?_
  rw [readSmWord_withPorts]
  obtain ⟨_ | _ | _, t⟩ := readSmWord w s <;> rfl

theorem writeSmGroups_withPorts (gs : List (List Host.Cell)) :
    writeSmGroups gs (withPorts r m b s) = onState (withPorts r m b) (writeSmGroups gs s) := by
  induction gs generalizing s with
  | nil => rfl
  | cons g gs ih => simp only [writeSmGroups, writeSmWord_withPorts, onState, ih]

end

/-- What commutes with such a change leaves all three as they are. -/
theorem ports_of_withPorts {α : Type} {f : State → α × State}
    (h : ∀ r m b s, f (withPorts r m b s) = onState (withPorts r m b) (f s)) (s : State) :
    (f s).2.rme = s.rme ∧ (f s).2.memp = s.memp ∧ (f s).2.bc = s.bc := by
  have hsame : f s = onState (withPorts s.rme s.memp s.bc) (f s) := h s.rme s.memp s.bc s
  rw [hsame]
  exact ⟨rfl, rfl, rfl⟩

/-! The remote engine. -/

/-- The state with another remote engine. -/
def withRme (r : Rme) (s : State) : State := { s with rme := r }

/-- What other ports and another block cache do not change does not change with them. -/
theorem onState_withRme_of_ports {α : Type} {f : State → α × State}
    (h : ∀ r m b s, f (withPorts r m b s) = onState (withPorts r m b) (f s)) (r : Rme) (s : State) :
    f (withRme r s) = onState (withRme r) (f s) := by
  obtain ⟨-, hm, hb⟩ := ports_of_withPorts h s
  calc f (withRme r s) = onState (withPorts r s.memp s.bc) (f s) := h r s.memp s.bc s
    _ = onState (withRme r) (f s) := by rw [← hm, ← hb]; rfl

/-- What commutes with a change of the remote engine leaves it as it is. -/
theorem rme_of_withRme {α : Type} {f : State → α × State} (h : ∀ r s, f (withRme r s) = onState (withRme r) (f s))
    (s : State) : (f s).2.rme = s.rme := by
  have hsame : f s = onState (withRme s.rme) (f s) := h s.rme s
  rw [hsame]
  rfl

section
variable (r : Rme) (s : State)

theorem withRme_memp : (withRme r s).memp = s.memp := rfl
theorem withRme_bc : (withRme r s).bc = s.bc := rfl
theorem withRme_mem : (withRme r s).mem = s.mem := rfl
theorem bcFind_withRme (l : Nat) : bcFind (withRme r s) l = bcFind s l := rfl

/-! Ports (15:R425). -/

theorem postReq_withRme (u : Nat) (w : Bool) (x : Waiter) (old : List Host.Cell) :
    postReq u w x old (withRme r s) = withRme r (postReq u w x old s) := by
  have key (o : Option Nat) (q : PortReq) :
      (match o with
        | some t => presentReq q t (withRme r s)
        | none => withRme r { s with memp := { s.memp with waiting := s.memp.waiting ++ [q] } }) =
      withRme r (match o with
        | some t => presentReq q t s
        | none => { s with memp := { s.memp with waiting := s.memp.waiting ++ [q] } }) := by
    cases o <;> rfl
  exact key (if s.memp.waiting.any (·.port == portOf s (u * 64)) then none else canPresent s (portOf s (u * 64)))
    ⟨portOf s (u * 64), 0, u, w, x, old⟩

theorem firstInBeat_withRme (ev : BitVec 16) (u : Nat) :
    firstInBeat ev u (withRme r s) = onState (withRme r) (firstInBeat ev u s) :=
  onState_withRme_of_ports (firstInBeat_withPorts · · · · ev u) r s

theorem countMemCe_withRme (pa : Nat) : countMemCe pa (withRme r s) = withRme r (countMemCe pa s) := by
  have hfirst := firstInBeat_withRme r
    { s with memp := { s.memp with ce := vmod s.memp.ce (portOf s pa) (· + 1) } } memCe (portOf s pa)
  refine (congrArg (fun x : Bool × State => if x.1 = true then detect memCe clsCorrected
    (BitVec.ofNat 16 (0x0300 + portOf s pa)) 0 (w64 pa) 0 x.2 true else x.2) hfirst).trans ?_
  exact ite_change _ Iff.rfl rfl rfl

theorem readPortUnit_withRme (u : Nat) :
    readPortUnit u (withRme r s) = onState (withRme r) (readPortUnit u s) := by
  simp only [readPortUnit, withRme_memp]
  cases List.find? _ s.memp.got with
  | some x => rfl
  | none =>
    exact ite_change _ Iff.rfl rfl (ite_change _ Iff.rfl (congrArg (Prod.mk _) (countMemCe_withRme r { s with memp :=
      { s.memp with asks := addOnce u s.memp.asks, rbytes := vmod s.memp.rbytes (portOf s (u * 64)) (· + 64) } } _)) rfl)

theorem readPortUnits_withRme (us : List Nat) :
    readPortUnits us (withRme r s) = onState (withRme r) (readPortUnits us s) := by
  induction us generalizing s with
  | nil => rfl
  | cons u us ih => simp only [readPortUnits, readPortUnit_withRme, onState, ih]

/-! The block cache (12:R351 to R358). -/

theorem bcCount_withRme (h : Bool) : bcCount h (withRme r s) = withRme r (bcCount h s) := by cases h <;> rfl

theorem writeBack_withRme (l : BcLine) : writeBack l (withRme r s) = withRme r (writeBack l s) := by
  simp only [writeBack, postReq_withRme]
  rfl

theorem evictLine_withRme (l : BcLine) : evictLine l (withRme r s) = withRme r (evictLine l s) := by
  have hback : (if l.dirty = true then writeBack l (withRme r s) else withRme r s) =
      withRme r (if l.dirty = true then writeBack l s else s) := ite_change _ Iff.rfl (writeBack_withRme r s l) rfl
  simp only [evictLine, hback]
  exact ite_change _ Iff.rfl rfl rfl

theorem evictAny_withRme (o : Option BcLine) :
    (match o with | some l => evictLine l (withRme r s) | none => withRme r s) =
      withRme r (match o with | some l => evictLine l s | none => s) := by
  cases o with
  | none => rfl
  | some l => exact evictLine_withRme r s l

/-- The state with a clean line in a way. -/
def placedLine (l w : Nat) (s : State) : State := { s with bc := { s.bc with
  lines := ⟨l, Fin.ofNat 16 w, false, false, []⟩ :: s.bc.lines, victim := s.bc.victim.erase l } }

theorem bcAlloc_withRme (l : Nat) : bcAlloc l (withRme r s) = onState (withRme r) (bcAlloc l s) := by
  unfold bcAlloc
  refine ite_change _ Iff.rfl rfl (ite_change _ Iff.rfl rfl ?_)
  exact congrArg (fun x => (true, placedLine l _ x)) (evictAny_withRme r (drawNat _ s).2 _)

theorem readLine_withRme (al : Bool) (l : Nat) (us : List Nat) :
    readLine al l us (withRme r s) = onState (withRme r) (readLine al l us s) := by
  simp only [readLine, bcFind_withRme, withRme_bc, bcCount_withRme, readPortUnits_withRme, bcAlloc_withRme, onState]
  cases bcFind s l with
  | some x => exact ite_change (onState (withRme r)) Iff.rfl rfl rfl
  | none =>
    refine ite_change (onState (withRme r)) Iff.rfl rfl (ite_change (onState (withRme r)) Iff.rfl rfl ?_)
    exact congrArg (Prod.mk _) (ite_change (withRme r) Iff.rfl rfl rfl)

theorem readLines_withRme (al : Bool) (a n : Nat) (ls : List Nat) :
    readLines al a n ls (withRme r s) = onState (withRme r) (readLines al a n ls s) := by
  induction ls generalizing s with
  | nil => rfl
  | cons l ls ih => simp only [readLines, readLine_withRme, onState, ih]

theorem readSmWords_withRme (ws : List Nat) :
    readSmWords ws (withRme r s) = onState (withRme r) (readSmWords ws s) :=
  onState_withRme_of_ports (readSmWords_withPorts · · · · ws) r s

theorem region_withRme (pa : Nat) : region (withRme r s) pa = region s pa := rfl

/-- A read of bytes (12:R352). -/
theorem readAccess_withRme (al : Bool) (pa n : Nat) :
    readAccess al pa n (withRme r s) = onState (withRme r) (readAccess al pa n s) := by
  simp only [readAccess, region_withRme]
  cases region s pa with
  | ext => exact readLines_withRme ..
  | stage => exact readSmWords_withRme ..
  | ctl => rfl
  | remote => rfl
  | none => rfl

/-! Writes (12:R352). -/

theorem portWrite_withRme (w : Waiter) (u : Nat) (cs : List Host.Cell) :
    portWrite w u cs (withRme r s) = withRme r (portWrite w u cs s) := by
  simp only [portWrite, withRme_mem, postReq_withRme]
  rfl

theorem storeUnit_withRme (u : Nat) (cs : List Host.Cell) :
    storeUnit u cs (withRme r s) = withRme r (storeUnit u cs s) := ite_change _ Iff.rfl rfl rfl

/-- A write to the line that has been allocated, or, where none could be, to the port. -/
def placeWrite (w : Waiter) (u : Nat) (cs : List Host.Cell) (x : Bool × State) : State :=
  if x.1 then storeUnit u cs (markDirty (u / 2) x.2)
  else storeUnit u cs (portWrite w u cs { x.2 with bc := { x.2.bc with victim := x.2.bc.victim.erase (u / 2) } })

theorem placeWrite_withRme (w : Waiter) (u : Nat) (cs : List Host.Cell) (x : Bool × State) :
    placeWrite w u cs (onState (withRme r) x) = withRme r (placeWrite w u cs x) := by
  have hport := portWrite_withRme r { x.2 with bc := { x.2.bc with victim := x.2.bc.victim.erase (u / 2) } } w u cs
  exact ite_change (withRme r) Iff.rfl (storeUnit_withRme r (markDirty (u / 2) x.2) u cs)
    ((congrArg (storeUnit u cs) hport).trans (storeUnit_withRme ..))

theorem writeUnit_withRme (al th : Bool) (w : Waiter) (u : Nat) (cs : List Host.Cell) :
    writeUnit al th w u cs (withRme r s) = withRme r (writeUnit al th w u cs s) := by
  simp only [writeUnit, bcFind_withRme, withRme_bc, bcCount_withRme]
  generalize (bcFind s (u / 2)).isSome = inWay
  generalize s.bc.victim.contains (u / 2) = inVic
  generalize bcCount (inWay || inVic) s = t
  refine ite_change (withRme r) Iff.rfl ?_ (ite_change (withRme r) Iff.rfl ?_ (ite_change (withRme r) Iff.rfl ?_ ?_))
  · have halloc : (if (al && !inWay || inVic) = true then (bcAlloc (u / 2) (withRme r t)).2 else withRme r t) =
        withRme r (if (al && !inWay || inVic) = true then (bcAlloc (u / 2) t).2 else t) :=
      ite_change (withRme r) Iff.rfl (by rw [bcAlloc_withRme]; rfl) rfl
    rw [halloc, portWrite_withRme, storeUnit_withRme]
  · exact storeUnit_withRme r (markDirty (u / 2) t) u cs
  · have hread : (if inVic = true then (ReadStat.clean, withRme r t)
        else readPortUnits [u / 2 * 2, u / 2 * 2 + 1] (withRme r t)) =
        onState (withRme r) (if inVic = true then (.clean, t) else readPortUnits [u / 2 * 2, u / 2 * 2 + 1] t) :=
      ite_change (onState (withRme r)) Iff.rfl rfl (readPortUnits_withRme ..)
    rw [hread]
    obtain ⟨c, v⟩ := (if inVic = true then (ReadStat.clean, t) else readPortUnits [u / 2 * 2, u / 2 * 2 + 1] t)
    have halloc : (if (c == .uncorrectable) = true then (false, withRme r v) else bcAlloc (u / 2) (withRme r v)) =
        onState (withRme r) (if (c == .uncorrectable) = true then (false, v) else bcAlloc (u / 2) v) :=
      ite_change (onState (withRme r)) Iff.rfl rfl (bcAlloc_withRme ..)
    exact (congrArg (placeWrite w u cs) halloc).trans (placeWrite_withRme ..)
  · rw [portWrite_withRme, storeUnit_withRme]

theorem writeUnits_withRme (al th : Bool) (w : Waiter) (gs : List (List Host.Cell)) :
    writeUnits al th w gs (withRme r s) = withRme r (writeUnits al th w gs s) := by
  induction gs generalizing s with
  | nil => rfl
  | cons g gs ih => simp only [writeUnits, writeUnit_withRme, ih]

theorem writeSmGroups_withRme (gs : List (List Host.Cell)) :
    writeSmGroups gs (withRme r s) = onState (withRme r) (writeSmGroups gs s) :=
  onState_withRme_of_ports (writeSmGroups_withPorts · · · · gs) r s

/-- A write of bytes (08:R235). -/
theorem writeAccess_withRme (al th : Bool) (w : Waiter) (cs : List Host.Cell) :
    writeAccess al th w cs (withRme r s) = onState (withRme r) (writeAccess al th w cs s) := by
  have hunits := writeUnits_withRme r (mendLines (extCells s cs) s) al th w (groupCells 64 (extCells s cs))
  exact (congrArg (writeSmGroups (groupCells 32 (stageCells s cs))) hunits).trans (writeSmGroups_withRme ..)

theorem readAccess_rme (al : Bool) (pa n : Nat) : (readAccess al pa n s).2.rme = s.rme :=
  rme_of_withRme (fun r s => readAccess_withRme r s al pa n) s

theorem writeAccess_rme (al th : Bool) (w : Waiter) (cs : List Host.Cell) : (writeAccess al th w cs s).2.rme = s.rme :=
  rme_of_withRme (fun r s => writeAccess_withRme r s al th w cs) s

/-! Atomics (07:R224, R225). -/

/-- An element's new value is written, if it has one; its old value. -/
def storeElem (n a size old : Nat) (v : Option Nat) (s : State) : Option Nat × State :=
  match v with
  | none => (some old, s)
  | some v => match writeAccess true false (.inbound n) (cellsAt a (natLe v size)) s with
    | (some _, t) => (none, t)
    | (none, t) => (some old, t)

theorem storeElem_withRme (n a size old : Nat) (v : Option Nat) :
    storeElem n a size old v (withRme r s) = onState (withRme r) (storeElem n a size old v s) := by
  cases v with
  | none => rfl
  | some v =>
    simp only [storeElem, writeAccess_withRme]
    obtain ⟨_ | _, t⟩ := writeAccess true false (.inbound n) (cellsAt a (natLe v size)) s <;> rfl

theorem atomicElem_withRme (n a size : Nat) (f : Nat → Option Nat) :
    atomicElem n a size f (withRme r s) = onState (withRme r) (atomicElem n a size f s) := by
  simp only [atomicElem, readAccess_withRme]
  obtain ⟨_ | _ | _, t⟩ := readAccess true a size s
  · exact storeElem_withRme r t n a size (leNat (Memory.gets t.mem a size)) _
  · exact storeElem_withRme r t n a size (leNat (Memory.gets t.mem a size)) _
  · rfl

theorem addElems_withRme (n size : Nat) (l : List (Nat × Nat)) :
    addElems n size l (withRme r s) = onState (withRme r) (addElems n size l s) := by
  induction l generalizing s with
  | nil => rfl
  | cons x l ih =>
    simp only [addElems, atomicElem_withRme]
    obtain ⟨_ | _, t⟩ := atomicElem n x.1 size (fun old => some (old + x.2)) s
    · rfl
    · exact ih t

end

end Sys2Proof.Machine

/-! SUPPORT. Where no byte is uncorrectable, accesses find none and leave none (08:R233, R235, R236; 12:R352, R357). -/

namespace Sys2Proof.Machine

/-! What a state's soundness rests on. -/

section
variable {s t : State}

theorem sound_congr (h : Rule.Sound s) (hw : t.sm.ueWords = s.sm.ueWords) (hu : t.memp.ueUnits = s.memp.ueUnits)
    (hg : t.memp.got = s.memp.got) (hl : t.bc.lines = s.bc.lines) : Rule.Sound t :=
  ⟨hw.trans h.stage, ⟨hu.trans h.ports.1, fun x hx => h.ports.2 x (hg ▸ hx)⟩, fun l hx => h.lines l (hl ▸ hx)⟩

/-- The lines of a sound state are replaced by lines that are not bad. -/
theorem sound_withLines (h : Rule.Sound s) {b : Bc} (hl : ∀ l ∈ b.lines, l.bad = false) :
    Rule.Sound { s with bc := b } :=
  ⟨h.stage, h.ports, hl⟩

/-- A change of the lines that spoils none. -/
theorem sound_mapLines (h : Rule.Sound s) {g : BcLine → BcLine} (hg : ∀ l, l.bad = false → (g l).bad = false) :
    Rule.Sound { s with bc := { s.bc with lines := s.bc.lines.map g } } := by
  refine sound_withLines h fun l hl => ?_
  obtain ⟨k, hk, rfl⟩ := List.mem_map.mp hl
  exact hg k (h.lines k hk)

theorem worse_of_correctable {a b : ReadStat} (ha : a ≠ .uncorrectable) (hb : b ≠ .uncorrectable) :
    worse a b ≠ .uncorrectable := by
  cases a with
  | uncorrectable => exact absurd rfl ha
  | clean => cases b <;> simp_all [worse]
  | corrected => cases b <;> simp_all [worse]

end

/-- An access that finds nothing uncorrectable in a sound state, which it leaves sound. -/
def ReadsSound (f : State → ReadStat × State) : Prop :=
  ∀ s, Rule.Sound s → (f s).1 ≠ .uncorrectable ∧ Rule.Sound (f s).2

/-! Ports (15:R425). -/

theorem postReq_memp (u : Nat) (w : Bool) (x : Waiter) (old : List Host.Cell) (s : State) : ∃ m,
    postReq u w x old s = { s with memp := m } ∧ m.ueUnits = s.memp.ueUnits ∧ m.got = s.memp.got := by
  unfold postReq
  dsimp only
  split
  · exact ⟨_, rfl, rfl, rfl⟩
  · exact ⟨_, rfl, rfl, rfl⟩

theorem sound_postReq {s : State} (h : Rule.Sound s) (u : Nat) (w : Bool) (x : Waiter) (old : List Host.Cell) :
    Rule.Sound (postReq u w x old s) := by
  obtain ⟨m, he, hu, hg⟩ := postReq_memp u w x old s
  rw [he]
  exact sound_congr h rfl hu hg rfl

theorem sound_countMemCe {s : State} (h : Rule.Sound s) (pa : Nat) : Rule.Sound (countMemCe pa s) := by
  simp only [countMemCe, firstInBeat]
  split <;> exact sound_congr h rfl rfl rfl rfl

theorem reads_readPortUnit (u : Nat) : ReadsSound (readPortUnit u) := by
  intro s h
  unfold readPortUnit
  split
  · rename_i hx
    exact ⟨h.ports.2 _ (List.mem_of_find?_eq_some hx), h⟩
  · have hask : Rule.Sound { s with memp := { s.memp with
        asks := addOnce u s.memp.asks, rbytes := vmod s.memp.rbytes (portOf s (u * 64)) (· + 64) } } :=
      sound_congr h rfl rfl rfl rfl
    simp only [h.ports.1, List.contains_nil, Bool.false_eq_true, if_false]
    split
    · exact ⟨nofun, sound_countMemCe (h.ports.1 ▸ hask) _⟩
    · exact ⟨nofun, h.ports.1 ▸ hask⟩

theorem reads_readPortUnits (us : List Nat) : ReadsSound (readPortUnits us) := by
  intro s h
  induction us generalizing s with
  | nil => exact ⟨nofun, h⟩
  | cons u us ih =>
    obtain ⟨ha, hs⟩ := reads_readPortUnit u s h
    obtain ⟨hb, ht⟩ := ih _ hs
    exact ⟨worse_of_correctable ha hb, ht⟩

/-! The block cache (12:R352). -/

theorem sound_bcCount {s : State} (h : Rule.Sound s) (hit : Bool) : Rule.Sound (bcCount hit s) := by
  cases hit <;> exact sound_congr h rfl rfl rfl rfl

theorem sound_writeBack {s : State} (h : Rule.Sound s) (l : BcLine) : Rule.Sound (writeBack l s) := by
  refine sound_mapLines (sound_postReq (sound_postReq h ..) ..) fun k hk => ?_
  split
  · exact hk
  · exact hk

theorem sound_evictLine {s : State} (h : Rule.Sound s) (l : BcLine) : Rule.Sound (evictLine l s) := by
  have hback : Rule.Sound (if l.dirty then writeBack l s else s) := by
    split
    · exact sound_writeBack h l
    · exact h
  unfold evictLine
  dsimp only
  generalize (if l.dirty = true then writeBack l s else s) = x at hback ⊢
  have hout : Rule.Sound { x with bc := { x.bc with
      lines := x.bc.lines.filter (·.line != l.line), victim := l.line :: x.bc.victim } } :=
    sound_withLines hback fun k hk => hback.lines k (List.mem_filter.mp hk).1
  split
  · exact hout
  · exact sound_congr hout rfl rfl rfl rfl

theorem sound_placedLine {s : State} (h : Rule.Sound s) (l w : Nat) : Rule.Sound (placedLine l w s) := by
  refine sound_withLines h fun k hk => ?_
  rcases List.mem_cons.mp hk with rfl | hk
  · rfl
  · exact h.lines k hk

theorem sound_bcAlloc {s : State} (h : Rule.Sound s) (l : Nat) : Rule.Sound (bcAlloc l s).2 := by
  unfold bcAlloc
  split
  · exact h
  · extract_lets inSet ways empty usable
    split
    · exact h
    · refine sound_placedLine ?_ l _
      have hdraw (n : Nat) : Rule.Sound (drawNat n s).2 := sound_congr h rfl rfl rfl rfl
      split
      · exact sound_evictLine (hdraw _) _
      · exact hdraw _

theorem bcFind_good {s : State} (h : Rule.Sound s) {line : Nat} {l : BcLine} (hl : bcFind s line = some l) :
    l.bad = false := h.lines l (List.mem_of_find?_eq_some hl)

theorem reads_readLine (al : Bool) (l : Nat) (us : List Nat) : ReadsSound (readLine al l us) := by
  intro s h
  unfold readLine
  split
  · rename_i hx
    rw [if_neg (by simp [bcFind_good h hx])]
    exact ⟨nofun, sound_bcCount h true⟩
  · split
    · exact ⟨nofun, sound_bcAlloc (sound_bcCount h true) l⟩
    · obtain ⟨ha, hs⟩ := reads_readPortUnits us _ (sound_bcCount h false)
      dsimp only
      split
      · exact ⟨ha, hs⟩
      · obtain ⟨-, ht⟩ := reads_readPortUnits ([l * 2, l * 2 + 1].filter fun u => !us.contains u) _ hs
        refine ⟨ha, ?_⟩
        dsimp only
        split
        · exact ht
        · exact sound_bcAlloc ht l

theorem reads_readLines (al : Bool) (a n : Nat) (ls : List Nat) : ReadsSound (readLines al a n ls) := by
  intro s h
  induction ls generalizing s with
  | nil => exact ⟨nofun, h⟩
  | cons l ls ih =>
    obtain ⟨ha, hs⟩ := reads_readLine al l ((blocksOf 64 a n).filter fun u => u / 2 == l) s h
    obtain ⟨hb, ht⟩ := ih _ hs
    exact ⟨worse_of_correctable ha hb, ht⟩

/-! Stage memory (08:R236). -/

theorem reads_readSmWord (w : Nat) : ReadsSound (readSmWord w) := by
  intro s h
  obtain ⟨-, hm, hb⟩ := ports_of_withPorts (readSmWord_withPorts · · · · w) s
  exact ⟨readSmWord_of_sound h.stage w,
    sound_congr h (ueWords_of_kept (kept_readSmWord w s)) (by rw [hm]) (by rw [hm]) (by rw [hb])⟩

theorem reads_readSmWords (ws : List Nat) : ReadsSound (readSmWords ws) := by
  intro s h
  induction ws generalizing s with
  | nil => exact ⟨nofun, h⟩
  | cons w ws ih =>
    obtain ⟨ha, hs⟩ := reads_readSmWord w s h
    obtain ⟨hb, ht⟩ := ih _ hs
    exact ⟨worse_of_correctable ha hb, ht⟩

/-! Reads (12:R352). -/

theorem reads_readAccess (al : Bool) (pa n : Nat) : ReadsSound (readAccess al pa n) := by
  intro s h
  unfold readAccess
  split
  · exact reads_readLines al pa n _ s h
  · exact reads_readSmWords _ s h
  · exact ⟨nofun, h⟩

/-- What an engine's read of a unit at a port or in the cache comes to. -/
theorem reads_engReadUnits (w : Waiter) (us : List Nat) : ReadsSound (engReadUnits w us) := by
  intro s h
  induction us generalizing s with
  | nil => exact ⟨nofun, h⟩
  | cons u us ih =>
    unfold engReadUnits
    cases hx : bcFind s (u / 2) with
    | some l =>
      obtain ⟨hb, ht⟩ := ih _ (sound_bcCount h true)
      simp only [bcFind_good h hx, Bool.false_eq_true, if_false]
      exact ⟨worse_of_correctable nofun hb, ht⟩
    | none =>
      dsimp only
      split
      · obtain ⟨hb, ht⟩ := ih _ (sound_bcAlloc (sound_bcCount h true) (u / 2))
        exact ⟨worse_of_correctable nofun hb, ht⟩
      · obtain ⟨hb, ht⟩ := ih _ (sound_postReq (sound_bcCount h false) u false w [])
        exact ⟨worse_of_correctable nofun hb, ht⟩

theorem reads_engRead (w : Waiter) (pa n : Nat) : ReadsSound (engRead w pa n) := by
  intro s h
  unfold engRead
  split
  · exact reads_engReadUnits w _ s h
  · exact reads_readSmWords _ s h
  · exact ⟨nofun, h⟩

/-! Writes (12:R352; 08:R236). -/

theorem sound_storeUnit {s : State} (h : Rule.Sound s) (u : Nat) (cs : List Host.Cell) :
    Rule.Sound (storeUnit u cs s) := by
  unfold storeUnit
  dsimp only
  split
  · exact sound_congr h rfl rfl rfl rfl
  · exact sound_congr h rfl (by simp [h.ports.1]) rfl rfl

theorem sound_markDirty {s : State} (h : Rule.Sound s) (l : Nat) : Rule.Sound (markDirty l s) := by
  refine sound_mapLines h fun k hk => ?_
  split
  · exact hk
  · exact hk

theorem sound_portWrite {s : State} (h : Rule.Sound s) (w : Waiter) (u : Nat) (cs : List Host.Cell) :
    Rule.Sound (portWrite w u cs s) := by
  refine sound_mapLines (sound_postReq h u true w (oldCells s.mem cs)) fun k hk => ?_
  split
  · exact hk
  · exact hk

theorem sound_placeWrite {x : Bool × State} (h : Rule.Sound x.2) (w : Waiter) (u : Nat) (cs : List Host.Cell) :
    Rule.Sound (placeWrite w u cs x) := by
  unfold placeWrite
  split
  · exact sound_storeUnit (sound_markDirty h _) u cs
  · have hout : Rule.Sound { x.2 with bc := { x.2.bc with victim := x.2.bc.victim.erase (u / 2) } } :=
      sound_congr h rfl rfl rfl rfl
    exact sound_storeUnit (sound_portWrite hout w u cs) u cs

theorem sound_writeUnit {s : State} (h : Rule.Sound s) (al th : Bool) (w : Waiter) (u : Nat) (cs : List Host.Cell) :
    Rule.Sound (writeUnit al th w u cs s) := by
  have hc := sound_bcCount h ((bcFind s (u / 2)).isSome || s.bc.victim.contains (u / 2))
  unfold writeUnit
  dsimp only
  generalize bcCount ((bcFind s (u / 2)).isSome || s.bc.victim.contains (u / 2)) s = t at hc ⊢
  split
  · refine sound_storeUnit (sound_portWrite ?_ w u cs) u cs
    split
    · exact sound_bcAlloc hc _
    · exact hc
  · split
    · exact sound_storeUnit (sound_markDirty hc _) u cs
    · split
      · have hread : Rule.Sound (if s.bc.victim.contains (u / 2) = true then (ReadStat.clean, t)
            else readPortUnits [u / 2 * 2, u / 2 * 2 + 1] t).2 := by
          split
          · exact hc
          · exact (reads_readPortUnits _ t hc).2
        generalize (if s.bc.victim.contains (u / 2) = true then (ReadStat.clean, t)
          else readPortUnits [u / 2 * 2, u / 2 * 2 + 1] t) = x at hread ⊢
        have halloc : Rule.Sound (if (x.1 == .uncorrectable) = true then (false, x.2) else bcAlloc (u / 2) x.2).2 := by
          split
          · exact hread
          · exact sound_bcAlloc hread _
        exact sound_placeWrite halloc w u cs
      · exact sound_storeUnit (sound_portWrite hc w u cs) u cs

theorem sound_writeUnits {s : State} (h : Rule.Sound s) (al th : Bool) (w : Waiter) (gs : List (List Host.Cell)) :
    Rule.Sound (writeUnits al th w gs s) := by
  induction gs generalizing s with
  | nil => exact h
  | cons g gs ih => exact ih (sound_writeUnit h ..)

theorem sound_mendLines {s : State} (h : Rule.Sound s) (cs : List Host.Cell) : Rule.Sound (mendLines cs s) := by
  refine sound_mapLines h fun k hk => ?_
  split
  · rfl
  · exact hk

theorem sound_writeSmGroups {s : State} (h : Rule.Sound s) (gs : List (List Host.Cell)) :
    Rule.Sound (writeSmGroups gs s).2 := by
  obtain ⟨-, hm, hb⟩ := ports_of_withPorts (writeSmGroups_withPorts · · · · gs) s
  obtain ⟨-, hw⟩ := writeSmGroups_engineWrote gs fun _ => h.stage
  exact sound_congr h ((hw.words h.stage).trans h.stage.symm) (by rw [hm]) (by rw [hm]) (by rw [hb])

theorem sound_writeAccess {s : State} (h : Rule.Sound s) (al th : Bool) (w : Waiter) (cs : List Host.Cell) :
    Rule.Sound (writeAccess al th w cs s).2 :=
  sound_writeSmGroups (sound_writeUnits (sound_mendLines h _) al th w _) _

end Sys2Proof.Machine

/-! SUPPORT. O24: inbound remote operations (07:R224, R225; 08:R247 to R249; 12:R352; 15:R427 to R429). -/

namespace Sys2Proof.Machine

/-! The packet that comes, and the answer to it (15:R427, R428). -/

section
variable {s : State} {p : Packet}

theorem parityAt_of_noMismatch (h : Rule.NoMismatch s) (off : Nat) : parityAt s off = false := by
  simp [parityAt, h.1]

/-- An operation that is examined is accepted (15:R429). -/
theorem inboundGate_of_inward (h : Rule.Inward s p) (accept : State → State) :
    inboundGate p accept s = accept (Rule.received p.payload.length s) := by
  obtain ⟨⟨hpor, hwres⟩, ⟨hself, hdest⟩, hstate, hwhole⟩ := h
  have hopen : flagsOpen (Rule.received p.payload.length s) = true := flagsOpen_iff.mpr hstate
  have hheld : inboundHeld (Rule.received p.payload.length s) = false := by
    have hp (off : Nat) : parityAt (Rule.received p.payload.length s) off = false := parityAt_of_noMismatch hwhole off
    simp only [inboundHeld, hp]
    rfl
  have hs : (Rule.received p.payload.length s).rme.self = s.rme.self := rfl
  simp only [inboundGate, hpor, hwres, Bool.or_self, Bool.false_eq_true, if_false, takeStream_eq, hs, hdest,
    bne_self_eq_false, Bool.and_false, beq_eq_false_iff_ne.mpr hself, hopen, Bool.not_true, hheld]

/-- A packet for another node sets RP_STRAY. -/
theorem inboundGate_of_stray (hp : s.ctl.por = false) (hw : s.ctl.wres = false) (hs : s.rme.self ≠ 0xFFFF)
    (hd : p.dest ≠ s.rme.self) (accept : State → State) : inboundGate p accept s =
      { Rule.received p.payload.length s with bnd := { s.bnd with flags := Rule.withBit s.bnd.flags 11 true } } := by
  have hself : (Rule.received p.payload.length s).rme.self = s.rme.self := rfl
  simp only [inboundGate, hp, hw, Bool.or_self, Bool.false_eq_true, if_false, takeStream_eq, hself, bne_iff_ne, ne_eq, hs,
    hd, not_false_eq_true, and_self, if_true, Bool.and_eq_true, setBnd_eq]
  rfl

/-- An answer that the credits cover has left. -/
theorem respond_of_open {n : Nat} (h : Rule.StreamOpen s n) {data : List Byte} (hl : 36 + (data.length + 3) / 4 * 4 ≤ n)
    {op : Byte} (ho : isRequest op = false) (p : Packet) (reason : BitVec 16) :
    respond p.src p.txid op reason data s = Rule.sent s (Rule.answer s p op reason data) :=
  sendPacket_of_open_answer h ((packetBytes_length _).trans_le hl) ho

/-! Flag updates (08:R247). -/

theorem inboundFlag_of_open (h : Rule.Inward s p) (ho : Rule.StreamOpen s 36) (hf : s.rme.flagin = true) (add : Bool) :
    inboundFlag p add s = Rule.sent (withUpd s 41 (p.addr.toNat % 4096)
      (if add then .add (p.arg.extractLsb' 0 32) else .set (p.arg.extractLsb' 0 32))) (Rule.answer s p 0x81 0 []) := by
  simp only [inboundFlag, hf, Bool.not_true, Bool.false_eq_true, if_false, flagHeld, parityAt_of_noMismatch h.whole,
    Bool.and_false, flagPost_of_open (flagsOpen_iff.mpr h.state) h.whole]
  exact respond_of_open (data := []) (op := pkAck) (s := withUpd ..) ho (by decide) rfl p 0

/-- The state with an event of RME_STATUS for a refusal, and RME_REFUSALS counted. -/
def refusing (s : State) : State := rmeEvent 3 { s with rme := { s.rme with refusals := s.rme.refusals + 1 } }

theorem refuse_of_open (h : Rule.StreamOpen s 36) (p : Packet) (reason : BitVec 16) :
    refuse p.src p.txid reason s = Rule.sent (refusing s) (Rule.answer s p 0x83 reason []) :=
  respond_of_open (s := refusing s) (data := []) h (by decide) rfl p reason

theorem inboundFlag_of_closed (ho : Rule.StreamOpen s 36) (hf : s.rme.flagin = false) (add : Bool) :
    inboundFlag p add s = Rule.sent (refusing s) (Rule.answer s p 0x83 0x0003 []) := by
  simp only [inboundFlag, hf, Bool.not_false, if_true, refuse_of_open ho]

/-! Packets that are discarded (15:R429). -/

/-- A discarded packet takes some bytes of the stream, up to a packet's payload. -/
theorem discardPacket_eq (bad : PacketFault) (s : State) : ∃ n ≤ 4096, discardPacket bad s =
    let t := Rule.received n { s with ctl := { s.ctl with free := s.ctl.free + 1 } }
    match bad with
    | .crc => setBnd 10 t
    | .dest => if s.rme.self = 0xFFFF then t else setBnd 11 t
    | .op => setBnd 11 t := by
  refine ⟨Config.freeNat s.ctl.free % 4097, Nat.le_of_lt_succ (Nat.mod_lt _ (by decide)), ?_⟩
  unfold discardPacket
  simp only [drawNat, takeStream_eq]
  cases bad with
  | crc => rfl
  | dest => simp [Rule.received]
  | op => rfl

end

theorem inboundFlags : Rule.InboundFlags := by
  intro s p ho s'
  have ho' : Rule.StreamOpen s' 36 := ho
  refine ⟨fun h hf => ?_, fun h hf => ?_, fun hp hw hs hd => ?_, ?_⟩
  · have h' : Rule.Inward s' p := ⟨h.awake, h.self, h.state, h.whole⟩
    exact ⟨gives_of_next rfl ((inboundGate_of_inward h _).trans (inboundFlag_of_open h' ho' hf true)),
      gives_of_next rfl ((inboundGate_of_inward h _).trans (inboundFlag_of_open h' ho' hf false))⟩
  · have hbit := rmeEvent_status_bit (i := 3)
      { s' with rme := { s'.rme with refusals := s'.rme.refusals + 1 } } (by decide)
    exact ⟨ends_of_next rfl ((inboundGate_of_inward h _).trans (inboundFlag_of_closed ho' hf true) ▸ ⟨rfl, rfl, hbit⟩),
      ends_of_next rfl ((inboundGate_of_inward h _).trans (inboundFlag_of_closed ho' hf false) ▸ ⟨rfl, rfl, hbit⟩)⟩
  · have hstray := inboundGate_of_stray (p := p) hp hw hs hd
    exact ⟨gives_of_next rfl (hstray _), gives_of_next rfl (hstray _), gives_of_next rfl (hstray _),
      gives_of_next rfl (hstray _), gives_of_next rfl (hstray _), gives_of_next rfl (hstray _),
      gives_of_next rfl (hstray _)⟩
  · obtain ⟨n, hn, hcrc⟩ := discardPacket_eq .crc s
    obtain ⟨k, hk, hop⟩ := discardPacket_eq .op s
    obtain ⟨m, hm, hdest⟩ := discardPacket_eq .dest s
    simp only [setBnd_eq] at hcrc hop hdest
    refine ⟨ends_of_next rfl (hcrc ▸ ⟨⟨n, hn, rfl⟩, rfl⟩), ends_of_next rfl (hop ▸ ⟨⟨k, hk, rfl⟩, rfl⟩),
      fun hs => ?_, fun hs => ?_⟩
    · rw [if_neg hs] at hdest
      exact ends_of_next rfl (hdest ▸ ⟨⟨m, hm, rfl⟩, rfl⟩)
    · rw [if_pos hs] at hdest
      exact ends_of_next rfl (hdest ▸ ⟨⟨m, hm, rfl⟩, rfl⟩)

/-! Accesses of inbound operations (12:R352). -/

/-- In t cells have been put into the memory of s by an access that leaves the remote engine and the flags as they are, and
no byte uncorrectable. -/
structure Accessed (s t : State) (cs : List Host.Cell) : Prop where
  wrote    : EngineWrote s t cs
  counters : CountersKept s t
  rme      : t.rme = s.rme
  sound    : Rule.Sound t

theorem Accessed.trans {s t u : State} {cs ds : List Host.Cell} (h : Accessed s t cs) (k : Accessed t u ds) :
    Accessed s u (cs ++ ds) :=
  ⟨h.wrote.trans k.wrote, h.counters.trans k.counters, k.rme.trans h.rme, k.sound⟩

/-- n bytes from an address on, all in external or all in stage memory. -/
def InMem (s : State) (a n : Nat) : Prop :=
  (region s a = .ext ∨ region s a = .stage) ∧ ∀ k, k < n → region s (a + k) = region s a

section
variable {s : State} {a n : Nat}

theorem InMem.congr {t : State} (h : InMem s a n) (hr : region t = region s) : InMem t a n := by
  unfold InMem
  rw [hr]
  exact h

theorem InMem.part (h : InMem s a n) {k m : Nat} (hk : k + m ≤ n) (hm : 0 < m) : InMem s (a + k) m := by
  obtain ⟨hr, hall⟩ := h
  have hbase := hall k (by omega)
  exact ⟨hbase ▸ hr, fun j hj => by rw [Nat.add_assoc, hall _ (by omega), hbase]⟩

/-- Bytes there can be written. -/
theorem InMem.writable (h : InMem s a n) (hs : Rule.Sound s) {bs : List Byte} (hb : bs.length = n) :
    Rule.Writable s (cellsAt a bs) := by
  intro c hc
  obtain ⟨hlo, hhi⟩ := mem_cellsAt hc
  obtain ⟨hr, hall⟩ := h
  have hreg : region s c.1 = region s a := by
    rw [← hall (c.1 - a) (by omega)]
    congr 1
    omega
  rw [hreg]
  exact hr.imp_right fun h => ⟨h, hs.stage⟩

/-- No data access there is refused where an aperture grants it (08:R249). -/
theorem memRefusal_of_granted (h : InMem s a n) (hn : 0 < n) {w r : Bool} (hg : granted s a n w r = true) :
    memRefusal s a n w r = none := by
  obtain ⟨hr, hall⟩ := h
  have hend : region s (a + n - 1) = region s a := by
    rw [← hall (n - 1) (by omega)]
    congr 1
    omega
  have hmem : inMemory s a = true := by
    rcases hr with h | h <;> simp [inMemory, h]
  have hctl : (region s a == .ctl) = false := by
    rcases hr with h | h <;> simp [h]
  simp [memRefusal, hctl, hmem, hend, hg]

end

theorem accessed_readAccess {s : State} (h : Rule.Sound s) (al : Bool) (pa n : Nat) :
    Accessed s (readAccess al pa n s).2 [] :=
  ⟨.of_kept (kept_readAccess ..), .of_kept (kept_readAccess ..), readAccess_rme .., (reads_readAccess al pa n s h).2⟩

theorem accessed_writeAccess {s : State} (h : Rule.Sound s) {cs : List Host.Cell} (hw : Rule.Writable s cs) (al th : Bool)
    (w : Waiter) : Accessed s (writeAccess al th w cs s).2 cs :=
  ⟨(writeAccess_engineWrote hw al th w).2, countersKept_writeAccess .., writeAccess_rme .., sound_writeAccess h ..⟩

/-! The answer to an accepted operation (08:R254). -/

/-- Of the state an answer changes the remote engine only. -/
theorem sendPacket_memp (p : TxPacket) (s : State) : (sendPacket p s).memp = s.memp := by
  rw [(streamed_sendPacket p s).rest]

theorem inboundAnswer_memp (p : Packet) (n : Nat) (op : Byte) (data : List Byte) (s : State) :
    (inboundAnswer p n op data s).memp = s.memp := by
  unfold inboundAnswer
  dsimp only
  split
  · rfl
  · exact sendPacket_memp ..

theorem refuse_memp (src : BitVec 16) (txid : BitVec 32) (reason : BitVec 16) (s : State) :
    (refuse src txid reason s).memp = s.memp := sendPacket_memp ..

/-- In t the operation whose data are at hand in v has been accepted in s. -/
structure Done (s v t : State) (p : Packet) (op : Byte) (data : List Byte) : Prop where
  rest     : t = { v with rme := t.rme }
  accepted : Rule.Accepted s t p op data

theorem done_inboundAnswer {s v : State} {p : Packet} {op : Byte} {data : List Byte}
    (hr : v.rme = { s.rme with rxOff := v.rme.rxOff, rxCred := v.rme.rxCred, inHeld := v.rme.inHeld })
    (ho : Rule.StreamOpen s 4132) (hd : data.length ≤ 4096) (hop : isRequest op = false) :
    Done s v (inboundAnswer p s.rme.inNext op data v) p op data := by
  have hin : v.rme.inNext = s.rme.inNext := by rw [hr]
  have hopen : Rule.StreamOpen v 4132 := by rw [Rule.StreamOpen, hr]; exact ho
  unfold inboundAnswer
  dsimp only
  split
  · rename_i hw
    have hw' : inboundPorts v s.rme.inNext = true := hw
    refine ⟨rfl, rfl, fun _ => ⟨?_, ?_, ?_⟩, fun hn => absurd hw' hn⟩ <;> rw [hr]
  · rename_i hw
    have hw' : ¬ inboundPorts v s.rme.inNext = true := hw
    have hsend := respond_of_open (s := { v with rme := { v.rme with
        inNext := s.rme.inNext + 1, inbytes := v.rme.inbytes + w64 p.payload.length } }) (n := 4132) hopen (data := data)
      (by omega) hop p 0
    rw [inboundDone]
    dsimp only
    rw [hsend]
    refine ⟨rfl, rfl, fun hn => absurd hn hw', fun _ => ⟨?_, ?_, ?_⟩⟩
    · simp only [Rule.sent, Rule.answer]; rw [hr]
    · simp only [Rule.sent]; rw [hr]
    · simp only [Rule.sent]; rw [hr]; rfl

section
variable {s : State} {p : Packet}

/-- The engine's state of a packet that has come. -/
theorem received_rme (n : Nat) (s : State) (v : State) (h : v.rme = (Rule.received n s).rme) :
    v.rme = { s.rme with rxOff := v.rme.rxOff, rxCred := v.rme.rxCred, inHeld := v.rme.inHeld } := by
  rw [h]
  rfl

/-- PUT writes the payload, and is answered (08:R247). -/
theorem inboundPut_done (hs : Rule.Sound s) (ho : Rule.StreamOpen s 4132) (hm : InMem s (packetAddr p) p.payload.length)
    (hn : 0 < p.payload.length) (hg : granted s (packetAddr p) p.payload.length true false = true) (k : Nat) :
    ∃ v, Accessed (Rule.received k s) v (cellsAt (packetAddr p) p.payload) ∧
      Done s v (inboundPut p (Rule.received k s)) p 0x81 [] := by
  have hs' : Rule.Sound (Rule.received k s) := sound_congr hs rfl rfl rfl rfl
  have hw : Rule.Writable (Rule.received k s) (cellsAt (packetAddr p) p.payload) := hm.writable hs rfl
  have hacc := accessed_writeAccess hs' hw false false (.inbound s.rme.inNext)
  have hnone := (writeAccess_engineWrote hw false false (.inbound s.rme.inNext)).1
  have href : memRefusal (Rule.received k s) (packetAddr p) p.payload.length true false = none :=
    memRefusal_of_granted (s := Rule.received k s) hm hn hg
  refine ⟨_, hacc, ?_⟩
  have heq : inboundPut p (Rule.received k s) = inboundAnswer p s.rme.inNext pkAck []
      (writeAccess false false (.inbound s.rme.inNext) (cellsAt (packetAddr p) p.payload) (Rule.received k s)).2 := by
    unfold inboundPut
    simp only [href]
    have hin : (Rule.received k s).rme.inNext = s.rme.inNext := rfl
    rw [hin]
    generalize writeAccess false false _ _ _ = x at hnone
    obtain ⟨_ | _, t⟩ := x
    · rfl
    · cases hnone
  rw [heq]
  exact done_inboundAnswer (received_rme k s _ hacc.rme) ho (by simp) rfl

/-- GET reads its bytes, and is answered with them (08:R247). -/
theorem inboundGet_done (hs : Rule.Sound s) (ho : Rule.StreamOpen s 4132) (hm : InMem s (packetAddr p) p.len.toNat)
    (hn : 0 < p.len.toNat) (hl : p.len.toNat ≤ 4096) (hg : granted s (packetAddr p) p.len.toNat false true = true)
    (k : Nat) :
    ∃ v, Kept (Rule.received k s) v ∧ Done s v (inboundGet p (Rule.received k s)) p 0x82
      (Memory.gets s.mem (packetAddr p) p.len.toNat) := by
  have hs' : Rule.Sound (Rule.received k s) := sound_congr hs rfl rfl rfl rfl
  have hkept := kept_engRead (.inbound s.rme.inNext) (packetAddr p) p.len.toNat (Rule.received k s)
  have hread := (reads_engRead (.inbound s.rme.inNext) (packetAddr p) p.len.toNat _ hs').1
  have href : memRefusal (Rule.received k s) (packetAddr p) p.len.toNat false true = none :=
    memRefusal_of_granted (s := Rule.received k s) hm hn hg
  refine ⟨_, hkept, ?_⟩
  have heq : inboundGet p (Rule.received k s) = inboundAnswer p s.rme.inNext pkData
      (Memory.gets s.mem (packetAddr p) p.len.toNat)
      (engRead (.inbound s.rme.inNext) (packetAddr p) p.len.toNat (Rule.received k s)).2 := by
    have hmem := hkept.mem
    have hin : (Rule.received k s).rme.inNext = s.rme.inNext := rfl
    unfold inboundGet
    simp only [href]
    rw [hin]
    generalize engRead _ _ _ _ = x at hread hmem
    obtain ⟨_ | _ | _, t⟩ := x
    · dsimp only at hmem ⊢; rw [hmem]; rfl
    · dsimp only at hmem ⊢; rw [hmem]; rfl
    · exact absurd rfl hread
  rw [heq]
  exact done_inboundAnswer (received_rme k s _ hkept.rme) ho (by simpa using hl) rfl

end

/-! Atomics (07:R224, R225). -/

/-- The state with inbound atomics that wait. -/
def holding (l : List (Byte × Packet)) (s : State) : State := withRme { s.rme with inHeld := l } s

section
variable {s : State} {p : Packet}

/-- The checks of an atomic do not look at those that wait, nor does what it does at the ports. -/
theorem atomicGate_memp (l : List (Byte × Packet)) (n : Nat) {onFlag : Nat → State → State} {onMem : State → State}
    (hf : ∀ f s, (onFlag f s).memp = s.memp) (hm : (onMem (holding l s)).memp = (onMem s).memp) :
    (atomicGate p n onFlag onMem (holding l s)).memp = (atomicGate p n onFlag onMem s).memp := by
  have hflagin : (holding l s).rme.flagin = s.rme.flagin := rfl
  have hheld (f : Nat) : flagHeld (holding l s) f = flagHeld s f := rfl
  have href : memRefusal (holding l s) (packetAddr p) n true true = memRefusal s (packetAddr p) n true true := rfl
  unfold atomicGate
  split
  · rw [hflagin, hheld]
    split
    · rw [refuse_memp, refuse_memp]; rfl
    · split
      · rw [refuse_memp, refuse_memp]; rfl
      · rw [hf, hf]; rfl
  · rw [href]
    split
    · rw [refuse_memp, refuse_memp]; rfl
    · exact hm

theorem flagPost_memp (order f : Nat) (op : FlagOp) (s : State) : (flagPost order f op s).memp = s.memp := by
  unfold flagPost
  split
  · rfl
  · split
    · rfl
    · split <;> rfl

theorem refuseAtomic_memp (p : Packet) (n : Nat) (s : State) : (refuseAtomic p n s).memp = s.memp := refuse_memp ..

theorem addsAnswered_memp (n : Nat) (x : Bool × State) : (match x with
      | (false, s) => refuseAtomic p n s
      | (true, s) => inboundAnswer p n pkAck [] s).memp = x.2.memp := by
  obtain ⟨_ | _, t⟩ := x
  · exact refuseAtomic_memp ..
  · exact inboundAnswer_memp ..

theorem elemAnswered_memp (n : Nat) (x : Option Nat × State) : (match x with
      | (none, s) => refuseAtomic p n s
      | (some old, s) => inboundAnswer p n pkData (natLe old (atomSize p)) s).memp = x.2.memp := by
  obtain ⟨_ | _, t⟩ := x
  · exact refuseAtomic_memp ..
  · exact inboundAnswer_memp ..

theorem inboundAadd_memp (l : List (Byte × Packet)) : (inboundAadd p (holding l s)).memp = (inboundAadd p s).memp := by
  refine atomicGate_memp l _ (fun f s => (inboundAnswer_memp ..).trans (flagPost_memp ..)) ?_
  refine (addsAnswered_memp ..).trans (Eq.trans ?_ (addsAnswered_memp ..).symm)
  rw [holding, addElems_withRme]
  rfl

theorem inboundFadd_memp (l : List (Byte × Packet)) : (inboundFadd p (holding l s)).memp = (inboundFadd p s).memp := by
  refine atomicGate_memp l _ (fun f s => (inboundAnswer_memp ..).trans (flagPost_memp ..)) ?_
  refine (elemAnswered_memp ..).trans (Eq.trans ?_ (elemAnswered_memp ..).symm)
  rw [holding, atomicElem_withRme]
  rfl

theorem inboundCas_memp (l : List (Byte × Packet)) : (inboundCas p (holding l s)).memp = (inboundCas p s).memp := by
  refine atomicGate_memp l _ (fun f s => (inboundAnswer_memp ..).trans (flagPost_memp ..)) ?_
  refine (elemAnswered_memp ..).trans (Eq.trans ?_ (elemAnswered_memp ..).symm)
  rw [holding, atomicElem_withRme]
  rfl

/-- What an atomic asks of the ports does not depend on the atomics that wait. -/
theorem inboundAtomic_memp (op : Byte) (l : List (Byte × Packet)) :
    (inboundAtomic op p (holding l s)).memp = (inboundAtomic op p s).memp := by
  unfold inboundAtomic
  split
  · exact inboundAadd_memp l
  · split
    · exact inboundFadd_memp l
    · exact inboundCas_memp l

end

/-! What an atomic does to memory (07:R225). -/

/-- The cells that an element's new value takes, if it has one. -/
def elemCells (a size : Nat) (v : Option Nat) : List Host.Cell := v.elim [] fun v => cellsAt a (natLe v size)

theorem storeElem_accessed {s t : State} {a size : Nat} (ht : Accessed s t []) (hm : InMem s a size) (n old : Nat)
    (v : Option Nat) : ∃ u, storeElem n a size old v t = (some old, u) ∧ Accessed s u (elemCells a size v) := by
  cases v with
  | none => exact ⟨t, rfl, ht⟩
  | some v =>
    have hw := (hm.congr ht.wrote.region).writable ht.sound (natLe_length v size)
    have hacc := ht.trans (accessed_writeAccess ht.sound hw true false (.inbound n))
    have hnone := (writeAccess_engineWrote hw true false (.inbound n)).1
    unfold storeElem
    dsimp only
    generalize writeAccess true false (.inbound n) (cellsAt a (natLe v size)) t = x at hacc hnone
    obtain ⟨_ | _, u⟩ := x
    · exact ⟨u, rfl, hacc⟩
    · cases hnone

/-- An element in memory is read, and its new value is written. -/
theorem atomicElem_accessed {s : State} (hs : Rule.Sound s) {a size : Nat} (hm : InMem s a size) (n : Nat)
    (f : Nat → Option Nat) : ∃ t,
      atomicElem n a size f s = (some (leNat (Memory.gets s.mem a size)), t) ∧
      Accessed s t (elemCells a size (f (leNat (Memory.gets s.mem a size)))) := by
  have hread := accessed_readAccess hs true a size
  have hok := (reads_readAccess true a size s hs).1
  have hmem : (readAccess true a size s).2.mem = s.mem := (kept_readAccess true a size s).mem
  unfold atomicElem
  generalize readAccess true a size s = x at hread hok hmem
  obtain ⟨c, t⟩ := x
  dsimp only at hread hok hmem
  have hstore := storeElem_accessed hread hm n (leNat (Memory.gets t.mem a size)) (f (leNat (Memory.gets t.mem a size)))
  rw [← hmem]
  cases c with
  | uncorrectable => exact absurd rfl hok
  | clean => exact hstore
  | corrected => exact hstore

theorem Memory.gets_congr {m m' : List Host.Cell} {a n : Nat}
    (h : ∀ b, a ≤ b → b < a + n → Memory.get m b = Memory.get m' b) : Memory.gets m a n = Memory.gets m' a n := by
  induction n generalizing a with
  | zero => rfl
  | succ n ih => rw [Memory.gets, Memory.gets, h a le_rfl (by omega), ih fun b hb hlt => h b (by omega) (by omega)]

theorem Memory.gets_eq_of_get {m : List Host.Cell} {a : Nat} {bs : List Byte}
    (h : ∀ i, (hi : i < bs.length) → Memory.get m (a + i) = bs[i]) : Memory.gets m a bs.length = bs := by
  induction bs generalizing a with
  | nil => rfl
  | cons b bs ih =>
    have hhead : Memory.get m a = b := h 0 (Nat.succ_pos _)
    rw [List.length_cons, Memory.gets, hhead, ih fun i hi => ?_]
    rw [Nat.add_assoc, Nat.add_comm 1 i]
    exact h (i + 1) (Nat.succ_lt_succ hi)

/-- Elements that lie apart: none begins before the one in front of it ends. -/
def ElemsApart (size : Nat) (l : List (Nat × Nat)) : Prop := l.Pairwise fun x y => x.1 + size ≤ y.1

/-- The elements of an AADD in memory: each is the sum of what it was and its operand, and nothing else changes. -/
theorem addElems_accessed {s : State} (hs : Rule.Sound s) {size : Nat} {l : List (Nat × Nat)} (hl : ElemsApart size l)
    (hm : ∀ x ∈ l, InMem s x.1 size) (n : Nat) : ∃ t cs, addElems n size l s = (true, t) ∧ Accessed s t cs ∧
      (∀ x ∈ l, Memory.gets t.mem x.1 size = natLe (leNat (Memory.gets s.mem x.1 size) + x.2) size) ∧
      ∀ b, (∀ x ∈ l, b < x.1 ∨ x.1 + size ≤ b) → Memory.get t.mem b = Memory.get s.mem b := by
  induction l generalizing s with
  | nil =>
    exact ⟨s, [], rfl, ⟨.refl s, .refl s, rfl, hs⟩, fun _ h => (List.not_mem_nil h).elim, fun _ _ => rfl⟩
  | cons x l ih =>
    obtain ⟨hx, hl⟩ := List.pairwise_cons.mp hl
    obtain ⟨t, helem, ht⟩ := atomicElem_accessed hs (hm x (List.mem_cons_self ..)) n fun old => some (old + x.2)
    obtain ⟨u, cs, hrest, hu, hsums, hothers⟩ := ih ht.sound hl fun y hy =>
      (hm y (List.mem_cons_of_mem _ hy)).congr ht.wrote.region
    have hlater (b : Nat) (hb : b < x.1 + size) : Memory.get u.mem b = Memory.get t.mem b :=
      hothers b fun y hy => .inl (hb.trans_le (hx y hy))
    have hput (b : Nat) (hb : b < x.1 ∨ x.1 + size ≤ b) : Memory.get t.mem b = Memory.get s.mem b := by
      rw [ht.wrote.mem]
      refine Memory.get_puts_other _ _ _ fun c hc => ?_
      have := mem_cellsAt hc
      rw [natLe_length] at this
      omega
    refine ⟨u, _, ?_, ht.trans hu, fun y hy => ?_, fun b hb => ?_⟩
    · simp only [addElems, helem, hrest]
    · rcases List.mem_cons.mp hy with rfl | hy
      · have hnew := Memory.gets_eq_of_get (m := u.mem) (a := y.1)
          (bs := natLe (leNat (Memory.gets s.mem y.1 size) + y.2) size) fun i hi => by
            rw [hlater _ (by simpa using hi), ht.wrote.mem]
            exact Memory.get_puts_cellsAt _ _ _ i hi
        rwa [natLe_length] at hnew
      · rw [hsums y hy, Memory.gets_congr fun b hb _ => hput b (.inr ((hx y hy).trans hb))]
    · rw [hothers b fun y hy => hb y (List.mem_cons_of_mem _ hy)]
      exact hput b (hb x (List.mem_cons_self ..))

/-! Atomics on memory, and their turn (07:R225; 15:R425). -/

section
variable {s : State} {p : Packet}

theorem atomicGate_of_memory {n : Nat} (hf : ∀ f, flagTarget p n ≠ some f) (hm : InMem s (packetAddr p) n) (hn : 0 < n)
    (hg : granted s (packetAddr p) n true true = true) (onFlag : Nat → State → State) (onMem : State → State) :
    atomicGate p n onFlag onMem s = onMem s := by
  have hnone : flagTarget p n = none := Option.eq_none_iff_forall_ne_some.mpr hf
  simp only [atomicGate, hnone, memRefusal_of_granted hm hn hg]

theorem atomSize_pos (p : Packet) : 0 < atomSize p := by
  unfold atomSize
  split <;> decide

theorem natLe_atomSize_le (p : Packet) (v : Nat) : (natLe v (atomSize p)).length ≤ 4096 := by
  rw [natLe_length]
  unfold atomSize
  split <;> decide

/-- A whole element of a payload ends within it. -/
theorem elem_within {size i n : Nat} (h : i < n / size) : size * i + size ≤ n :=
  calc size * i + size = size * (i + 1) := (Nat.mul_succ ..).symm
    _ ≤ size * (n / size) := Nat.mul_le_mul_left _ h
    _ ≤ n := Nat.mul_div_le ..

theorem elemsApart_packetElems (p : Packet) : ElemsApart (atomSize p) (packetElems p) := by
  refine List.pairwise_map.mpr (List.pairwise_lt_range.imp fun {i j} hij => ?_)
  dsimp only
  have := Nat.mul_le_mul_left (atomSize p) (Nat.succ_le_of_lt hij)
  rw [Nat.mul_succ] at this
  omega

/-- AADD adds its elements to those in memory. -/
theorem inboundAadd_accessed (hs : Rule.Sound s) (hf : ∀ f, flagTarget p p.payload.length ≠ some f)
    (hm : InMem s (packetAddr p) p.payload.length) (hn : 0 < p.payload.length)
    (hg : granted s (packetAddr p) p.payload.length true true = true) :
    ∃ t cs, inboundAadd p s = inboundAnswer p s.rme.inNext 0x81 [] t ∧ Accessed s t cs ∧
      (∀ x ∈ packetElems p, Memory.gets t.mem x.1 (atomSize p) =
        natLe (leNat (Memory.gets s.mem x.1 (atomSize p)) + x.2) (atomSize p)) ∧
      ∀ b, (∀ x ∈ packetElems p, b < x.1 ∨ x.1 + atomSize p ≤ b) → Memory.get t.mem b = Memory.get s.mem b := by
  have hin (x : Nat × Nat) (hx : x ∈ packetElems p) : InMem s x.1 (atomSize p) := by
    obtain ⟨i, hi, rfl⟩ := List.mem_map.mp hx
    exact hm.part (elem_within (List.mem_range.mp hi)) (atomSize_pos p)
  obtain ⟨t, cs, hadd, hacc, hsums, hothers⟩ := addElems_accessed hs (elemsApart_packetElems p) hin s.rme.inNext
  refine ⟨t, cs, ?_, hacc, hsums, hothers⟩
  simp only [inboundAadd, atomicGate_of_memory hf hm hn hg, hadd]
  rfl

/-- FADD adds to an element. -/
theorem inboundFadd_accessed (hs : Rule.Sound s) (hf : ∀ f, flagTarget p (atomSize p) ≠ some f)
    (hm : InMem s (packetAddr p) (atomSize p)) (hg : granted s (packetAddr p) (atomSize p) true true = true) :
    let old := leNat (Memory.gets s.mem (packetAddr p) (atomSize p))
    ∃ t, inboundFadd p s = inboundAnswer p s.rme.inNext 0x82 (natLe old (atomSize p)) t ∧
      Accessed s t (cellsAt (packetAddr p) (natLe (old + p.arg.toNat) (atomSize p))) := by
  obtain ⟨t, helem, hacc⟩ := atomicElem_accessed hs hm s.rme.inNext fun old => some (old + p.arg.toNat)
  refine ⟨t, ?_, hacc⟩
  simp only [inboundFadd, atomicGate_of_memory hf hm (atomSize_pos p) hg, helem]
  rfl

/-- CAS puts an element where the old one is what it compares with. -/
theorem inboundCas_accessed (hs : Rule.Sound s) (hf : ∀ f, flagTarget p (atomSize p) ≠ some f)
    (hm : InMem s (packetAddr p) (atomSize p)) (hg : granted s (packetAddr p) (atomSize p) true true = true) :
    let old := leNat (Memory.gets s.mem (packetAddr p) (atomSize p))
    ∃ t, inboundCas p s = inboundAnswer p s.rme.inNext 0x82 (natLe old (atomSize p)) t ∧
      Accessed s t (if old = p.arg.toNat % 2 ^ (8 * atomSize p)
        then cellsAt (packetAddr p) (natLe (Rule.element p 0) (atomSize p)) else []) := by
  intro old
  obtain ⟨t, helem, hacc⟩ := atomicElem_accessed hs hm s.rme.inNext fun old =>
    if old == p.arg.toNat % 2 ^ (8 * atomSize p) then some (leNat (p.payload.take (atomSize p))) else none
  refine ⟨t, ?_, ?_⟩
  · simp only [inboundCas, atomicGate_of_memory hf hm (atomSize_pos p) hg, helem]
    rfl
  · convert hacc using 1
    simp only [beq_iff_eq]
    split <;> rfl

/-- The state in which an atomic is the only one that waits, as it finds it. -/
def atomicView (op : Byte) (p : Packet) (s : State) : State := portView 16 (holding [(op, p)] s)

theorem atomicView_asks (op : Byte) (p : Packet) (s : State) :
    (inboundAtomic op p (atomicView op p s)).memp.asks = (inboundAtomic op p (portView 16 s)).memp.asks :=
  congrArg Memp.asks (inboundAtomic_memp (s := portView 16 s) op [(op, p)])

theorem takeAtomic_of_answered {op : Byte} (hh : s.rme.inHeld = [])
    (ha : (inboundAtomic op p (portView 16 s)).memp.asks = []) : takeAtomic op p s =
      holding [] (portDone 16 (holding [(op, p)] s) (inboundAtomic op p (atomicView op p s))) := by
  have htry := tryPorts_of_answered (k := inboundPlace) (f := inboundAtomic op p) (s := holding [(op, p)] s)
    ((atomicView_asks op p s).trans ha)
  unfold takeAtomic
  simp only [hh, List.nil_append, List.length_singleton, inboundRun]
  exact (congrArg (fun x : State × Bool => match x with
    | (t, true) => holding [] t
    | (t, false) => t) htry).trans rfl

theorem takeAtomic_of_unanswered {op : Byte} (hh : s.rme.inHeld = [])
    (ha : (inboundAtomic op p (portView 16 s)).memp.asks ≠ []) :
    ∃ m, takeAtomic op p s = { holding [(op, p)] s with memp := m } := by
  obtain ⟨m, htry⟩ := tryPorts_of_unanswered (k := inboundPlace) (f := inboundAtomic op p) (s := holding [(op, p)] s)
    fun h => ha ((atomicView_asks op p s).symm.trans h)
  refine ⟨m, ?_⟩
  unfold takeAtomic
  simp only [hh, List.nil_append, List.length_singleton, inboundRun]
  exact (congrArg (fun x : State × Bool => match x with
    | (t, true) => holding [] t
    | (t, false) => t) htry).trans rfl

end

section
variable {s : State} {p : Packet}

/-- An atomic that is answered in its turn: accepted in s, with the memory that it leaves. -/
theorem takeAtomic_done {op op' : Byte} {data : List Byte} {cs : List Host.Cell} {v : State} {k : Nat}
    (hh : s.rme.inHeld = []) (ha : (inboundAtomic op p (portView 16 (Rule.received k s))).memp.asks = [])
    (he : inboundAtomic op p (atomicView op p (Rule.received k s)) = inboundAnswer p s.rme.inNext op' data v)
    (hv : Accessed (atomicView op p (Rule.received k s)) v cs) (ho : Rule.StreamOpen s 4132) (hd : data.length ≤ 4096)
    (hop : isRequest op' = false) :
    let t := takeAtomic op p (Rule.received k s)
    Rule.Accepted s t p op' data ∧ t.flags = s.flags ∧ t.mem = v.mem ∧ Rule.Wrote s t cs := by
  have hr : v.rme = { s.rme with rxOff := v.rme.rxOff, rxCred := v.rme.rxCred, inHeld := v.rme.inHeld } := by
    rw [hv.rme]
    rfl
  have hdone : Done s v _ p op' data := done_inboundAnswer hr ho hd hop
  rw [← he] at hdone
  obtain ⟨hrest, haccepted⟩ := hdone
  intro t
  have ht : t = holding [] (portDone 16 (holding [(op, p)] (Rule.received k s))
    (inboundAtomic op p (atomicView op p (Rule.received k s)))) := takeAtomic_of_answered hh ha
  have hmem : t.mem = v.mem := by
    have hv' := congrArg State.mem hrest
    rw [ht]
    exact hv'
  refine ⟨?_, ?_, hmem, fun b => ?_⟩
  · rw [ht]
    exact haccepted
  · have hv' := (congrArg State.flags hrest).trans hv.counters.flags
    rw [ht]
    exact hv'
  · rw [hmem]
    exact hv.wrote.mem b

/-- What an atomic finds is as sound as what came, and has the same memory and apertures. -/
theorem sound_atomicView (h : Rule.Sound s) (op : Byte) (p : Packet) (k : Nat) :
    Rule.Sound (atomicView op p (Rule.received k s)) :=
  ⟨h.stage, ⟨h.ports.1, fun x hx => h.ports.2 x (List.mem_filter.mp hx).1⟩, h.lines⟩

theorem inboundAdd_done {k : Nat} (hs : Rule.Sound s) (ho : Rule.StreamOpen s 4132)
    (hm : InMem s (packetAddr p) p.payload.length) (hn : 0 < p.payload.length)
    (hg : granted s (packetAddr p) p.payload.length true true = true)
    (hf : ∀ f, flagTarget p p.payload.length ≠ some f) (hh : s.rme.inHeld = [])
    (ha : (inboundAtomic 0x05 p (portView 16 (Rule.received k s))).memp.asks = []) :
    let t := takeAtomic 0x05 p (Rule.received k s)
    (∀ x ∈ packetElems p, Memory.gets t.mem x.1 (atomSize p) =
        natLe (leNat (Memory.gets s.mem x.1 (atomSize p)) + x.2) (atomSize p)) ∧
      (∀ b, (∀ x ∈ packetElems p, b < x.1 ∨ x.1 + atomSize p ≤ b) → Memory.get t.mem b = Memory.get s.mem b) ∧
      Rule.Accepted s t p 0x81 [] ∧ t.flags = s.flags := by
  obtain ⟨v, cs, he, hv, hsums, hothers⟩ :=
    inboundAadd_accessed (s := atomicView 0x05 p (Rule.received k s)) (sound_atomicView hs ..) hf hm hn hg
  obtain ⟨haccepted, hflags, hmem, -⟩ := takeAtomic_done hh ha he hv ho (by simp) rfl
  intro t
  rw [hmem]
  exact ⟨hsums, hothers, haccepted, hflags⟩

theorem inboundFadd_done {k : Nat} (hs : Rule.Sound s) (ho : Rule.StreamOpen s 4132)
    (hm : InMem s (packetAddr p) (atomSize p)) (hg : granted s (packetAddr p) (atomSize p) true true = true)
    (hf : ∀ f, flagTarget p (atomSize p) ≠ some f) (hh : s.rme.inHeld = [])
    (ha : (inboundAtomic 0x06 p (portView 16 (Rule.received k s))).memp.asks = []) :
    let old := leNat (Memory.gets s.mem (packetAddr p) (atomSize p))
    let t := takeAtomic 0x06 p (Rule.received k s)
    Rule.Wrote s t (cellsAt (packetAddr p) (natLe (old + p.arg.toNat) (atomSize p))) ∧
      Rule.Accepted s t p 0x82 (natLe old (atomSize p)) := by
  obtain ⟨v, he, hv⟩ :=
    inboundFadd_accessed (s := atomicView 0x06 p (Rule.received k s)) (sound_atomicView hs ..) hf hm hg
  obtain ⟨haccepted, -, -, hwrote⟩ := takeAtomic_done hh ha he hv ho (natLe_atomSize_le ..) rfl
  exact ⟨hwrote, haccepted⟩

theorem inboundCas_done {k : Nat} (hs : Rule.Sound s) (ho : Rule.StreamOpen s 4132)
    (hm : InMem s (packetAddr p) (atomSize p)) (hg : granted s (packetAddr p) (atomSize p) true true = true)
    (hf : ∀ f, flagTarget p (atomSize p) ≠ some f) (hh : s.rme.inHeld = [])
    (ha : (inboundAtomic 0x07 p (portView 16 (Rule.received k s))).memp.asks = []) :
    let old := leNat (Memory.gets s.mem (packetAddr p) (atomSize p))
    let t := takeAtomic 0x07 p (Rule.received k s)
    Rule.Wrote s t (if old = p.arg.toNat % 2 ^ (8 * atomSize p)
        then cellsAt (packetAddr p) (natLe (Rule.element p 0) (atomSize p)) else []) ∧
      Rule.Accepted s t p 0x82 (natLe old (atomSize p)) := by
  obtain ⟨v, he, hv⟩ :=
    inboundCas_accessed (s := atomicView 0x07 p (Rule.received k s)) (sound_atomicView hs ..) hf hm hg
  obtain ⟨haccepted, -, -, hwrote⟩ := takeAtomic_done hh ha he hv ho (natLe_atomSize_le ..) rfl
  exact ⟨hwrote, haccepted⟩

/-- The addresses of a payload's elements are those of the payload. -/
theorem outside_packetElems {b : Nat} (hb : b < packetAddr p ∨ packetAddr p + p.payload.length ≤ b) :
    ∀ x ∈ packetElems p, b < x.1 ∨ x.1 + atomSize p ≤ b := by
  intro x hx
  obtain ⟨i, hi, rfl⟩ := List.mem_map.mp hx
  have hle : atomSize p * i + atomSize p ≤ p.payload.length := elem_within (List.mem_range.mp hi)
  dsimp only
  omega

end

theorem inboundMemory : Rule.InboundMemory := by
  intro s p hin hs ho a n asks first size inMem old
  have hgate := inboundGate_of_inward hin
  refine ⟨fun hm hn hl hg => ?_, fun hm hn hl hg => ?_, fun hm hn hl hmod hg hf ⟨hh, ha⟩ => ?_,
    fun hm hg hf => ⟨fun ⟨hh, ha⟩ => ?_, fun ⟨hh, ha⟩ => ?_⟩, fun hh => ⟨fun ha => ?_, fun ha => ?_, fun ha => ?_⟩⟩
  · obtain ⟨v, hv, hrest, haccepted⟩ := inboundPut_done hs ho hm hn hg n
    refine ends_of_next rfl (hgate (inboundPut p) ▸ ⟨fun b => ?_, haccepted, ?_, ?_⟩)
    · rw [hrest]
      exact hv.wrote.mem b
    · rw [hrest]
      exact hv.wrote.dq
    · rw [hrest]
      exact hv.counters.flags
  · obtain ⟨v, hv, hrest, haccepted⟩ := inboundGet_done hs ho hm hn hl hg n
    refine ends_of_next rfl (hgate (inboundGet p) ▸ ⟨?_, haccepted, ?_, ?_⟩)
    · rw [hrest]
      exact hv.mem
    · rw [hrest]
      exact hv.dq
    · rw [hrest]
      exact hv.flags
  · obtain ⟨hsums, hothers, haccepted, hflags⟩ := inboundAdd_done hs ho hm hn hg hf hh (not_not.mp ha)
    exact ends_of_next rfl (hgate (takeAtomic pkAadd p) ▸
      ⟨fun k hk => hsums _ (List.mem_map.mpr ⟨k, List.mem_range.mpr hk, rfl⟩),
        fun b hb => hothers b (outside_packetElems hb), haccepted, hflags⟩)
  · exact ends_of_next rfl (hgate (takeAtomic pkFadd p) ▸ inboundFadd_done hs ho hm hg hf hh (not_not.mp ha))
  · exact ends_of_next rfl (hgate (takeAtomic pkCas p) ▸ inboundCas_done hs ho hm hg hf hh (not_not.mp ha))
  · obtain ⟨m, hm⟩ := takeAtomic_of_unanswered (s := Rule.received n s) hh ha
    exact ends_of_next rfl (hgate (takeAtomic pkAadd p) ▸ hm ▸ rfl)
  · obtain ⟨m, hm⟩ := takeAtomic_of_unanswered (s := Rule.received n s) hh ha
    exact ends_of_next rfl (hgate (takeAtomic pkFadd p) ▸ hm ▸ rfl)
  · obtain ⟨m, hm⟩ := takeAtomic_of_unanswered (s := Rule.received n s) hh ha
    exact ends_of_next rfl (hgate (takeAtomic pkCas p) ▸ hm ▸ rfl)

/-- Settles O24: an accepted operation is one access of memory, or one flag update, and its answer; an atomic makes it in
its turn. -/
theorem inboundOperations : Obligations.InboundOperations := ⟨inboundFlags, inboundMemory⟩

end Sys2Proof.Machine

/-! SUPPORT. O1, O2: the integer instructions of a control core and its branches (09:R256 to R264; 14:R392). -/

namespace Sys2Proof.Machine

open Rule (ofInt low truth Ready)

/-! How an instruction that reads and writes its bank alone ends (09:R258; 14:R392). -/

section
variable {s : State} {c : Fin 8} {t : Byte} {k : Fin 8} {dst src : List (BitVec 5)} {g : Bank → Commit} {v : Bank}

theorem gives_runPlain {i : Instr} (h : Ready s c t k) (he : effect i s = .next (settle s (runPlain c dst src g s)))
    (hb : g (Rule.bank s c k) = .done v) : Rule.Gives i s (Rule.commit s c k v) :=
  gives_of_next he (runPlain_ready h dst src g v hb)

/-- The record of a retry and the commit of its instruction go together. -/
theorem commit_retryRecord (s : State) (c k : Fin 8) (v : Bank) :
    Rule.commit (retryRecord c k.val s s) c k v =
      detect ccParity clsCorrected (BitVec.ofNat 16 (0x200 + c.val)) (BitVec.ofNat 16 (k.val + 256))
        ((Rule.bank s c k).pc.setWidth 64) 0 (Rule.commit s c k v) := by
  rw [retryRecord, bankNow_eq]
  rfl

theorem gives_runArith {f : Residue → Instr} (h : Ready s c t k)
    (he : ∀ r, effect (f r) s = .next (settle s (runArith c dst src r g s))) (hb : g (Rule.bank s c k) = .done v) :
    Rule.Gives (f .ok) s (Rule.commit s c k v) ∧
    Rule.Gives (f .retried) s (detect ccParity clsCorrected (BitVec.ofNat 16 (0x200 + c.val))
      (BitVec.ofNat 16 (k.val + 256)) ((Rule.bank s c k).pc.setWidth 64) 0 (Rule.commit s c k v)) := by
  obtain ⟨hok, hretried⟩ := runArith_ready h dst src g v hb
  exact ⟨gives_of_next (he .ok) hok, gives_of_next (he .retried) (hretried.trans (commit_retryRecord ..))⟩

end

/-! Words as integers. -/

theorem ofInt_toInt (x : Word) : ofInt x.toInt = x := BitVec.ofInt_toInt

theorem low_toNat (x : Word) : low x.toNat = x := BitVec.ofNat_toNat .. |>.trans (BitVec.setWidth_eq x)

theorem ofInt_imm (imm : BitVec 16) : ofInt imm.toInt = imm.signExtend 64 := rfl

theorem ofInt_add_eq (x y : Word) : ofInt (x.toInt + y.toInt) = x + y := by
  rw [ofInt, BitVec.ofInt_add, BitVec.ofInt_toInt, BitVec.ofInt_toInt]

theorem ofInt_sub_eq (x y : Word) : ofInt (x.toInt - y.toInt) = x - y := by
  rw [ofInt, Int.sub_eq_add_neg, BitVec.ofInt_add, BitVec.ofInt_neg, BitVec.ofInt_toInt, BitVec.ofInt_toInt,
    BitVec.sub_eq_add_neg]

theorem ofInt_mul_eq (x y : Word) : ofInt (x.toInt * y.toInt) = x * y := by
  rw [ofInt, BitVec.ofInt_mul, BitVec.ofInt_toInt, BitVec.ofInt_toInt]

theorem ofInt_add_imm (x : Word) (imm : BitVec 16) : ofInt (x.toInt + imm.toInt) = x + imm.signExtend 64 := by
  rw [ofInt, BitVec.ofInt_add, BitVec.ofInt_toInt]
  rfl

theorem toInt_imm (imm : BitVec 16) : (imm.signExtend 64).toInt = imm.toInt :=
  BitVec.toInt_signExtend_of_le (by decide)

/-! Results (09:R263). -/

theorem truth_slt (x y : Word) : truth (x.toInt < y.toInt) = bitWord (x.slt y) := by
  simp [truth, bitWord, BitVec.slt]

theorem truth_ult (x y : Word) : truth (x.toNat < y.toNat) = bitWord (x.ult y) := by
  simp [truth, bitWord, BitVec.ult]

theorem ofInt_tdiv (x y : Word) : ofInt (x.toInt.tdiv y.toInt) = x.sdiv y := by
  apply BitVec.eq_of_toInt_eq
  rw [ofInt, BitVec.toInt_ofInt, BitVec.toInt_sdiv]

theorem ofInt_tmod (x y : Word) : ofInt (x.toInt.tmod y.toInt) = x.srem y := by
  rw [← BitVec.toInt_srem, ofInt_toInt]

theorem divOverflow_iff (x y : Word) : Rule.divOverflow x y = (x == BitVec.intMin 64 && y == -1) := by
  have hx : (x.toInt == -2 ^ 63) = (x == BitVec.intMin 64) := by
    rw [Bool.eq_iff_iff, beq_iff_eq, beq_iff_eq, ← BitVec.toInt_inj]
    rfl
  have hy : (y.toInt == -1) = (y == -1) := by
    rw [Bool.eq_iff_iff, beq_iff_eq, beq_iff_eq, ← BitVec.toInt_inj]
    rfl
  rw [Rule.divOverflow, hx, hy]

/-- The quotient of -2^63 by -1 is -2^63, and overflows (09:R263). -/
theorem quotS_eq (x y : Word) :
    quotS x y = (if y = 0 then 0 else ofInt (x.toInt.tdiv y.toInt), y == 0 || Rule.divOverflow x y) := by
  rw [divOverflow_iff, ofInt_tdiv, quotS]
  by_cases hy : y = 0
  · simp [hy]
  · by_cases ho : (x == BitVec.intMin 64 && y == -1) = true
    · obtain ⟨rfl, rfl⟩ : x = BitVec.intMin 64 ∧ y = -1 := by simpa using ho
      rfl
    · rw [if_neg hy, if_neg (by simpa using hy), if_neg ho, beq_eq_false_iff_ne.mpr hy]
      simpa using ho

theorem quotU_eq (x y : Word) : quotU x y = (if y = 0 then 0 else low (x.toNat / y.toNat), y == 0) := by
  by_cases hy : y = 0
  · simp [quotU, hy]
  · rw [quotU, if_neg hy, if_neg (by simpa using hy), ← BitVec.toNat_udiv, low_toNat, beq_eq_false_iff_ne.mpr hy]

theorem remS_eq (x y : Word) : remS x y = (if y = 0 then x else ofInt (x.toInt.tmod y.toInt), y == 0) := by
  by_cases hy : y = 0
  · simp [remS, hy]
  · rw [remS, if_neg hy, if_neg (by simpa using hy), ofInt_tmod, beq_eq_false_iff_ne.mpr hy]

theorem remU_eq (x y : Word) : remU x y = (if y = 0 then x else low (x.toNat % y.toNat), y == 0) := by
  by_cases hy : y = 0
  · simp [remU, hy]
  · rw [remU, if_neg hy, if_neg (by simpa using hy), ← BitVec.toNat_umod, low_toNat, beq_eq_false_iff_ne.mpr hy]

theorem csSetO_eq (cs : CS) (o : Bool) : csSetO cs o = Rule.withO cs o := by
  apply BitVec.eq_of_getLsbD_eq
  intro i hi
  have h : (Rule.withO cs o).getLsbD i = _ := BitVec.getLsbD_append (x := cs.extractLsb' 1 12) (y := BitVec.ofBool o)
  rw [h]
  interval_cases i <;> cases o <;> simp [csSetO]

theorem csFlags_eq (cs : CS) (s z k o : Bool) : csFlags cs s z k o = Rule.withFlags cs s z k o := by
  apply BitVec.eq_of_getLsbD_eq
  intro i hi
  have h : (Rule.withFlags cs s z k o).getLsbD i = _ := BitVec.getLsbD_append
    (x := cs.extractLsb' 4 9 ++ BitVec.ofBool s ++ BitVec.ofBool z ++ BitVec.ofBool k) (y := BitVec.ofBool o)
  simp only [BitVec.getLsbD_append] at h
  rw [h]
  interval_cases i <;> cases s <;> cases z <;> cases k <;> cases o <;> simp [csFlags]

theorem overflow_add (x y : Word) : (x.msb == y.msb && (x + y).msb != x.msb) =
    decide ((x + y).toInt ≠ x.toInt + y.toInt) := by
  rw [Bool.eq_iff_iff]
  simp only [BitVec.msb_eq_decide, BitVec.toInt_eq_toNat_cond, BitVec.toNat_add, Bool.and_eq_true, beq_iff_eq, bne_iff_ne,
    decide_eq_true_eq, ne_eq, decide_eq_decide]
  have := x.isLt
  have := y.isLt
  omega

theorem overflow_sub (x y : Word) : (x.msb != y.msb && (x - y).msb != x.msb) =
    decide ((x - y).toInt ≠ x.toInt - y.toInt) := by
  rw [Bool.eq_iff_iff]
  simp only [BitVec.msb_eq_decide, BitVec.toInt_eq_toNat_cond, BitVec.toNat_sub, Bool.and_eq_true, bne_iff_ne,
    decide_eq_true_eq, ne_eq, decide_eq_decide]
  have := x.isLt
  have := y.isLt
  omega

theorem setFlags_add (v : Bank) (x y : Word) : v.setFlags (addFlags x y) = { v with cs := Rule.afterAdd v.cs x y } := by
  simp only [Bank.setFlags, addFlags, Rule.afterAdd, csFlags_eq, overflow_add]

theorem setFlags_sub (v : Bank) (x y : Word) : v.setFlags (subFlags x y) = { v with cs := Rule.afterSub v.cs x y } := by
  simp only [Bank.setFlags, subFlags, Rule.afterSub, csFlags_eq, overflow_sub]

theorem low_shiftLeft (x : Word) (n : Nat) : low (x.toNat * 2 ^ n) = x <<< n := by
  apply BitVec.eq_of_toNat_eq
  simp [low, Nat.shiftLeft_eq]

theorem low_shiftRight (x : Word) (n : Nat) : low (x.toNat / 2 ^ n) = x >>> n := by
  rw [← Nat.shiftRight_eq_div_pow, ← BitVec.toNat_ushiftRight, low_toNat]

theorem ofInt_shiftRight (x : Word) (n : Nat) : ofInt (x.toInt / 2 ^ n) = x.sshiftRight n := by
  have h := Int.shiftRight_eq_div_pow x.toInt n
  rw [← ofInt_toInt (x.sshiftRight n), BitVec.toInt_sshiftRight, h]
  norm_cast

theorem ofInt_min (x y : Word) : ofInt (min x.toInt y.toInt) = if x.slt y then x else y := by
  by_cases h : x.toInt < y.toInt
  · simp [BitVec.slt, h, min_eq_left h.le, ofInt_toInt]
  · simp [BitVec.slt, h, min_eq_right (not_lt.mp h), ofInt_toInt]

theorem ofInt_max (x y : Word) : ofInt (max x.toInt y.toInt) = if x.slt y then y else x := by
  by_cases h : x.toInt < y.toInt
  · simp [BitVec.slt, h, max_eq_right h.le, ofInt_toInt]
  · simp [BitVec.slt, h, max_eq_left (not_lt.mp h), ofInt_toInt]

theorem low_min (x y : Word) : low (min x.toNat y.toNat) = if x.ult y then x else y := by
  by_cases h : x.toNat < y.toNat
  · simp only [BitVec.ult, h, min_eq_left h.le, low_toNat, decide_true, if_true]
  · simp only [BitVec.ult, h, min_eq_right (not_lt.mp h), low_toNat, decide_false, Bool.false_eq_true, if_false]

theorem low_max (x y : Word) : low (max x.toNat y.toNat) = if x.ult y then y else x := by
  by_cases h : x.toNat < y.toNat
  · simp only [BitVec.ult, h, max_eq_right h.le, low_toNat, decide_true, if_true]
  · simp only [BitVec.ult, h, max_eq_left (not_lt.mp h), low_toNat, decide_false, Bool.false_eq_true, if_false]

theorem low_and_imm (x : Word) (imm : BitVec 16) : low (x.toNat &&& imm.toNat) = x &&& imm.setWidth 64 := by
  rw [← low_toNat (x &&& imm.setWidth 64), BitVec.toNat_and, BitVec.toNat_setWidth_of_le (by decide)]

theorem low_or_imm (x : Word) (imm : BitVec 16) : low (x.toNat ||| imm.toNat) = x ||| imm.setWidth 64 := by
  rw [← low_toNat (x ||| imm.setWidth 64), BitVec.toNat_or, BitVec.toNat_setWidth_of_le (by decide)]

theorem low_xor_imm (x : Word) (imm : BitVec 16) : low (x.toNat ^^^ imm.toNat) = x ^^^ imm.setWidth 64 := by
  rw [← low_toNat (x ^^^ imm.setWidth 64), BitVec.toNat_xor, BitVec.toNat_setWidth_of_le (by decide)]

/-! Counts and extensions (09:R263). -/

theorem zerosUntil_of_first {bit : Nat → Bool} {n : Nat} (hn : n < 64) (hb : bit n = true) (hz : ∀ i < n, bit i = false) :
    zerosUntil bit = low n := by
  have hf : (List.range 64).find? bit = some n := by
    rw [List.find?_range_eq_some]
    exact ⟨hb, List.mem_range.mpr hn, fun i hi => by simp [hz i hi]⟩
  rw [zerosUntil, hf]
  rfl

theorem zerosUntil_of_none {bit : Nat → Bool} (hz : ∀ i, bit i = false) : zerosUntil bit = 64 := by
  have hf : (List.range 64).find? bit = none := by simp [hz]
  rw [zerosUntil, hf]
  rfl

theorem countLeading_eq (x : Word) : countLeading x = if x = 0 then 64 else low (63 - x.toNat.log2) := by
  split
  case isTrue h => exact zerosUntil_of_none (by simp [h])
  case isFalse h =>
    have hx : x.toNat ≠ 0 := fun hz => h (BitVec.eq_of_toNat_eq hz)
    have hlog : x.toNat.log2 < 64 := (Nat.log2_lt hx).mpr x.isLt
    refine zerosUntil_of_first (by omega) ?_ fun i hi => ?_
    · rw [show 63 - (63 - x.toNat.log2) = x.toNat.log2 by omega]
      exact Nat.testBit_log2 hx
    · exact Nat.testBit_lt_two_pow (Nat.lt_of_lt_of_le Nat.lt_log2_self (Nat.pow_le_pow_right (by decide) (by omega)))

/-- The lowest bit that stands in a word is all that the word and its negation share. -/
theorem and_neg_of_lowest {x : Word} {n : Nat} (hn : n < 64) (hb : x.getLsbD n = true) (hz : ∀ i < n, x.getLsbD i = false) :
    x &&& (0 - x) = BitVec.twoPow 64 n := by
  apply BitVec.eq_of_getLsbD_eq
  intro i hi
  rw [show 0 - x = -x from BitVec.zero_sub x, BitVec.getLsbD_and, BitVec.getLsbD_neg, BitVec.getLsbD_twoPow]
  rcases Nat.lt_trichotomy i n with h | rfl | h
  · simp [hz i h, Nat.ne_of_gt h]
  · have hno : ¬ ∃ j < i, x.getLsbD j = true := fun ⟨j, hj, hjb⟩ => by simp [hz j hj] at hjb
    simp [hb, hi, hno]
  · have hyes : ∃ j < i, x.getLsbD j = true := ⟨n, h, hb⟩
    simp [hi, hyes, Nat.ne_of_lt h]

theorem countTrailing_eq (x : Word) :
    countTrailing x = if x = 0 then 64 else low (x &&& (0 - x)).toNat.log2 := by
  split
  case isTrue h => exact zerosUntil_of_none (by simp [h])
  case isFalse h =>
    have hbit : ∃ n, x.getLsbD n = true := by
      by_contra hno
      exact h (BitVec.eq_of_getLsbD_eq fun i _ => by simpa using fun hb => hno ⟨i, hb⟩)
    have hb := Nat.find_spec hbit
    have hz : ∀ i < Nat.find hbit, x.getLsbD i = false := fun i hi => by simpa using Nat.find_min hbit hi
    have hn : Nat.find hbit < 64 := BitVec.lt_of_getLsbD hb
    rw [and_neg_of_lowest hn hb hz, BitVec.toNat_twoPow_of_lt hn, Nat.log2_two_pow]
    exact zerosUntil_of_first hn hb hz

theorem countOnes_eq (x : Word) : countOnes x = low ((List.range 64).countP fun i => x.toNat.testBit i) := by
  rw [List.countP_eq_length_filter]
  rfl

theorem ofInt_signedLow (n : Nat) (x : Word) : ofInt (Rule.signedLow n x) = (x.extractLsb' 0 n).signExtend 64 := by
  have h : Rule.signedLow n x = (x.extractLsb' 0 n).toInt := by
    rw [BitVec.toInt_eq_toNat_cond, BitVec.extractLsb'_toNat, Nat.shiftRight_zero, Rule.signedLow]
    norm_cast
  rw [h]
  rfl

theorem low_mod_word (x : Word) : low (x.toNat % 2 ^ 32) = (x.extractLsb' 0 32).setWidth 64 := by
  rw [← low_toNat ((x.extractLsb' 0 32).setWidth 64), BitVec.toNat_setWidth_of_le (by decide), BitVec.extractLsb'_toNat,
    Nat.shiftRight_zero]

/-! Halfwords and conditions (09:R262, R264). -/

/-- A number with a halfword of it replaced. -/
theorem replaceHalf_eq (x imm n : Nat) : x - x / 2 ^ n % 2 ^ 16 * 2 ^ n + imm * 2 ^ n =
    2 ^ n * (2 ^ 16 * (x / 2 ^ n / 2 ^ 16) + imm) + x % 2 ^ n := by
  have h1 := Nat.div_add_mod x (2 ^ n)
  have h2 := Nat.div_add_mod (x / 2 ^ n) (2 ^ 16)
  generalize x / 2 ^ n = y at *
  generalize x % 2 ^ n = r at *
  generalize y / 2 ^ 16 = z at *
  generalize y % 2 ^ 16 = w at *
  subst h2
  subst h1
  have : 2 ^ n * (2 ^ 16 * z + w) + r - w * 2 ^ n = 2 ^ n * (2 ^ 16 * z) + r := by
    rw [Nat.mul_add, Nat.mul_comm w]
    omega
  rw [this]
  ring

theorem insertHalf_eq (x : Word) (hw : Fin 4) (imm : BitVec 16) : insertHalf x hw.val imm =
    low (x.toNat - x.toNat / 2 ^ (16 * hw.val) % 2 ^ 16 * 2 ^ (16 * hw.val) + imm.toNat * 2 ^ (16 * hw.val)) := by
  rw [replaceHalf_eq]
  apply BitVec.eq_of_getLsbD_eq
  intro i hi
  have hp : 16 * hw.val + 16 ≤ 64 := by omega
  have hr : x.toNat % 2 ^ (16 * hw.val) < 2 ^ (16 * hw.val) := Nat.mod_lt _ (Nat.two_pow_pos _)
  have hmask : ∀ j, (0xFFFF : Nat).testBit j = decide (j < 16) := fun j => Nat.testBit_two_pow_sub_one 16 j
  have hx : x.getLsbD i = x.toNat.testBit i := rfl
  simp only [insertHalf, w64, low, BitVec.getLsbD_or, BitVec.getLsbD_and, BitVec.getLsbD_not, BitVec.getLsbD_ofNat,
    Nat.testBit_two_pow_mul_add _ hr, Nat.testBit_two_pow_mul_add _ imm.isLt, Nat.testBit_mul_two_pow, hi, hmask,
    Nat.testBit_mod_two_pow, Nat.testBit_div_two_pow, hx, decide_true, Bool.true_and]
  by_cases hbelow : i < 16 * hw.val
  · simp [hbelow, Nat.not_le.mpr hbelow]
  · by_cases hin : i - 16 * hw.val < 16
    · simp [hbelow, hin, Nat.not_lt.mp hbelow]
    · have habove : imm.toNat.testBit (i - 16 * hw.val) = false := BitVec.getLsbD_of_ge imm _ (by omega)
      have hback : i - 16 * hw.val - 16 + 16 + 16 * hw.val = i := by omega
      simp [hbelow, hin, habove, hback]

theorem insertHalf_zero (hw : Fin 4) (imm : BitVec 16) : insertHalf 0 hw.val imm = low (imm.toNat * 2 ^ (16 * hw.val)) := by
  simpa using insertHalf_eq 0 hw imm

@[simp] theorem toNat_halfword (hw : Fin 4) : (BitVec.ofNat 5 hw.val).toNat = hw.val := by
  rw [BitVec.toNat_ofNat, Nat.mod_eq_of_lt (by omega)]

theorem not_three_lt (hw : Fin 4) : ¬ 3 < hw.val := by omega

theorem condHolds_eq {code : BitVec 4} (h : code ≠ 0xF) (cs : CS) : condHolds code cs = some (Rule.condition code cs) := by
  unfold condHolds Rule.condition csO csK csZ csS
  generalize cs.getLsbD 3 = s
  generalize cs.getLsbD 2 = z
  generalize cs.getLsbD 1 = k
  generalize cs.getLsbD 0 = o
  revert code s z k o
  decide

/-! The integer instructions (09:R262, R263; 14:R392). -/

theorem effect_cmpi (s : State) (c : Fin 8) (a : BitVec 5) (imm : BitVec 16) (res : Residue) :
    effect (.cmpi c a ⟨imm, res⟩) s = .next (settle s (runArith c [] [a] res
      (fun v => .done ((v.setFlags (subFlags (v.reg a) (imm.signExtend 64))).advance 4)) s)) := rfl

theorem checkedArithmetic : Rule.CheckedArithmetic := by
  intro s c t k h d a b imm leaves
  have hl {dst src g v} (f : Residue → Instr) (he : ∀ r, effect (f r) s = .next (settle s (runArith c dst src r g s)))
      (hb : g (Rule.bank s c k) = .done v) : leaves f v := gives_runArith h he hb
  refine ⟨⟨?_, ?_, ?_, ?_, ?_, ?_, ?_, ?_, ?_, ?_, ?_⟩, ?_, ?_⟩
  · exact hl _ (fun _ => rfl) (by simp only [reg_eq, result_eq, ofInt_add_eq])
  · exact hl _ (fun _ => rfl) (by simp only [reg_eq, result_eq, ofInt_sub_eq])
  · exact hl _ (fun _ => rfl) (by simp only [reg_eq, result_eq, ofInt_mul_eq])
  · exact hl _ (fun _ => rfl) (by simp only [reg_eq, result_eq, mulHiS, ofInt])
  · exact hl _ (fun _ => rfl) (by simp only [reg_eq, result_eq, mulHiU, low, w64])
  · exact hl _ (fun _ => rfl) (by simp only [reg_eq, result_eq, quotS_eq, csSetO_eq])
  · exact hl _ (fun _ => rfl) (by simp only [reg_eq, result_eq, quotU_eq, csSetO_eq])
  · exact hl _ (fun _ => rfl) (by simp only [reg_eq, result_eq, remS_eq, csSetO_eq])
  · exact hl _ (fun _ => rfl) (by simp only [reg_eq, result_eq, remU_eq, csSetO_eq])
  · exact hl _ (fun _ => rfl) (by simp only [reg_eq, result_eq, setFlags_add, ofInt_add_eq])
  · exact hl _ (fun _ => rfl) (by simp only [reg_eq, result_eq, setFlags_sub, ofInt_sub_eq])
  · exact hl _ (fun _ => rfl) (by simp only [reg_eq, result_eq, ofInt_add_imm])
  · exact hl (.cmpi c a ⟨imm, ·⟩) (effect_cmpi s c a imm) (by simp only [reg_eq, advance_eq, setFlags_sub, ofInt_imm])

theorem registerOperations : Rule.RegisterOperations := by
  intro s c t k h d a b imm hw code v leaves
  have hl {dst src g w} (i : Instr) (he : effect i s = .next (settle s (runPlain c dst src g s)))
      (hb : g v = .done w) : leaves i w := gives_runPlain h he hb
  refine ⟨⟨?_, ?_, ?_, ?_, ?_, ?_, ?_, ?_, ?_, ?_, ?_, ?_, ?_⟩, ⟨?_, ?_, ?_, ?_, ?_, ?_, ?_⟩,
    ⟨?_, ?_, ?_, ?_, ?_, ?_, ?_, ?_⟩, ⟨?_, ?_⟩, fun hc => ?_⟩
  · exact hl _ rfl (by simp only [reg_eq, result_eq])
  · exact hl _ rfl (by simp only [reg_eq, result_eq])
  · exact hl _ rfl (by simp only [reg_eq, result_eq])
  · exact hl _ rfl (by simp only [reg_eq, result_eq, low_shiftLeft, shiftOf])
  · exact hl _ rfl (by simp only [reg_eq, result_eq, low_shiftRight, shiftOf])
  · exact hl _ rfl (by simp only [reg_eq, result_eq, ofInt_shiftRight, shiftOf])
  · exact hl _ rfl (by simp only [reg_eq, result_eq, truth_slt])
  · exact hl _ rfl (by simp only [reg_eq, result_eq, truth_ult])
  · exact hl _ rfl (by simp only [reg_eq, result_eq, Bank.setFlags, csFlags_eq])
  · exact hl _ rfl (by simp only [reg_eq, result_eq, ofInt_min])
  · exact hl _ rfl (by simp only [reg_eq, result_eq, ofInt_max])
  · exact hl _ rfl (by simp only [reg_eq, result_eq, low_min])
  · exact hl _ rfl (by simp only [reg_eq, result_eq, low_max])
  · exact hl _ rfl (by simp only [reg_eq, result_eq, countLeading_eq])
  · exact hl _ rfl (by simp only [reg_eq, result_eq, countTrailing_eq])
  · exact hl _ rfl (by simp only [reg_eq, result_eq, countOnes_eq])
  · exact hl _ rfl (by simp only [reg_eq, result_eq, ofInt_signedLow])
  · exact hl _ rfl (by simp only [reg_eq, result_eq, ofInt_signedLow])
  · exact hl _ rfl (by simp only [reg_eq, result_eq, ofInt_signedLow])
  · exact hl _ rfl (by simp only [reg_eq, result_eq, low_mod_word])
  · exact hl _ rfl (by simp only [reg_eq, result_eq, low_and_imm])
  · exact hl _ rfl (by simp only [reg_eq, result_eq, low_or_imm])
  · exact hl _ rfl (by simp only [reg_eq, result_eq, low_xor_imm])
  · exact hl _ rfl (by simp only [reg_eq, result_eq, low_shiftLeft])
  · exact hl _ rfl (by simp only [reg_eq, result_eq, low_shiftRight])
  · exact hl _ rfl (by simp only [reg_eq, result_eq, ofInt_shiftRight])
  · exact hl _ rfl (by simp only [reg_eq, result_eq, ← truth_slt, toInt_imm])
  · exact hl _ rfl (by simp only [reg_eq, result_eq, truth_ult, ← ofInt_imm])
  · exact hl _ rfl (by simp only [toNat_halfword, not_three_lt, if_false, result_eq, insertHalf_zero])
  · exact hl _ rfl (by simp only [toNat_halfword, not_three_lt, if_false, reg_eq, result_eq, insertHalf_eq])
  · exact hl _ rfl (by simp only [reg_eq, result_eq, pickOf, condHolds_eq hc, Option.map_some])

/-- Settles O1: the results and flags of the integer instructions, one by one. -/
theorem registerArithmetic : Obligations.RegisterArithmetic := ⟨checkedArithmetic, registerOperations⟩

/-! Branches and jumps (09:R260, R262, R264). -/

/-- An offset in units of four bytes. -/
theorem jump_eq {n : Nat} (v : Bank) (off : BitVec n) : v.jump (off.signExtend 48) = Rule.jump v off.toInt := by
  have hoff : off.signExtend 48 <<< (2 : Nat) = BitVec.ofInt 48 (4 * off.toInt) := by
    rw [BitVec.shiftLeft_eq_mul_twoPow, BitVec.ofInt_mul, BitVec.mul_comm]
    rfl
  have hpc : v.pc + off.signExtend 48 <<< (2 : Nat) = BitVec.ofInt 48 (v.pc.toNat + 4 * off.toInt) := by
    rw [hoff, BitVec.ofInt_add, BitVec.ofInt_natCast, BitVec.ofNat_toNat, BitVec.setWidth_eq]
  rw [Bank.jump, hpc, Rule.jump]

theorem branch_eq {n : Nat} (v : Bank) (off : BitVec n) {taken : Bool} {p : Prop} [Decidable p] (hp : taken = true ↔ p) :
    v.branch taken (off.signExtend 48) = .done (Rule.branch v p off.toInt) := by
  unfold Bank.branch Rule.branch
  simp only [hp, jump_eq v off, advance_eq]

/-- The target of a GOR, to some of its low bits. -/
theorem gorTarget_eq (v : Bank) (a : BitVec 5) (imm : BitVec 16) {w : Nat} (h : w ≤ 64) :
    (v.reg a + imm.signExtend 64).extractLsb' 0 w = BitVec.ofInt w ((Rule.reg v a).toInt + imm.toInt) := by
  rw [reg_eq, ← ofInt_add_imm, ← BitVec.setWidth_eq_extractLsb' h]
  apply BitVec.eq_of_toNat_eq
  have hd : ((2 ^ w : Nat) : Int) ∣ ((2 ^ 64 : Nat) : Int) := by exact_mod_cast Nat.pow_dvd_pow 2 h
  have hn : (0 : Int) ≤ ((Rule.reg v a).toInt + imm.toInt) % ((2 ^ 64 : Nat) : Int) := Int.emod_nonneg _ (by decide)
  rw [BitVec.toNat_setWidth, ofInt, BitVec.toNat_ofInt, BitVec.toNat_ofInt, ← Int.emod_emod_of_dvd _ hd]
  generalize ((Rule.reg v a).toInt + imm.toInt) % ((2 ^ 64 : Nat) : Int) = z at *
  obtain ⟨m, rfl⟩ := Int.eq_ofNat_of_zero_le hn
  norm_cast

theorem gorTarget_aligned_iff (v : Bank) (a : BitVec 5) (imm : BitVec 16) :
    (v.reg a + imm.signExtend 64).extractLsb' 0 2 = 0 ↔ ((Rule.reg v a).toInt + imm.toInt) % 4 = 0 := by
  rw [gorTarget_eq v a imm (by decide), ← BitVec.toNat_inj, BitVec.toNat_ofInt]
  generalize (Rule.reg v a).toInt + imm.toInt = z
  simp
  omega

/-- Settles O2: a branch by its condition, a jump by its target. -/
theorem branchesAndJumps : Obligations.BranchesAndJumps := by
  intro s c t k h d a b off off22 off26 code v leaves
  have hl {dst src g w} (i : Instr) (he : effect i s = .next (settle s (runPlain c dst src g s)))
      (hb : g v = .done w) : leaves i w := gives_runPlain h he hb
  refine ⟨⟨?_, ?_, ?_, ?_, ?_, ?_⟩, ⟨?_, ?_⟩, fun hc => ?_, fun ht => ?_⟩
  · exact hl _ rfl (branch_eq v off (by simp [reg_eq, BitVec.toNat_inj]))
  · exact hl _ rfl (branch_eq v off (by simp [reg_eq, BitVec.toNat_inj]))
  · exact hl _ rfl (branch_eq v off (by simp [reg_eq, BitVec.slt]))
  · exact hl _ rfl (branch_eq v off (by simp [reg_eq, BitVec.sle]))
  · exact hl _ rfl (branch_eq v off (by simp [reg_eq, BitVec.ult]))
  · exact hl _ rfl (branch_eq v off (by simp [reg_eq, BitVec.ule]))
  · exact hl _ rfl (by simp only [Bank.branch, jump_eq v off26, if_true])
  · exact hl _ rfl (by simp only [setReg_eq, jump_eq _ off26])
  · exact hl _ rfl (by simp only [condHolds_eq hc, branch_eq v off22 Iff.rfl])
  · have haligned := (gorTarget_aligned_iff v a off).mpr ht
    exact hl _ rfl (by simp only [haligned, bne_self_eq_false, Bool.false_eq_true, if_false, setReg_eq,
      gorTarget_eq v a off (by decide : 48 ≤ 64)])

end Sys2Proof.Machine

/-! SUPPORT. O26: the floating-point instructions of a control core (09:R265; 14:R392). -/

namespace Sys2Proof.Machine

open Rule (ofInt low Ready)

/-! Operands and results (09:R265). -/

theorem fpArg_eq (dbl : Bool) (v : Bank) (a : BitVec 5) : fpArg dbl (v.reg a) = Rule.fpIn dbl (Rule.reg v a) := by
  rw [reg_eq]
  rfl

theorem csRM_eq (cs : CS) : csRM cs = cs.toNat / 16 % 4 := by
  rw [csRM, fld, Nat.shiftRight_eq_div_pow]
  rfl

theorem fpRnd_eq (cs : CS) : fpRnd cs = ⟨cs.toNat / 16 % 4, 0, 12, false⟩ := by rw [fpRnd, csRM_eq]

theorem fpDown_eq (cs : CS) : fpDown cs = (cs.toNat / 16 % 4 == 3) := by rw [fpDown, csRM_eq]

theorem fpDone_eq (v : Bank) (d : BitVec 5) (w : Word) (e : Exc) :
    v.fpDone d (w, e) = .done (Rule.result { v with cs := v.cs ||| (e.setWidth 13 <<< 8) } d w) := result_eq ..

theorem fpDone_fpResult (v : Bank) (d : BitVec 5) (dbl : Bool) (z : XVal) (e : Exc) :
    v.fpDone d (fpResult dbl v.cs z e) = .done (Rule.fpOut v d dbl z e) := by
  rw [fpResult, fpDone_eq, fpRnd_eq]
  rfl

/-- A register as the exact value of a signed integer. -/
theorem valX_intVal (x : Word) : valX (intVal 64 x.toNat) = .real ⟨decide (x.toInt < 0), x.toInt.natAbs, 1, 0⟩ := by
  have hmod : x.toNat % 2 ^ 64 = x.toNat := Nat.mod_eq_of_lt x.isLt
  have hbit : x.toNat.testBit (64 - 1) = x.msb := rfl
  rw [intVal, hmod, hbit, BitVec.toInt_eq_msb_cond]
  have := x.isLt
  split
  · simp only [valX, XVal.real.injEq, Ex.mk.injEq, and_true]
    constructor
    · simp
      omega
    · omega
  · simp only [valX, XVal.real.injEq, Ex.mk.injEq, and_true]
    constructor
    · simp
    · omega

/-! The sign bit (09:R265). -/

theorem xor_two_pow {x n : Nat} (h : x < 2 ^ (n + 1)) : x ^^^ 2 ^ n = (x + 2 ^ n) % 2 ^ (n + 1) := by
  apply Nat.eq_of_testBit_eq
  intro i
  rw [Nat.testBit_xor, Nat.testBit_two_pow, Nat.testBit_mod_two_pow, Nat.add_comm x]
  rcases Nat.lt_trichotomy i n with hi | rfl | hi
  · simp [Nat.testBit_two_pow_add_gt hi, Nat.ne_of_gt hi, Nat.lt_succ_of_lt hi]
  · simp [Nat.testBit_two_pow_add_eq]
  · have hx : x.testBit i = false := Nat.testBit_lt_two_pow (Nat.lt_of_lt_of_le h (Nat.pow_le_pow_right (by decide) hi))
    simp [hx, Nat.ne_of_lt hi, Nat.not_lt.mpr hi]

/-- The place of a precision's sign. -/
theorem toNat_fpImage (dbl : Bool) (x : Word) : (fpImage dbl x).toNat = x.toNat % 2 ^ ((if dbl then 63 else 31) + 1) := by
  cases dbl
  · exact Nat.and_two_pow_sub_one_eq_mod x.toNat 32
  · exact (Nat.mod_eq_of_lt x.isLt).symm

theorem toNat_fpSign (dbl : Bool) : (fpSign dbl).toNat = 2 ^ (if dbl then 63 else 31) := by
  cases dbl <;> rfl

theorem fpImage_negate (dbl : Bool) (x : Word) : fpImage dbl x ^^^ fpSign dbl =
    low ((x.toNat % 2 ^ ((if dbl then 63 else 31) + 1) + 2 ^ (if dbl then 63 else 31)) %
      2 ^ ((if dbl then 63 else 31) + 1)) := by
  rw [← low_toNat (fpImage dbl x ^^^ fpSign dbl), BitVec.toNat_xor, toNat_fpImage, toNat_fpSign,
    xor_two_pow (Nat.mod_lt _ (Nat.two_pow_pos _))]

theorem fpImage_abs (dbl : Bool) (x : Word) : fpImage dbl x &&& ~~~fpSign dbl =
    low (x.toNat % 2 ^ ((if dbl then 63 else 31) + 1) % 2 ^ (if dbl then 63 else 31)) := by
  apply BitVec.eq_of_getLsbD_eq
  intro i hi
  have himage : (fpImage dbl x).getLsbD i = (fpImage dbl x).toNat.testBit i := rfl
  have hsign : (fpSign dbl).getLsbD i = (fpSign dbl).toNat.testBit i := rfl
  rw [BitVec.getLsbD_and, BitVec.getLsbD_not, himage, hsign, toNat_fpImage, toNat_fpSign, low, BitVec.getLsbD_ofNat]
  generalize (if dbl = true then 63 else 31) = n
  rw [Nat.testBit_mod_two_pow, Nat.testBit_mod_two_pow, Nat.testBit_mod_two_pow, Nat.testBit_two_pow]
  rcases Nat.lt_trichotomy i n with h | rfl | h
  · simp [hi, h, Nat.ne_of_gt h]
  · simp
  · simp [Nat.not_lt.mpr h, Nat.not_lt.mpr h.le]

/-! FTOI (09:R265; 02:R54). -/

/-- A quotient is rounded by its value. -/
theorem roundQ_mul_right (c : Rnd) (neg : Bool) (num den : Nat) {k : Nat} (hk : 0 < k) :
    roundQ c neg (num * k) (den * k) = roundQ c neg num den := by
  have hhalf : (num * k) % (den * k) = num % den * k := Nat.mul_mod_mul_right ..
  have hshift : (num % den * k) <<< c.w / (den * k) = (num % den) <<< c.w / den := by
    rw [Nat.shiftLeft_eq, Nat.shiftLeft_eq, Nat.mul_right_comm, Nat.mul_div_mul_right _ _ hk]
  have htwo : 2 * (num % den * k) = 2 * (num % den) * k := (Nat.mul_assoc ..).symm
  simp only [roundQ, Nat.mul_div_mul_right _ _ hk, hhalf, hshift, htwo, beq_iff_eq, Nat.mul_lt_mul_right hk,
    Nat.mul_eq_zero, hk.ne', or_false, Nat.mul_left_inj hk.ne', Bool.or_eq_true, Bool.and_eq_true, decide_eq_true_eq]

theorem roundQ_congr (c : Rnd) (neg : Bool) {num den num' den' : Nat} (hd : 0 < den) (hd' : 0 < den')
    (h : num * den' = num' * den) : roundQ c neg num den = roundQ c neg num' den' := by
  rw [← roundQ_mul_right c neg num den hd', h, Nat.mul_comm den, roundQ_mul_right c neg num' den' hd]

/-- The operand of an instruction has no denominator. -/
theorem den_fpIn {dbl : Bool} {w : Word} {x : Ex} (h : Rule.fpIn dbl w = .real x) : x.den = 1 := by
  unfold Rule.fpIn at h
  revert h
  generalize (if dbl = true then decode64 w.toNat else decode32 (w.toNat % 2 ^ 32)) = y
  cases y <;> simp [valX]
  rintro rfl
  rfl

theorem abs_value {x : Ex} (h : x.den = 1) : |Rule.value x| = x.num * 2 ^ x.exp := by
  have hsign : |(if x.neg = true then (-1 : ℚ) else 1)| = 1 := by split <;> simp
  rw [Rule.value, abs_mul, abs_mul, hsign, h, abs_of_nonneg (by positivity), abs_of_nonneg (by positivity)]
  simp

/-- The units of an operand in which FTOI rounds it. -/
theorem abs_value_units {x : Ex} (h : x.den = 1) :
    0 < (x.units 0).2 ∧ |Rule.value x| * (x.units 0).2 = (x.units 0).1 := by
  rw [abs_value h, Ex.units, h]
  by_cases he : 0 ≤ x.exp
  · obtain ⟨e, he'⟩ := Int.eq_ofNat_of_zero_le he
    rw [if_pos he, he']
    simp [Nat.shiftLeft_eq]
  · obtain ⟨e, he'⟩ := Int.eq_ofNat_of_zero_le (by omega : 0 ≤ -x.exp)
    rw [if_neg he, show x.exp = -(e : Int) by omega]
    simp [Nat.shiftLeft_eq]

section
variable {x : Ex} {num den : Nat}

theorem units_cross (h : x.den = 1) (hv : |Rule.value x| * den = num) :
    num * (x.units 0).2 = (x.units 0).1 * den := by
  obtain ⟨-, hu⟩ := abs_value_units h
  have : (num : ℚ) * (x.units 0).2 = (x.units 0).1 * den := by rw [← hv, ← hu]; ring
  exact_mod_cast this

/-- The bits of an integer of a sign. -/
theorem w64_twos (neg : Bool) (t : Nat) : w64 (twos 64 neg t) = ofInt (if neg then -(t : Int) else (t : Int)) := by
  apply BitVec.eq_of_toNat_eq
  rw [w64, ofInt, BitVec.toNat_ofNat, BitVec.toNat_ofInt, twos]
  split <;> omega

/-- The flags of FTOI of a real number in range: whether it raises inexact of one that is no integer is free (log 27). -/
def ftoiFlags (x : Ex) : Exc := if (x.units 0).1 % (x.units 0).2 != 0 && Config.ftoiInexact then excInexact else 0

/-- FTOI of a real number, by any fraction of its magnitude. -/
theorem fpToInt_real (cs : CS) (h : x.den = 1) (hden : 0 < den) (hv : |Rule.value x| * den = num) {t : Nat}
    (ht : t = roundQ ⟨cs.toNat / 16 % 4, 0, 12, false⟩ x.neg num den) :
    fpToInt cs (.real x) =
      if (if x.neg then 2 ^ 63 else 2 ^ 63 - 1) < t then
        (if x.neg then 0x8000000000000000 else 0x7FFFFFFFFFFFFFFF, excInvalid)
      else (ofInt (if x.neg then -(t : Int) else (t : Int)), ftoiFlags x) := by
  obtain ⟨hpos, -⟩ := abs_value_units h
  rw [roundQ_congr _ _ hden hpos (units_cross h hv), ← fpRnd_eq] at ht
  rw [ht, ← w64_twos]
  rfl

/-- A number of which FTOI raises inexact is no integer. -/
theorem ftoiFlags_cases (h : x.den = 1) (hden : 0 < den) (hv : |Rule.value x| * den = num) :
    ftoiFlags x = 0 ∨ (ftoiFlags x = 0x10 ∧ ¬ den ∣ num) := by
  unfold ftoiFlags
  split
  case isTrue hi =>
    refine .inr ⟨rfl, fun ⟨m, hm⟩ => ?_⟩
    have hrem : (x.units 0).1 % (x.units 0).2 ≠ 0 := by
      simpa using (Bool.and_eq_true_iff.mp hi).1
    refine hrem (Nat.mod_eq_zero_of_dvd ⟨m, Nat.eq_of_mul_eq_mul_right hden ?_⟩)
    rw [← units_cross h hv, hm]
    ring
  case isFalse => exact .inl rfl

end

/-! The instructions with a precision that carries its check. -/

section
variable (s : State) (c : Fin 8) (dbl : Bool) (d a b : BitVec 5) (res : Residue)

theorem effect_fmin : effect (.fmin c ⟨dbl, res⟩ d a b) s = .next (settle s (runArith c [d] [a, b] res (fun v =>
    v.fpDone d (fpResult dbl v.cs (xMinMax false (fpArg dbl (v.reg a)) (fpArg dbl (v.reg b))).1
      (xMinMax false (fpArg dbl (v.reg a)) (fpArg dbl (v.reg b))).2)) s)) := rfl

theorem effect_fmax : effect (.fmax c ⟨dbl, res⟩ d a b) s = .next (settle s (runArith c [d] [a, b] res (fun v =>
    v.fpDone d (fpResult dbl v.cs (xMinMax true (fpArg dbl (v.reg a)) (fpArg dbl (v.reg b))).1
      (xMinMax true (fpArg dbl (v.reg a)) (fpArg dbl (v.reg b))).2)) s)) := rfl

theorem effect_fcmp : effect (.fcmp c ⟨dbl, res⟩ d a b) s = .next (settle s (runArith c [d] [a, b] res (fun v =>
    v.fpDone d (low (relation (fpArg dbl (v.reg a)) (fpArg dbl (v.reg b))),
      sigExc (xSig (fpArg dbl (v.reg a)) || xSig (fpArg dbl (v.reg b))))) s)) := rfl

theorem effect_fcvt : effect (.fcvt c ⟨dbl, res⟩ d a) s = .next (settle s (runArith c [d] [a] res (fun v =>
    v.fpDone d (fpResult dbl v.cs (fpArg (!dbl) (v.reg a)) 0)) s)) := rfl

theorem effect_ftoi : effect (.ftoi c ⟨dbl, res⟩ d a) s = .next (settle s (runArith c [d] [a] res (fun v =>
    v.fpDone d (fpToInt v.cs (fpArg dbl (v.reg a)))) s)) := rfl

theorem effect_itof : effect (.itof c ⟨dbl, res⟩ d a) s = .next (settle s (runArith c [d] [a] res (fun v =>
    v.fpDone d (fpResult dbl v.cs (valX (intVal 64 (v.reg a).toNat)) 0)) s)) := rfl

end

/-! The instructions. -/

/-- Settles O26: each result from the operation on the exact operands, and FTOI by the kind of its operand. -/
theorem floatingPoint : Obligations.FloatingPoint := by
  intro s c t k h d a b dbl v leaves checked
  have hp {dst src g w} (i : Instr) (he : effect i s = .next (settle s (runPlain c dst src g s)))
      (hb : g v = .done w) : leaves i w := gives_runPlain h he hb
  have hc {dst src g w} (f : Residue → Instr) (he : ∀ r, effect (f r) s = .next (settle s (runArith c dst src r g s)))
      (hb : g v = .done w) : checked f w := gives_runArith h he hb
  have hftoi {w} (hb : v.fpDone d (fpToInt v.cs (Rule.fpIn dbl (Rule.reg v a))) = .done w) :
      checked (.ftoi c ⟨dbl, ·⟩ d a) w :=
    hc (.ftoi c ⟨dbl, ·⟩ d a) (effect_ftoi s c dbl d a) (by simpa only [fpArg_eq] using hb)
  refine ⟨⟨?_, ?_, ?_, ?_, ?_, ?_, ?_, ?_, ?_, ?_, ?_⟩, ⟨?_, ?_⟩, fun n sig pay hx => ?_, fun neg hx => ?_,
    fun x num den hx hden hv => ?_⟩
  · exact hc _ (fun _ => rfl) (by simp only [fpArg_eq, fpDone_fpResult, fpDown_eq])
  · exact hc _ (fun _ => rfl) (by simp only [fpArg_eq, fpDone_fpResult, fpDown_eq])
  · exact hc _ (fun _ => rfl) (by simp only [fpArg_eq, fpDone_fpResult])
  · exact hc _ (fun _ => rfl) (by simp only [fpArg_eq, fpDone_fpResult])
  · exact hc _ (fun _ => rfl) (by simp only [fpArg_eq, fpDone_fpResult])
  · exact hc _ (fun _ => rfl) (by simp only [fpArg_eq, fpDone_fpResult, fpDown_eq])
  · exact hc (.fmin c ⟨dbl, ·⟩ d a b) (effect_fmin s c dbl d a b) (by simp only [fpArg_eq, fpDone_fpResult])
  · exact hc (.fmax c ⟨dbl, ·⟩ d a b) (effect_fmax s c dbl d a b) (by simp only [fpArg_eq, fpDone_fpResult])
  · exact hc (.fcmp c ⟨dbl, ·⟩ d a b) (effect_fcmp s c dbl d a b) (by simp only [fpArg_eq, fpDone_eq]; rfl)
  · exact hc (.fcvt c ⟨dbl, ·⟩ d a) (effect_fcvt s c dbl d a) (by simp only [fpArg_eq, fpDone_fpResult])
  · exact hc (.itof c ⟨dbl, ·⟩ d a) (effect_itof s c dbl d a)
      (by simp only [reg_eq, valX_intVal, fpDone_fpResult])
  · exact hp _ rfl (by simp only [reg_eq, fpImage_negate, result_eq])
  · exact hp _ rfl (by simp only [reg_eq, fpImage_abs, result_eq])
  · exact hftoi (by rw [hx]; exact fpDone_eq ..)
  · exact hftoi (by rw [hx]; exact fpDone_eq ..)
  · have hden1 := den_fpIn hx
    intro t most
    have hreal := fpToInt_real v.cs hden1 hden hv (t := t) rfl
    refine ⟨fun hmost => hftoi ?_, fun hmost => ⟨ftoiFlags x, ftoiFlags_cases hden1 hden hv, hftoi ?_⟩⟩
    · rw [hx, hreal, if_pos hmost]
      exact fpDone_eq ..
    · rw [hx, hreal, if_neg (Nat.not_lt.mpr hmost)]
      exact fpDone_eq ..

end Sys2Proof.Machine

/-! SUPPORT. O27: the fault of a task that stands among those bound to the faults of its own level (09:R279; 11:R329). -/

namespace Sys2Proof.Machine

/-- Settling a state halts no core and starts none. -/
theorem settle_halted (s t : State) (c : Fin 8) : (settle s t).cores[c].halted = t.cores[c].halted := by
  simp only [settle, Fin.getElem_fin, vmapIdx_getElem]
  split <;> rfl

/-- Whether a core has halted in the state in which a command ends is as its execution leaves it. -/
theorem halted_of_ends {i : Instr} {s : State} {P : State → Prop} (c : Fin 8) (ha : Rule.Answered i s)
    (hl : (livesIn i).now s = true) (hf : Rule.finds i s = s) (h : Rule.Ends i s P) :
    ∃ t, P t ∧ t.cores[c].halted = (stateOf (exec i s)).cores[c].halted := by
  obtain ⟨t, hg, ht⟩ := h
  refine ⟨t, ht, ?_⟩
  rw [hg ha s hl hf, ← settle_halted s t c]
  unfold Rule.leaves
  split
  · simp [stateOf, portDone_cores]
  · rfl

/-- A running task that is INVALID, and bound to the faults of its own level, 0. -/
def selfBound : State :=
  { State.reset with
    ctl := { Ctl.reset with phase := .none, state := .run, place := 6 },
    cores := State.reset.cores.set 0 { Core.reset with
      running := some 0, tasks := Core.reset.tasks.set 0 { Task.reset with src := 5 } } }

/-- An instruction that faults at once: PICK with the reserved condition. -/
def reservedPick : Instr := .pick 0 0xF 0 0 0

theorem selfBound_ready : Rule.Ready selfBound 0 0 0 where
  runs := by decide +kernel
  running := by decide +kernel
  level := by decide +kernel
  still := by decide +kernel
  noFault := by decide +kernel
  kept := by decide +kernel
  good := by decide +kernel

theorem selfBound_not_bound : ¬ Rule.Bound selfBound.cores[(0 : Fin 8)] 0 := by
  unfold Rule.Bound
  decide +kernel

/-- Refutes O27: a task that was INVALID while it ran is FAULTED when the bound tasks are looked for, so that it counts as
bound to its own fault, and the core does not halt. -/
theorem not_faultsAndFetches : ¬ Obligations.FaultsAndFetches := by
  rintro ⟨h, -⟩
  obtain ⟨hf, -⟩ := h selfBound 0 0 0 reservedPick ccIllegal 0
  obtain ⟨-, hd⟩ := hf selfBound_ready (.pick 0 0 0)
  obtain ⟨t, ⟨⟨-, ⟨hhalt, -⟩, -, -⟩, -⟩, ht⟩ := halted_of_ends 0 (answered_of_asks (by decide +kernel)) (by decide +kernel)
    rfl (hd (.inr selfBound_not_bound))
  have hruns : (stateOf (exec reservedPick selfBound)).cores[(0 : Fin 8)].halted = false := by decide +kernel
  rw [ht, hruns] at hhalt
  exact absurd hhalt (by decide)

end Sys2Proof.Machine

/-! SUPPORT. The state of a control core: one core put in place of another, and the end of an instruction that changes its
core, waits or faults (09:R258, R278, R279; 11:R313, R320). -/

namespace Sys2Proof.Machine

open Rule (Ready)

/-! A core in its place. -/

theorem modCore_eq_withCore (s : State) (c : Fin 8) (f : Core → Core) :
    modCore c.val f s = Rule.withCore s c (f s.cores[c]) := modCore_fin s c f

@[simp] theorem withCore_core (s : State) (c : Fin 8) (x : Core) : (Rule.withCore s c x).cores[c.val] = x := by
  simp [Rule.withCore]

theorem core_withCore (s : State) (c : Fin 8) (x : Core) : (Rule.withCore s c x).cores[c] = x := withCore_core s c x

theorem withCore_other (s : State) {c j : Fin 8} (x : Core) (h : j ≠ c) :
    (Rule.withCore s c x).cores[j] = s.cores[j] := by
  have hv : c.val ≠ j.val := fun e => h (Fin.ext e.symm)
  simp [Rule.withCore, hv]

@[simp] theorem withCore_withCore (s : State) (c : Fin 8) (x y : Core) :
    Rule.withCore (Rule.withCore s c x) c y = Rule.withCore s c y := by
  simp [Rule.withCore]

@[simp] theorem withCore_self (s : State) (c : Fin 8) : Rule.withCore s c s.cores[c.val] = s := by
  simp [Rule.withCore]

theorem commit_eq (s : State) (c k : Fin 8) (b : Bank) :
    Rule.commit s c k b = Rule.withCore s c (Rule.counted s.cores[c] k b) := rfl

@[simp] theorem commit_withCore (s : State) (c k : Fin 8) (x : Core) (b : Bank) :
    Rule.commit (Rule.withCore s c x) c k b = Rule.withCore s c (Rule.counted x k b) := by
  simp [commit_eq]

@[simp] theorem bank_withCore (s : State) (c k : Fin 8) (x : Core) : Rule.bank (Rule.withCore s c x) c k = x.banks[k] := by
  simp [Rule.bank]

theorem modTask_eq_withTask (t : Byte) (f : Task → Task) (x : Core) : modTask t f x = Rule.withTask x t f := by
  simp [modTask, Rule.withTask, vmod_of_lt _ _ _ (show t.toNat < 256 from t.isLt)]

theorem getTask_eq (x : Core) (t : Byte) : getTask x t = x.tasks[t.toNat] :=
  vget_of_lt _ _ _ (show t.toNat < 256 from t.isLt)

theorem modBank_fin (k : Fin 8) (f : Bank → Bank) (x : Core) :
    modBank k.val f x = { x with banks := x.banks.set k.val (f x.banks[k]) } := by
  simp [modBank]

section
variable {s : State} {c : Fin 8} {t : Byte} {k : Fin 8}

theorem running_of_ready (h : Ready s c t k) : s.cores[c.val].running = some t := by simpa using h.running

theorem runningTask_of_ready (h : Ready s c t k) : runningTask s.cores[c.val] = some (t, k.val) := by
  have hl := h.level
  rw [getCore_fin] at hl
  simp [runningTask, running_of_ready h, hl]

end

/-! How an instruction ends whose function has answered (09:R258). -/

section
variable {s u : State} {c : Fin 8} {t : Byte} {k : Fin 8} {dst src : List (BitVec 5)} {f : Nat → State → Commit × State}
  {b : Bank} {i : Instr}

theorem gives_runInstr (h : Ready s c t k) (he : effect i s = .next (settle s (runInstr c dst src f s)))
    (hf : f k.val s = (.done b, u)) : Rule.Gives i s (Rule.commit u c k b) :=
  gives_of_next he (by rw [runInstr_ready h, hf, endInstr_done])

theorem gives_runInstr_core (h : Ready s c t k) (he : effect i s = .next (settle s (runInstr c dst src f s))) {y : Core}
    (hf : f k.val s = (.done b, Rule.withCore s c y)) : Rule.Gives i s (Rule.withCore s c (Rule.counted y k b)) := by
  have hg := gives_runInstr h he hf
  rwa [commit_withCore] at hg

theorem gives_runInstr_wait (h : Ready s c t k) (he : effect i s = .next (settle s (runInstr c dst src f s)))
    (hf : f k.val s = (.wait, u)) : Rule.Gives i s u :=
  gives_of_next he (by rw [runInstr_ready h, hf]; rfl)

end

/-! An instruction that orders itself behind rows and stores, on a core that has none (10:R302; 09:R277). -/

theorem allRows_of_nil {s : State} {c : Fin 8} (h : s.cores[c].rows = []) : allRows c s = s := by
  have hr : s.cores[c.val].rows = [] := h
  simp [allRows, rowsFrom, hr]

theorem rowCheck_of_ready {s : State} {c : Fin 8} {t : Byte} {k : Fin 8} (h : Ready s c t k)
    (f : State → Commit × State) : rowCheck c f s = f s := by
  have hp : pendingRow s c = none := by rw [pendingRow, h.running, Option.bind_some, h.noFault]
  rw [rowCheck, hp]

end Sys2Proof.Machine

/-! SUPPORT. O31: CRR, CRW, CTL_MYARM, CTL_MYCAUSE and CSYNC (09:R281 to R283; 11:R320). -/

namespace Sys2Proof.Machine

open Rule (Ready low)

/-! Legal reads and writes (09:R281). -/

theorem crLegal_of_legal {r : Nat} {k : Fin 8} (h : Rule.Legal r k) : crLegal r k.val = true := by
  simpa [crLegal, Rule.Legal] using h

theorem legal_low (k : Fin 8) : Rule.Legal 1 k := .inl rfl

theorem legal_high {k : Fin 8} (h : 6 ≤ k.val) : Rule.Legal 2 k := .inr ⟨rfl, h⟩

theorem crFault_read {r rd wr : Nat} {k : Fin 8} (h : crRules r = some (rd, wr)) (hl : Rule.Legal rd k) :
    crFault r k.val false = none := by
  simp [crFault, h, crLegal_of_legal hl]

theorem crFault_write {r rd wr : Nat} {k : Fin 8} (h : crRules r = some (rd, wr)) (hl : Rule.Legal wr k) :
    crFault r k.val true = none := by
  simp [crFault, h, crLegal_of_legal hl]

/-! CRR (09:R281; 11:R320). -/

section
variable {s : State} {c : Fin 8} {t : Byte} {k : Fin 8}

/-- A read without an effect of its own leaves the value in d. -/
theorem readCr_plain {r rd wr : Nat} (hr : crRules r = some (rd, wr)) (hl : Rule.Legal rd k) (hc : r ≠ 0x6A) (d : BitVec 5) :
    readCr c d r k.val s =
      (.done (Rule.result (Rule.bank s c k) d (crValue s c.val (.level k.val) r)), Rule.withCore s c s.cores[c]) := by
  simp [readCr, crFault_read hr hl, crReadEffect, hc, bankNow_eq, result_eq]

/-- A read of CTL_MYCAUSE clears the cause of the running task. -/
theorem readCr_cause (h : Ready s c t k) (d : BitVec 5) :
    readCr c d 0x6A k.val s =
      (.done (Rule.result (Rule.bank s c k) d ((s.cores[c].tasks[t.toNat]).cause.setWidth 64)),
        Rule.withCore s c (Rule.withTask s.cores[c] t fun z => { z with cause := 0 })) := by
  have hf : crFault 0x6A k.val false = none := crFault_read (rd := 1) (wr := 0) rfl (legal_low k)
  have hv : crValue s c.val (.level k.val) 0x6A = (s.cores[c].tasks[t.toNat]).cause.setWidth 64 := by
    simp [crValue, running_of_ready h, getTask_eq]
  have he : crReadEffect c.val 0x6A s = Rule.withCore s c (Rule.withTask s.cores[c] t fun z => { z with cause := 0 }) := by
    rw [crReadEffect, h.running, ← modTask_eq_withTask]
    exact modCore_eq_withCore ..
  simp only [readCr, hf, hv, he, bankNow_eq, bank_withCore, result_eq]
  rfl

theorem gives_crr (h : Ready s c t k) {cr : BitVec 12} {rd wr : Nat} (hr : crRules cr.toNat = some (rd, wr))
    (hl : Rule.Legal rd k) (hc : cr ≠ 0x6A) (d : BitVec 5) : Rule.Gives (.crr c d cr) s (Rule.withCore s c
      (Rule.counted s.cores[c] k (Rule.result (Rule.bank s c k) d (crValue s c.val (.level k.val) cr.toNat)))) :=
  gives_runInstr_core h rfl (readCr_plain hr hl (fun e => hc (BitVec.eq_of_toNat_eq e)) d)

/-! What the registers of the running task and the counters read (09:R257, R281). -/

theorem crValue_current (h : Ready s c t k) : crValue s c.val (.level k.val) 1 = low (t.toNat * 256 + k.val) := by
  simp [crValue, runningTask_of_ready h, w64, low]

theorem crValue_cs (h : Ready s c t k) : crValue s c.val (.level k.val) 4 = ((Rule.bank s c k).cs).setWidth 64 := by
  simp [crValue, runningCs, runningTask_of_ready h, Rule.bank, getBank]

theorem crValue_cycle : crValue s c.val (.level k.val) 2 = s.cores[c].cycle := by simp [crValue]

theorem crValue_instret : crValue s c.val (.level k.val) 3 = s.cores[c].instret := by simp [crValue]

/-! CRW (09:R281, R282; 11:R320, R332). -/

/-- A write that changes its core alone, while the task goes on. -/
theorem writeCr_of_core {r rd wr : Nat} {w : Word} {y : Core} (hr : crRules r = some (rd, wr)) (hl : Rule.Legal wr k)
    (hw : crWriteTask c.val k.val r w s = Rule.withCore s c y) (ht : y.running = some t) :
    writeCr c r w k.val s = (.done (Rule.onward y.banks[k]), Rule.withCore s c y) := by
  simp [writeCr, crFault_write hr hl, hw, ht, bankNow_eq, advance_eq]

theorem gives_crw (h : Ready s c t k) {cr : BitVec 12} {a : BitVec 5} {rd wr : Nat} {y : Core}
    (hr : crRules cr.toNat = some (rd, wr)) (hl : Rule.Legal wr k)
    (hw : crWriteTask c.val k.val cr.toNat (Rule.reg (Rule.bank s c k) a) s = Rule.withCore s c y)
    (ht : y.running = s.cores[c].running) :
    Rule.Gives (.crw c a cr) s (Rule.withCore s c (Rule.counted y k (Rule.onward y.banks[k]))) :=
  gives_runInstr_core (dst := []) (src := [a]) (f := fun k s => writeCr c cr.toNat ((bankNow s c k).reg a) k s) h rfl
    (by rw [bankNow_eq, reg_eq]; exact writeCr_of_core hr hl hw (by simpa [ht] using h.running))

end

section
variable {s : State} {c k : Fin 8} {w : Word}

theorem crWriteTask_held {r : Nat} (h : crSync r = true) : crWriteTask c.val k.val r w s =
    Rule.withCore s c { s.cores[c] with held := s.cores[c].held ++ [(BitVec.ofNat 12 r, w)] } := by
  rw [crWriteTask, if_pos h, modCore_eq_withCore]

theorem crWriteTask_cs : crWriteTask c.val k.val 4 w s = Rule.withCore s c { s.cores[c] with
    banks := s.cores[c].banks.set k.val { Rule.bank s c k with cs := w.extractLsb' 0 13 &&& 0x1F3F } } :=
  (modCore_eq_withCore s c _).trans (by rw [modBank_fin]; rfl)

theorem crWriteTask_tsel : crWriteTask c.val k.val 0x62 w s = Rule.withCore s c { s.cores[c] with
    tsel := s.cores[c].tsel.set k.val (w.extractLsb' 0 8) } :=
  (modCore_eq_withCore s c _).trans (by rw [vmod_fin])

theorem crWriteTask_bankwin : crWriteTask c.val k.val 0x60 w s = Rule.withCore s c { s.cores[c] with
    bankwin := Fin.ofNat 8 (w.toNat % 8) } :=
  (modCore_eq_withCore s c _).trans (by simp [fld])

theorem crWriteTask_spillf : crWriteTask c.val k.val 0x6C w s = Rule.withCore s c { s.cores[c] with
    spillf := if w.getLsbD 63 = true then { s.cores[c].spillf with valid := true }
      else { SpillFault.reset with va := s.cores[c].spillf.va } } :=
  modCore_eq_withCore s c _

theorem crWriteTask_myarm {t : Byte} (h : Ready s c t k) : crWriteTask c.val k.val 0x69 w s =
    Rule.withCore s c (Rule.withTask s.cores[c] t fun z => { z with value := w, armed := true }) := by
  rw [← modTask_eq_withTask, ← modCore_eq_withCore]
  simp [crWriteTask, crSync, running_of_ready h]

end

/-! The numbers of the fault records (09:R280). -/

def frecNumber (j : Fin 7) : BitVec 12 := BitVec.ofNat 12 (0x20 + 4 * j.val)

theorem frecNumber_toNat (j : Fin 7) : (frecNumber j).toNat = 0x20 + 4 * j.val := by
  rw [frecNumber, BitVec.toNat_ofNat]
  omega

theorem crRules_frec (j : Fin 7) : crRules (frecNumber j).toNat = some (2, 2) := by
  revert j
  decide

theorem crWriteTask_frec (s : State) (c k : Fin 8) (w : Word) (j : Fin 7) :
    crWriteTask c.val k.val (frecNumber j).toNat w s = Rule.withCore s c { s.cores[c] with
      frec := s.cores[c].frec.set j.val { s.cores[c].frec[j] with
        valid := w.getLsbD 63, ovf := w.getLsbD 63 && s.cores[c].frec[j].ovf } } := by
  have hs : crSync (frecNumber j).toNat = false := by
    revert j
    decide
  have hr : (decide (0x20 ≤ (frecNumber j).toNat) && decide ((frecNumber j).toNat < 0x3C)) = true := by
    revert j
    decide
  have hm : ((frecNumber j).toNat % 4 == 0) = true := by
    revert j
    decide
  have hd : ((frecNumber j).toNat - 0x20) / 4 = j.val := by
    revert j
    decide
  rw [crWriteTask, hs, if_neg (by decide), if_pos hr, if_pos hm, hd, modCore_eq_withCore, vmod_fin]
  rfl

/-! CSYNC: of the held writes to a register the last takes effect (09:R282). -/

/-- What a register becomes: what the last held write to it gives, else what it was. -/
def heldOr {α : Type} (h : List (BitVec 12 × Word)) (r : BitVec 12) (old : α) (f : Word → α) : α :=
  match Rule.lastHeld h r with
  | some w => f w
  | none => old

theorem lastHeld_append (h : List (BitVec 12 × Word)) (w : BitVec 12 × Word) (r : BitVec 12) :
    Rule.lastHeld (h ++ [w]) r = if w.1 = r then some w.2 else Rule.lastHeld h r := by
  by_cases hw : w.1 = r <;> simp [Rule.lastHeld, hw]

theorem heldOr_append_same {α : Type} (h : List (BitVec 12 × Word)) (r : BitVec 12) (v : Word) (old : α) (f : Word → α) :
    heldOr (h ++ [(r, v)]) r old f = f v := by
  simp [heldOr, lastHeld_append]

theorem heldOr_append_other {α : Type} (h : List (BitVec 12 × Word)) {q r : BitVec 12} (hr : q ≠ r) (v : Word)
    (old : α) (f : Word → α) : heldOr (h ++ [(q, v)]) r old f = heldOr h r old f := by
  simp [heldOr, lastHeld_append, hr]

/-- The core after held writes. -/
def heldIn (x : Core) (h : List (BitVec 12 × Word)) : Core := { x with
  alchk := heldOr h 0x008 x.alchk fun w => w.getLsbD 0,
  ctx := heldOr h 0x040 x.ctx fun w => w.extractLsb' 0 16,
  ttb := heldOr h 0x041 x.ttb fun w => w &&& 0x000FFFFFFFFFF01D,
  tcfg := heldOr h 0x048 x.tcfg fun w =>
    ⟨w.extractLsb' 32 32, w.extractLsb' 16 8, w.extractLsb' 8 5, w.extractLsb' 0 3⟩ }

theorem applyHeldOne_heldIn (x : Core) (h : List (BitVec 12 × Word)) (w : BitVec 12 × Word) :
    applyHeldOne (heldIn x h) w = heldIn x (h ++ [w]) := by
  obtain ⟨r, v⟩ := w
  by_cases h8 : r = 0x008
  · subst h8
    simp [applyHeldOne, heldIn, heldOr_append_same, heldOr_append_other]
  by_cases h40 : r = 0x040
  · subst h40
    simp [applyHeldOne, heldIn, heldOr_append_same, heldOr_append_other]
  by_cases h41 : r = 0x041
  · subst h41
    simp [applyHeldOne, heldIn, heldOr_append_same, heldOr_append_other, ttbMask]
  by_cases h48 : r = 0x048
  · subst h48
    simp [applyHeldOne, heldIn, heldOr_append_same, heldOr_append_other, tcfgOf]
  have hn : applyHeldOne (heldIn x h) (r, v) = heldIn x h := by
    have hne : ∀ n : BitVec 12, r ≠ n → r.toNat ≠ n.toNat := fun n e he => e (BitVec.eq_of_toNat_eq he)
    have := hne _ h8
    have := hne _ h40
    have := hne _ h41
    have := hne _ h48
    simp_all [applyHeldOne]
  have ho : heldIn x (h ++ [(r, v)]) = heldIn x h := by
    simp only [heldIn, heldOr_append_other h h8, heldOr_append_other h h40, heldOr_append_other h h41,
      heldOr_append_other h h48]
  rw [hn, ho]

theorem foldl_applyHeldOne (x : Core) (h g : List (BitVec 12 × Word)) :
    h.foldl applyHeldOne (heldIn x g) = heldIn x (g ++ h) := by
  induction h generalizing g with
  | nil => simp
  | cons w h ih => rw [List.foldl_cons, applyHeldOne_heldIn, ih, List.append_assoc, List.singleton_append]

theorem applyHeld_eq (x : Core) : applyHeld x = { heldIn x x.held with held := [] } :=
  congrArg (fun y : Core => { y with held := [] }) (foldl_applyHeldOne x x.held [])

theorem gives_csync {s : State} {c : Fin 8} {t : Byte} {k : Fin 8} (h : Ready s c t k) (hr : s.cores[c].rows = []) :
    Rule.Gives (.csync c) s
      (Rule.withCore s c (Rule.counted (applyHeld s.cores[c]) k (Rule.onward (Rule.bank s c k)))) := by
  refine gives_runInstr_core h rfl ?_
  have hrows : (getCore s c.val).rows.isEmpty = true := by simp [show s.cores[c.val].rows = [] from hr]
  have hb : (applyHeld s.cores[c]).banks[k] = Rule.bank s c k := by rw [applyHeld_eq]; rfl
  simp only [afterRows, allRows_of_nil hr, hrows, Bool.not_true, Bool.false_eq_true, if_false, rowCheck_of_ready h,
    modCore_eq_withCore, bankNow_eq, bank_withCore, advance_eq, hb]

/-! The obligation, by its parts. -/

section
variable {s : State} {c : Fin 8} {t : Byte} {k : Fin 8}

/-- A read of CTL_MYCAUSE, by CRR or READ_CAUSE. -/
theorem gives_readCause (h : Ready s c t k) {i : Instr} {d : BitVec 5}
    (he : effect i s = .next (settle s (runInstr c [d] [] (readCr c d 0x6A) s))) :
    Rule.Gives i s (Rule.withCore s c (Rule.counted (Rule.withTask s.cores[c] t fun z => { z with cause := 0 }) k
      (Rule.result (Rule.bank s c k) d ((s.cores[c].tasks[t.toNat]).cause.setWidth 64)))) :=
  gives_runInstr_core h he (readCr_cause h d)

/-- A write of CTL_MYARM, by CRW or ARM_BINDING. -/
theorem gives_armBinding (h : Ready s c t k) {i : Instr} {a : BitVec 5}
    (he : effect i s = .next (settle s (runInstr c [] [a] (fun k s => writeCr c 0x69 ((bankNow s c k).reg a) k s) s))) :
    Rule.Gives i s (Rule.withCore s c (Rule.counted (Rule.withTask s.cores[c] t fun z =>
      { z with value := Rule.reg (Rule.bank s c k) a, armed := true }) k (Rule.onward (Rule.bank s c k)))) :=
  gives_runInstr_core h he (by
    rw [bankNow_eq, reg_eq]
    exact writeCr_of_core (rd := 1) (wr := 1) rfl (legal_low k) (crWriteTask_myarm h) (running_of_ready h))

theorem gives_crw_held (h : Ready s c t k) {cr : BitVec 12} {rd wr : Nat} (a : BitVec 5) (hr : crRules cr.toNat = some (rd, wr))
    (hl : Rule.Legal wr k) (hs : crSync cr.toNat = true) : Rule.Gives (.crw c a cr) s (Rule.withCore s c (Rule.counted
      { s.cores[c] with held := s.cores[c].held ++ [(cr, Rule.reg (Rule.bank s c k) a)] } k
      (Rule.onward (Rule.bank s c k)))) := by
  have hw := crWriteTask_held (s := s) (c := c) (k := k) (w := Rule.reg (Rule.bank s c k) a) hs
  rw [BitVec.ofNat_toNat, BitVec.setWidth_eq] at hw
  exact gives_crw h hr hl hw rfl

theorem gives_crw_cs (h : Ready s c t k) (a : BitVec 5) : Rule.Gives (.crw c a 4) s (Rule.withCore s c (Rule.counted s.cores[c] k
    (Rule.onward { Rule.bank s c k with cs := (Rule.reg (Rule.bank s c k) a).extractLsb' 0 13 &&& 0x1F3F }))) := by
  have hg := gives_crw h (cr := 4) (a := a) rfl (legal_low k) crWriteTask_cs rfl
  simpa [Rule.counted, Vector.set_set] using hg

end

/-- Settles O31: each register by the lemma of its write; CSYNC by the last held write of each register. -/
theorem controlRegisters : Obligations.ControlRegisters := by
  intro s c t k h
  refine ⟨fun d cr r w hr hl hc => gives_crr h hr hl hc d, fun d => ⟨?_, ?_, ?_, ?_, ?_, ?_⟩,
    fun a => ⟨?_, ?_, ?_, ?_, ?_, ?_, ?_, ?_, ?_⟩, fun hrows => ?_⟩
  · rw [← crValue_current h]
    exact gives_crr h (cr := 1) rfl (legal_low k) (by decide) d
  · rw [← crValue_cycle (k := k)]
    exact gives_crr h (cr := 2) rfl (legal_low k) (by decide) d
  · rw [← crValue_instret (k := k)]
    exact gives_crr h (cr := 3) rfl (legal_low k) (by decide) d
  · rw [← crValue_cs h]
    exact gives_crr h (cr := 4) rfl (legal_low k) (by decide) d
  · exact gives_readCause h rfl
  · exact gives_readCause h rfl
  · rintro hk cr (rfl | rfl | rfl)
    · exact gives_crw_held h a (rd := 2) rfl (legal_high hk) rfl
    · exact gives_crw_held h a (rd := 2) rfl (legal_high hk) rfl
    · exact gives_crw_held h a (rd := 2) rfl (legal_high hk) rfl
  · exact gives_crw_held h a (rd := 1) rfl (legal_low k) rfl
  · exact gives_crw_cs h a
  · exact gives_crw h (rd := 1) rfl (legal_low k) crWriteTask_tsel rfl
  · exact fun hk => gives_crw h (rd := 2) rfl (legal_high hk) crWriteTask_bankwin rfl
  · exact fun hk j => gives_crw h (crRules_frec j) (legal_high hk) (crWriteTask_frec s c k _ j) rfl
  · exact fun hk => gives_crw h (rd := 2) rfl (legal_high hk) crWriteTask_spillf rfl
  · exact gives_armBinding h rfl
  · exact gives_armBinding h rfl
  · have hg := gives_csync h hrows
    rw [applyHeld_eq] at hg
    refine ⟨_, hg, ?_⟩
    simp only [Fin.getElem_fin, withCore_core]
    exact ⟨rfl, rfl, rfl, rfl, rfl⟩

end Sys2Proof.Machine

/-! SUPPORT. A precise fault at a level to whose faults a task is bound (09:R278, R279; 11:R317, R319). -/

namespace Sys2Proof.Machine

open Rule (Ready)

/-- In u the core runs the same task in the same bank as in s, has the same fault records, and memory is the same. -/
structure SameTask (s u : State) (c : Fin 8) : Prop where
  running : u.cores[c].running = s.cores[c].running
  banks   : u.cores[c].banks = s.cores[c].banks
  tasks   : u.cores[c].tasks = s.cores[c].tasks
  frec    : u.cores[c].frec = s.cores[c].frec
  halted  : u.cores[c].halted = s.cores[c].halted
  count   : u.cores[c].instret = s.cores[c].instret
  memory  : u.mem = s.mem

theorem SameTask.refl (s : State) (c : Fin 8) : SameTask s s c := ⟨rfl, rfl, rfl, rfl, rfl, rfl, rfl⟩

theorem core_of_kept {s u : State} (h : Kept s u) (c : Fin 8) :
    u.cores[c] = { s.cores[c] with l1tlb := u.cores[c].l1tlb } := h.cores c.val c.isLt

theorem sameTask_of_kept {s u : State} (h : Kept s u) (c : Fin 8) : SameTask s u c where
  running := (congrArg Core.running (core_of_kept h c) :)
  banks := (congrArg Core.banks (core_of_kept h c) :)
  tasks := (congrArg Core.tasks (core_of_kept h c) :)
  frec := (congrArg Core.frec (core_of_kept h c) :)
  halted := (congrArg Core.halted (core_of_kept h c) :)
  count := (congrArg Core.instret (core_of_kept h c) :)
  memory := h.mem

/-- A binding to the faults of level k. -/
def boundTo (k : Nat) (y : Task) : Bool := y.src == 5 && fld y.sparam 0 3 == k

theorem boundTo_iff {k : Nat} {y : Task} : boundTo k y = true ↔ y.src = 5 ∧ y.sparam.toNat % 8 = k := by
  simp [boundTo, fld]

/-- The core with task t suspended as FAULTED (11:R319). -/
def suspended (t : Byte) (x : Core) : Core :=
  { modTask t (fun y => { y with st := .faulted }) x with running := none, outgoing := some t, resumed := false }

theorem suspended_task (t : Byte) (x : Core) (j : Fin 256) : (suspended t x).tasks[j.val] =
    if t.toNat = j.val then { x.tasks[j.val] with st := .faulted } else x.tasks[j.val] := by
  rw [suspended, modTask_eq_withTask]
  by_cases h : t.toNat = j.val
  · simp only [Rule.withTask, h, Vector.getElem_set_self, if_true]
  · rw [if_neg h]
    exact Vector.getElem_set_ne t.isLt j.isLt h

/-- A task of the core is still bound when one of them has been suspended. -/
theorem any_bound_of_bound {x : Core} {k : Fin 8} (h : Rule.Bound x k) (t : Byte) :
    ((suspended t x).tasks.toList.any fun y => y.st != .invalid && y.src == 5 && fld y.sparam 0 3 == k.val) = true := by
  obtain ⟨j, hv, hsrc, hlvl⟩ := h
  simp only [Fin.getElem_fin] at hv hsrc hlvl
  rw [List.any_eq_true]
  refine ⟨(suspended t x).tasks[j.val], by simp, ?_⟩
  rw [suspended_task]
  split <;> simp [hv, hsrc, hlvl, fld]

/-- The record of a CC_PARITY fault; none of another event (14:R397). -/
def faultRecord (c : Fin 8) (k : Nat) (ev : BitVec 16) (pc addr : BitVec 48) (s : State) : State :=
  if ev == ccParity then
    detect ccParity clsQueue (BitVec.ofNat 16 (0x0200 + c.val)) (BitVec.ofNat 16 k) (pc.setWidth 64) (addr.setWidth 64) s
  else s

theorem faultRecord_cores (c : Fin 8) (k : Nat) (ev : BitVec 16) (pc addr : BitVec 48) (s : State) :
    (faultRecord c k ev pc addr s).cores = s.cores := by
  unfold faultRecord; split <;> rfl

theorem faultRecord_mem (c : Fin 8) (k : Nat) (ev : BitVec 16) (pc addr : BitVec 48) (s : State) :
    (faultRecord c k ev pc addr s).mem = s.mem := by
  unfold faultRecord; split <;> rfl

/-- The bound tasks fire, or the core halts (09:R279; 11:R329). -/
def fireBound (c : Fin 8) (k : Nat) (ev : BitVec 16) (pc : BitVec 48) (s : State) : State :=
  if (getCore s c).tasks.toList.any fun y => y.st != .invalid && y.src == 5 && fld y.sparam 0 3 == k then
    modCore c (fireWhere (boundTo k)) s
  else doubleFault c k ev pc s

section
variable {s : State} {c : Fin 8} {t : Byte} {k : Fin 8} {ev : BitVec 16} {addr : BitVec 48} {half : Nat}

/-- The steps of a fault at a level below 7. -/
theorem takeFault_low (hr : runningTask s.cores[c.val] = some (t, k.val)) (hk : k.val < 7) :
    takeFault c ev addr half s = fireBound c k.val ev (Rule.bank s c k).pc
      (modCore c (recordFault k.val t half ev addr (Rule.bank s c k).pc)
        (modCore c (fun x => { x with running := none, outgoing := some t, resumed := false })
          (modCore c (modTask t fun y => { y with st := .faulted })
            (faultRecord c k.val ev (Rule.bank s c k).pc addr s)))) := by
  rw [← bankNow_eq, takeFault, bankNow, getCore_fin, hr]
  exact if_neg (by simpa using Nat.ne_of_lt hk)

/-- A fault at a level below 7 to which a task is bound: the task is suspended, the level's record is written, and the bound
tasks fire. -/
theorem takeFault_bound (hr : runningTask s.cores[c.val] = some (t, k.val)) (hk : k.val < 7)
    (hb : Rule.Bound s.cores[c] k) :
    takeFault c ev addr half s = Rule.withCore (faultRecord c k.val ev (Rule.bank s c k).pc addr s) c
      (fireWhere (boundTo k.val)
        (recordFault k.val t half ev addr (Rule.bank s c k).pc (suspended t s.cores[c]))) := by
  have hs : ∀ u : State, modCore c (fun x => { x with running := none, outgoing := some t, resumed := false })
      (modCore c (modTask t fun y => { y with st := .faulted }) u) = Rule.withCore u c (suspended t u.cores[c]) := by
    intro u
    rw [modCore_eq_withCore, modCore_eq_withCore, withCore_withCore, core_withCore]
    rfl
  have hany : ((recordFault k.val t half ev addr (Rule.bank s c k).pc (suspended t s.cores[c])).tasks.toList.any
      fun y => y.st != .invalid && y.src == 5 && fld y.sparam 0 3 == k.val) = true := any_bound_of_bound hb t
  rw [takeFault_low hr hk, hs, modCore_eq_withCore, withCore_withCore, core_withCore,
    faultRecord_cores, fireBound, getCore_fin, withCore_core, if_pos hany, modCore_eq_withCore,
    withCore_withCore, core_withCore]

theorem fireWhere_task (p : Task → Bool) (x : Core) (j : Nat) (h : j < 256) : (fireWhere p x).tasks[j] =
    if x.tasks[j].st ≠ .invalid ∧ p x.tasks[j] = true then fireTask x.tasks[j] else x.tasks[j] := by
  simp [fireWhere]

/-- A suspended task does not run again when it fires. -/
theorem fireTask_faulted {y : Task} (h : y.st = .faulted) : (fireTask y).st = .faulted := by
  simp [fireTask, causeTask, h]

theorem fireTask_fault {y : Task} (h : y.src = 5) : fireTask y = causeTask 0 y := by
  cases y
  subst h
  rfl

/-- A fault taken where the core is as it was at the instruction. -/
theorem takeFault_of_same (h : Ready s c t k) {u : State} (hu : SameTask s u c) (hk : k.val < 7)
    (hb : Rule.Bound s.cores[c] k) :
    takeFault c ev addr half u = Rule.withCore (faultRecord c k.val ev (Rule.bank s c k).pc addr u) c
      (fireWhere (boundTo k.val)
        (recordFault k.val t half ev addr (Rule.bank s c k).pc (suspended t u.cores[c]))) := by
  have hrun : runningTask u.cores[c] = some (t, k.val) := by
    rw [← runningTask_of_ready h]
    simp only [runningTask, hu.running, getTask_eq, hu.tasks]
    rfl
  have hbu : Rule.Bound u.cores[c] k := by rwa [Rule.Bound, hu.tasks]
  have hpc : (Rule.bank u c k).pc = (Rule.bank s c k).pc := by rw [Rule.bank, Rule.bank, hu.banks]
  rw [takeFault_bound hrun hk hbu, hpc]

/-- A fault leaves the store buffer. -/
theorem takeFault_sb (h : Ready s c t k) {u : State} (hu : SameTask s u c) (hk : k.val < 7)
    (hb : Rule.Bound s.cores[c] k) : (takeFault c ev addr half u).cores[c].sb = u.cores[c].sb := by
  rw [takeFault_of_same h hu hk hb, core_withCore]
  rfl

/-- What a fault does, taken where the core is as it was at the instruction. -/
theorem faulted_of_bound (h : Ready s c t k) {u : State} (hu : SameTask s u c) (hk : k.val < 7)
    (hb : Rule.Bound s.cores[c] k) :
    Rule.Faulted s (takeFault c ev addr half u) c k t ev addr (BitVec.ofNat 2 half) := by
  rw [takeFault_of_same h hu hk hb]
  have htask : ∀ j : Fin 256, (fireWhere (boundTo k.val)
      (recordFault k.val t half ev addr (Rule.bank s c k).pc (suspended t u.cores[c]))).tasks[j.val] =
      if (suspended t s.cores[c]).tasks[j.val].st ≠ .invalid ∧ boundTo k.val (suspended t s.cores[c]).tasks[j.val] then
        fireTask (suspended t s.cores[c]).tasks[j.val] else (suspended t s.cores[c]).tasks[j.val] := by
    intro j
    have he : (suspended t u.cores[c]).tasks = (suspended t s.cores[c]).tasks := by
      simp only [suspended, modTask, hu.tasks]
    rw [fireWhere_task, ← he]
    rfl
  refine ⟨⟨?_, ?_, ?_, ?_, ?_⟩, ?_, ?_, ?_⟩
  · rw [core_withCore, htask ⟨t.toNat, t.isLt⟩, suspended_task, if_pos rfl]
    split
    · exact fireTask_faulted rfl
    · rfl
  · rw [core_withCore]
    rfl
  · rw [core_withCore]
    exact hu.banks
  · rw [core_withCore]
    exact hu.count
  · exact (faultRecord_mem ..).trans hu.memory
  · intro h7
    rw [core_withCore]
    simp only [fireWhere, recordFault, suspended, modTask, vmod_of_lt _ _ _ h7, hu.frec]
  · intro j hj
    rw [core_withCore, Fin.getElem_fin, htask, suspended_task, if_neg hj.symm]
    by_cases hv : s.cores[c].tasks[j.val].st ≠ .invalid ∧ boundTo k.val s.cores[c].tasks[j.val] = true
    · have hb := boundTo_iff.1 hv.2
      rw [if_pos hv, fireTask_fault hb.1]
      exact (if_pos ⟨hv.1, hb⟩).symm
    · rw [if_neg hv]
      exact (if_neg fun hc => hv ⟨hc.1, boundTo_iff.2 hc.2⟩).symm
  · rw [core_withCore]
    exact hu.halted

/-- An instruction whose function answers a fault. -/
theorem ends_fault (h : Ready s c t k) (hk : k.val < 7) (hb : Rule.Bound s.cores[c] k) {dst src : List (BitVec 5)}
    {f : Nat → State → Commit × State} {i : Instr} (he : effect i s = .next (settle s (runInstr c dst src f s)))
    {a : Nat} {u : State} (hf : f k.val s = (.fault ev a half, u)) (hu : SameTask s u c) :
    Rule.Ends i s fun v => Rule.Faulted s v c k t ev (BitVec.ofNat 48 a) (BitVec.ofNat 2 half) := by
  refine ends_of_next he ?_
  rw [runInstr_ready h, hf]
  exact faulted_of_bound h hu hk hb

end

end Sys2Proof.Machine

/-! SUPPORT. O32: FENCE, TLBI and the bank window (09:R277; 11:R332; 12:R346, R347). -/

namespace Sys2Proof.Machine

open Rule (Ready)

/-! Older stores and rows, on cores that have none (09:R267, R277). -/

theorem drainAll_of_nil {s : State} {c : Fin 8} (h : s.cores[c].sb = []) : drainAll c s = s := by
  have hs : s.cores[c.val].sb = [] := h
  simp [drainAll, drainFrom, hs]

theorem performOlder_of_nil {s : State} {c : Fin 8} (hs : s.cores[c].sb = []) (hr : s.cores[c].rows = []) :
    performOlder c s = (true, s) := by
  have hs' : s.cores[c.val].sb = [] := hs
  have hr' : s.cores[c.val].rows = [] := hr
  simp [performOlder, allRows_of_nil hr, drainAll_of_nil hs, hs', hr']

theorem storesOut_iff {s : State} {c : Fin 8} :
    storesOut c s = true ↔ ∃ r ∈ s.memp.out ++ s.memp.waiting, r.waiter = .coreStore c := by
  rw [storesOut, List.any_eq_true]
  simp only [beq_iff_eq]

/-! FENCE (09:R277). -/

theorem gives_fence {s : State} {c : Fin 8} {t : Byte} {k : Fin 8} (h : Ready s c t k) (hs : s.cores[c].sb = [])
    (hr : s.cores[c].rows = []) : Rule.Gives (.fence c) s
      (if storesOut c s = true then s
       else Rule.withCore s c (Rule.counted s.cores[c] k (Rule.onward (Rule.bank s c k)))) := by
  refine gives_of_next rfl ?_
  rw [runInstr_ready h, performOlder_of_nil hs hr]
  simp only [rowCheck_of_ready h, bankNow_eq, advance_eq]
  split
  · rfl
  · exact endInstr_done ..

/-! TLBI (12:R346, R347). -/

theorem drainCores_of_nil {s : State} (h : ∀ j : Fin 8, s.cores[j].sb = [] ∧ s.cores[j].rows = []) : drainCores s = s :=
  List.foldl_fixed' (fun j => by rw [allRows_of_nil (h j).2, drainAll_of_nil (h j).1]) _

theorem coresDrained_of_nil {s : State} (h : ∀ j : Fin 8, s.cores[j].sb = [] ∧ s.cores[j].rows = []) :
    coresDrained s = true := by
  rw [coresDrained, List.all_eq_true]
  intro x hx
  obtain ⟨j, hj, rfl⟩ := List.getElem_of_mem hx
  obtain ⟨hs, hr⟩ := h ⟨j, by simpa using hj⟩
  simp only [Fin.getElem_fin] at hs hr
  simp [hs, hr]

theorem accessesDone_iff {s : State} (h : ∀ j : Fin 8, s.cores[j].sb = [] ∧ s.cores[j].rows = []) {variant : Nat}
    {ctx : BitVec 16} : accessesDone variant ctx s = true ↔ ∀ y ∈ ctxsOut s, variant ≠ 3 ∧ y ≠ ctx := by
  simp [accessesDone, coresDrained_of_nil h]

/-- The entries of a variant. -/
def covers (variant : Nat) (ctx : BitVec 16) (va : Nat) (e : TlbEntry) : Bool :=
  match variant with
  | 0 | 1 => tlbMatch ctx va e
  | 2 => e.ctx == ctx
  | _ => true

theorem invTlb_eq (variant : Nat) (ctx : BitVec 16) (va : Nat) (l : List TlbEntry) :
    invTlb variant ctx va l = l.filter fun e => !covers variant ctx va e := by
  refine congrArg (l.filter ·) (funext fun e => ?_)
  unfold covers
  split <;> simp [bne]

/-- What a TLBI of a variant leaves (12:R346). -/
structure Invalidated (s u : State) (c k : Fin 8) (variant : Nat) (ctx : BitVec 16) (va : Nat) : Prop where
  kept : u.mem = s.mem ∧ u.dq = s.dq ∧ u.flags = s.flags
  xlat : u.xlat = { s.xlat with
    tlb := s.xlat.tlb.filter fun e => !covers variant ctx va e, walker := invWalker variant ctx va s.xlat.walker,
    ctxCache := invCtx variant ctx s.xlat.ctxCache }
  l1 : ∀ j : Fin 8, u.cores[j].l1tlb = s.cores[j].l1tlb.filter fun e => !covers variant ctx va e
  bank : u.cores[c].banks = s.cores[c].banks.set k.val (Rule.onward (Rule.bank s c k))

theorem invalidate_core (variant : Nat) (ctx : BitVec 16) (va : Nat) (s : State) (j : Fin 8) :
    (invalidate variant ctx va s).cores[j] = { s.cores[j] with l1tlb := invTlb variant ctx va s.cores[j].l1tlb } :=
  vmap_getElem ..

theorem invalidated_commit (s : State) (c k : Fin 8) (variant : Nat) (ctx : BitVec 16) (va : Nat) :
    Invalidated s (Rule.commit (invalidate variant ctx va s) c k (Rule.onward (Rule.bank s c k))) c k variant ctx va where
  kept := ⟨rfl, rfl, rfl⟩
  xlat := by rw [← invTlb_eq]; rfl
  l1 := fun j => by
    rw [commit_eq, ← invTlb_eq]
    by_cases hj : j = c
    · subst hj
      rw [core_withCore, invalidate_core]
      rfl
    · rw [withCore_other _ _ hj, invalidate_core]
  bank := by
    rw [commit_eq, core_withCore, invalidate_core]
    rfl

section
variable {s : State} {c : Fin 8} {t : Byte} {k : Fin 8} {a : BitVec 5} {variant : Nat} {i : Instr}

/-- TLBI of a variant, when no store and no row of the block is left: it waits for the accesses made through the entries. -/
theorem runTlbi_eq (h : Ready s c t k) (hk : 6 ≤ k.val) (he : ∀ j : Fin 8, s.cores[j].sb = [] ∧ s.cores[j].rows = []) :
    let ctx := (Rule.reg (Rule.bank s c k) a).extractLsb' 48 16
    let va := (Rule.reg (Rule.bank s c k) a).toNat / 2 ^ 12 % 2 ^ 36 * 4096
    runInstr c [] [a] (coreTlbi c variant a) s =
      if (∀ y ∈ ctxsOut s, variant ≠ 3 ∧ y ≠ ctx) ∧ storesOut c s = false then
        Rule.commit (invalidate variant ctx va s) c k (Rule.onward (Rule.bank s c k))
      else s := by
  intro ctx va
  have hb : Rule.bank (invalidate variant ctx va s) c k = Rule.bank s c k := by
    rw [Rule.bank, invalidate_core]
    rfl
  have hva : fld (Rule.reg (Rule.bank s c k) a) 12 36 * 4096 = va := by
    rw [fld, Nat.shiftRight_eq_div_pow]
  rw [runInstr_ready h, coreTlbi, if_neg (Nat.not_lt.2 hk), drainCores_of_nil he]
  simp only [bankNow_eq, reg_eq, hva, ← accessesDone_iff he]
  by_cases hd : accessesDone variant ctx s = true ∧ storesOut c s = false
  · rw [if_pos hd, if_neg (by simp [ctx, hd.1, hd.2] at hd ⊢), hb]
    exact endInstr_done ..
  · rw [if_neg hd, if_pos (by grind)]
    rfl

theorem gives_tlbi (h : Ready s c t k) (hk : 6 ≤ k.val) (he : ∀ j : Fin 8, s.cores[j].sb = [] ∧ s.cores[j].rows = [])
    (hi : effect i s = runTlbi c variant a s) :
    let ctx := (Rule.reg (Rule.bank s c k) a).extractLsb' 48 16
    let va := (Rule.reg (Rule.bank s c k) a).toNat / 2 ^ 12 % 2 ^ 36 * 4096
    let done := (∀ y ∈ ctxsOut s, variant ≠ 3 ∧ y ≠ ctx) ∧
      ¬ ∃ r ∈ s.memp.out ++ s.memp.waiting, r.waiter = .coreStore c
    (done → Rule.Ends i s fun u => Invalidated s u c k variant ctx va) ∧ (¬ done → Rule.Gives i s s) := by
  intro ctx va done
  have hd : (∀ y ∈ ctxsOut s, variant ≠ 3 ∧ y ≠ ctx) ∧ storesOut c s = false ↔ done := by
    rw [← Bool.not_eq_true, storesOut_iff]
  have hr := runTlbi_eq (a := a) (variant := variant) h hk he
  refine ⟨fun hdone => ends_of_next hi ?_, fun hdone => gives_of_next hi (hr.trans (if_neg fun hc => hdone (hd.1 hc)))⟩
  rw [hr.trans (if_pos (hd.2 hdone))]
  exact invalidated_commit ..

end

/-! The bank window (11:R332). -/

theorem ofNat_five (cr : BitVec 12) : BitVec.ofNat 5 cr.toNat = cr.setWidth 5 := BitVec.ofNat_toNat ..

theorem toNat_five {cr : BitVec 12} (h : cr.toNat < 32) : (cr.setWidth 5).toNat = cr.toNat := by
  rw [BitVec.toNat_setWidth]
  exact Nat.mod_eq_of_lt h

theorem five_ne_zero {cr : BitVec 12} (h : cr.toNat < 32) (h1 : 1 ≤ cr.toNat) : cr.setWidth 5 ≠ 0 := by
  intro e
  have hz : 0 = cr.toNat := (congrArg BitVec.toNat e).symm.trans (toNat_five h)
  omega

/-- The register of a bank that cr names. -/
def windowValue (b : Bank) (cr : BitVec 12) : Word :=
  if h : cr.toNat < 32 then b.g[cr.toNat] else if cr.toNat = 32 then b.pc.setWidth 64 else b.cs.setWidth 64

theorem bankRead_eq (b : Bank) {cr : BitVec 12} (h1 : 1 ≤ cr.toNat) : bankRead b cr.toNat = windowValue b cr := by
  unfold bankRead windowValue
  by_cases h : cr.toNat < 32
  · rw [if_pos h, dif_pos h, ofNat_five, reg_eq, Rule.reg, if_neg (five_ne_zero h h1)]
    simp only [toNat_five h]
  · rw [if_neg h, dif_neg h]
    simp only [beq_iff_eq]

/-- The bank with v written to the register that cr names. -/
def windowPut (b : Bank) (cr : BitVec 12) (v : Word) : Bank :=
  if cr.toNat < 32 then Rule.put b (cr.setWidth 5) v
  else if cr.toNat = 32 then { b with pc := v.extractLsb' 0 48 &&& 0xFFFFFFFFFFFC }
  else { b with cs := v.extractLsb' 0 13 &&& 0x1F3F }

theorem bankWrite_eq (b : Bank) (cr : BitVec 12) (v : Word) : bankWrite b cr.toNat v = windowPut b cr v := by
  unfold bankWrite windowPut
  rw [ofNat_five, setReg_eq]
  simp only [beq_iff_eq]
  rfl

theorem windowBad_iff (b : Bank) {cr : BitVec 12} (h1 : 1 ≤ cr.toNat) :
    (decide (cr.toNat < 32) && b.parityBad [cr.setWidth 5]) = false ↔ (cr.toNat < 32 → b.bad.getLsbD cr.toNat = false) := by
  by_cases h : cr.toNat < 32
  · have hz : cr.setWidth 5 ≠ 0#5 := five_ne_zero h h1
    simp [h, Bank.parityBad, toNat_five h, hz]
  · simp [h]

theorem windowFault_high {cr : BitVec 12} {k : Nat} (hk : 6 ≤ k) (h1 : 1 ≤ cr.toNat) (h33 : cr.toNat ≤ 33) :
    windowFault cr k = none := by
  have hc : (cr.toNat == 0 || decide (33 < cr.toNat)) = false := by
    simp only [Bool.or_eq_false_iff, beq_eq_false_iff_ne, decide_eq_false_iff_not]
    omega
  rw [windowFault, hc, if_neg Bool.false_ne_true, if_neg (Nat.not_lt.2 hk)]

theorem windowPending_of_still {x : Core} {r : Nat} (h : ∀ u ∈ x.xq, u.level ≠ x.bankwin) : windowPending x r = false := by
  have hn : ∀ p : XferUnit → Bool, (x.xq.any fun u => u.level.val == x.bankwin.val && p u) = false := by
    intro p
    rw [List.any_eq_false]
    intro u hu
    simp [Fin.val_inj, h u hu]
  unfold windowPending groupPending
  split <;> exact hn _

section
variable {s : State} {c : Fin 8} {t : Byte} {k : Fin 8} {r : BitVec 5} {cr : BitVec 12}

theorem gives_brd (h : Ready s c t k) (hk : 6 ≤ k.val) (h1 : 1 ≤ cr.toNat) (h33 : cr.toNat ≤ 33)
    (hx : ∀ u ∈ s.cores[c].xq, u.level ≠ s.cores[c].bankwin)
    (hg : cr.toNat < 32 → s.cores[c].banks[s.cores[c].bankwin].bad.getLsbD cr.toNat = false) :
    Rule.Gives (.brd c r cr) s (Rule.withCore s c (Rule.counted s.cores[c] k (Rule.result (Rule.bank s c k) r
      (if s.cores[c].banks[s.cores[c].bankwin].occ.isSome then windowValue s.cores[c].banks[s.cores[c].bankwin] cr
       else 0)))) := by
  have hp : windowPending s.cores[c.val] cr.toNat = false := windowPending_of_still hx
  have hb := (windowBad_iff _ h1).2 hg
  simp only [Fin.getElem_fin] at hb
  refine gives_runInstr (u := s) h rfl ?_
  simp only [getCore_fin, windowFault_high hk h1 h33, hp, getBank, vget_fin, Fin.getElem_fin, hb, bankNow_eq, result_eq,
    bankRead_eq _ h1, Bool.false_eq_true, if_false]

theorem ends_brd_bad (h : Ready s c t k) (hk : k = 6) (hbound : Rule.Bound s.cores[c] k) (h1 : 1 ≤ cr.toNat)
    (h33 : cr.toNat ≤ 33) (hx : ∀ u ∈ s.cores[c].xq, u.level ≠ s.cores[c].bankwin)
    (hg : ¬ (cr.toNat < 32 → s.cores[c].banks[s.cores[c].bankwin].bad.getLsbD cr.toNat = false)) :
    Rule.Ends (.brd c r cr) s fun u => Rule.Faulted s u c k t ccParity 0 0 := by
  have hp : windowPending s.cores[c.val] cr.toNat = false := windowPending_of_still hx
  have hb := Bool.not_eq_false _ ▸ mt (windowBad_iff _ h1).1 hg
  simp only [Fin.getElem_fin] at hb
  subst hk
  refine ends_fault (a := 0) (half := 0) (u := s) h (by decide) hbound rfl ?_ (.refl s c)
  simp only [getCore_fin, windowFault_high (by decide : 6 ≤ ((6 : Fin 8)).val) h1 h33, hp, getBank, vget_fin,
    Fin.getElem_fin, hb, Bool.false_eq_true, if_false, if_true]

theorem ends_bwr_monitor (h : Ready s c t k) (hk : k = 6) (hj : s.cores[c].bankwin = 7) (hbound : Rule.Bound s.cores[c] k)
    (h1 : 1 ≤ cr.toNat) (h33 : cr.toNat ≤ 33) :
    Rule.Ends (.bwr c r cr) s fun u => Rule.Faulted s u c k t ccPriv 0 0 := by
  have hj' : s.cores[c.val].bankwin = 7 := hj
  subst hk
  refine ends_fault (a := 0) (half := 0) (u := s) h (by decide) hbound rfl ?_ (.refl s c)
  simp only [getCore_fin, windowFault_high (by decide : 6 ≤ ((6 : Fin 8)).val) h1 h33, hj']
  rfl

/-- The core after BWR at level k: to a bank without an occupant, to its own, and to another. -/
def afterBwr (x : Core) (k : Fin 8) (cr : BitVec 12) (w : Word) : Core :=
  if x.banks[x.bankwin].occ = none then Rule.counted x k (Rule.onward x.banks[k])
  else if x.bankwin = k then Rule.counted x k
    (if cr.toNat = 32 then windowPut x.banks[k] cr w else Rule.onward (windowPut x.banks[k] cr w))
  else Rule.counted { x with banks := x.banks.set x.bankwin.val (windowPut x.banks[x.bankwin] cr w) } k
    (Rule.onward x.banks[k])

theorem gives_bwr (h : Ready s c t k) (hk : 6 ≤ k.val) (h1 : 1 ≤ cr.toNat) (h33 : cr.toNat ≤ 33)
    (hx : ∀ u ∈ s.cores[c].xq, u.level ≠ s.cores[c].bankwin) (hj : ¬ (k = 6 ∧ s.cores[c].bankwin = 7)) :
    Rule.Gives (.bwr c r cr) s
      (Rule.withCore s c (afterBwr s.cores[c] k cr (Rule.reg (Rule.bank s c k) r))) := by
  have hp : windowPending s.cores[c.val] cr.toNat = false := windowPending_of_still hx
  have hn : (k.val == 6 && s.cores[c.val].bankwin.val == 7) = false := by
    simp only [Fin.getElem_fin, Fin.ext_iff] at hj
    simpa using hj
  refine gives_of_next rfl ?_
  rw [runInstr_ready h]
  simp only [getCore_fin, windowFault_high hk h1 h33, hn, hp, bankNow_eq, reg_eq, getBank, vget_fin, Bool.false_eq_true,
    if_false, bankWrite_eq, advance_eq]
  unfold afterBwr
  by_cases ho : s.cores[c].banks[s.cores[c].bankwin].occ = none
  · have ho' : s.cores[c.val].banks[s.cores[c.val].bankwin].occ.isNone = true := Option.isNone_iff_eq_none.2 ho
    rw [if_pos ho, if_pos ho']
    exact endInstr_done ..
  · have ho' : ¬ s.cores[c.val].banks[s.cores[c.val].bankwin].occ.isNone = true := mt Option.isNone_iff_eq_none.1 ho
    rw [if_neg ho, if_neg ho']
    by_cases hw : s.cores[c].bankwin = k
    · have hw' : (s.cores[c.val].bankwin.val == k.val) = true := beq_iff_eq.2 (congrArg Fin.val hw)
      rw [if_pos hw, if_pos hw', endInstr_done, commit_eq]
      by_cases h32 : cr.toNat = 32
      · rw [if_pos h32, if_pos (beq_iff_eq.2 h32), ← h32, bankWrite_eq]
        rfl
      · rw [if_neg h32, if_neg (mt beq_iff_eq.1 h32)]
        rfl
    · have hw' : ¬ (s.cores[c.val].bankwin.val == k.val) = true := fun e => hw (Fin.ext (beq_iff_eq.1 e))
      rw [if_neg hw, if_neg hw', endInstr_done, modCore_eq_withCore, commit_withCore]
      exact congrArg (fun y => Rule.withCore s c (Rule.counted y k (Rule.onward (Rule.bank s c k)))) (modBank_fin ..)

/-- What the window writes to the bank of its own level: the PC moves on, unless it is what is written. -/
theorem windowPut_own (v : Bank) (cr : BitVec 12) (w : Word) :
    (if cr.toNat = 32 then windowPut v cr w else Rule.onward (windowPut v cr w)) =
      if cr.toNat < 32 then Rule.onward (Rule.put v (cr.setWidth 5) w)
      else if cr.toNat = 32 then { v with pc := w.extractLsb' 0 48 &&& 0xFFFFFFFFFFFC }
      else Rule.onward { v with cs := w.extractLsb' 0 13 &&& 0x1F3F } := by
  unfold windowPut
  grind

end

/-- Settles O32: FENCE and TLBI by the stores that are out, the bank window by the bank that it shows. -/
theorem orderingAndWindows : Obligations.OrderingAndWindows := by
  intro s c t k h _ x v goes waitsFor
  refine ⟨fun hs hr => ?_, fun hk a he => ?_, fun hk r cr h1 h33 => ?_⟩
  · have hg := gives_fence h hs hr
    refine ⟨fun hw => ?_, fun hw => ?_⟩
    · rwa [if_neg (mt storesOut_iff.1 hw)] at hg
    · rwa [if_pos (storesOut_iff.2 hw)] at hg
  · intro ctx va after done page
    have hi : ∀ {i : Instr} {variant : Nat}, effect i s = runTlbi c variant a s →
        (done variant → Rule.Ends i s (after variant (covers variant ctx va))) ∧ (¬ done variant → Rule.Gives i s s) := by
      intro i variant hv
      obtain ⟨hd, hn⟩ := gives_tlbi h hk he hv
      refine ⟨fun hdone => ?_, hn⟩
      obtain ⟨u, hu, ⟨hmem, hdq, hfl⟩, hxlat, hl1, hbank⟩ := hd hdone
      exact ⟨u, hu, hmem, hdq, hfl, hxlat, hl1, hbank⟩
    obtain ⟨h0, h0'⟩ := hi (i := .tlbiAddress c a) (variant := 0) rfl
    obtain ⟨h1, h1'⟩ := hi (i := .tlbiAddressWalker c a) (variant := 1) rfl
    obtain ⟨h2, h2'⟩ := hi (i := .tlbiContext c a) (variant := 2) rfl
    obtain ⟨h3, h3'⟩ := hi (i := .tlbiBlock c a) (variant := 3) rfl
    exact ⟨h0, h0', h1, h1', h2, h2', h3, h3'⟩
  · intro j hx value w good
    have hbwr := gives_bwr (r := r) h hk h1 h33 hx
    refine ⟨fun hg => gives_brd h hk h1 h33 hx hg, fun hg h6 hb => ends_brd_bad h h6 hb h1 h33 hx hg,
      fun h6 hj hb => ends_bwr_monitor h h6 hj hb h1 h33, fun hj ho => ?_, fun hj ho hne => ?_, fun hj ho hjk => ?_⟩
    · have hg := hbwr hj
      rwa [afterBwr, if_pos ho] at hg
    · have hg := hbwr hj
      rwa [afterBwr, if_neg (Option.isSome_iff_ne_none.1 ho), if_neg hne] at hg
    · have hg := hbwr hj
      have hv : s.cores[c].banks[s.cores[c].bankwin].occ ≠ none :=
        (congrArg (fun i : Fin 8 => s.cores[c].banks[i].occ) hjk).trans_ne (Option.isSome_iff_ne_none.1 ho)
      rw [afterBwr, if_neg hv, if_pos hjk, windowPut_own] at hg
      exact hg

end Sys2Proof.Machine

/-! SUPPORT. What reads, walks and writes of memory leave of the cores, and of the stores of the cores that wait at the memory
ports (09:R275, R276; 12:R340, R352; 15:R425). -/

namespace Sys2Proof.Machine

/-! The cores, and their stores at the ports. -/

def isCoreStore (r : PortReq) : Bool :=
  match r.waiter with
  | .coreStore _ => r.write
  | _ => false

/-- The stores of cores that a port has not acknowledged. -/
def coreStores (m : Memp) : List PortReq := (m.out ++ m.waiting).filter isCoreStore

/-- The cores, and their stores at the ports. -/
def coreView (s : State) : Vector Core 8 × List PortReq := (s.cores, coreStores s.memp)

theorem storesPosted_eq (c : Fin 8) (s : State) :
    storesPosted c s = ((coreStores s.memp).filter fun r => r.waiter == .coreStore c).flatMap (·.old) := by
  rw [coreStores, List.filter_filter, storesPosted]
  congr 2
  funext r
  unfold isCoreStore
  cases hw : r.waiter with
  | coreStore d => exact Bool.and_comm ..
  | _ => simp

/-! Requests at the ports (15:R425). -/

theorem postReq_cores (u : Nat) (w : Bool) (x : Waiter) (o : List Host.Cell) (s : State) :
    (postReq u w x o s).cores = s.cores := by
  unfold postReq
  dsimp only
  split <;> rfl

/-- A request that is not the store of a core. -/
theorem coreView_postReq {w : Bool} {x : Waiter} (h : ∀ p t u o, isCoreStore ⟨p, t, u, w, x, o⟩ = false) (u : Nat)
    (o : List Host.Cell) (s : State) : coreView (postReq u w x o s) = coreView s := by
  refine Prod.ext (postReq_cores ..) ?_
  unfold postReq
  dsimp only
  split
  · simp [coreView, coreStores, presentReq, h]
  · simp [coreView, coreStores, h]

theorem coreView_countMemCe (pa : Nat) (s : State) : coreView (countMemCe pa s) = coreView s := by
  simp only [countMemCe, firstInBeat]
  split <;> rfl

theorem coreView_readPortUnit (u : Nat) (s : State) : coreView (readPortUnit u s).2 = coreView s := by
  unfold readPortUnit
  split
  · rfl
  · dsimp only
    split
    · rfl
    · split
      · exact coreView_countMemCe ..
      · rfl

theorem coreView_readPortUnits (us : List Nat) (s : State) : coreView (readPortUnits us s).2 = coreView s := by
  induction us generalizing s with
  | nil => rfl
  | cons u us ih => exact (ih _).trans (coreView_readPortUnit u s)

/-! The block cache (12:R351 to R358). -/

theorem coreView_bcCount (h : Bool) (s : State) : coreView (bcCount h s) = coreView s := by cases h <;> rfl

theorem coreView_writeBack (l : BcLine) (s : State) : coreView (writeBack l s) = coreView s :=
  (coreView_postReq (fun _ _ _ _ => rfl) ..).trans (coreView_postReq (fun _ _ _ _ => rfl) ..)

theorem coreView_evictLine (l : BcLine) (s : State) : coreView (evictLine l s) = coreView s := by
  have hback : coreView (if l.dirty then writeBack l s else s) = coreView s := by
    split
    · exact coreView_writeBack l s
    · rfl
  unfold evictLine
  generalize (if l.dirty then writeBack l s else s) = t at hback
  dsimp only
  split <;> exact hback

theorem coreView_bcAlloc (line : Nat) (s : State) : coreView (bcAlloc line s).2 = coreView s := by
  unfold bcAlloc
  split
  · rfl
  · extract_lets inSet ways empty usable
    split
    · rfl
    · dsimp only
      split
      · exact coreView_evictLine ..
      · rfl

theorem coreView_readLine (al : Bool) (line : Nat) (us : List Nat) (s : State) :
    coreView (readLine al line us s).2 = coreView s := by
  unfold readLine
  split
  · split <;> exact coreView_bcCount true s
  · split
    · exact (coreView_bcAlloc ..).trans (coreView_bcCount true s)
    · have k := (coreView_readPortUnits us _).trans (coreView_bcCount false s)
      dsimp only
      split
      · exact k
      · have k := (coreView_readPortUnits ([line * 2, line * 2 + 1].filter fun u => !us.contains u) _).trans k
        dsimp only
        split
        · exact k
        · exact (coreView_bcAlloc ..).trans k

theorem coreView_readLines (al : Bool) (a n : Nat) (ls : List Nat) (s : State) :
    coreView (readLines al a n ls s).2 = coreView s := by
  induction ls generalizing s with
  | nil => rfl
  | cons l ls ih => exact (ih _).trans (coreView_readLine ..)

/-! Stage memory (08:R234 to R239; 14:R404, R405). -/

theorem coreView_programFuse (w : Nat) (b : BitVec 32) (s : State) : coreView (programFuse w b s) = coreView s := by
  unfold programFuse
  split <;> rfl

theorem coreView_programRetire (u : BitVec 16) (s : State) : coreView (programRetire u s) = coreView s := by
  unfold programRetire
  dsimp only
  split
  · exact coreView_programFuse ..
  · exact coreView_programFuse ..
  · exact coreView_programFuse ..
  · split
    · exact (coreView_programFuse ..).trans (coreView_programFuse ..)
    · exact coreView_programFuse ..
  · rfl

theorem coreView_nextCopy (s : State) : coreView (nextCopy s) = coreView s := by
  unfold nextCopy
  split
  · rfl
  · split
    · split <;> rfl
    · rfl

theorem coreView_bankToSpare (b : Nat) (s : State) : coreView (bankToSpare b s) = coreView s := by
  unfold bankToSpare
  split
  · rfl
  · split
    · exact coreView_nextCopy _
    · rfl

theorem coreView_retireBank (b : Nat) (cause : BitVec 16) (n : Nat) (s : State) :
    coreView (retireBank b cause n s) = coreView s :=
  (coreView_programRetire ..).trans (coreView_bankToSpare ..)

theorem coreView_smWindow (b : Nat) (s : State) : coreView (smWindow b s) = coreView s := by
  unfold smWindow
  dsimp only
  split
  · exact coreView_retireBank ..
  · rfl

theorem coreView_countSmCe (pa : Nat) (s : State) : coreView (countSmCe pa s) = coreView s := by
  refine (coreView_smWindow ..).trans ?_
  simp only [firstInBeat]
  split <;> rfl

theorem coreView_readSmWord (w : Nat) (s : State) : coreView (readSmWord w s).2 = coreView s := by
  unfold readSmWord
  split
  · rfl
  · split
    · exact coreView_countSmCe ..
    · rfl

theorem coreView_readSmWords (ws : List Nat) (s : State) : coreView (readSmWords ws s).2 = coreView s := by
  induction ws generalizing s with
  | nil => rfl
  | cons w ws ih => exact (ih _).trans (coreView_readSmWord w s)

/-- A read that is answered at once. -/
theorem coreView_readAccess (al : Bool) (pa n : Nat) (s : State) : coreView (readAccess al pa n s).2 = coreView s := by
  unfold readAccess
  split
  · exact coreView_readLines ..
  · exact coreView_readSmWords ..
  · rfl

/-! Translations (12:R340, R343). -/

theorem coreView_walkRead (a : BitVec 3) (pa : Nat) (s : State) : coreView (walkRead a pa s).2 = coreView s := by
  have k := coreView_readAccess (a == attrWB || a == attrWT) pa 8 s
  unfold walkRead
  dsimp only
  split <;> exact k

theorem coreView_insertAt {α : Type} (n : Nat) (x : α) (l : List α) (s : State) :
    coreView (insertAt n x l s).2 = coreView s := by
  unfold insertAt
  split <;> rfl

theorem coreView_walkLevels (ctx : BitVec 16) (va : Nat) (ls : List Nat) (p : Word) (s : State) :
    coreView (walkLevels ctx va ls p s).2 = coreView s := by
  induction ls generalizing p s with
  | nil => rfl
  | cons l ls ih =>
    have k := coreView_walkRead (eAttr p) (eBase p + 8 * vaIndex va l) s
    rw [walkLevels]
    split
    · rfl
    · split
      · rfl
      · split
        next h => rwa [h] at k
        next e t h =>
          rw [h] at k
          split
          · refine (ih ..).trans ?_
            split
            · exact (coreView_insertAt ..).trans k
            · exact k
          · split <;> exact k

theorem coreView_walkEnd (ctx : BitVec 16) (va : Nat) (acc : Access) (k : Nat) (r : Except (BitVec 16) (Nat × Word))
    (s : State) : coreView (walkEnd ctx va acc k r s).2.2 = coreView s := by
  unfold walkEnd
  split
  · rfl
  · dsimp only
    split
    · dsimp only
      split
      · exact coreView_insertAt ..
      · rfl
    · rfl

/-- A walk for a core. -/
theorem coreView_walk (c : Fin 8) (ctx : BitVec 16) (va : Nat) (acc : Access) (k : Nat) (s : State) :
    coreView (walk (.core c) ctx va acc k s).2.2 = coreView s := by
  have hfind : coreView (walkFind (.core c) ctx va s).2 = coreView s := by
    unfold walkFind
    split
    · exact coreView_walkLevels ..
    · exact coreView_walkLevels ..
  unfold walk
  split
  · rfl
  · exact (coreView_walkEnd ..).trans hfind

/-- From s to t the L1 TLB of core c alone has changed, of the cores and their stores. -/
structure Translated (c : Fin 8) (s t : State) : Prop where
  cores  : ∃ l, t.cores = s.cores.set c.val { s.cores[c] with l1tlb := l }
  stores : coreStores t.memp = coreStores s.memp

theorem Translated.of_view {c : Fin 8} {s t : State} (h : coreView t = coreView s) : Translated c s t :=
  ⟨⟨s.cores[c].l1tlb, (congrArg Prod.fst h).trans (Vector.set_getElem_self c.isLt).symm⟩, congrArg Prod.snd h⟩

theorem translated_fillL1Tlb {c : Fin 8} {s t : State} (h : coreView t = coreView s) (e : TlbEntry) :
    Translated c s (fillL1Tlb c e t) := by
  have hi := (coreView_insertAt 64 e ((getCore t c).l1tlb.filter fun x => !tlbMatch e.ctx e.vbase x) t).trans h
  have hc : (insertAt 64 e ((getCore t c).l1tlb.filter fun x => !tlbMatch e.ctx e.vbase x) t).2.cores = s.cores :=
    congrArg Prod.fst hi
  exact ⟨⟨_, by simp only [fillL1Tlb, modCore_fin, hc]; rfl⟩, congrArg Prod.snd hi⟩

theorem translated_coreWalk (c : Fin 8) (ctx : BitVec 16) (va : Nat) (acc : Access) (k : Nat) (s : State) :
    Translated c s (match (walk (.core c) ctx va acc k s).2.1 with
      | some e => if eA e.leaf then fillL1Tlb c e (walk (.core c) ctx va acc k s).2.2 else (walk (.core c) ctx va acc k s).2.2
      | none => (walk (.core c) ctx va acc k s).2.2) := by
  have h := coreView_walk c ctx va acc k s
  split
  · split
    · exact translated_fillL1Tlb h _
    · exact .of_view h
  · exact .of_view h

/-- A translation for a core. -/
theorem translated_xlatCore (c : Fin 8) (va : Nat) (acc : Access) (k : Nat) (s : State) :
    Translated c s (xlatCore c va acc k s).2 := by
  unfold xlatCore
  split
  · exact .of_view rfl
  · dsimp only
    split
    · exact .of_view rfl
    · split
      · split
        · exact translated_fillL1Tlb rfl _
        · split
          · exact .of_view rfl
          · exact translated_coreWalk ..
      · split
        · exact .of_view rfl
        · exact translated_coreWalk ..

end Sys2Proof.Machine

/-! SUPPORT. Accesses of a control core: what its reads and translations leave, and what the writes of its stores leave and put
into memory (09:R273 to R276; 12:R352, R358). -/

namespace Sys2Proof.Machine

open Rule (Ready)

/-! Writes leave the cores, the queues and the flags. -/

structure Spared (s t : State) : Prop where
  cores : t.cores = s.cores
  dq    : t.dq = s.dq
  flags : t.flags = s.flags

theorem Spared.refl (s : State) : Spared s s := ⟨rfl, rfl, rfl⟩

theorem Spared.trans {s t u : State} (h : Spared s t) (k : Spared t u) : Spared s u :=
  ⟨k.cores.trans h.cores, k.dq.trans h.dq, k.flags.trans h.flags⟩

theorem Spared.of_kept {s t : State} (h : Kept s t) (hc : coreView t = coreView s) : Spared s t :=
  ⟨congrArg Prod.fst hc, h.dq, h.flags⟩

theorem spared_portWrite (w : Waiter) (u : Nat) (cs : List Host.Cell) (s : State) : Spared s (portWrite w u cs s) :=
  ⟨postReq_cores .., (kept_portWrite w u cs s).dq, (kept_portWrite w u cs s).flags⟩

theorem spared_storeUnit (u : Nat) (cs : List Host.Cell) (s : State) : Spared s (storeUnit u cs s) := by
  unfold storeUnit
  dsimp only
  split <;> exact ⟨rfl, rfl, rfl⟩

theorem spared_markDirty (line : Nat) (s : State) : Spared s (markDirty line s) := ⟨rfl, rfl, rfl⟩

theorem spared_bcAlloc (line : Nat) (s : State) : Spared s (bcAlloc line s).2 :=
  .of_kept (kept_bcAlloc line s) (coreView_bcAlloc line s)

theorem spared_placeWrite (w : Waiter) (u : Nat) (cs : List Host.Cell) (x : Bool × State) :
    Spared x.2 (placeWrite w u cs x) := by
  unfold placeWrite
  split
  · exact (spared_markDirty _ _).trans (spared_storeUnit ..)
  · have hv : Spared x.2 { x.2 with bc := { x.2.bc with victim := x.2.bc.victim.erase (u / 2) } } := ⟨rfl, rfl, rfl⟩
    exact (hv.trans (spared_portWrite ..)).trans (spared_storeUnit ..)

theorem spared_writeUnit (al th : Bool) (w : Waiter) (u : Nat) (cs : List Host.Cell) (s : State) :
    Spared s (writeUnit al th w u cs s) := by
  have hc : Spared s (bcCount ((bcFind s (u / 2)).isSome || s.bc.victim.contains (u / 2)) s) :=
    .of_kept (kept_bcCount ..) (coreView_bcCount ..)
  refine hc.trans ?_
  unfold writeUnit
  dsimp only
  generalize bcCount ((bcFind s (u / 2)).isSome || s.bc.victim.contains (u / 2)) s = t
  split
  · refine Spared.trans ?_ ((spared_portWrite w u cs _).trans (spared_storeUnit u cs _))
    split
    · exact spared_bcAlloc ..
    · exact .refl t
  · split
    · exact (spared_markDirty ..).trans (spared_storeUnit ..)
    · split
      · have hread : Spared t (if s.bc.victim.contains (u / 2) = true then (ReadStat.clean, t)
            else readPortUnits [u / 2 * 2, u / 2 * 2 + 1] t).2 := by
          split
          · exact .refl t
          · exact .of_kept (kept_readPortUnits ..) (coreView_readPortUnits ..)
        generalize (if s.bc.victim.contains (u / 2) = true then (ReadStat.clean, t)
          else readPortUnits [u / 2 * 2, u / 2 * 2 + 1] t) = x at hread ⊢
        have halloc : Spared x.2 (if (x.1 == .uncorrectable) = true then (false, x.2) else bcAlloc (u / 2) x.2).2 := by
          split
          · exact .refl x.2
          · exact spared_bcAlloc ..
        exact (hread.trans halloc).trans (spared_placeWrite w u cs _)
      · exact (spared_portWrite ..).trans (spared_storeUnit ..)

theorem spared_writeUnits (al th : Bool) (w : Waiter) (gs : List (List Host.Cell)) (s : State) :
    Spared s (writeUnits al th w gs s) := by
  induction gs generalizing s with
  | nil => exact .refl s
  | cons g gs ih => exact (spared_writeUnit ..).trans (ih _)

theorem spared_writeSmWord (word : Nat) (cs : List Host.Cell) (s : State) : Spared s (writeSmWord word cs s).2 := by
  have store (t : State) : Spared t (storeSmWord word cs t) := ⟨rfl, rfl, rfl⟩
  have hread : Spared s (readSmWord word s).2 := .of_kept (kept_readSmWord word s) (coreView_readSmWord word s)
  unfold writeSmWord
  split
  · exact store s
  · split
    next h => rwa [h] at hread
    next h => rw [h] at hread; exact hread.trans (store _)

theorem spared_writeSmGroups (gs : List (List Host.Cell)) (s : State) : Spared s (writeSmGroups gs s).2 := by
  induction gs generalizing s with
  | nil => exact .refl s
  | cons g gs ih => exact (spared_writeSmWord _ g s).trans (ih _)

/-- A write of bytes. -/
theorem spared_writeAccess (al th : Bool) (w : Waiter) (cs : List Host.Cell) (s : State) :
    Spared s (writeAccess al th w cs s).2 :=
  (show Spared s (mendLines (extCells s cs) s) from ⟨rfl, rfl, rfl⟩).trans
    ((spared_writeUnits al th w (groupCells 64 (extCells s cs)) _).trans (spared_writeSmGroups ..))

/-! A line that is written whole with zeros (12:R358). -/

/-- The cells of a line of zeros. -/
def zeroCells (line : Nat) : List Host.Cell := cellsAt (line * 128) (List.replicate 128 0)

theorem zeroLine_writes {s : State} {line : Nat} (h : Rule.Writable s (zeroCells line)) (wb : Bool) (w : Waiter) :
    EngineWrote s (zeroLine wb w line s) (zeroCells line) ∧ Spared s (zeroLine wb w line s) := by
  have through : ∀ t, Kept s t → Spared s t → EngineWrote s (writeAccess false true w (zeroCells line) t).2 (zeroCells line) ∧
      Spared s (writeAccess false true w (zeroCells line) t).2 := by
    intro t hk hs
    have hw := EngineWrote.of_kept hk
    exact ⟨hw.trans (writeAccess_engineWrote (writable_of_engineWrote hw h) false true w).2,
      hs.trans (spared_writeAccess ..)⟩
  unfold zeroLine
  dsimp only
  split
  · have halloc : Kept s (if (bcFind s line).isSome = true then (true, s) else bcAlloc line s).2 ∧
        Spared s (if (bcFind s line).isSome = true then (true, s) else bcAlloc line s).2 := by
      split
      · exact ⟨.refl s, .refl s⟩
      · exact ⟨kept_bcAlloc .., spared_bcAlloc ..⟩
    generalize (if (bcFind s line).isSome = true then (true, s) else bcAlloc line s) = x at halloc ⊢
    obtain ⟨hk, hs⟩ := halloc
    split
    · have hy : Kept s (mendLines (zeroCells line) (markDirty line x.2)) :=
        (hk.trans (kept_markDirty ..)).trans (kept_bc ..)
      have hsy : Spared s (mendLines (zeroCells line) (markDirty line x.2)) := hs.trans ⟨rfl, rfl, rfl⟩
      have hfirst := hy.store (line * 2) ((zeroCells line).take 64)
      have hboth := hfirst.trans (wrote_storeUnit (line * 2 + 1) ((zeroCells line).drop 64) _)
      rw [hfirst.mem, ← Memory.puts_append, List.take_append_drop] at hboth
      exact ⟨.of_wrote hboth, hsy.trans ((spared_storeUnit ..).trans (spared_storeUnit ..))⟩
    · exact through x.2 hk hs
  · exact through s (.refl s) (.refl s)

/-! What a core's accesses leave. -/

/-- Of the cores, the queues and the flags an access of core c changes the L1 TLB and the L1 data cache of c. -/
structure Quiet (c : Fin 8) (s t : State) : Prop where
  cores : ∃ l d, t.cores = s.cores.set c.val { s.cores[c] with l1tlb := l, l1d := d }
  dq    : t.dq = s.dq
  flags : t.flags = s.flags

/-- The access is a read or a translation: memory and the stores at the ports are as they were. -/
structure Looked (c : Fin 8) (s t : State) : Prop extends Quiet c s t where
  stores : coreStores t.memp = coreStores s.memp
  mem    : t.mem = s.mem
  gen    : t.gen = s.gen
  region : region t = region s
  words  : t.sm.ueWords = s.sm.ueWords

section
variable {c : Fin 8} {s t u : State}

theorem Quiet.trans (h : Quiet c s t) (k : Quiet c t u) : Quiet c s u where
  cores := by
    obtain ⟨l, d, ht⟩ := h.cores
    obtain ⟨l', d', hu⟩ := k.cores
    exact ⟨l', d', by simp [hu, ht]⟩
  dq := k.dq.trans h.dq
  flags := k.flags.trans h.flags

theorem Quiet.of_spared (h : Spared s t) : Quiet c s t :=
  ⟨⟨s.cores[c].l1tlb, s.cores[c].l1d, h.cores.trans (Vector.set_getElem_self c.isLt).symm⟩, h.dq, h.flags⟩

/-- What depends on neither its L1 TLB nor its L1 data cache is as it was. -/
theorem Quiet.field {α : Type} (h : Quiet c s t) (f : Core → α)
    (hf : ∀ x l d, f { x with l1tlb := l, l1d := d } = f x) : f t.cores[c] = f s.cores[c] := by
  obtain ⟨l, d, ht⟩ := h.cores
  have hc : t.cores[c] = { s.cores[c] with l1tlb := l, l1d := d } := by simp [ht]
  rw [hc, hf]

theorem Quiet.other (h : Quiet c s t) {j : Fin 8} (hj : j ≠ c) : t.cores[j] = s.cores[j] := by
  obtain ⟨l, d, ht⟩ := h.cores
  have hv : c.val ≠ j.val := fun e => hj (Fin.ext e.symm)
  simp [ht, hv]

theorem Quiet.sb (h : Quiet c s t) : t.cores[c].sb = s.cores[c].sb := h.field _ fun _ _ _ => rfl
theorem Quiet.rows (h : Quiet c s t) : t.cores[c].rows = s.cores[c].rows := h.field _ fun _ _ _ => rfl
theorem Quiet.l1bad (h : Quiet c s t) : t.cores[c].l1bad = s.cores[c].l1bad := h.field _ fun _ _ _ => rfl
theorem Quiet.alchk (h : Quiet c s t) : t.cores[c].alchk = s.cores[c].alchk := h.field _ fun _ _ _ => rfl
theorem Quiet.banks (h : Quiet c s t) : t.cores[c].banks = s.cores[c].banks := h.field _ fun _ _ _ => rfl

theorem Quiet.bank (h : Quiet c s t) (k : Fin 8) : Rule.bank t c k = Rule.bank s c k :=
  congrArg (fun v : Vector Bank 8 => v[k]) h.banks

/-- An instruction commits after its accesses, with a core that differs in what a commit is not about. -/
theorem Quiet.committed_core (h : Quiet c s t) (k : Fin 8) (b : Bank) {y : Core} (hbanks : y.banks = t.cores[c].banks)
    (hcount : y.instret = t.cores[c].instret) (htasks : y.tasks = t.cores[c].tasks) (hrun : y.running = t.cores[c].running)
    (htiles : y.tiles = t.cores[c].tiles) : Rule.Committed s (Rule.withCore t c (Rule.counted y k b)) c k b := by
  refine ⟨?_, ?_, ?_, ?_, ?_, ⟨fun j hj => (withCore_other t _ hj).trans (h.other hj), h.dq, h.flags⟩⟩
  · exact (congrArg Core.banks (core_withCore ..)).trans (congrArg (fun v : Vector Bank 8 => v.set k.val b) (hbanks.trans h.banks))
  · exact (congrArg Core.instret (core_withCore ..)).trans
      (congrArg (· + 1) (hcount.trans (h.field Core.instret fun _ _ _ => rfl)))
  · exact (congrArg Core.tasks (core_withCore ..)).trans (htasks.trans (h.field Core.tasks fun _ _ _ => rfl))
  · exact (congrArg Core.running (core_withCore ..)).trans (hrun.trans (h.field Core.running fun _ _ _ => rfl))
  · exact (congrArg Core.tiles (core_withCore ..)).trans (htiles.trans (h.field Core.tiles fun _ _ _ => rfl))

/-- An instruction commits after its accesses. -/
theorem Quiet.committed (h : Quiet c s t) (k : Fin 8) (b : Bank) : Rule.Committed s (Rule.commit t c k b) c k b :=
  h.committed_core k b rfl rfl rfl rfl rfl

theorem Looked.refl (c : Fin 8) (s : State) : Looked c s s := ⟨.of_spared (.refl s), rfl, rfl, rfl, rfl, rfl⟩

theorem Looked.trans (h : Looked c s t) (k : Looked c t u) : Looked c s u where
  toQuiet := h.toQuiet.trans k.toQuiet
  stores := k.stores.trans h.stores
  mem := k.mem.trans h.mem
  gen := k.gen.trans h.gen
  region := k.region.trans h.region
  words := k.words.trans h.words

theorem Looked.of_kept (h : Kept s t) (hc : ∃ l d, t.cores = s.cores.set c.val { s.cores[c] with l1tlb := l, l1d := d })
    (hs : coreStores t.memp = coreStores s.memp) : Looked c s t :=
  ⟨⟨hc, h.dq, h.flags⟩, hs, h.mem, h.gen, region_of_kept h, ueWords_of_kept h⟩

theorem Looked.of_view (h : Kept s t) (hv : coreView t = coreView s) : Looked c s t := by
  obtain ⟨⟨l, hl⟩, hs⟩ := Translated.of_view (c := c) hv
  exact .of_kept h ⟨l, _, hl⟩ hs

theorem looked_xlatCore (c : Fin 8) (va : Nat) (acc : Access) (k : Nat) (s : State) :
    Looked c s (xlatCore c va acc k s).2 := by
  obtain ⟨⟨l, hl⟩, hs⟩ := translated_xlatCore c va acc k s
  exact .of_kept (kept_xlatCore ..) ⟨l, _, hl⟩ hs

theorem looked_readAccess (c : Fin 8) (al : Bool) (pa n : Nat) (s : State) : Looked c s (readAccess al pa n s).2 :=
  .of_view (kept_readAccess ..) (coreView_readAccess ..)

theorem looked_l1d (c : Fin 8) (l : List Nat) (s : State) : Looked c s (modCore c (fun x => { x with l1d := l }) s) :=
  ⟨⟨⟨s.cores[c].l1tlb, l, congrArg State.cores (modCore_eq_withCore s c _)⟩, rfl, rfl⟩, rfl, rfl, rfl, rfl, rfl⟩

theorem looked_l1Fill (c : Fin 8) (pa : Nat) (s : State) : Looked c s (l1Fill c.val pa s) :=
  (Looked.of_view (kept_insertAt ..) (coreView_insertAt ..)).trans (looked_l1d c _ _)

/-- A read of core c. -/
theorem looked_coreRead (c : Fin 8) (attr : BitVec 3) (pa n : Nat) (s : State) :
    Looked c s (coreRead c.val attr pa n s).2 := by
  have hr := looked_readAccess c (attrCached attr) pa n s
  unfold coreRead
  split
  · exact .refl c s
  · dsimp only
    split
    · exact hr.trans (looked_l1Fill ..)
    · exact hr

theorem Looked.sameTask (h : Looked c s t) : SameTask s t c :=
  ⟨h.field Core.running fun _ _ _ => rfl, h.banks, h.field Core.tasks fun _ _ _ => rfl, h.field Core.frec fun _ _ _ => rfl,
    h.field Core.halted fun _ _ _ => rfl, h.field Core.instret fun _ _ _ => rfl, h.mem⟩

theorem Looked.noMismatch (h : Looked c s t) (hm : Rule.NoMismatch s) : Rule.NoMismatch t := by
  rwa [Rule.NoMismatch, h.gen]

theorem Looked.writable (h : Looked c s t) {cs : List Host.Cell} (hw : Rule.Writable s cs) : Rule.Writable t cs := by
  rwa [Rule.Writable, h.region, h.words]

end

/-- Whether bytes can be written depends on where they go, not on what they are. -/
theorem writable_cellsAt {s : State} {pa : Nat} {bs cs : List Byte} (h : Rule.Writable s (cellsAt pa bs))
    (hl : cs.length = bs.length) : Rule.Writable s (cellsAt pa cs) := by
  induction bs generalizing pa cs with
  | nil => rwa [List.eq_nil_of_length_eq_zero hl]
  | cons b bs ih =>
    obtain _ | ⟨x, cs⟩ := cs
    · cases hl
    · intro y hy
      rcases List.mem_cons.mp hy with rfl | hy
      · exact h (pa, b) (List.mem_cons_self ..)
      · exact ih (fun z hz => h z (List.mem_cons_of_mem _ hz)) (Nat.succ.inj hl) y hy

/-! Where no register holds a mismatch no access waits for the ports (13:R388). -/

theorem portWaits_of_noMismatch {s : State} (h : Rule.NoMismatch s) (pa n : Nat) : portWaits s pa n = false := by
  simp [portWaits, mempHeld, parityHeld, h.1]

end Sys2Proof.Machine

/-! SUPPORT. O30: the values of loads and atomics, and the atomics of a control core (09:R262, R266, R267). -/

namespace Sys2Proof.Machine

open Rule (Ready ofInt low sgn)

/-! Signed numbers of some bytes. -/

theorem w64_sub (v m : Nat) : w64 v - w64 m = ofInt ((v : Int) - m) := by
  rw [ofInt, Int.sub_eq_add_neg, BitVec.ofInt_add, BitVec.ofInt_neg, BitVec.ofInt_natCast, BitVec.ofInt_natCast,
    BitVec.sub_eq_add_neg]
  rfl

theorem leNat_lt_two_pow (bs : List Byte) : leNat bs < 2 ^ (8 * bs.length) := by
  induction bs with
  | nil => exact Nat.one_pos
  | cons b bs ih =>
    have hb := b.isLt
    rw [List.length_cons, Nat.mul_succ, Nat.pow_add, leNat]
    omega

/-- A value sign-extended is its signed number. -/
theorem extendLe_signed (n : Nat) (bs : List Byte) : extendLe true n bs = ofInt (sgn (8 * n) (leNat bs)) := by
  unfold extendLe sgn
  by_cases h : 2 ^ (8 * n - 1) ≤ leNat bs
  · simp only [Bool.true_and, decide_eq_true_eq, if_pos h, w64_sub]
    push_cast
    rfl
  · simp only [Bool.true_and, decide_eq_true_eq, if_neg h]
    exact (BitVec.ofInt_natCast ..).symm

theorem two_pow_succ_int (m : Nat) : (2 : Int) ^ (m + 1) = 2 * ((2 ^ m : Nat) : Int) := by
  push_cast
  ring

theorem signedLow_eq_sgn {n : Nat} (hn : 0 < n) (a : Word) : Rule.signedLow n a = sgn n (a.toNat % 2 ^ n) := by
  obtain ⟨m, rfl⟩ := Nat.exists_eq_succ_of_ne_zero hn.ne'
  have hu : (a.toNat : Int) % 2 ^ (m + 1) = ((a.toNat % 2 ^ (m + 1) : Nat) : Int) := by
    push_cast
    rfl
  simp only [Rule.signedLow, sgn, Nat.succ_eq_add_one, Nat.add_sub_cancel, hu]
  simp only [two_pow_succ_int]
  generalize a.toNat % 2 ^ (m + 1) = u
  generalize 2 ^ m = q
  split <;> split <;> omega

/-- What a load makes of its bytes. -/
theorem extendLe_eq_loaded {n : Nat} (sext : Bool) {bs : List Byte} (hl : bs.length = n) (hn : 0 < n) (h8 : n ≤ 8) :
    extendLe sext n bs = Rule.loaded n sext bs := by
  cases sext with
  | false => simp [extendLe, Rule.loaded, w64, low]
  | true =>
    have hlt : leNat bs < 2 ^ (8 * n) := hl ▸ leNat_lt_two_pow bs
    have h64 : leNat bs < 2 ^ 64 := hlt.trans_le (Nat.pow_le_pow_right (by decide) (by omega))
    rw [extendLe_signed, Rule.loaded, if_pos rfl, signedLow_eq_sgn (by omega), low, BitVec.toNat_ofNat,
      Nat.mod_eq_of_lt h64, Nat.mod_eq_of_lt hlt]

theorem toInt_eq_sgn {n : Nat} (hn : 0 < n) (x : BitVec n) : x.toInt = sgn n x.toNat := by
  obtain ⟨m, rfl⟩ := Nat.exists_eq_succ_of_ne_zero hn.ne'
  simp only [BitVec.toInt_eq_toNat_cond, sgn, Nat.succ_eq_add_one, Nat.add_sub_cancel, Nat.cast_mul,
    pow_succ]
  generalize x.toNat = u
  push_cast
  generalize hq : (2 : Int) ^ m = q
  have : ((2 ^ m : Nat) : Int) = q := by
    push_cast
    exact hq
  split <;> split <;> omega

/-! What memory becomes (09:R266). -/

theorem slt_eq_sgn {n : Nat} (hn : 0 < n) (x y : BitVec n) : x.slt y = decide (sgn n x.toNat < sgn n y.toNat) := by
  rw [BitVec.slt, toInt_eq_sgn hn, toInt_eq_sgn hn]

/-- An atomic as the rule gives it, at n bits: of the old value, b and d. -/
theorem atomNew_toNat {c : Fin 8} {wide : Bool} {d a b : BitVec 5} {i : Instr} {f : Nat → Nat → Nat → Nat → Nat}
    (h : Rule.AtomCommand c wide d a b i f) : ∃ op : Atom, (∀ s, effect i s = runAtomic c op wide d a b s) ∧
      ∀ {n : Nat}, 0 < n → ∀ x y z : BitVec n, (atomNew op n x y z).toNat = f n x.toNat y.toNat z.toNat := by
  cases h with
  | add => exact ⟨.add, fun _ => rfl, fun _ x y z => BitVec.toNat_add x y⟩
  | swap => exact ⟨.swap, fun _ => rfl, fun _ x y z => rfl⟩
  | cas =>
    refine ⟨.cas, fun _ => rfl, fun _ x y z => ?_⟩
    simp only [atomNew, beq_iff_eq, BitVec.toNat_inj]
    split <;> rfl
  | and => exact ⟨.and, fun _ => rfl, fun _ x y z => BitVec.toNat_and x y⟩
  | or => exact ⟨.or, fun _ => rfl, fun _ x y z => BitVec.toNat_or x y⟩
  | max =>
    refine ⟨.max, fun _ => rfl, fun hn x y z => ?_⟩
    simp only [atomNew, slt_eq_sgn hn, decide_eq_true_eq]
    split <;> rfl
  | min =>
    refine ⟨.min, fun _ => rfl, fun hn x y z => ?_⟩
    simp only [atomNew, slt_eq_sgn hn, decide_eq_true_eq]
    split <;> rfl

theorem atomBytes_eq {f : Nat → Nat → Nat → Nat → Nat} {op : Atom}
    (hop : ∀ {n : Nat}, 0 < n → ∀ x y z : BitVec n, (atomNew op n x y z).toNat = f n x.toNat y.toNat z.toNat) {n : Nat}
    (hn : 0 < n) {old : Nat} (hold : old < 2 ^ (8 * n)) (y z : Word) :
    atomBytes op n old y z = natLe (f (8 * n) old (y.toNat % 2 ^ (8 * n)) (z.toNat % 2 ^ (8 * n))) n := by
  rw [atomBytes, hop (by omega), BitVec.toNat_ofNat, Nat.mod_eq_of_lt hold, BitVec.toNat_setWidth, BitVec.toNat_setWidth]

section
variable {s u : State} {c : Fin 8} {t : Byte} {k : Fin 8} {wide : Bool} {d a b : BitVec 5} {op : Atom} {n : Nat}

theorem coreAtomic_misaligned (hn : n = if wide then 8 else 4) (ha : (Rule.reg (Rule.bank s c k) a).toNat % n ≠ 0) :
    coreAtomic c op wide d a b k.val s = (.fault ccIllegal (Rule.reg (Rule.bank s c k) a).toNat 0, s) := by
  subst hn
  simp only [coreAtomic, bankNow_eq, reg_eq]
  exact if_pos (by simpa using ha)

/-- An aligned atomic on memory whose bytes can be read: it writes, and answers with the old value. -/
theorem coreAtomic_aligned (hm : Rule.NoMismatch s) (hn : n = if wide then 8 else 4)
    (ha : (Rule.reg (Rule.bank s c k) a).toNat % n = 0) (hs : s.cores[c].sb = []) (hr : s.cores[c].rows = []) {pa : Nat}
    {attr : BitVec 3} (hx : xlatCore c (Rule.reg (Rule.bank s c k) a).toNat .atomic k.val s = (.ok pa attr, u))
    (hok : (readAccess (attrCached attr) pa n u).1 ≠ .uncorrectable) :
    ∃ y, Looked c s y ∧ coreAtomic c op wide d a b k.val s =
      (.done (Rule.result (Rule.bank s c k) d (ofInt (sgn (8 * n) (leNat (Memory.gets s.mem pa n))))),
        (writeAccess (attrCached attr) (attr != attrWB) (.coreStore c) (cellsAt pa (atomBytes op n
          (leNat (Memory.gets s.mem pa n)) (Rule.reg (Rule.bank s c k) b) (Rule.reg (Rule.bank s c k) d))) y).2) := by
  have hu : Looked c s u := by
    have h := looked_xlatCore c (Rule.reg (Rule.bank s c k) a).toNat .atomic k.val s
    rwa [hx] at h
  have hread := hu.trans (looked_readAccess c (attrCached attr) pa n u)
  have hw := portWaits_of_noMismatch (hu.noMismatch hm) pa n
  refine ⟨_, hread, ?_⟩
  subst hn
  simp only [coreAtomic, bankNow_eq, reg_eq, performOlder_of_nil hs hr, hx, hw]
  generalize readAccess (attrCached attr) pa (if wide then 8 else 4) u = x at hread hok ⊢
  obtain ⟨st, y⟩ := x
  dsimp only at hread hok ⊢
  have hal : ¬ (((Rule.reg (Rule.bank s c k) a).toNat % if wide = true then 8 else 4) != 0) = true := by simpa using ha
  have hbank (cs : List Host.Cell) :
      Rule.bank (writeAccess (attrCached attr) (attr != attrWB) (.coreStore c) cs y).2 c k = Rule.bank s c k :=
    (hread.toQuiet.trans (.of_spared (spared_writeAccess ..))).bank k
  rw [if_neg hal]
  cases st with
  | uncorrectable => exact absurd rfl hok
  | clean => simp only [hread.mem, hread.bank, hbank, extendLe_signed, result_eq, Bool.false_eq_true, if_false]
  | corrected => simp only [hread.mem, hread.bank, hbank, extendLe_signed, result_eq, Bool.false_eq_true, if_false]

end

/-- Settles O30: an atomic reads and writes in its turn; its value by the arithmetic of its bits. -/
theorem atomics : Obligations.Atomics := by
  intro s u c t k wide d a b i f h hm hi v n va
  obtain ⟨op, he, hop⟩ := atomNew_toNat hi
  have hn : 0 < n := by
    unfold n
    split <;> decide
  refine ⟨fun ha hk hb => ends_fault (half := 0) h hk hb (he s) (coreAtomic_misaligned rfl ha) (.refl s c), ?_⟩
  intro ha hs hr pa attr hx _ hok old low
  obtain ⟨y, hy, hans⟩ := coreAtomic_aligned (op := op) (b := b) (d := d) hm rfl ha hs hr hx hok
  refine ⟨_, gives_runInstr h (he s) hans, ?_, fun hw => ?_⟩
  · exact (hy.toQuiet.trans (.of_spared (spared_writeAccess ..))).committed k _
  · have hold : old < 2 ^ (8 * n) := by
      have := leNat_lt_two_pow (Memory.gets s.mem pa n)
      rwa [Memory.length_gets] at this
    have hbytes := atomBytes_eq hop hn hold (Rule.reg v b) (Rule.reg v d)
    have hcells : Rule.Writable y (cellsAt pa (natLe (f (8 * n) old (low (Rule.reg v b)) (low (Rule.reg v d))) n)) :=
      writable_cellsAt (hy.writable hw) (by simp)
    intro x
    have hmem := (writeAccess_engineWrote hcells (attrCached attr) (attr != attrWB) (.coreStore c)).2.mem x
    rw [hy.mem] at hmem
    refine Eq.trans ?_ hmem
    rw [← hbytes]
    rfl

end Sys2Proof.Machine

/-! SUPPORT. O28: loads of a control core (09:R262, R272 to R276, R278; 12:R339; 14:R390). -/

namespace Sys2Proof.Machine

open Rule (Ready)

theorem past_eq_sub (b a : Nat) : past b a = a - b := by
  unfold past
  omega

theorem effAddr_eq (b : Bank) (a : BitVec 5) (imm : BitVec 16) : effAddr b a imm = Rule.address b a imm := by
  rw [effAddr, Rule.address, ofInt_add_imm, reg_eq]

theorem loadCommand_effect {c : Fin 8} {d a : BitVec 5} {imm : BitVec 16} {n : Nat} {sext : Bool} {i : Instr}
    (h : Rule.LoadCommand c d a imm n sext i) :
    0 < n ∧ n ≤ 8 ∧ (n = 8 → sext = false) ∧ ∀ s, effect i s = runLoad c d a imm n sext s := by
  cases h <;> exact ⟨by decide, by decide, by decide, fun _ => rfl⟩

/-! The halves of an access (09:R273, R274). -/

section
variable {s u x : State} {c : Fin 8} {k n a : Nat} {acc : Access} {pa pb : Nat} {attr attrb : BitVec 3} {ev : BitVec 16}

theorem accessHalves_aligned (ha : a % n = 0) (hx : xlatCore c a acc k s = (.ok pa attr, u))
    (hr : region u pa = .ctl → n = 8) : accessHalves c k acc a n s = (.ok [⟨a, pa, n, attr⟩], u) := by
  have hc : (region u pa == .ctl && n != 8) = false := by
    by_cases h : region u pa = .ctl
    · simp [hr h]
    · simp [h]
  simp only [accessHalves, ha, beq_self_eq_true, if_true, hx, hc, Bool.false_eq_true, if_false]

theorem accessHalves_narrow (ha : a % n = 0) (hx : xlatCore c a acc k s = (.ok pa attr, u)) (hr : region u pa = .ctl)
    (hn : n ≠ 8) : accessHalves c k acc a n s = (.fault ccIllegal a 0, u) := by
  have hc : (region u pa == .ctl && n != 8) = true := by simp [hr, hn]
  simp only [accessHalves, ha, beq_self_eq_true, if_true, hx, hc]

theorem accessHalves_fault (ha : a % n = 0) (hx : xlatCore c a acc k s = (.fault ev, u)) :
    accessHalves c k acc a n s = (.fault ev a 0, u) := by
  simp only [accessHalves, ha, beq_self_eq_true, if_true, hx]

theorem accessHalves_checked (ha : a % n ≠ 0) (hx : xlatCore c a acc k s = (.ok pa attr, u))
    (hd : attr = attrDevice ∨ u.cores[c].alchk = true) : accessHalves c k acc a n s = (.fault ccIllegal a 0, u) := by
  have hc : (attr == attrDevice || (getCore u c).alchk) = true := by
    rcases hd with hd | hd
    · simp [hd]
    · simp only [Fin.getElem_fin] at hd
      simp [hd]
  simp only [accessHalves, beq_eq_false_iff_ne.mpr ha, Bool.false_eq_true, if_false, hx, hc, if_true]

theorem accessHalves_split (ha : a % n ≠ 0) (hx : xlatCore c a acc k s = (.ok pa attr, u)) (hd : attr ≠ attrDevice)
    (hal : u.cores[c].alchk = false) (hy : xlatCore c ((a + (n - a % n)) % 2 ^ 64) acc k u = (.ok pb attrb, x))
    (hdb : attrb ≠ attrDevice) : accessHalves c k acc a n s =
      (.ok [⟨a, pa, n - a % n, attr⟩, ⟨(a + (n - a % n)) % 2 ^ 64, pb, n - (n - a % n), attrb⟩], x) := by
  have hc : (attr == attrDevice || (getCore u c).alchk) = false := by
    simp only [Fin.getElem_fin] at hal
    simp [hd, hal]
  have hb : (attrb == attrDevice) = false := by simp [hdb]
  simp only [accessHalves, firstLen, beq_eq_false_iff_ne.mpr ha, Bool.false_eq_true, if_false, hx, hc, hy, hb]

end

/-! The store buffer before a half (09:R276; 12:R339). -/

theorem meets_iff {e : SbEntry} {pa n : Nat} : e.meets pa n = true ↔ Rule.Overlaps e pa n := by
  simp [SbEntry.meets, bytesMeet, Rule.Overlaps]

theorem youngest_none {sb : List SbEntry} {pa n : Nat} (h : ∀ e ∈ sb, ¬ Rule.Overlaps e pa n) : youngest sb pa n = none := by
  rw [youngest, Option.map_eq_none_iff, List.find?_eq_none]
  intro x hx
  have hm := List.mem_reverse.mp hx
  exact mt meets_iff.1 (h x.1 (List.fst_mem_of_mem_zipIdx hm))

theorem youngest_append {old young : List SbEntry} {e : SbEntry} {pa n : Nat} (h : ∀ y ∈ young, ¬ Rule.Overlaps y pa n)
    (he : Rule.Overlaps e pa n) : youngest (old ++ e :: young) pa n = some (e, old.length + 1) := by
  have hy : (young.zipIdx (old.length + 1)).reverse.find? (fun e => e.1.meets pa n) = none := by
    rw [List.find?_eq_none]
    intro x hx
    exact mt meets_iff.1 (h x.1 (List.fst_mem_of_mem_zipIdx (List.mem_reverse.mp hx)))
  rw [youngest, List.zipIdx_append, List.zipIdx_cons, List.reverse_append, List.reverse_cons, List.append_assoc,
    List.find?_append, Nat.zero_add, hy]
  simp [meets_iff.2 he]

theorem fromStores_none {sb : List SbEntry} {h : Half} (hn : ∀ e ∈ sb, ¬ Rule.Overlaps e h.pa h.len) :
    fromStores sb h = (none, 0) := by
  rw [fromStores, youngest_none hn]

/-- A half within an entry that overlaps it, and that no younger one does, takes its bytes. -/
theorem fromStores_covered {old young : List SbEntry} {e : SbEntry} {h : Half}
    (hy : ∀ y ∈ young, ¬ Rule.Overlaps y h.pa h.len) (hlo : e.pa ≤ h.pa) (hhi : h.pa + h.len ≤ e.pa + e.bytes.length)
    (hn : 0 < h.len) : fromStores (old ++ e :: young) h = (some ((e.bytes.drop (h.pa - e.pa)).take h.len, e.bad), 0) := by
  have he : Rule.Overlaps e h.pa h.len := by
    unfold Rule.Overlaps
    omega
  have hc : (decide (e.pa ≤ h.pa) && decide (h.pa + h.len ≤ e.pa + e.bytes.length)) = true := by simp [hlo, hhi]
  simp only [fromStores, youngest_append hy he, hc, if_true, SbEntry.slice]

/-- No entry has to leave for a half that none gives in part, unless it is of a device page. -/
theorem entriesBefore_zero {sb : List SbEntry} {h : Half} (hf : (fromStores sb h).2 = 0)
    (hd : h.attr = attrDevice → ∀ e ∈ sb, e.attr ≠ attrDevice) : entriesBefore sb h = 0 := by
  unfold entriesBefore
  rw [hf, Nat.zero_max]
  split
  case isFalse => rfl
  case isTrue hdev =>
    have htake : sb.reverse.takeWhile (fun e => e.attr != attrDevice) = sb.reverse := by
      rw [List.takeWhile_eq_self_iff]
      intro e he
      exact bne_iff_ne.mpr (hd (beq_iff_eq.mp hdev) e (List.mem_reverse.mp he))
    rw [htake, List.length_reverse, Nat.sub_self]

/-- A half that no entry has to leave for, and that waits for nothing. -/
structure HalfReady (c : Fin 8) (sb : List SbEntry) (x : State) (h : Half) : Prop where
  leave : entriesBefore sb h = 0
  still : ((fromStores sb h).1.isNone && halfWaits c h x) = false

theorem storesPosted_of_looked {c : Fin 8} {s x : State} (h : Looked c s x) : storesPosted c x = storesPosted c s := by
  rw [storesPosted_eq, storesPosted_eq, h.stores]

theorem storesPosted_clear {c : Fin 8} {s : State} {pa n : Nat} (h : ∀ r ∈ s.memp.out ++ s.memp.waiting, r.write = true →
    r.waiter = .coreStore c → ∀ y ∈ r.old, y.1 < pa ∨ pa + n ≤ y.1) :
    ((storesPosted c s).any fun y => pa ≤ y.1 && y.1 < pa + n) = false := by
  rw [List.any_eq_false]
  intro y hy
  obtain ⟨r, hr, hyr⟩ := List.mem_flatMap.mp hy
  obtain ⟨hmem, hw⟩ := List.mem_filter.mp hr
  rw [Bool.and_eq_true, beq_iff_eq] at hw
  have := h r hmem hw.1 hw.2 y hyr
  simp only [Bool.and_eq_true, decide_eq_true_eq]
  omega

/-- A half of which no store holds a byte and none that waits is in its way. -/
theorem halfReady_of_clear {c : Fin 8} {s x : State} {h : Half} (hl : Looked c s x) (hm : Rule.NoMismatch s)
    (hb : ∀ e ∈ s.cores[c].sb, ¬ Rule.Overlaps e h.pa h.len)
    (hd : h.attr = attrDevice → ∀ e ∈ s.cores[c].sb, e.attr ≠ attrDevice)
    (hp : attrCached h.attr = false → ((storesPosted c s).any fun y => h.pa ≤ y.1 && y.1 < h.pa + h.len) = false) :
    HalfReady c s.cores[c].sb x h := by
  refine ⟨entriesBefore_zero (by rw [fromStores_none hb]) hd, ?_⟩
  have hsb : (x.cores[c.val].sb.any fun e => e.meets h.pa h.len || (h.attr == attrDevice && e.attr == attrDevice)) = false := by
    rw [show x.cores[c.val].sb = s.cores[c].sb from hl.sb, List.any_eq_false]
    intro e he
    simp only [Bool.or_eq_true, Bool.and_eq_true, beq_iff_eq, not_or, not_and]
    exact ⟨mt meets_iff.1 (hb e he), fun ha => hd ha e he⟩
  have hpost : (!attrCached h.attr && (storesPosted c x).any fun y => h.pa ≤ y.1 && y.1 < h.pa + h.len) = false := by
    rw [storesPosted_of_looked hl]
    cases ha : attrCached h.attr with
    | true => rfl
    | false => rw [hp ha]; rfl
  simp only [halfWaits, getCore_fin, hsb, hpost, portWaits_of_noMismatch (hl.noMismatch hm), Bool.or_false, Bool.and_false]

theorem halfReady_of_unstored {c : Fin 8} {s x : State} {va pa m : Nat} {attr : BitVec 3} (hl : Looked c s x)
    (hm : Rule.NoMismatch s) (h : Rule.Unstored s c attr pa m) : HalfReady c s.cores[c].sb x ⟨va, pa, m, attr⟩ :=
  halfReady_of_clear hl hm (fun e he => (h.buffer e he).1) (fun ha e he => (h.buffer e he).2 ha)
    fun ha => storesPosted_clear (h.posted ha)

/-! A load, once it has its halves (09:R274, R276). -/

/-- What a load answers when its halves have been read. -/
def loadAnswer (c k : Fin 8) (d : BitVec 5) (sext : Bool) (n : Nat) (r : Except Commit (List Byte) × State) :
    Commit × State :=
  match r with
  | (.error e, y) => (e, y)
  | (.ok bs, y) => (.done (Rule.result (Rule.bank y c k) d (extendLe sext n bs)), y)

theorem foldl_max_zero {l : List Nat} (h : ∀ x ∈ l, x = 0) : l.foldl max 0 = 0 := by
  induction l with
  | nil => rfl
  | cons x l ih =>
    rw [List.foldl_cons, h x (List.mem_cons_self ..)]
    exact ih fun y hy => h y (List.mem_cons_of_mem _ hy)

theorem coreLoad_of_halves {s x : State} {c k : Fin 8} {d a : BitVec 5} {imm : BitVec 16} {n : Nat} {sext : Bool}
    {hs : List Half} (hr : s.cores[c].rows = [])
    (hx : accessHalves c k.val .load (Rule.address (Rule.bank s c k) a imm) n s = (.ok hs, x)) (hl : Looked c s x)
    (hh : ∀ h ∈ hs, HalfReady c s.cores[c].sb x h) :
    coreLoad c d a imm n sext k.val s =
      loadAnswer c k d sext n (loadHalves c s.cores[c].sb (hs.length == 2) hs 1 x) := by
  have hrows : s.cores[c.val].rows.isEmpty = true := by simp [show s.cores[c.val].rows = [] from hr]
  have hsb : x.cores[c.val].sb = s.cores[c].sb := hl.sb
  have hzero : (hs.map (entriesBefore s.cores[c].sb)).foldl max 0 = 0 := foldl_max_zero fun y hy => by
    obtain ⟨h, hm, rfl⟩ := List.mem_map.mp hy
    exact (hh h hm).leave
  have hwait : (hs.any fun h => (fromStores s.cores[c].sb h).1.isNone && halfWaits c h x) = false := by
    rw [List.any_eq_false]
    intro h hm
    rw [(hh h hm).still]
    exact Bool.false_ne_true
  simp only [coreLoad, allRows_of_nil hr, getCore_fin, hrows, Bool.not_true, Bool.false_eq_true, if_false, bankNow_eq,
    effAddr_eq, hx, hsb, hzero, drainFrom, hwait, result_eq]
  rfl

/-- The fault of an access is that of the load. -/
theorem coreLoad_fault {s x : State} {c k : Fin 8} {d a : BitVec 5} {imm : BitVec 16} {n va h : Nat} {sext : Bool}
    {ev : BitVec 16} (hr : s.cores[c].rows = [])
    (hx : accessHalves c k.val .load (Rule.address (Rule.bank s c k) a imm) n s = (.fault ev va h, x)) :
    coreLoad c d a imm n sext k.val s = (.fault ev va h, x) := by
  have hrows : s.cores[c.val].rows.isEmpty = true := by simp [show s.cores[c.val].rows = [] from hr]
  simp only [coreLoad, allRows_of_nil hr, getCore_fin, hrows, Bool.not_true, Bool.false_eq_true, if_false, bankNow_eq,
    effAddr_eq, hx]

/-! How a half is read (14:R390). -/

/-- What a half in memory gives: its bytes, unless they cannot be corrected. -/
def halfBytes (m : List Host.Cell) (pa n : Nat) (r : ReadStat) : Option (List Byte) :=
  if r = .uncorrectable then none else some (Memory.gets m pa n)

theorem readHalf_memory {x : State} {c : Fin 8} {h : Half} (hr : region x h.pa ≠ .ctl)
    (hk : attrCached h.attr = true → h.pa / 128 ∉ x.cores[c].l1bad) :
    readHalf c h x = (halfBytes x.mem h.pa h.len (coreRead c.val h.attr h.pa h.len x).1,
      (coreRead c.val h.attr h.pa h.len x).2) := by
  have hbad : (attrCached h.attr && x.cores[c.val].l1bad.contains (h.pa / 128)) = false := by
    cases ha : attrCached h.attr with
    | false => rfl
    | true => simpa using hk ha
  have hreg : (region x h.pa == .ctl) = false := by simp [hr]
  simp only [readHalf, hreg, Bool.false_eq_true, if_false, getCore_fin, hbad, (looked_coreRead c h.attr h.pa h.len x).mem,
    halfBytes, beq_iff_eq]

/-- A half whose line left the L1 data cache with a word that could not be corrected. -/
theorem readHalf_lost {x : State} {c : Fin 8} {h : Half} (hr : region x h.pa ≠ .ctl) (ha : attrCached h.attr = true)
    (hk : h.pa / 128 ∈ x.cores[c].l1bad) :
    readHalf c h x = (none, Rule.withCore x c { x.cores[c] with l1bad := x.cores[c].l1bad.erase (h.pa / 128) }) := by
  have hbad : (attrCached h.attr && x.cores[c.val].l1bad.contains (h.pa / 128)) = true := by
    simpa [ha] using hk
  have hreg : (region x h.pa == .ctl) = false := by simp [hr]
  simp only [readHalf, hreg, Bool.false_eq_true, if_false, getCore_fin, hbad, if_true, modCore_eq_withCore]

/-- What a register reads does not depend on how far its f-cycle has come (13:R383). -/
theorem regValue_notBefore (p : Nat) (s : State) (off : Nat) : regValue (notBefore p s) off = regValue s off := by
  unfold regValue
  rfl

/-- A register of the block outside the CC windows (13:R383). -/
theorem readHalf_register {x : State} {c : Fin 8} {h : Half} (hm : Rule.NoMismatch x) (hr : region x h.pa = .ctl)
    (ht : testOpen x (h.pa - ctlBase) = false) (ho : h.pa - ctlBase < 0x600000 ∨ 0x680000 ≤ h.pa - ctlBase) :
    readHalf c h x = (some (natLe (regValue x (h.pa - ctlBase)).toNat 8), notBefore readPlace x) := by
  have hpar : parityRead (BitVec.ofNat 26 (h.pa - ctlBase)) x = x := by simp [parityRead, hm.2.2]
  have hwin : (decide (0x600000 ≤ h.pa - ctlBase) && decide (h.pa - ctlBase < 0x680000)) = false := by
    simp only [Bool.and_eq_false_iff, decide_eq_false_iff_not]
    omega
  simp only [readHalf, hr, beq_self_eq_true, if_true, past_eq_sub, regRead, ht, Bool.false_eq_true, if_false, hpar, hwin,
    Bool.false_and, regValue_notBefore]

theorem looked_notBefore (c : Fin 8) (p : Nat) (s : State) : Looked c s (notBefore p s) :=
  ⟨.of_spared ⟨rfl, rfl, rfl⟩, rfl, rfl, rfl, rfl, rfl⟩

theorem SameTask.withL1bad {s u : State} {c : Fin 8} (h : SameTask s u c) (l : List Nat) :
    SameTask s (Rule.withCore u c { u.cores[c] with l1bad := l }) c where
  running := (congrArg Core.running (core_withCore ..)).trans h.running
  banks := (congrArg Core.banks (core_withCore ..)).trans h.banks
  tasks := (congrArg Core.tasks (core_withCore ..)).trans h.tasks
  frec := (congrArg Core.frec (core_withCore ..)).trans h.frec
  halted := (congrArg Core.halted (core_withCore ..)).trans h.halted
  count := (congrArg Core.instret (core_withCore ..)).trans h.count
  memory := h.memory

/-! Halves in order (09:R274). -/

section
variable {c : Fin 8} {sb : List SbEntry} {split : Bool} {h : Half} {hs : List Half} {i : Nat} {x y : State} {bs : List Byte}

theorem loadHalves_cons {rest : List Byte} {z : State} (hf : (fromStores sb h).1 = none)
    (hread : readHalf c h x = (some bs, y)) (hrest : loadHalves c sb split hs (i + 1) y = (.ok rest, z)) :
    loadHalves c sb split (h :: hs) i x = (.ok (bs ++ rest), z) := by
  simp only [loadHalves, hf, hread, hrest]

theorem loadHalves_later {e : Commit} {z : State} (hf : (fromStores sb h).1 = none)
    (hread : readHalf c h x = (some bs, y)) (hrest : loadHalves c sb split hs (i + 1) y = (.error e, z)) :
    loadHalves c sb split (h :: hs) i x = (.error e, z) := by
  simp only [loadHalves, hf, hread, hrest]

theorem loadHalves_failed (hf : (fromStores sb h).1 = none) (hread : readHalf c h x = (none, y)) :
    loadHalves c sb split (h :: hs) i x = (.error (.fault ccParity h.va (if split then i else 0)), y) := by
  simp only [loadHalves, hf, hread]

theorem loadHalves_one (hf : (fromStores sb h).1 = none) (hread : readHalf c h x = (some bs, y)) :
    loadHalves c sb split [h] i x = (.ok bs, y) := by
  rw [loadHalves_cons hf hread rfl, List.append_nil]

theorem loadHalves_forwarded {bad : Bool} (hf : (fromStores sb h).1 = some (bs, bad)) :
    loadHalves c sb split [h] i x =
      if bad then (.error (.fault ccParity h.va (if split then i else 0)), x) else (.ok bs, x) := by
  cases bad <;> simp [loadHalves, hf]

end

/-! How loads end. -/

section
variable {s x y : State} {c : Fin 8} {t : Byte} {k : Fin 8} {d a : BitVec 5} {imm : BitVec 16} {n : Nat} {sext : Bool}
  {i : Instr} {hs : List Half}

/-- A load whose halves have been read, or forwarded. -/
theorem ends_load {bs : List Byte} (h : Ready s c t k) (hi : Rule.LoadCommand c d a imm n sext i)
    (hr : s.cores[c].rows = [])
    (hx : accessHalves c k.val .load (Rule.address (Rule.bank s c k) a imm) n s = (.ok hs, x)) (hl : Looked c s x)
    (hh : ∀ h ∈ hs, HalfReady c s.cores[c].sb x h)
    (hb : loadHalves c s.cores[c].sb (hs.length == 2) hs 1 x = (.ok bs, y)) (hy : Looked c s y) (hn : bs.length = n) :
    Rule.Ends i s fun w =>
      Rule.Committed s w c k (Rule.result (Rule.bank s c k) d (Rule.loaded n sext bs)) ∧
        w.cores[c].sb = s.cores[c].sb ∧ w.mem = s.mem := by
  obtain ⟨hpos, h8, -, he⟩ := loadCommand_effect hi
  have hload := coreLoad_of_halves (d := d) (sext := sext) hr hx hl hh
  rw [hb, loadAnswer, hy.bank, extendLe_eq_loaded sext hn hpos h8] at hload
  refine ⟨_, gives_runInstr h (he s) hload, hy.committed k _, ?_, hy.mem⟩
  rw [commit_eq, core_withCore]
  exact hy.sb

/-- A load one of whose halves fails. -/
theorem ends_loadFailed {va half : Nat} {ev : BitVec 16} (h : Ready s c t k) (hi : Rule.LoadCommand c d a imm n sext i)
    (hr : s.cores[c].rows = [])
    (hx : accessHalves c k.val .load (Rule.address (Rule.bank s c k) a imm) n s = (.ok hs, x)) (hl : Looked c s x)
    (hh : ∀ h ∈ hs, HalfReady c s.cores[c].sb x h)
    (hb : loadHalves c s.cores[c].sb (hs.length == 2) hs 1 x = (.error (.fault ev va half), y)) (hy : SameTask s y c)
    (hk : k.val < 7) (hbound : Rule.Bound s.cores[c] k) :
    Rule.Ends i s fun w => Rule.Faulted s w c k t ev (BitVec.ofNat 48 va) (BitVec.ofNat 2 half) := by
  obtain ⟨-, -, -, he⟩ := loadCommand_effect hi
  have hload := coreLoad_of_halves (d := d) (sext := sext) hr hx hl hh
  rw [hb, loadAnswer] at hload
  exact ends_fault h hk hbound (he s) hload hy

/-- A load whose translation fails, or whose kind of access the page does not take. -/
theorem ends_loadFault {va half : Nat} {ev : BitVec 16} (h : Ready s c t k) (hi : Rule.LoadCommand c d a imm n sext i)
    (hr : s.cores[c].rows = [])
    (hx : accessHalves c k.val .load (Rule.address (Rule.bank s c k) a imm) n s = (.fault ev va half, x))
    (hl : Looked c s x) (hk : k.val < 7) (hbound : Rule.Bound s.cores[c] k) :
    Rule.Ends i s fun w => Rule.Faulted s w c k t ev (BitVec.ofNat 48 va) (BitVec.ofNat 2 half) := by
  obtain ⟨-, -, -, he⟩ := loadCommand_effect hi
  exact ends_fault h hk hbound (he s) (coreLoad_fault hr hx) hl.sameTask

end

theorem leNat_natLe (v n : Nat) : leNat (natLe v n) = v % 2 ^ (8 * n) := by
  induction n generalizing v with
  | zero => simp [natLe, leNat, Nat.mod_one]
  | succ n ih =>
    rw [natLe, leNat, ih, BitVec.toNat_ofNat, Nat.mul_succ, Nat.add_comm (8 * n), Nat.pow_add]
    exact (Nat.mod_mul ..).symm

/-- The eight bytes of a word are loaded as that word. -/
theorem loaded_word (v : Word) : Rule.loaded 8 false (natLe v.toNat 8) = v := by
  rw [Rule.loaded, leNat_natLe, Nat.mod_eq_of_lt v.isLt]
  exact low_toNat v

/-! Aligned loads (09:R273). -/

section
variable {s u : State} {c : Fin 8} {t : Byte} {k : Fin 8} {d a : BitVec 5} {imm : BitVec 16} {n : Nat} {sext : Bool}
  {i : Instr} {pa : Nat} {attr : BitVec 3}

/-- An aligned load of memory: the halves of its access are one. -/
theorem aligned_memory (ha : Rule.address (Rule.bank s c k) a imm % n = 0)
    (hx : xlatCore c (Rule.address (Rule.bank s c k) a imm) .load k.val s = (.ok pa attr, u))
    (hr : region s pa = .ext ∨ region s pa = .stage) :
    Looked c s u ∧ region u pa ≠ .ctl ∧
      accessHalves c k.val .load (Rule.address (Rule.bank s c k) a imm) n s =
        (.ok [⟨Rule.address (Rule.bank s c k) a imm, pa, n, attr⟩], u) := by
  have hu : Looked c s u := by
    have h := looked_xlatCore c (Rule.address (Rule.bank s c k) a imm) .load k.val s
    rwa [hx] at h
  have hreg : region u pa ≠ .ctl := by
    rw [hu.region]
    rcases hr with hr | hr <;> simp [hr]
  exact ⟨hu, hreg, accessHalves_aligned ha hx fun hc => absurd hc hreg⟩

variable (h : Ready s c t k) (hi : Rule.LoadCommand c d a imm n sext i) (hm : Rule.NoMismatch s) (hrows : s.cores[c].rows = [])
  (ha : Rule.address (Rule.bank s c k) a imm % n = 0)
include h hi hm hrows ha

theorem load_memory (hx : xlatCore c (Rule.address (Rule.bank s c k) a imm) .load k.val s = (.ok pa attr, u))
    (hr : region s pa = .ext ∨ region s pa = .stage) (hs : Rule.Unstored s c attr pa n) :
    ((coreRead c.val attr pa n u).1 ≠ .uncorrectable → Rule.Ends i s fun w =>
      Rule.Committed s w c k (Rule.result (Rule.bank s c k) d (Rule.loaded n sext (Memory.gets s.mem pa n))) ∧
        w.cores[c].sb = s.cores[c].sb ∧ w.mem = s.mem) ∧
    ((coreRead c.val attr pa n u).1 = .uncorrectable → k.val < 7 → Rule.Bound s.cores[c] k →
      Rule.Ends i s fun w => Rule.Faulted s w c k t ccParity (BitVec.ofNat 48 (Rule.address (Rule.bank s c k) a imm)) 0) := by
  obtain ⟨hu, hreg, hacc⟩ := aligned_memory ha hx hr
  have hfrom := fromStores_none (sb := s.cores[c].sb) (h := ⟨Rule.address (Rule.bank s c k) a imm, pa, n, attr⟩)
    fun e he => (hs.buffer e he).1
  have hread := readHalf_memory (h := ⟨Rule.address (Rule.bank s c k) a imm, pa, n, attr⟩) hreg
    fun hc => hu.l1bad ▸ hs.kept hc
  have hready : ∀ h ∈ [(⟨Rule.address (Rule.bank s c k) a imm, pa, n, attr⟩ : Half)], HalfReady c s.cores[c].sb u h := by
    simpa using halfReady_of_unstored hu hm hs
  have hy := hu.trans (looked_coreRead c attr pa n u)
  refine ⟨fun hok => ?_, fun hbad hk hb => ?_⟩
  · rw [halfBytes, if_neg hok, hu.mem] at hread
    exact ends_load h hi hrows hacc hu hready (loadHalves_one (congrArg Prod.fst hfrom) hread) hy (by simp)
  · rw [halfBytes, if_pos hbad] at hread
    exact ends_loadFailed (half := 0) h hi hrows hacc hu hready
      (loadHalves_failed (congrArg Prod.fst hfrom) hread) hy.sameTask hk hb

/-- The line of the load left the L1 data cache with a word that could not be corrected. -/
theorem load_lostLine (hx : xlatCore c (Rule.address (Rule.bank s c k) a imm) .load k.val s = (.ok pa attr, u))
    (hr : region s pa = .ext ∨ region s pa = .stage) (hs : ∀ e ∈ s.cores[c].sb, ¬ Rule.Overlaps e pa n)
    (hc : attrCached attr = true) (hl : pa / 128 ∈ s.cores[c].l1bad) (hk : k.val < 7) (hb : Rule.Bound s.cores[c] k) :
    Rule.Ends i s fun w => Rule.Faulted s w c k t ccParity (BitVec.ofNat 48 (Rule.address (Rule.bank s c k) a imm)) 0 := by
  obtain ⟨hu, hreg, hacc⟩ := aligned_memory ha hx hr
  have hfrom := fromStores_none (sb := s.cores[c].sb) (h := ⟨Rule.address (Rule.bank s c k) a imm, pa, n, attr⟩) hs
  have hdev : attr ≠ attrDevice := by
    rintro rfl
    exact absurd hc (by decide)
  have hready : ∀ h ∈ [(⟨Rule.address (Rule.bank s c k) a imm, pa, n, attr⟩ : Half)], HalfReady c s.cores[c].sb u h := by
    simpa using halfReady_of_clear (h := ⟨_, pa, n, attr⟩) hu hm hs (fun e => absurd e hdev) fun e => by simp [hc] at e
  have hread := readHalf_lost (h := ⟨Rule.address (Rule.bank s c k) a imm, pa, n, attr⟩) hreg hc (hu.l1bad ▸ hl)
  exact ends_loadFailed (half := 0) h hi hrows hacc hu hready (loadHalves_failed (congrArg Prod.fst hfrom) hread)
    (hu.sameTask.withL1bad _) hk hb

omit hm in
/-- The load takes the bytes of a store in the buffer (09:R276). -/
theorem load_forwarded (hx : xlatCore c (Rule.address (Rule.bank s c k) a imm) .load k.val s = (.ok pa attr, u))
    (hr : region s pa = .ext ∨ region s pa = .stage) {old young : List SbEntry} {e : SbEntry}
    (hsb : s.cores[c].sb = old ++ e :: young) (hd : attr ≠ attrDevice) (hy : ∀ y ∈ young, ¬ Rule.Overlaps y pa n)
    (hlo : e.pa ≤ pa) (hhi : pa + n ≤ e.pa + e.bytes.length) (hn : 0 < n) :
    (e.bad = false → Rule.Ends i s fun w =>
      Rule.Committed s w c k (Rule.result (Rule.bank s c k) d (Rule.loaded n sext ((e.bytes.drop (pa - e.pa)).take n))) ∧
        w.cores[c].sb = s.cores[c].sb ∧ w.mem = s.mem) ∧
    (e.bad = true → k.val < 7 → Rule.Bound s.cores[c] k →
      Rule.Ends i s fun w => Rule.Faulted s w c k t ccParity (BitVec.ofNat 48 (Rule.address (Rule.bank s c k) a imm)) 0) := by
  obtain ⟨hu, hreg, hacc⟩ := aligned_memory ha hx hr
  have hfrom := fromStores_covered (h := ⟨Rule.address (Rule.bank s c k) a imm, pa, n, attr⟩) (old := old) hy hlo hhi hn
  rw [← hsb] at hfrom
  have hhalf : HalfReady c s.cores[c].sb u ⟨Rule.address (Rule.bank s c k) a imm, pa, n, attr⟩ :=
    ⟨entriesBefore_zero (by rw [hfrom]) fun e => absurd e hd, by rw [hfrom]; rfl⟩
  have hready : ∀ h ∈ [(⟨Rule.address (Rule.bank s c k) a imm, pa, n, attr⟩ : Half)], HalfReady c s.cores[c].sb u h := by
    simpa using hhalf
  have hread := loadHalves_forwarded (c := c) (split := false) (i := 1) (x := u) (congrArg Prod.fst hfrom)
  refine ⟨fun hgood => ?_, fun hbad hk hb => ?_⟩
  · rw [hgood] at hread
    refine ends_load h hi hrows hacc hu hready hread hu ?_
    simp only [List.length_take, List.length_drop]
    omega
  · rw [hbad] at hread
    exact ends_loadFailed (half := 0) h hi hrows hacc hu hready hread hu.sameTask hk hb

/-- A load of a register (13:R383). -/
theorem load_register (hx : xlatCore c (Rule.address (Rule.bank s c k) a imm) .load k.val s = (.ok pa attr, u))
    (hr : region s pa = .ctl) (hn : n = 8) (hs : Rule.Unstored s c attr pa n) (ht : testOpen u (pa - ctlBase) = false)
    (ho : pa - ctlBase < 0x600000 ∨ 0x680000 ≤ pa - ctlBase) :
    Rule.Ends i s fun w =>
      Rule.Committed s w c k (Rule.result (Rule.bank s c k) d (regValue u (pa - ctlBase))) ∧ w.mem = s.mem := by
  have hu : Looked c s u := by
    have hl := looked_xlatCore c (Rule.address (Rule.bank s c k) a imm) .load k.val s
    rwa [hx] at hl
  have hacc := accessHalves_aligned ha hx fun _ => hn
  have hfrom := fromStores_none (sb := s.cores[c].sb) (h := ⟨Rule.address (Rule.bank s c k) a imm, pa, n, attr⟩)
    fun e he => (hs.buffer e he).1
  have hready : ∀ h ∈ [(⟨Rule.address (Rule.bank s c k) a imm, pa, n, attr⟩ : Half)], HalfReady c s.cores[c].sb u h := by
    simpa using halfReady_of_unstored hu hm hs
  have hread := readHalf_register (c := c) (h := ⟨Rule.address (Rule.bank s c k) a imm, pa, n, attr⟩) (hu.noMismatch hm)
    (hu.region ▸ hr) ht ho
  have hend := ends_load h hi hrows hacc hu hready (loadHalves_one (congrArg Prod.fst hfrom) hread)
    (hu.trans (looked_notBefore c readPlace u)) (by simp [hn])
  obtain ⟨-, -, hsext, -⟩ := loadCommand_effect hi
  rw [hsext hn, hn, loaded_word] at hend
  obtain ⟨w, hw, hcommit, -, hmem⟩ := hend
  exact ⟨w, hw, hcommit, hmem⟩

end

/-! Unaligned loads (09:R274). -/

section
variable {s u x y z : State} {c : Fin 8} {t : Byte} {k : Fin 8} {d a : BitVec 5} {imm : BitVec 16} {n : Nat} {sext : Bool}
  {i : Instr} {pa pb : Nat} {attr attrb : BitVec 3} {r1 r2 : ReadStat}

theorem load_split (h : Ready s c t k) (hi : Rule.LoadCommand c d a imm n sext i) (hm : Rule.NoMismatch s)
    (hrows : s.cores[c].rows = []) (ha : Rule.address (Rule.bank s c k) a imm % n ≠ 0)
    (hx : xlatCore c (Rule.address (Rule.bank s c k) a imm) .load k.val s = (.ok pa attr, u)) :
    let va := Rule.address (Rule.bank s c k) a imm
    let m := n - va % n
    let vb := (va + m) % 2 ^ 64
    attr ≠ attrDevice → s.cores[c].alchk = false → xlatCore c vb .load k.val u = (.ok pb attrb, x) →
    attrb ≠ attrDevice → (region s pa = .ext ∨ region s pa = .stage) → (region s pb = .ext ∨ region s pb = .stage) →
    Rule.Unstored s c attr pa m → Rule.Unstored s c attrb pb (n - m) →
    coreRead c.val attr pa m x = (r1, y) → coreRead c.val attrb pb (n - m) y = (r2, z) → r1 ≠ .uncorrectable →
    (r2 ≠ .uncorrectable → Rule.Ends i s fun w =>
      Rule.Committed s w c k (Rule.result (Rule.bank s c k) d
        (Rule.loaded n sext (Memory.gets s.mem pa m ++ Memory.gets s.mem pb (n - m)))) ∧
        w.cores[c].sb = s.cores[c].sb ∧ w.mem = s.mem) ∧
    (r2 = .uncorrectable → k.val < 7 → Rule.Bound s.cores[c] k →
      Rule.Ends i s fun w => Rule.Faulted s w c k t ccParity (BitVec.ofNat 48 vb) 2) := by
  intro va m vb hd hal hxb hdb hra hrb hsa hsb hya hzb h1
  have hu : Looked c s u := by
    have hl := looked_xlatCore c va .load k.val s
    rwa [hx] at hl
  have hxs : Looked c s x := by
    have hl := looked_xlatCore c vb .load k.val u
    rw [hxb] at hl
    exact hu.trans hl
  have hys : Looked c s y := by
    have hl := looked_coreRead c attr pa m x
    rw [hya] at hl
    exact hxs.trans hl
  have hzs : Looked c s z := by
    have hl := looked_coreRead c attrb pb (n - m) y
    rw [hzb] at hl
    exact hys.trans hl
  have notCtl : ∀ {v : State} {p : Nat}, Looked c s v → (region s p = .ext ∨ region s p = .stage) → region v p ≠ .ctl := by
    intro v p hv hp
    rw [hv.region]
    rcases hp with hp | hp <;> simp [hp]
  have hacc := accessHalves_split ha hx hd (hu.alchk.trans hal) hxb hdb
  have hready : ∀ h ∈ [(⟨va, pa, m, attr⟩ : Half), ⟨vb, pb, n - m, attrb⟩], HalfReady c s.cores[c].sb x h := by
    simpa using ⟨halfReady_of_unstored hxs hm hsa, halfReady_of_unstored hxs hm hsb⟩
  have hfa := congrArg Prod.fst (fromStores_none (h := ⟨va, pa, m, attr⟩) fun e he => (hsa.buffer e he).1)
  have hfb := congrArg Prod.fst (fromStores_none (h := ⟨vb, pb, n - m, attrb⟩) fun e he => (hsb.buffer e he).1)
  have hreada := readHalf_memory (h := ⟨va, pa, m, attr⟩) (notCtl hxs hra) fun hc => hxs.l1bad ▸ hsa.kept hc
  have hreadb := readHalf_memory (h := ⟨vb, pb, n - m, attrb⟩) (notCtl hys hrb) fun hc => hys.l1bad ▸ hsb.kept hc
  rw [hya, halfBytes, if_neg h1, hxs.mem] at hreada
  have hlen : m + (n - m) = n := by omega
  refine ⟨fun h2 => ?_, fun h2 hk hb => ?_⟩
  · rw [hzb, halfBytes, if_neg h2, hys.mem] at hreadb
    exact ends_load h hi hrows hacc hxs hready (loadHalves_cons hfa hreada (loadHalves_one hfb hreadb)) hzs (by simp [hlen])
  · rw [hzb, halfBytes, if_pos h2] at hreadb
    exact ends_loadFailed (half := 2) h hi hrows hacc hxs hready
      (loadHalves_later hfa hreada (loadHalves_failed hfb hreadb)) hzs.sameTask hk hb

end

/-- Settles O28: a load by its halves, each forwarded, read or refused. -/
theorem loads : Obligations.Loads := by
  intro s u c t k d a imm n sext i h hi hm hrows v va gives faults
  have looked : ∀ {r : XRes}, xlatCore c va .load k.val s = (r, u) → Looked c s u := by
    intro r hx
    have hl := looked_xlatCore c va .load k.val s
    rwa [hx] at hl
  refine ⟨fun ha pa attr hx => ⟨fun hr => ⟨?_, ?_, ?_⟩, ?_, ?_⟩, fun ha ev hx => ?_, fun ha pa attr hx => ?_⟩
  · exact load_memory h hi hm hrows ha hx hr
  · exact load_lostLine h hi hm hrows ha hx hr
  · exact fun old e young hsb hd hy hlo hhi hn => load_forwarded h hi hrows ha hx hr hsb hd hy hlo hhi hn
  · exact load_register h hi hm hrows ha hx
  · exact fun hr hn hk hb => ends_loadFault (half := 0) h hi hrows
      (accessHalves_narrow ha hx ((looked hx).region ▸ hr) hn) (looked hx) hk hb
  · exact fun hk hb => ends_loadFault (half := 0) h hi hrows (accessHalves_fault ha hx) (looked hx) hk hb
  · intro m vb
    refine ⟨fun hd hk hb => ?_, fun hd hal x pb attrb hxb hdb hra hrb hsa hsb r1 r2 y z hya hzb => ?_⟩
    · exact ends_loadFault (half := 0) h hi hrows
        (accessHalves_checked ha hx (hd.imp_right (looked hx).alchk.trans)) (looked hx) hk hb
    · have hsplit := load_split h hi hm hrows ha hx hd hal hxb hdb hra hrb hsa hsb hya hzb
      exact ⟨fun h1 h2 => (hsplit h1).1 h2, fun h1 h2 => (hsplit h1).2 h2⟩

end Sys2Proof.Machine

/-! SUPPORT. O29: stores of a control core, and the entries that leave its store buffer (09:R262, R273 to R275; 08:R236, R241;
12:R358; 14:R390). -/

namespace Sys2Proof.Machine

open Rule (Ready)

theorem storeCommand_effect {c : Fin 8} {d a : BitVec 5} {imm : BitVec 16} {n : Nat} {i : Instr}
    (h : Rule.StoreCommand c d a imm n i) : 0 < n ∧ n ≤ 8 ∧ ∀ s, effect i s = runStore c d a imm n s := by
  cases h <;> exact ⟨by decide, by decide, fun _ => rfl⟩

/-! Entries of a store (09:R274). -/

theorem storeEntries_one (va pa : Nat) (attr : BitVec 3) {n : Nat} {bs : List Byte} (hn : bs.length = n) :
    storeEntries [⟨va, pa, n, attr⟩] bs = [⟨va, pa, bs, attr, false⟩] := by
  simp [storeEntries, ← hn]

theorem storeEntries_two (va pa vb pb m : Nat) (attr attrb : BitVec 3) {n : Nat} {bs : List Byte} (hn : bs.length = n) :
    storeEntries [⟨va, pa, m, attr⟩, ⟨vb, pb, n - m, attrb⟩] bs =
      [⟨va, pa, bs.take m, attr, false⟩, ⟨vb, pb, bs.drop m, attrb, false⟩] := by
  have ht : (bs.drop m).take (n - m) = bs.drop m := List.take_of_length_le (by simp [hn])
  simp [storeEntries, ht]

/-! Where a store stops the model (00:R16). -/

theorem entryStop_memory {s : State} {e : SbEntry} (h : region s e.pa ≠ .ctl) : entryStop s e = none := by
  simp [entryStop, h]

/-- An entry of eight bytes to a register stops as its word does. -/
theorem entryStop_register {s : State} {va pa : Nat} {attr : BitVec 3} (h : region s pa = .ctl) (v : Word) :
    entryStop s ⟨va, pa, natLe v.toNat 8, attr, false⟩ = regStop s (pa - ctlBase) v := by
  have hv : w64 (leNat (natLe v.toNat 8)) = v := loaded_word v
  simp only [entryStop, h, beq_self_eq_true, if_true, past_eq_sub, hv]

theorem findStop_none {s : State} {sb : List SbEntry} (h : ∀ e ∈ sb, entryStop s e = none) :
    sb.findSome? (entryStop s) = none := List.findSome?_eq_none_iff.mpr h

/-! Entries enter the store buffer (09:R275). -/

section
variable {s u : State} {c : Fin 8} {t : Byte} {k : Fin 8} {d a : BitVec 5} {imm : BitVec 16} {n : Nat} {i : Instr}
  {es : List SbEntry} {hs : List Half}

/-- The core with entries added to its store buffer. -/
def withEntries (x : Core) (es : List SbEntry) : Core := { x with sb := x.sb ++ es }

theorem commitStores_of_room (hr : u.cores[c].sb.length + es.length ≤ 16) :
    commitStores c k.val es u = (.done (Rule.onward (Rule.bank u c k)), Rule.withCore u c (withEntries u.cores[c] es)) := by
  have hr' : u.cores[c.val].sb.length + es.length ≤ 16 := hr
  have hz : u.cores[c.val].sb.length + es.length - 16 = 0 := by omega
  simp only [commitStores, makeRoom, getCore_fin, hz, drainFrom, hr', decide_true, modCore_eq_withCore, bankNow_eq,
    bank_withCore, advance_eq]
  rfl

theorem coreStore_of_halves
    (hx : accessHalves c k.val .store (Rule.address (Rule.bank s c k) a imm) n s = (.ok hs, u)) :
    coreStore c d a imm n k.val s =
      commitStores c k.val (storeEntries hs (natLe (Rule.reg (Rule.bank s c k) d).toNat n)) u := by
  simp only [coreStore, bankNow_eq, effAddr_eq, reg_eq, hx]

theorem coreStore_fault {va h : Nat} {ev : BitVec 16}
    (hx : accessHalves c k.val .store (Rule.address (Rule.bank s c k) a imm) n s = (.fault ev va h, u)) :
    coreStore c d a imm n k.val s = (.fault ev va h, u) := by
  simp only [coreStore, bankNow_eq, effAddr_eq, hx]

/-- The state after a store has put its entries into the buffer. -/
def stored (u : State) (c k : Fin 8) (es : List SbEntry) : State :=
  Rule.withCore u c (Rule.counted (withEntries u.cores[c] es) k (Rule.onward (Rule.bank u c k)))

theorem stored_holds (hl : Looked c s u) (k : Fin 8) (es : List SbEntry) :
    Rule.Committed s (stored u c k es) c k (Rule.onward (Rule.bank s c k)) ∧
      (stored u c k es).cores[c].sb = s.cores[c].sb ++ es ∧ (stored u c k es).mem = s.mem := by
  refine ⟨?_, ?_, hl.mem⟩
  · rw [stored, hl.bank]
    exact hl.toQuiet.committed_core k _ rfl rfl rfl rfl rfl
  · rw [stored, core_withCore, ← hl.sb]
    rfl

theorem runInstr_stored {dst src : List (BitVec 5)} {f : Nat → State → Commit × State} (h : Ready s c t k)
    (hl : Looked c s u) (hroom : s.cores[c].sb.length < 15) (hes : es.length ≤ 2)
    (hf : f k.val s = commitStores c k.val es u) : runInstr c dst src f s = stored u c k es := by
  have hr : u.cores[c].sb.length + es.length ≤ 16 := by
    rw [hl.sb]
    omega
  rw [runInstr_ready h, hf, commitStores_of_room hr, endInstr_done, commit_withCore]
  rfl

/-- A store enters the buffer, unless it stops the model. -/
theorem runStore_stored (h : Ready s c t k)
    (hx : accessHalves c k.val .store (Rule.address (Rule.bank s c k) a imm) n s = (.ok hs, u)) (hl : Looked c s u)
    (hroom : s.cores[c].sb.length < 15)
    (hes : storeEntries hs (natLe (Rule.reg (Rule.bank s c k) d).toNat n) = es) (hlen : es.length ≤ 2) :
    runStore c d a imm n s =
      finish s ((s.cores[c].sb ++ es).findSome? (entryStop s)) (stored u c k es) := by
  have hrun : runInstr c [] [d, a] (coreStore c d a imm n) s = stored u c k es :=
    runInstr_stored h hl hroom hlen (by rw [coreStore_of_halves hx, hes])
  have hsb : (getCore (stored u c k es) c).sb = s.cores[c].sb ++ es := by
    rw [getCore_fin]
    exact (stored_holds hl k es).2.1
  rw [runStore, hrun]
  exact congrArg (fun l => finish s (l.findSome? (entryStop s)) (stored u c k es)) hsb

/-- A store none of whose entries stops the model. -/
theorem ends_store (h : Ready s c t k) (hi : Rule.StoreCommand c d a imm n i)
    (hx : accessHalves c k.val .store (Rule.address (Rule.bank s c k) a imm) n s = (.ok hs, u)) (hl : Looked c s u)
    (hroom : s.cores[c].sb.length < 15) (hgo : ∀ e ∈ s.cores[c].sb, entryStop s e = none)
    (hes : storeEntries hs (natLe (Rule.reg (Rule.bank s c k) d).toNat n) = es) (hlen : es.length ≤ 2)
    (hnew : ∀ e ∈ es, entryStop s e = none) :
    Rule.Ends i s fun w => Rule.Committed s w c k (Rule.onward (Rule.bank s c k)) ∧
      w.cores[c].sb = s.cores[c].sb ++ es ∧ w.mem = s.mem := by
  obtain ⟨-, -, he⟩ := storeCommand_effect hi
  have hnone := findStop_none (s := s) (sb := s.cores[c].sb ++ es) fun e hm =>
    (List.mem_append.mp hm).elim (hgo e) (hnew e)
  refine ends_of_next ?_ (stored_holds hl k es)
  rw [he, runStore_stored h hx hl hroom hes hlen, hnone]
  rfl

/-- A store that faults; its store buffer stays as it was. -/
theorem ends_storeFault {va half : Nat} {ev : BitVec 16} (h : Ready s c t k) (hi : Rule.StoreCommand c d a imm n i)
    (hx : accessHalves c k.val .store (Rule.address (Rule.bank s c k) a imm) n s = (.fault ev va half, u))
    (hl : Looked c s u) (hgo : ∀ e ∈ s.cores[c].sb, entryStop s e = none) (hk : k.val < 7)
    (hb : Rule.Bound s.cores[c] k) :
    Rule.Ends i s fun w => Rule.Faulted s w c k t ev (BitVec.ofNat 48 va) (BitVec.ofNat 2 half) := by
  obtain ⟨-, -, he⟩ := storeCommand_effect hi
  have hrun : runInstr c [] [d, a] (coreStore c d a imm n) s = takeFault c ev (BitVec.ofNat 48 va) half u := by
    rw [runInstr_ready h, coreStore_fault hx]
    rfl
  have hsb : (getCore (takeFault c ev (BitVec.ofNat 48 va) half u) c).sb = s.cores[c].sb := by
    rw [getCore_fin]
    exact (takeFault_sb h hl.sameTask hk hb).trans hl.sb
  refine ends_of_next ?_ (faulted_of_bound h hl.sameTask hk hb)
  rw [he, runStore, hrun]
  refine (congrArg (fun l => finish s (l.findSome? (entryStop s)) _) hsb).trans ?_
  rw [findStop_none hgo]
  rfl

end

/-- The stores of a core, and ZLINE. -/
theorem coreStores_settled : Rule.CoreStores := by
  intro s u c t k d a imm n i h hm hroom hgo v va bytes holds
  have looked : ∀ {r : XRes}, xlatCore c va .store k.val s = (r, u) → Looked c s u := by
    intro r hx
    have hl := looked_xlatCore c va .store k.val s
    rwa [hx] at hl
  have hlen : bytes.length = n := natLe_length ..
  refine ⟨fun hi ha pa attr hx => ⟨fun hr => ?_, fun hr hn hs => ?_, fun hr hn f hs => ?_, fun hr hn hk hb => ?_⟩,
    fun hi ha pa attr x pb attrb => ?_, fun hi ha ev hx hk hb => ?_, fun pa attr hx => ?_⟩
  · have hl := looked hx
    refine ends_store h hi (accessHalves_aligned ha hx fun hc => absurd (hl.region ▸ hc) hr) hl hroom hgo
      (storeEntries_one va pa attr hlen) (by simp) ?_
    simpa using entryStop_memory hr
  · refine ends_store h hi (accessHalves_aligned ha hx fun _ => hn) (looked hx) hroom hgo (storeEntries_one va pa attr hlen)
      (by simp) ?_
    have hstop := entryStop_register (va := va) (attr := attr) hr (Rule.reg v d)
    simpa [bytes, hn] using hstop.trans hs
  · obtain ⟨-, -, he⟩ := storeCommand_effect hi
    have hstop := (entryStop_register (va := va) (attr := attr) hr (Rule.reg v d)).trans hs
    refine stops_of_effect ?_
    rw [he, runStore_stored h (accessHalves_aligned ha hx fun _ => hn) (looked hx) hroom
      (storeEntries_one va pa attr hlen) (by simp), List.findSome?_append, findStop_none hgo]
    subst hn
    simp only [Option.none_or, List.findSome?_singleton]
    exact congrArg (fun o => finish s o _) hstop
  · exact ends_storeFault (half := 0) h hi (accessHalves_narrow ha hx ((looked hx).region ▸ hr) hn) (looked hx) hgo hk hb
  · intro m vb hx hd hal hxb hdb hra hrb
    have hl := looked hx
    have hxs : Looked c s x := by
      have hx' := looked_xlatCore c vb .store k.val u
      rw [hxb] at hx'
      exact hl.trans hx'
    refine ends_store h hi (accessHalves_split ha hx hd (hl.alchk.trans hal) hxb hdb) hxs hroom hgo
      (storeEntries_two va pa vb pb m attr attrb hlen) (by simp) ?_
    intro e he
    rcases List.mem_pair.mp he with rfl | rfl
    · exact entryStop_memory hra
    · exact entryStop_memory hrb
  · exact ends_storeFault (half := 0) h hi (accessHalves_fault ha hx) (looked hx) hgo hk hb
  · have hl : Looked c s u := by
      have hx' := looked_xlatCore c (Rule.reg v a).toNat .rowStore k.val s
      rwa [hx] at hx'
    refine ⟨stored u c k _, gives_of_next rfl (runInstr_stored h hl hroom (by simp) ?_), stored_holds hl k _⟩
    simp only [coreZline, bankNow_eq, reg_eq]
    rw [hx]

/-! An entry leaves the store buffer (09:R275; 08:R241). -/

/-- An entry that can leave: no older one shares a byte with it, and it is write-combining or all older ones are. -/
structure CanLeave (old : List SbEntry) (e : SbEntry) : Prop where
  apart : ∀ o ∈ old, ¬ Rule.Overlaps o e.pa e.bytes.length
  order : e.attr = attrWC ∨ ∀ o ∈ old, o.attr = attrWC

/-- The entries that can leave, of a store buffer of which those before have been passed. -/
theorem canLeave_of_drainable {before sb : List SbEntry} {blocked : Bool} {e : SbEntry}
    (hb : blocked = false → ∀ o ∈ before, o.attr = attrWC) (h : e ∈ drainable before sb blocked) :
    ∃ old young, sb = old ++ e :: young ∧ CanLeave (before ++ old) e := by
  induction sb generalizing before blocked with
  | nil => cases h
  | cons x sb ih =>
    rw [drainable, List.mem_append] at h
    rcases h with h | h
    · split at h
      case isFalse => cases h
      case isTrue hfree =>
        cases List.mem_singleton.mp h
        simp only [Bool.and_eq_true, Bool.or_eq_true, Bool.not_eq_true', List.any_eq_false, beq_iff_eq] at hfree
        obtain ⟨hapart, horder⟩ := hfree
        refine ⟨[], sb, rfl, ?_, ?_⟩
        · rw [List.append_nil]
          exact fun o ho => mt meets_iff.2 (hapart o ho)
        · rw [List.append_nil]
          exact horder.imp_right hb
    · obtain ⟨old, young, rfl, hl⟩ := ih (fun hn o ho => by
        rw [Bool.or_eq_false_iff, bne_eq_false_iff_eq] at hn
        rcases List.mem_append.mp ho with ho | ho
        · exact hb hn.1 o ho
        · rw [List.mem_singleton.mp ho, hn.2]) h
      exact ⟨x :: old, young, rfl, by simpa using hl⟩

/-- The oldest entry can always leave. -/
theorem drainable_ne_nil {e : SbEntry} {es : List SbEntry} : drainable [] (e :: es) false ≠ [] := by
  simp [drainable]

section
variable {s : State} {c : Fin 8} {e : SbEntry}

/-- The memory part of a store that can be written. -/
theorem storeMem_writes (hw : Rule.Writable s (cellsAt e.pa e.bytes))
    (hz : e.bytes.length = 128 → e.pa % 128 = 0 ∧ e.bytes = List.replicate 128 0) :
    EngineWrote s (storeMem c e s) (cellsAt e.pa e.bytes) ∧ Spared s (storeMem c e s) := by
  unfold storeMem
  dsimp only
  split
  · rename_i hline
    rw [Bool.and_eq_true, beq_iff_eq] at hline
    obtain ⟨hpa, hbytes⟩ := hz hline.1
    have hcells : cellsAt e.pa e.bytes = zeroCells (e.pa / 128) := by
      rw [zeroCells, Nat.div_mul_cancel (Nat.dvd_of_mod_eq_zero hpa), hbytes]
    rw [hcells] at hw ⊢
    exact zeroLine_writes hw ..
  · exact ⟨(writeAccess_engineWrote hw ..).2, spared_writeAccess ..⟩

/-- An entry to memory leaves a core without rows. -/
theorem drainEntry_memory (hrows : s.cores[c].rows = []) (hr : region s e.pa ≠ .ctl) :
    drainEntry c e s =
      if e.bad then Rule.withCore s c
        { s.cores[c] with sb := s.cores[c].sb.erase e, lost := some (BitVec.ofNat 48 e.va) }
      else storeMem c e (Rule.withCore s c { s.cores[c] with sb := s.cores[c].sb.erase e }) := by
  have hreg : (region (Rule.withCore s c { s.cores[c] with sb := s.cores[c].sb.erase e }) e.pa == .ctl) = false :=
    beq_eq_false_iff_ne.mpr hr
  simp only [drainEntry, allRows_of_nil hrows, modCore_eq_withCore, withCore_withCore, core_withCore, hreg,
    Bool.false_eq_true, if_false]

/-- What an entry that has left has done: its bytes are in memory, or, of one with bad parity, the store is lost. -/
structure EntryLeft (s t : State) (c : Fin 8) (e : SbEntry) : Prop where
  dq    : t.dq = s.dq
  flags : t.flags = s.flags
  good  : e.bad = false → Rule.Wrote s t (cellsAt e.pa e.bytes) ∧
    t.cores = s.cores.set c.val { s.cores[c] with sb := s.cores[c].sb.erase e }
  bad   : e.bad = true → t.mem = s.mem ∧ t.cores = s.cores.set c.val
    { s.cores[c] with sb := s.cores[c].sb.erase e, lost := some (BitVec.ofNat 48 e.va) }

theorem entryLeft_of_memory (hrows : s.cores[c].rows = []) (hr : region s e.pa ≠ .ctl)
    (hw : Rule.Writable s (cellsAt e.pa e.bytes))
    (hz : e.bytes.length = 128 → e.pa % 128 = 0 ∧ e.bytes = List.replicate 128 0) :
    EntryLeft s (drainEntry c e s) c e := by
  rw [drainEntry_memory hrows hr]
  cases hbad : e.bad with
  | true => exact ⟨rfl, rfl, fun h => (Bool.false_ne_true (h.symm.trans hbad)).elim, fun _ => ⟨rfl, rfl⟩⟩
  | false =>
    obtain ⟨hwrote, hspared⟩ :=
      storeMem_writes (s := Rule.withCore s c { s.cores[c] with sb := s.cores[c].sb.erase e }) hw hz
    exact ⟨hspared.dq, hspared.flags, fun _ => ⟨hwrote.mem, hspared.cores⟩,
      fun h => (Bool.false_ne_true (hbad.symm.trans h)).elim⟩

end

/-- One of the entries that can leave does. -/
theorem drainOne_eq {s : State} {c : Fin 8} (hm : Rule.NoMismatch s) (hne : s.cores[c].sb ≠ []) :
    ∃ e ∈ drainable [] s.cores[c].sb false, ∃ n, drainOne c s = drainEntry c e (drawNat n s).2 := by
  have hall : (drainable [] s.cores[c].sb false).filter (fun e => !portWaits s e.pa e.bytes.length) =
      drainable [] s.cores[c].sb false := by
    rw [List.filter_eq_self]
    intro e _
    rw [portWaits_of_noMismatch hm]
    rfl
  have hnil : drainable [] s.cores[c].sb false ≠ [] := by
    obtain ⟨x, xs, hx⟩ := List.exists_cons_of_ne_nil hne
    rw [hx]
    exact drainable_ne_nil
  obtain ⟨x, xs, hx⟩ := List.exists_cons_of_ne_nil hnil
  rw [hx] at hall
  have hi : (drawNat (xs.length + 1) s).1 < (x :: xs).length := Nat.mod_lt _ (Nat.succ_pos _)
  refine ⟨(x :: xs).getD (drawNat (xs.length + 1) s).1 x, ?_, xs.length + 1, ?_⟩
  · rw [hx, List.getD_eq_getElem _ _ hi]
    exact List.getElem_mem hi
  · rw [drainOne, getCore_fin]
    rw [Fin.getElem_fin] at hx
    rw [hx, hall]

/-- The store buffer of a core. -/
theorem storeBuffers_settled : Rule.StoreBuffers := by
  intro s c hm x hrows hreg hwrite hzero
  refine ⟨fun hnil => gives_of_next rfl ?_, fun hne => ?_⟩
  · have hsb : s.cores[c.val].sb = [] := hnil
    simp [drainOne, hsb, drainable]
  · obtain ⟨e, he, n, hdrain⟩ := drainOne_eq hm hne
    obtain ⟨old, young, hsb, hapart, horder⟩ := canLeave_of_drainable (fun _ _ ho => (List.not_mem_nil ho).elim) he
    rw [List.nil_append] at hapart horder
    have hmem : e ∈ x.sb := hsb ▸ List.mem_append_right _ (List.mem_cons_self ..)
    obtain ⟨hdq, hflags, hgood, hbad⟩ := entryLeft_of_memory (s := (drawNat n s).2) hrows (hreg e hmem) (hwrite e hmem)
      (hzero e hmem)
    refine ends_of_next rfl ⟨old, e, young, hsb, hapart, horder, ?_⟩
    rw [hdrain]
    exact ⟨hdq, hflags, hgood, hbad⟩

/-- Settles O29: stores enter by the entries of their halves, and leave as the order of the buffer lets them. -/
theorem stores : Obligations.Stores := ⟨coreStores_settled, storeBuffers_settled⟩

end Sys2Proof.Machine

/-! SUPPORT. The bytes of tile registers: what their rows hold once rows have been put into them (10:R287, R288, R292). -/

namespace Sys2Proof.Machine

/-! Runs of bytes. -/

theorem Memory.getElem_gets {m : List Host.Cell} {a n i : Nat} (h : i < (Memory.gets m a n).length) :
    (Memory.gets m a n)[i] = Memory.get m (a + i) := by
  induction n generalizing a i with
  | zero => exact absurd h (Nat.not_lt_zero i)
  | succ n ih =>
    cases i with
    | zero => rfl
    | succ i =>
      have hi : i < (Memory.gets m (a + 1) n).length := Nat.lt_of_succ_lt_succ h
      exact (ih hi).trans (congrArg (Memory.get m) (by omega))

/-- The first bytes of a run are the shorter run; what follows them is the run from there on. -/
theorem Memory.take_gets (m : List Host.Cell) (a : Nat) {k n : Nat} (h : k ≤ n) :
    (Memory.gets m a n).take k = Memory.gets m a k :=
  List.ext_getElem (by simp [h]) fun i _ _ => by simp [Memory.getElem_gets]

theorem Memory.drop_gets (m : List Host.Cell) (a k n : Nat) :
    (Memory.gets m a n).drop k = Memory.gets m (a + k) (n - k) :=
  List.ext_getElem (by simp) fun i _ _ => by simp [Memory.getElem_gets, Nat.add_assoc]

/-- A run within a run. -/
theorem Memory.take_drop_gets (m : List Host.Cell) (a : Nat) {k l n : Nat} (h : k + l ≤ n) :
    ((Memory.gets m a n).drop k).take l = Memory.gets m (a + k) l := by
  rw [Memory.drop_gets, Memory.take_gets m _ (by omega)]

/-- A byte once consecutive bytes have been written. -/
theorem Memory.get_puts_run (m : List Host.Cell) (a : Nat) (bs : List Byte) (x : Nat) :
    Memory.get (Memory.puts m (cellsAt a bs)) x =
      if a ≤ x ∧ x < a + bs.length then bs.getD (x - a) 0 else Memory.get m x := by
  split
  next h =>
    obtain ⟨i, rfl⟩ := Nat.exists_eq_add_of_le h.1
    have hi : i < bs.length := Nat.lt_of_add_lt_add_left h.2
    rw [Memory.get_puts_cellsAt m a bs i hi, Nat.add_sub_cancel_left, List.getD_eq_getElem _ _ hi]
  next h => exact Memory.get_puts_other _ _ _ fun c hc e => h (e ▸ mem_cellsAt hc)

theorem Memory.gets_puts_same (m : List Host.Cell) (a : Nat) (bs : List Byte) :
    Memory.gets (Memory.puts m (cellsAt a bs)) a bs.length = bs :=
  Memory.gets_eq_of_get fun i hi => Memory.get_puts_cellsAt m a bs i hi

/-- Bytes written beside a run leave it. -/
theorem Memory.gets_puts_apart (m : List Host.Cell) {a b n : Nat} {bs : List Byte} (h : b + n ≤ a ∨ a + bs.length ≤ b) :
    Memory.gets (Memory.puts m (cellsAt a bs)) b n = Memory.gets m b n :=
  Memory.gets_congr fun x hb hx => Memory.get_puts_other _ _ _ fun c hc e => by
    have := mem_cellsAt hc
    omega

theorem take_append_run_append_drop {α : Type} (l : List α) (k n : Nat) :
    l.take k ++ (l.drop k).take n ++ l.drop (k + n) = l := by
  rw [← List.drop_drop, List.append_assoc, List.take_append_drop, List.take_append_drop]

/-- Bytes written within a run replace those that stood there. -/
theorem Memory.gets_puts_within (m : List Host.Cell) (a : Nat) {k n : Nat} {bs : List Byte} (h : k + bs.length ≤ n) :
    Memory.gets (Memory.puts m (cellsAt (a + k) bs)) a n =
      (Memory.gets m a n).take k ++ bs ++ (Memory.gets m a n).drop (k + bs.length) := by
  rw [← take_append_run_append_drop (Memory.gets (Memory.puts m (cellsAt (a + k) bs)) a n) k bs.length,
    Memory.take_drop_gets _ _ h, Memory.gets_puts_same, Memory.take_gets _ _ (by omega),
    Memory.take_gets _ _ (by omega), Memory.drop_gets, Memory.drop_gets, Memory.gets_puts_apart m (by omega),
    Memory.gets_puts_apart m (by omega)]

/-! Rows. -/

theorem Tile.gets_putRow (r : Nat) (bs : List Byte) (t : Tile) :
    Memory.gets (t.putRow r bs).bytes (64 * r) bs.length = bs := Memory.gets_puts_same ..

theorem putRows_append (rows : List (List Byte)) (bs : List Byte) (t : Tile) :
    putRows (rows ++ [bs]) t = (putRows rows t).putRow rows.length bs := by
  simp [putRows, List.zipIdx_append]

/-- A byte of a register whose first rows have been replaced: of these rows, or as it was. -/
theorem get_putRows {m : Nat} (hm : m ≤ 64) (a : Nat) (t : Tile) {rows : List (List Byte)} (h : ∀ bs ∈ rows, bs.length = m) :
    Memory.get (putRows rows t).bytes a =
      if a / 64 < rows.length ∧ a % 64 < m then (rows.getD (a / 64) []).getD (a % 64) 0 else Memory.get t.bytes a := by
  induction rows using List.reverseRecOn with
  | nil => rfl
  | append_singleton rows bs ih =>
    have hb : bs.length = m := h bs (by simp)
    have hrest := ih fun x hx => h x (List.mem_append_left _ hx)
    rw [putRows_append, Tile.putRow, Memory.get_puts_run, hb, hrest, List.length_append, List.length_singleton]
    by_cases ha : a / 64 = rows.length
    · by_cases hc : a % 64 < m
      · rw [if_pos (by omega), if_pos (by omega), ha, List.getD_append_right _ _ _ _ (Nat.le_refl _), Nat.sub_self,
          show a - 64 * rows.length = a % 64 by omega]
        rfl
      · rw [if_neg (by omega), if_neg (by omega), if_neg (by omega)]
    · rw [if_neg (by omega)]
      by_cases hlt : a / 64 < rows.length
      · rw [List.getD_append _ _ _ _ hlt]
        exact if_congr (by omega) rfl rfl
      · rw [if_neg (by omega), if_neg (by omega)]

theorem zipIdx_map_range {α : Type} (f : Nat → α) (n : Nat) :
    ((List.range n).map f).zipIdx = (List.range n).map fun i => (f i, i) :=
  List.ext_getElem (by simp) fun i _ _ => by simp

theorem Tile.zeroRows_eq (n m : Nat) (t : Tile) :
    Tile.zeroRows n m t = putRows ((List.range n).map fun _ => List.replicate m 0) t := by
  rw [putRows, zipIdx_map_range, List.foldl_map, Tile.zeroRows]

section
variable {n m : Nat} {row : Nat → List Byte}

/-- Rows that have been put into a register read as given. -/
theorem gets_putRows (hm : m ≤ 64) (h : ∀ i, i < n → (row i).length = m) (t : Tile) {i : Nat} (hi : i < n) :
    Memory.gets (putRows ((List.range n).map row) t).bytes (64 * i) m = row i := by
  rw [← h i hi]
  refine Memory.gets_eq_of_get fun j hj => ?_
  have hjm : j < m := h i hi ▸ hj
  have hrow : ((List.range n).map row).getD i [] = row i := by simp [List.getD, hi]
  rw [get_putRows hm _ t (by simpa using h), List.length_map, List.length_range, if_pos (by omega),
    show (64 * i + j) / 64 = i by omega, show (64 * i + j) % 64 = j by omega, hrow, List.getD_eq_getElem _ _ hj]

/-- Bytes beside the rows that have been put into a register are as they were. -/
theorem get_putRows_beside (hm : m ≤ 64) (h : ∀ i, i < n → (row i).length = m) (t : Tile) {a : Nat}
    (ha : a / 64 < n → m ≤ a % 64) : Memory.get (putRows ((List.range n).map row) t).bytes a = Memory.get t.bytes a := by
  rw [get_putRows hm _ t (by simpa using h), List.length_map, List.length_range, if_neg (by omega)]

end

end Sys2Proof.Machine

/-! SUPPORT. How a tile instruction ends whose task owns the tile file: its checks, its commit and its fault
(10:R288, R294 to R297; 11:R327; 14:R390, R392). -/

namespace Sys2Proof.Machine

open Rule (Ready)

/-! Before the instruction (10:R297, R302; 11:R327). -/

theorem rowsThrough_of_nil {s : State} {c : Fin 8} (h : s.cores[c].rows = []) (p : RowOp → Bool) :
    rowsThrough c p s = s := by
  have hr : s.cores[c.val].rows = [] := h
  simp [rowsThrough, rowsFrom, hr]

section
variable {s u w : State} {c : Fin 8} {t : Byte} {k : Fin 8} {dst src : List (BitVec 5)} {ts : List Nat} {legal : Bool}
  {f : Nat → State → Commit × State} {i : Instr} {b : Bank} {P : State → Prop}

theorem useTiles_of_owner (h : Ready s c t k) (ho : s.cores[c].tileOwner = some t) : useTiles c s = some s := by
  have ho' : s.cores[c.val].tileOwner = some t := ho
  simp [useTiles, running_of_ready h, ho']

/-- A legal tile instruction of the owner does what its function does. -/
theorem tileInstr_of_owner (h : Ready s c t k) (ho : Rule.Owns s c t) (hl : legal = true) :
    tileInstr c dst src ts legal f s = .next (settle s (endInstr c k.val (f k.val s))) := by
  have hr : (getCore s c.val).rows = [] := (congrArg Core.rows (getCore_fin s c)).trans ho.rows
  rw [tileInstr, runInstr_ready h, rowsThrough_of_nil ho.rows, rowCheck_of_ready h]
  simp only [hr, hl, useTiles_of_owner h ho.owner, List.any_nil, Bool.not_true, Bool.false_eq_true, if_false]

theorem ends_tile (h : Ready s c t k) (ho : Rule.Owns s c t) (he : effect i s = tileInstr c dst src ts legal f s)
    (hl : legal = true) (hf : f k.val s = (.done b, u)) (hp : P (Rule.commit u c k b)) : Rule.Ends i s P := by
  rw [tileInstr_of_owner h ho hl, hf, endInstr_done] at he
  exact ends_of_next he hp

/-- A tile instruction whose function answers a parity fault of the state that it found (14:R390, R392). -/
theorem ends_tileParity (h : Ready s c t k) (ho : Rule.Owns s c t) (he : effect i s = tileInstr c dst src ts legal f s)
    (hl : legal = true) (hf : f k.val s = (.fault ccParity 0 0, s)) (hk : k.val < 7) (hb : Rule.Bound s.cores[c] k) :
    Rule.Ends i s fun v => Rule.Faulted s v c k t ccParity 0 0 := by
  rw [tileInstr_of_owner h ho hl, hf] at he
  exact ends_of_next he (faulted_of_bound h (.refl s c) hk hb)

end

/-! The commit (10:R288). -/

/-- u is s but for what a tile instruction changes before it commits: of core c, the bank of level k, the tiles and the rows. -/
structure TileWork (s u : State) (c k : Fin 8) : Prop where
  banks : ∀ b, u.cores[c].banks.set k.val b = s.cores[c].banks.set k.val b
  count : u.cores[c].instret = s.cores[c].instret
  tasks : u.cores[c].tasks = s.cores[c].tasks
  mem   : u.mem = s.mem
  only  : Rule.CoreOnly s u c

section
variable {s u w : State} {c k : Fin 8} {b : Bank}

theorem coreOnly_withCore (s : State) (c : Fin 8) (x : Core) : Rule.CoreOnly s (Rule.withCore s c x) c :=
  ⟨fun _ hj => withCore_other s x hj, rfl, rfl⟩

theorem coreOnly_of_quiet (h : Quiet c s u) : Rule.CoreOnly s u c := ⟨fun _ hj => h.other hj, h.dq, h.flags⟩

theorem coreOnly_trans (h : Rule.CoreOnly s u c) (k : Rule.CoreOnly u w c) : Rule.CoreOnly s w c :=
  ⟨fun j hj => (k.cores j hj).trans (h.cores j hj), k.dq.trans h.dq, k.flags.trans h.flags⟩

theorem TileWork.done (h : TileWork s u c k) (b : Bank) : Rule.TileDone s (Rule.commit u c k (b.advance 8)) c k b := by
  rw [commit_eq]
  refine ⟨?_, ?_, ?_, h.mem, coreOnly_trans h.only (coreOnly_withCore ..)⟩ <;> rw [core_withCore]
  · exact h.banks _
  · exact congrArg (· + 1) h.count
  · exact h.tasks

/-- An instruction that changes its core, after reads and translations. -/
theorem tileWork_withCore (h : Looked c s w) {y : Core} (hb : ∀ b, y.banks.set k.val b = w.cores[c].banks.set k.val b)
    (hi : y.instret = w.cores[c].instret) (ht : y.tasks = w.cores[c].tasks) : TileWork s (Rule.withCore w c y) c k where
  banks b := by rw [core_withCore, hb, h.banks]
  count := by rw [core_withCore, hi, h.sameTask.count]
  tasks := by rw [core_withCore, ht, h.sameTask.tasks]
  mem := h.mem
  only := coreOnly_trans (coreOnly_of_quiet h.toQuiet) (coreOnly_withCore ..)

theorem tileDone_eq (s : State) (c k : Fin 8) (g : Core → Core) : tileDone c k.val g s =
    (.done (((g s.cores[c]).banks[k]).advance 8), Rule.withCore s c (g s.cores[c])) := by
  rw [tileDone, modCore_eq_withCore, bankNow_eq, bank_withCore]

theorem tileResult_eq (s : State) (c k : Fin 8) (d : BitVec 5) (v : Word) (g : Core → Core) : tileResult c k.val d v g s =
    (.done ((Rule.put (g s.cores[c]).banks[k] d v).advance 8), Rule.withCore s c (g s.cores[c])) := by
  rw [tileResult, modCore_eq_withCore, bankNow_eq, bank_withCore, setReg_eq]

theorem core_commit (u : State) (c k : Fin 8) (b : Bank) : (Rule.commit u c k b).cores[c] = Rule.counted u.cores[c] k b :=
  core_withCore ..

end

/-! A register is written (10:R288). -/

theorem tileAt_fin (x : Core) (r : Fin 12) : tileAt x r.val = x.tiles[r] := vget_fin ..

theorem tileAt_modTile_same {td : Nat} (h : td < 12) (f : Tile → Tile) (x : Core) :
    tileAt (modTile td f x) td = f (tileAt x td) := vget_vmod_same _ _ _ _ h

theorem modTile_other (td : Nat) (f : Tile → Tile) (x : Core) (r : Fin 12) (h : r.val ≠ td) :
    (modTile td f x).tiles[r] = x.tiles[r] := by
  rw [← tileAt_fin, ← tileAt_fin]
  exact vget_vmod_other _ _ _ _ _ h.symm

theorem tileAt_congr {x y : Core} (h : x.tiles = y.tiles) (r : Nat) : tileAt x r = tileAt y r := by rw [tileAt, h, tileAt]

section
variable {s u : State} {c : Fin 8} {td n m : Nat} {fmt : BitVec 4} {f : Tile → Tile}

theorem tileAt_writeTile (h : td < 12) (x : Core) : tileAt (writeTile td n m fmt f x) td =
    { f (tileAt x td) with tag := some ⟨n, m, fmt⟩, inUse := true } := tileAt_modTile_same h ..

theorem writeTile_other (x : Core) (r : Fin 12) (h : r.val ≠ td) : (writeTile td n m fmt f x).tiles[r] = x.tiles[r] :=
  modTile_other td _ _ r h

/-- A register that has been written in a shape, from what its rows then hold. -/
theorem tilePut_writeTile {x : Core} (ht : u.cores[c].tiles = (writeTile td n m fmt f x).tiles)
    (hx : x.tiles = s.cores[c].tiles) (htd : td < 12) {rows : Nat → List Byte}
    (hc : ∀ i, i < n → Memory.gets (f (tileAt s.cores[c] td)).bytes (64 * i) m = rows i)
    (hb : ∀ a, (a / 64 < n → m ≤ a % 64) →
      Memory.get (f (tileAt s.cores[c] td)).bytes a = Memory.get (tileAt s.cores[c] td).bytes a) :
    Rule.TilePut s u c td ⟨n, m, fmt⟩ rows := by
  have hat : tileAt u.cores[c] td = { f (tileAt s.cores[c] td) with tag := some ⟨n, m, fmt⟩, inUse := true } := by
    rw [tileAt_congr ht, tileAt_writeTile htd, tileAt_congr hx]
  refine ⟨fun r hr => ?_, ?_, fun i hi => ?_, fun a ha => ?_⟩
  · rw [ht, writeTile_other x r hr]
    exact congrArg (·[r]) hx
  · rw [hat]
    exact ⟨rfl, rfl⟩
  · rw [hat]
    exact hc i hi
  · rw [hat]
    exact hb a ha

/-- A register whose rows have been replaced. -/
theorem tilePut_putRows {x : Core} {rows : Nat → List Byte}
    (ht : u.cores[c].tiles = (writeTile td n m fmt (putRows ((List.range n).map rows)) x).tiles)
    (hx : x.tiles = s.cores[c].tiles) (htd : td < 12) (hm : m ≤ 64) (hr : ∀ i, i < n → (rows i).length = m) :
    Rule.TilePut s u c td ⟨n, m, fmt⟩ rows :=
  tilePut_writeTile ht hx htd (fun _ hi => gets_putRows hm hr _ hi) fun _ ha => get_putRows_beside hm hr _ ha

end

/-! Sources (10:R295, R296; 14:R390). -/

section
variable {s : State} {c : Fin 8} {r n m : Nat} {fmt : Option (BitVec 4)}

theorem named_of_fits (h : Rule.Fits s c r n m fmt) :
    Named.fits ⟨r, n, m, fmt⟩ s.cores[c] = true ∧ Named.agrees ⟨r, n, m, fmt⟩ s.cores[c] = true := by
  obtain ⟨g, hg, hn, hm, hf⟩ := h
  refine ⟨?_, ?_⟩
  · simp only [Named.fits, hg, hn, hm, decide_true, Bool.and_self]
  · cases fmt with
    | none => rfl
    | some f => simp only [Named.agrees, hg, hf f rfl, beq_self_eq_true]

theorem sourceFault_none {x : Core} {ns : List Named} (h : ∀ n ∈ ns, n.fits x = true ∧ n.agrees x = true) :
    sourceFault x ns = none := by
  have hfits : ns.find? (fun n => !n.fits x) = none := by simpa using fun n hn => (h n hn).1
  have hagrees : ns.find? (fun n => !n.agrees x) = none := by simpa using fun n hn => (h n hn).2
  rw [sourceFault, hfits, hagrees]
  rfl

theorem bad_of_whole (h : Rule.Whole s c) (r : Nat) : (tileAt s.cores[c] r).bad = 0 := by
  by_cases hr : r < 12
  · rw [show r = (⟨r, hr⟩ : Fin 12).val from rfl, tileAt_fin]
    exact h.rows ⟨r, hr⟩
  · rw [tileAt, vget_of_le _ _ _ (Nat.le_of_not_lt hr)]
    rfl

theorem parityBad_of_whole (h : Rule.Whole s c) (n : Named) : n.parityBad s.cores[c] = false :=
  List.any_eq_false.mpr fun i _ => by rw [bad_of_whole h]; simp

theorem parityBad_of_row (h : ∃ i, i < n ∧ (tileAt s.cores[c] r).bad.getLsbD i = true) :
    Named.parityBad ⟨r, n, m, fmt⟩ s.cores[c] = true := by
  obtain ⟨i, hi, hbad⟩ := h
  exact List.any_eq_true.mpr ⟨i, List.mem_range.mpr hi, hbad⟩

/-- A source that fits: it can be read, or its parity is bad. -/
theorem readFault_of_fits (h : Rule.Fits s c r n m fmt) :
    readFault s.cores[c] ⟨r, n, m, fmt⟩ = parityFault (Named.parityBad ⟨r, n, m, fmt⟩ s.cores[c]) := by
  rw [readFault, sourceFault_none (by simpa using named_of_fits h), Option.none_or]

theorem readFault_of_whole (h : Rule.Fits s c r n m fmt) (hw : Rule.Whole s c) :
    readFault s.cores[c] ⟨r, n, m, fmt⟩ = none := by
  rw [readFault_of_fits h, parityBad_of_whole hw]
  rfl

end

/-- A destination that is legal is a register. -/
theorem lt_of_destLegal {td m : Nat} {fmt : BitVec 4} (h : destLegal td m fmt = true) : td < 12 := by
  rw [destLegal, Bool.and_eq_true, Bool.and_eq_true] at h
  exact of_decide_eq_true h.1.1

theorem isTile_of_lt {r : Nat} (h : r < 12) : isTile r = true := decide_eq_true h

end Sys2Proof.Machine

/-! SUPPORT. O36: the tile instructions that move bytes, tags and the row-fault status (10:R288, R292, R293, R296, R303). -/

namespace Sys2Proof.Machine

open Rule (Ready)

section
variable {s : State} {c : Fin 8} {t : Byte} {k : Fin 8} {dst src : List (BitVec 5)} {ts : List Nat} {legal : Bool}
  {f : Nat → State → Commit × State} {i : Instr}

/-- An instruction that changes its core where no task and no bank looks. -/
theorem ends_tileDone (h : Ready s c t k) (ho : Rule.Owns s c t) (he : effect i s = tileInstr c dst src ts legal f s)
    (hl : legal = true) {g : Core → Core} (hf : f k.val s = tileDone c k.val g s)
    (hbanks : (g s.cores[c]).banks = s.cores[c].banks) (hcount : (g s.cores[c]).instret = s.cores[c].instret)
    (htasks : (g s.cores[c]).tasks = s.cores[c].tasks) {P : State → Prop}
    (hp : ∀ u, u.cores[c].tiles = (g s.cores[c]).tiles → Rule.TileDone s u c k (Rule.bank s c k) → P u) : Rule.Ends i s P := by
  rw [tileDone_eq, hbanks] at hf
  refine ends_tile h ho he hl hf (hp _ ?_ ?_)
  · rw [core_commit, core_withCore]
    rfl
  · exact (tileWork_withCore (.refl c s) (fun _ => by rw [hbanks]) hcount htasks).done (Rule.bank s c k)

/-- An instruction that writes a tile register. -/
theorem ends_writeTile (h : Ready s c t k) (ho : Rule.Owns s c t) (he : effect i s = tileInstr c dst src ts legal f s)
    (hl : legal = true) {td n m : Nat} {fmt : BitVec 4} {g : Tile → Tile}
    (hf : f k.val s = tileDone c k.val (writeTile td n m fmt g) s) (htd : td < 12) {rows : Nat → List Byte}
    (hc : ∀ i, i < n → Memory.gets (g (tileAt s.cores[c] td)).bytes (64 * i) m = rows i)
    (hb : ∀ a, (a / 64 < n → m ≤ a % 64) →
      Memory.get (g (tileAt s.cores[c] td)).bytes a = Memory.get (tileAt s.cores[c] td).bytes a) :
    Rule.Ends i s fun u => Rule.TileDone s u c k (Rule.bank s c k) ∧ Rule.TilePut s u c td ⟨n, m, fmt⟩ rows :=
  ends_tileDone h ho he hl hf rfl rfl rfl fun _ hu hd => ⟨hd, tilePut_writeTile hu rfl htd hc hb⟩

/-- An instruction with a result in a general register. -/
theorem ends_tileResult (h : Ready s c t k) (ho : Rule.Owns s c t) (he : effect i s = tileInstr c dst src ts legal f s)
    (hl : legal = true) {d : BitVec 5} {x : Word} {g : Core → Core} (hf : f k.val s = tileResult c k.val d x g s)
    (hbanks : (g s.cores[c]).banks = s.cores[c].banks) (hcount : (g s.cores[c]).instret = s.cores[c].instret)
    (htasks : (g s.cores[c]).tasks = s.cores[c].tasks) (htiles : (g s.cores[c]).tiles = s.cores[c].tiles) :
    Rule.Ends i s fun u => Rule.TileDone s u c k (Rule.put (Rule.bank s c k) d x) ∧ Rule.TilesKept s u c ∧
      u.cores[c].rowFault = (g s.cores[c]).rowFault := by
  rw [tileResult_eq, hbanks] at hf
  refine ends_tile h ho he hl hf ⟨?_, ?_, ?_⟩
  · exact (tileWork_withCore (.refl c s) (fun _ => by rw [hbanks]) hcount htasks).done (Rule.put (Rule.bank s c k) d x)
  · rw [Rule.TilesKept, core_commit, core_withCore]
    exact htiles
  · rw [core_commit, core_withCore]
    rfl

end

/-! Positions in a row (10:R292). -/

theorem posUnit_eq (g : Word) : posUnit g = g.toNat / 32 % 8 := by
  rw [posUnit, fld, Nat.shiftRight_eq_div_pow]
  rfl

theorem posUnit_lt (g : Word) : posUnit g < 8 := Nat.mod_lt _ (by decide)

/-- The rows of a register of which 8 bytes have been replaced. -/
theorem gets_putUnit (v g : Word) (tile : Tile) {m : Nat} (hu : 8 * posUnit g + 8 ≤ m) (hm : m ≤ 64) (i : Nat) :
    Memory.gets (putUnit v g tile).bytes (64 * i) m =
      if i = posRow g then (Memory.gets tile.bytes (64 * i) m).take (8 * posUnit g) ++ natLe v.toNat 8 ++
        (Memory.gets tile.bytes (64 * i) m).drop (8 * posUnit g + 8)
      else Memory.gets tile.bytes (64 * i) m := by
  have hlen : (natLe v.toNat 8).length = 8 := natLe_length ..
  split
  next hi =>
    rw [hi]
    exact Memory.gets_puts_within _ _ (bs := natLe v.toNat 8) (hlen ▸ hu)
  next hi =>
    refine Memory.gets_puts_apart _ ?_
    rw [hlen]
    omega

/-- Bytes outside a shape that covers the position. -/
theorem get_putUnit_beside (v g : Word) (tile : Tile) {n m a : Nat} (hr : posRow g < n) (hu : 8 * posUnit g + 8 ≤ m)
    (hm : m ≤ 64) (ha : a / 64 < n → m ≤ a % 64) :
    Memory.get (putUnit v g tile).bytes a = Memory.get tile.bytes a := by
  refine (Memory.get_puts_run ..).trans (if_neg ?_)
  rw [natLe_length]
  omega

section
variable {s : State} {c : Fin 8} {t : Byte} {k : Fin 8} (h : Ready s c t k) (ho : Rule.Owns s c t)
  (td ts fmt : BitVec 4) (ga gb rows : BitVec 5) (rb : BitVec 6)
include h ho

theorem tzero_ends (hd : destLegal td.toNat (rb.toNat + 1) fmt = true) : Rule.Ends (.tzero c td rows rb fmt) s fun u =>
    Rule.TileDone s u c k (Rule.bank s c k) ∧
    Rule.TilePut s u c td.toNat ⟨rows.toNat + 1, rb.toNat + 1, fmt⟩ fun _ => List.replicate (rb.toNat + 1) 0 := by
  have hlen : ∀ i, i < rows.toNat + 1 → (List.replicate (rb.toNat + 1) (0 : Byte)).length = rb.toNat + 1 :=
    fun _ _ => List.length_replicate
  refine ends_writeTile h ho rfl hd rfl (lt_of_destLegal hd) (fun i hi => ?_) fun a ha => ?_ <;> rw [Tile.zeroRows_eq]
  · exact gets_putRows rb.isLt hlen _ hi
  · exact get_putRows_beside rb.isLt hlen _ ha

theorem tmov_ends (hw : Rule.Whole s c) (x : Bool) (hd : destLegal td.toNat (rb.toNat + 1) fmt = true) (hs : ts.toNat < 12)
    (hfit : Rule.Fits s c ts.toNat (rows.toNat + 1) (rb.toNat + 1) (if x then none else some fmt)) :
    Rule.Ends (.tmov c td ts x rows rb fmt) s fun u => Rule.TileDone s u c k (Rule.bank s c k) ∧
      Rule.TilePut s u c td.toNat ⟨rows.toNat + 1, rb.toNat + 1, fmt⟩ fun i =>
        Rule.tileRow s c ts.toNat i (rb.toNat + 1) := by
  have hlen : ∀ i, i < rows.toNat + 1 → (Rule.tileRow s c ts.toNat i (rb.toNat + 1)).length = rb.toNat + 1 :=
    fun _ _ => Memory.length_gets ..
  refine ends_writeTile h ho rfl (by rw [isTile_of_lt hs, hd]; rfl) ?_ (lt_of_destLegal hd)
    (fun i hi => gets_putRows rb.isLt hlen _ hi) fun a ha => get_putRows_beside rb.isLt hlen _ ha
  have hread := readFault_of_whole hfit hw
  rw [Fin.getElem_fin] at hread
  simp only [getCore_fin, hread]
  rfl

theorem trdg_ends (hw : Rule.Whole s c) (hs : ts.toNat < 12) {g : Word} (hg : g = Rule.reg (Rule.bank s c k) gb)
    (hfit : Rule.Fits s c ts.toNat (posRow g + 1) (8 * posUnit g + 8) none) :
    Rule.Ends (.trdg c ts ga gb) s fun u => Rule.TileDone s u c k (Rule.put (Rule.bank s c k) ga (Rule.low
      (leNat (((Rule.tileRow s c ts.toNat (posRow g) 64).drop (8 * posUnit g)).take 8)))) ∧ Rule.TilesKept s u c := by
  have hsource : (sourceFault s.cores[c] [⟨ts.toNat, posRow g + 1, 8 * posUnit g + 8, none⟩]).or
      (parityFault ((tileAt s.cores[c] ts.toNat).bad.getLsbD (posRow g))) = none := by
    rw [sourceFault_none (by simpa using named_of_fits hfit), bad_of_whole hw]
    simp [parityFault]
  rw [Fin.getElem_fin] at hsource
  have hbytes : ((Rule.tileRow s c ts.toNat (posRow g) 64).drop (8 * posUnit g)).take 8 =
      Memory.gets (tileAt s.cores[c.val] ts.toNat).bytes (64 * posRow g + 8 * posUnit g) 8 :=
    Memory.take_drop_gets _ _ (by have := posUnit_lt g; omega)
  obtain ⟨u, hu, hdone, hkept, -⟩ := ends_tileResult h ho (i := .trdg c ts ga gb) rfl (isTile_of_lt hs)
    (x := Rule.low (leNat (((Rule.tileRow s c ts.toNat (posRow g) 64).drop (8 * posUnit g)).take 8))) (d := ga) (g := id)
    (by simp only [getCore_fin, bankNow_eq, reg_eq, ← hg, hsource, hbytes]; rfl) rfl rfl rfl rfl
  exact ⟨u, hu, hdone, hkept⟩

theorem twrg_ends (hd : destLegal td.toNat (rb.toNat + 1) fmt = true) {g : Word}
    (hg : g = Rule.reg (Rule.bank s c k) gb) (hr : posRow g < rows.toNat + 1) (hu : 8 * posUnit g + 8 ≤ rb.toNat + 1) :
    Rule.Ends (.twrg c td ga gb rows rb fmt) s fun u => Rule.TileDone s u c k (Rule.bank s c k) ∧
      Rule.TilePut s u c td.toNat ⟨rows.toNat + 1, rb.toNat + 1, fmt⟩ fun i =>
        let old := Rule.tileRow s c td.toNat i (rb.toNat + 1)
        if i = posRow g then
          old.take (8 * posUnit g) ++ natLe (Rule.reg (Rule.bank s c k) ga).toNat 8 ++ old.drop (8 * posUnit g + 8)
        else old := by
  have hin : ¬(rows.toNat + 1 ≤ posRow g ∨ rb.toNat + 1 < 8 * posUnit g + 8) := by omega
  refine ends_writeTile h ho rfl hd (g := putUnit (Rule.reg (Rule.bank s c k) ga) g) ?_ (lt_of_destLegal hd)
    (fun i _ => gets_putUnit _ _ _ hu rb.isLt i) fun a ha => get_putUnit_beside _ _ _ hr hu rb.isLt ha
  simp only [bankNow_eq, reg_eq, ← hg, Bool.or_eq_true, decide_eq_true_eq, if_neg hin]

theorem trel_ends (hd : td.toNat < 12) : Rule.Ends (.trel c td) s fun u => Rule.TileDone s u c k (Rule.bank s c k) ∧
    (tileAt u.cores[c] td.toNat).tag = none ∧ (tileAt u.cores[c] td.toNat).inUse = false ∧
    ∀ r : Fin 12, r.val ≠ td.toNat → (u.cores[c]).tiles[r] = (s.cores[c]).tiles[r] := by
  refine ends_tileDone h ho rfl (isTile_of_lt hd) rfl rfl rfl rfl fun u hu hdone => ⟨hdone, ?_, ?_, fun r hr => ?_⟩
  · rw [tileAt_congr hu, tileAt_modTile_same hd]
  · rw [tileAt_congr hu, tileAt_modTile_same hd]
  · rw [hu, modTile_other _ _ _ r hr, writeTile_other _ r hr]

theorem ttag_ends (hs : ts.toNat < 12) : Rule.Ends (.ttag c ts ga) s fun u =>
    Rule.TileDone s u c k (Rule.put (Rule.bank s c k) ga (tagWord (tileAt s.cores[c] ts.toNat))) ∧
    Rule.TilesKept s u c := by
  obtain ⟨u, hu, hdone, hkept, -⟩ := ends_tileResult h ho (i := .ttag c ts ga) rfl (isTile_of_lt hs)
    (x := tagWord (tileAt s.cores[c] ts.toNat)) (by rw [getCore_fin]; rfl) rfl rfl rfl rfl
  exact ⟨u, hu, hdone, hkept⟩

theorem tfstat_ends : Rule.Ends (.tfstat c ga) s fun u =>
    Rule.TileDone s u c k (Rule.put (Rule.bank s c k) ga (rowFaultWord s.cores[c].rowFault)) ∧ Rule.TilesKept s u c ∧
    u.cores[c].rowFault = { s.cores[c].rowFault with valid := false, more := false } :=
  ends_tileResult h ho (i := .tfstat c ga) rfl rfl (g := fun x =>
    { x with rowFault := { x.rowFault with valid := false, more := false } }) (by rw [getCore_fin]; rfl) rfl rfl rfl rfl

end

/-- Tile registers: each instruction by what it does. -/
theorem tileRegisters_settled : Rule.TileRegisters := by
  intro s c t k h ho hw td ts fmt ga gb rows rb x v n m tag src dst
  refine ⟨fun hd => tzero_ends h ho td fmt rows rb hd, fun hd hs hfit => tmov_ends h ho td ts fmt rows rb hw x hd hs hfit,
    ?_, fun hd => trel_ends h ho td hd, fun hs => ttag_ends h ho ts ga hs, tfstat_ends h ho ga⟩
  intro g row unit
  have hu : posUnit g = unit := posUnit_eq g
  rw [← hu]
  exact ⟨fun hs hfit => trdg_ends h ho ts ga gb hw hs rfl hfit, fun hd hr hunit =>
    twrg_ends h ho td fmt ga gb rows rb hd rfl hr hunit⟩

end Sys2Proof.Machine

/-! SUPPORT. O36: TCVT and TMM, with their residue check (10:R304, R305, R307, R310; 14:R390, R392). -/

namespace Sys2Proof.Machine

open Rule (Ready)

/-! The residue check (14:R392). -/

section
variable {s : State} {c : Fin 8} {t : Byte} {k : Fin 8} {dst src : List (BitVec 5)} {ts : List Nat} {legal : Bool}
  {f : Residue → Nat → State → Commit × State} {i : Residue → Instr}

theorem tileWork_retryRecord {u : State} (h : TileWork s u c k) : TileWork s (retryRecord c k.val s u) c k :=
  ⟨h.banks, h.count, h.tasks, h.mem, h.only.cores, h.only.dq, h.only.flags⟩

/-- How an instruction with a residue check ends: its results stand, stand with the record of a retry, or it faults. -/
def EndsChecked (s : State) (c : Fin 8) (t : Byte) (k : Fin 8) (i : Residue → Instr) (result : State → Prop) : Prop :=
  Rule.Ends (i .ok) s (fun u => result u ∧ u.flt = s.flt) ∧
  Rule.Ends (i .retried) s (fun u => result u ∧ u.flt.detected.length = s.flt.detected.length + 1) ∧
  (k.val < 7 → Rule.Bound s.cores[c] k → Rule.Ends (i .failed) s fun u => Rule.Faulted s u c k t ccParity 0 0)

theorem ends_tileChecked (h : Ready s c t k) (ho : Rule.Owns s c t)
    (he : ∀ r, effect (i r) s = tileInstr c dst src ts legal (f r) s) (hl : legal = true) {b : Bank} {y : Core}
    (hf : ∀ r, f r k.val s = tileResidue c r k.val s (.done (b.advance 8), Rule.withCore s c y))
    (hy : TileWork s (Rule.withCore s c y) c k) {result : State → Prop}
    (hp : ∀ u, u.cores[c].tiles = y.tiles → Rule.TileDone s u c k b → result u) : EndsChecked s c t k i result := by
  have htiles : ∀ u : State, u.cores = (Rule.withCore s c y).cores →
      (Rule.commit u c k (b.advance 8)).cores[c].tiles = y.tiles := fun u hu => by
    rw [core_commit, hu, core_withCore]
    rfl
  refine ⟨?_, ?_, fun hk hb => ends_tileParity h ho (he .failed) hl (hf .failed) hk hb⟩
  · exact ends_tile h ho (he .ok) hl (hf .ok) ⟨hp _ (htiles _ rfl) (hy.done b), rfl⟩
  · exact ends_tile h ho (he .retried) hl (hf .retried)
      ⟨hp _ (htiles _ rfl) ((tileWork_retryRecord hy).done b), insertDetected_length ..⟩

end

/-! TCVT (10:R310). -/

/-- Row i of a conversion, and the flags that it raises. -/
def convRow (g : Tcfg) (x : Word) (src dst : BitVec 4) (m : Nat) (row : Nat → List Byte) (i : Nat) : List Byte × Exc :=
  tileConv g x (tileFmt src) (tileFmt dst) i m (row i)

/-- The flags that n rows raise. -/
def flagsRaised (n : Nat) (out : Nat → List Byte × Exc) : Exc := (List.range n).foldl (fun e i => e ||| (out i).2) 0

theorem tileConvert_eq (g : Tcfg) (x : Word) (src dst : BitVec 4) (m n : Nat) (row : Nat → List Byte) :
    tileConvert g x src dst m ((List.range n).map row) =
      ((List.range n).map fun i => (convRow g x src dst m row i).1, flagsRaised n (convRow g x src dst m row)) := by
  rw [tileConvert, zipIdx_map_range, List.map_map, List.map_map, List.foldl_map, List.foldl_map]
  rfl

theorem convRow_length (g : Tcfg) (x : Word) (src dst : BitVec 4) (m : Nat) (row : Nat → List Byte) (i : Nat) :
    (convRow g x src dst m row i).1.length = m := natLe_length ..

/-- The core in which rows have been converted into a register and have raised their flags. -/
def convCore (x : Core) (k : Fin 8) (td n m : Nat) (fmt : BitVec 4) (out : Nat → List Byte × Exc) : Core :=
  modBank k.val (fun b => { b with cs := csRaise b.cs (flagsRaised n out) })
    (writeTile td n m fmt (putRows ((List.range n).map fun i => (out i).1)) x)

/-- The bank with the flags of a conversion. -/
def convBank (v : Bank) (e : Exc) : Bank := { v with cs := v.cs ||| (e.setWidth 13 <<< 8) }

theorem convCore_banks (x : Core) (k : Fin 8) (td n m : Nat) (fmt : BitVec 4) (out : Nat → List Byte × Exc) :
    (convCore x k td n m fmt out).banks = x.banks.set k.val (convBank x.banks[k] (flagsRaised n out)) := by
  rw [convCore, modBank_fin]
  rfl

theorem tileDone_convCore (s : State) (c k : Fin 8) (td n m : Nat) (fmt : BitVec 4) (out : Nat → List Byte × Exc) :
    tileDone c k.val (fun x => convCore x k td n m fmt out) s =
      (.done ((convBank (Rule.bank s c k) (flagsRaised n out)).advance 8),
        Rule.withCore s c (convCore s.cores[c] k td n m fmt out)) := by
  rw [tileDone_eq, convCore_banks]
  simp [Rule.bank]

theorem namedRows_eq (s : State) (c : Fin 8) (r n m : Nat) (fmt : Option (BitVec 4)) :
    namedRows s.cores[c.val] ⟨r, n, m, fmt⟩ = (List.range n).map fun i => Rule.tileRow s c r i m := rfl

/-- A conversion is defined (10:R294, R310). -/
def convLegal (td ts m : Nat) (fmt fmt2 : BitVec 4) : Bool :=
  isTile ts && destLegal td m fmt && fmtBits (tileFmt fmt2) != 0 && (rowSize fmt2 (rowElems (tileFmt fmt) m)).isSome

theorem convLegal_of_rowSize {td ts m m2 : Nat} {fmt fmt2 : BitVec 4} (hd : destLegal td m fmt = true) (hs : ts < 12)
    (hf : fmtBits (tileFmt fmt2) ≠ 0) (hm2 : rowSize fmt2 (rowElems (tileFmt fmt) m) = some m2) :
    convLegal td ts m fmt fmt2 = true := by
  rw [convLegal, isTile_of_lt hs, hd, hm2, bne_iff_ne.mpr hf]
  rfl

section
variable {s : State} {c : Fin 8} {t : Byte} {k : Fin 8} (h : Ready s c t k) (ho : Rule.Owns s c t)
  (td ts fmt fmt2 : BitVec 4) (ga rows : BitVec 5) (rb : BitVec 6) {m2 : Nat}
  (hd : destLegal td.toNat (rb.toNat + 1) fmt = true) (hs : ts.toNat < 12) (hf : fmtBits (tileFmt fmt2) ≠ 0)
  (hm2 : rowSize fmt2 (rowElems (tileFmt fmt) (rb.toNat + 1)) = some m2) (hcfg : tcfgLegal s.cores[c].tcfg = true)
  (hfit : Rule.Fits s c ts.toNat (rows.toNat + 1) m2 (some fmt2))
include h ho hd hs hf hm2 hcfg hfit

theorem tcvt_checked (hw : Rule.Whole s c) {out : Nat → List Byte × Exc} (hout : out = convRow s.cores[c].tcfg
      (Rule.reg (Rule.bank s c k) ga) fmt2 fmt (rb.toNat + 1) fun i => Rule.tileRow s c ts.toNat i m2) :
    EndsChecked s c t k (fun r => .tcvt c td ts ga rows rb fmt ⟨fmt2, r⟩) fun u =>
      Rule.TileDone s u c k (convBank (Rule.bank s c k) (flagsRaised (rows.toNat + 1) out)) ∧
      Rule.TilePut s u c td.toNat ⟨rows.toNat + 1, rb.toNat + 1, fmt⟩ fun i => (out i).1 := by
  have hread := readFault_of_whole hfit hw
  rw [Fin.getElem_fin] at hread hcfg
  refine ends_tileChecked h ho (legal := convLegal td.toNat ts.toNat (rb.toNat + 1) fmt fmt2) (fun _ => rfl)
    (convLegal_of_rowSize hd hs hf hm2) (y := convCore s.cores[c] k td.toNat (rows.toNat + 1) (rb.toNat + 1) fmt out)
    (fun r => ?_) (tileWork_withCore (.refl c s) (fun b => ?_) rfl rfl) fun u hu hdone => ⟨hdone, ?_⟩
  · simp only [getCore_fin, hcfg, hm2, Option.getD_some, hread]
    rw [namedRows_eq, tileConvert_eq, bankNow_eq, reg_eq, hout]
    exact congrArg (tileResidue c r k.val s) (tileDone_convCore ..)
  · rw [convCore_banks, Vector.set_set]
  · exact tilePut_putRows hu rfl (lt_of_destLegal hd) rb.isLt fun i _ => by rw [hout, convRow_length]

theorem tcvt_parity (hbad : ∃ r, r < rows.toNat + 1 ∧ (tileAt s.cores[c] ts.toNat).bad.getLsbD r = true) (hk : k.val < 7)
    (hb : Rule.Bound s.cores[c] k) :
    Rule.Ends (.tcvt c td ts ga rows rb fmt ⟨fmt2, .ok⟩) s fun u => Rule.Faulted s u c k t ccParity 0 0 := by
  have hread := (readFault_of_fits hfit).trans (congrArg parityFault (parityBad_of_row hbad))
  rw [Fin.getElem_fin] at hread hcfg
  refine ends_tileParity h ho (legal := convLegal td.toNat ts.toNat (rb.toNat + 1) fmt fmt2) rfl
    (convLegal_of_rowSize hd hs hf hm2) ?_ hk hb
  simp only [getCore_fin, hcfg, hm2, Option.getD_some, hread]
  rfl

end

/-! TMM (10:R304, R305, R307). -/

theorem elem32_gets (mem : List Host.Cell) (a : Nat) {j cols : Nat} (hj : j < cols) (hc : 4 * cols ≤ 64) :
    elem32 (Memory.gets mem a (4 * cols)) j = BitVec.ofNat 32 (leNat (((Memory.gets mem a 64).drop (4 * j)).take 4)) := by
  rw [elem32, Memory.take_drop_gets _ _ (by omega), Memory.take_drop_gets _ _ (by omega)]

/-- Element j of row i of a product, as bytes: the sum of what stood there, or of 0, and the products of the rows. -/
def productCell (fmt fmt2 : BitVec 4) (int z : Bool) (e : Nat) (start : Nat → Nat → BitVec 32) (a b : Nat → List Byte)
    (i j : Nat) : List Byte :=
  natLe (tmmCell fmt fmt2 int (if z then 0 else start i j) (rowVals fmt e (a i)) (rowVals fmt2 e (b j))).toNat 4

theorem tmmRows_eq (fmt fmt2 : BitVec 4) (int z : Bool) (e : Nat) {n cols : Nat} {start : Nat → Nat → BitVec 32}
    (a b d : Nat → List Byte) (hs : ∀ i j, j < cols → elem32 (d i) j = start i j) :
    tmmRows fmt fmt2 int z e cols ((List.range n).map a) ((List.range cols).map b) ((List.range n).map d) =
      (List.range n).map fun i => (List.range cols).flatMap (productCell fmt fmt2 int z e start a b i) := by
  rw [tmmRows, zipIdx_map_range, List.map_map]
  refine List.map_congr_left fun i hi => List.flatMap_congr fun j hj => ?_
  have hj' := List.mem_range.mp hj
  simp [productCell, List.getD, List.mem_range.mp hi, hj', hs i j hj']

theorem productRow_length (fmt fmt2 : BitVec 4) (int z : Bool) (e cols : Nat) (start : Nat → Nat → BitVec 32)
    (a b : Nat → List Byte) (i : Nat) :
    ((List.range cols).flatMap (productCell fmt fmt2 int z e start a b i)).length = 4 * cols := by
  simp [List.length_flatMap, productCell, Nat.mul_comm]

/-! The operands of TMM (10:R297, R307; 14:R390). -/

theorem operandBad_false {x : Core} {n : Named} {l : Option Latch} {fmt : BitVec 4} (hl : ∀ y, l = some y → y.bad = false)
    (hn : n.parityBad x = false) : n.operandBad l fmt x = false := by
  unfold Named.operandBad
  split
  next y hy => exact hl y (Option.eq_some_of_filter_eq_some hy)
  next => exact hn

/-- An operand comes from the latch of its side when that holds it. -/
theorem operandBad_latched {x : Core} {n : Named} {l : Latch} {fmt : BitVec 4} (hr : l.reg = n.reg)
    (ht : l.tag = ⟨n.rows, n.rb, fmt⟩) : n.operandBad (some l) fmt x = l.bad := by
  simp [Named.operandBad, Option.filter, hr, ht]

theorem lt_of_tmmLegal {td ts tt m : Nat} {int : Bool} {fmt fmt2 : BitVec 4}
    (h : tmmLegal td ts tt int m fmt fmt2 = true) : td < 12 := by
  simp only [tmmLegal, isAReg, Bool.and_eq_true, decide_eq_true_eq] at h
  omega

section
variable {s : State} {c : Fin 8} {td ts tt n m m2 cols : Nat} {z int : Bool} {fmt fmt2 : BitVec 4}

/-- The format of the elements that TMM accumulates (10:R305). -/
def productFmt (int : Bool) : BitVec 4 := if int then 0xC else 0xA

/-- The shapes that TMM names for its operands and, where it starts from it, its destination (10:R295). -/
structure ProductFits (s : State) (c : Fin 8) (td ts tt n m m2 cols : Nat) (z int : Bool) (fmt fmt2 : BitVec 4) : Prop where
  size : rowSize fmt2 (rowElems (tileFmt fmt) m) = some m2
  left : Rule.Fits s c ts n m (some fmt)
  right : Rule.Fits s c tt cols m2 (some fmt2)
  sum : z = false → Rule.Fits s c td n (4 * cols) (some (productFmt int))

theorem ProductFits.sources (h : ProductFits s c td ts tt n m m2 cols z int fmt fmt2) :
    sourceFault s.cores[c] ([⟨ts, n, m, some fmt⟩, ⟨tt, cols, m2, some fmt2⟩] ++
      if z then [] else [⟨td, n, 4 * cols, some (productFmt int)⟩]) = none := by
  refine sourceFault_none fun x hx => ?_
  have hleft := named_of_fits h.left
  have hright := named_of_fits h.right
  cases z with
  | true =>
    simp only [if_true, List.append_nil, List.mem_cons, List.not_mem_nil, or_false] at hx
    rcases hx with rfl | rfl <;> assumption
  | false =>
    have hsum := named_of_fits (h.sum rfl)
    simp only [Bool.false_eq_true, if_false, List.cons_append, List.nil_append, List.mem_cons, List.not_mem_nil,
      or_false] at hx
    rcases hx with rfl | rfl | rfl <;> assumption

/-- The parity of what TMM reads is bad. -/
def productBad (x : Core) (td ts tt n m m2 cols : Nat) (z int : Bool) (fmt fmt2 : BitVec 4) : Bool :=
  Named.operandBad ⟨ts, n, m, some fmt⟩ x.latchS fmt x || Named.operandBad ⟨tt, cols, m2, some fmt2⟩ x.latchT fmt2 x ||
    (!z && Named.parityBad ⟨td, n, 4 * cols, some (productFmt int)⟩ x)

theorem productBad_of_whole (hw : Rule.Whole s c) (td ts tt n m m2 cols : Nat) (z int : Bool) (fmt fmt2 : BitVec 4) :
    productBad s.cores[c] td ts tt n m m2 cols z int fmt fmt2 = false := by
  rw [productBad, operandBad_false (fun l hl => hw.latches l (.inl hl)) (parityBad_of_whole hw _),
    operandBad_false (fun l hl => hw.latches l (.inr hl)) (parityBad_of_whole hw _), parityBad_of_whole hw]
  cases z <;> rfl

theorem productBad_of_left (hbad : Named.operandBad ⟨ts, n, m, some fmt⟩ s.cores[c].latchS fmt s.cores[c] = true) :
    productBad s.cores[c] td ts tt n m m2 cols z int fmt fmt2 = true := by
  rw [productBad, hbad]
  rfl

theorem tileMultiply_of_bad (h : ProductFits s c td ts tt n m m2 cols z int fmt fmt2)
    (hbad : productBad s.cores[c] td ts tt n m m2 cols z int fmt fmt2 = true) (k : Nat) :
    tileMultiply c td ts tt z int n m fmt fmt2 cols k s = (.fault ccParity 0 0, s) := by
  have hsrc := h.sources
  simp only [Fin.getElem_fin, productBad, productFmt] at hsrc hbad
  simp only [tileMultiply, getCore_fin, h.size, Option.getD_some, hsrc, hbad]
  rfl

/-- The elements that TMM starts from. -/
def productStart (s : State) (c : Fin 8) (td i j : Nat) : BitVec 32 :=
  BitVec.ofNat 32 (leNat (((Rule.tileRow s c td i 64).drop (4 * j)).take 4))

/-- Row i of the product of two registers. -/
def productRow (s : State) (c : Fin 8) (td ts tt m m2 cols : Nat) (z int : Bool) (fmt fmt2 : BitVec 4) (i : Nat) : List Byte :=
  (List.range cols).flatMap (productCell fmt fmt2 int z (rowElems (tileFmt fmt) m) (productStart s c td)
    (fun i => Rule.tileRow s c ts i m) (fun j => Rule.tileRow s c tt j m2) i)

/-- The core in which TMM has read its operands into the reuse latches. -/
def latched (left right : Option Latch) (x : Core) : Core := { x with latchS := left, latchT := right }

theorem latched_tiles (left right : Option Latch) (x : Core) : (latched left right x).tiles = x.tiles := rfl

/-- Nothing that a commit is about changes when a register is written and the latches are filled. -/
theorem tileWork_latched (s : State) (c k : Fin 8) (left right : Option Latch) (td n m : Nat) (fmt : BitVec 4)
    (f : Tile → Tile) : TileWork s (Rule.withCore s c (latched left right (writeTile td n m fmt f s.cores[c]))) c k :=
  tileWork_withCore (.refl c s) (fun _ => rfl) rfl rfl

theorem tileMultiply_of_good (h : ProductFits s c td ts tt n m m2 cols z int fmt fmt2)
    (hgood : productBad s.cores[c] td ts tt n m m2 cols z int fmt fmt2 = false) (hc : 4 * cols ≤ 64) (k : Fin 8) :
    ∃ y, y.tiles = (writeTile td n (4 * cols) (productFmt int)
        (putRows ((List.range n).map (productRow s c td ts tt m m2 cols z int fmt fmt2))) s.cores[c]).tiles ∧
      TileWork s (Rule.withCore s c y) c k ∧
      tileMultiply c td ts tt z int n m fmt fmt2 cols k.val s = (.done ((Rule.bank s c k).advance 8), Rule.withCore s c y) := by
  have hsrc := h.sources
  simp only [Fin.getElem_fin, productBad, productFmt] at hsrc hgood
  have hstart : ∀ i j, j < cols → elem32 (Rule.tileRow s c td i (4 * cols)) j = productStart s c td i j :=
    fun i j hj => elem32_gets _ _ hj hc
  refine ⟨latched (latchOf s.cores[c] ⟨ts, n, m, some fmt⟩ fmt) (latchOf s.cores[c] ⟨tt, cols, m2, some fmt2⟩ fmt2)
    (writeTile td n (4 * cols) (productFmt int)
      (putRows ((List.range n).map (productRow s c td ts tt m m2 cols z int fmt fmt2))) s.cores[c]),
    latched_tiles .., tileWork_latched .., ?_⟩
  simp only [tileMultiply, getCore_fin, h.size, Option.getD_some, hsrc, hgood]
  rw [namedRows_eq, namedRows_eq, namedRows_eq, tmmRows_eq fmt fmt2 int z _ _ _ _ hstart]
  exact tileDone_eq ..

end

section
variable {s : State} {c : Fin 8} {t : Byte} {k : Fin 8} (h : Ready s c t k) (ho : Rule.Owns s c t)
  (td ts tt fmt fmt2 nm1 : BitVec 4) (rows : BitVec 5) (rb : BitVec 6) (z int : Bool) {m2 : Nat}
  (hl : tmmLegal td.toNat ts.toNat tt.toNat int (rb.toNat + 1) fmt fmt2 = true)
  (hfits : ProductFits s c td.toNat ts.toNat tt.toNat (rows.toNat + 1) (rb.toNat + 1) m2 (nm1.toNat + 1) z int fmt fmt2)
include h ho hl hfits

theorem tmm_checked (hw : Rule.Whole s c) :
    EndsChecked s c t k (fun r => .tmm c td ts tt z int rows rb fmt fmt2 nm1 r) fun u =>
      Rule.TileDone s u c k (Rule.bank s c k) ∧
      Rule.TilePut s u c td.toNat ⟨rows.toNat + 1, 4 * (nm1.toNat + 1), productFmt int⟩ fun i =>
        productRow s c td.toNat ts.toNat tt.toNat (rb.toNat + 1) m2 (nm1.toNat + 1) z int fmt fmt2 i := by
  have hcols : 4 * (nm1.toNat + 1) ≤ 64 := by have := nm1.isLt; omega
  obtain ⟨y, htiles, hwork, hstep⟩ := tileMultiply_of_good hfits (productBad_of_whole hw ..) hcols k
  refine ends_tileChecked h ho (fun _ => rfl) hl (fun r => congrArg (tileResidue c r k.val s) hstep) hwork
    fun u hu hd => ⟨hd, ?_⟩
  exact tilePut_putRows (hu.trans htiles) rfl (lt_of_tmmLegal hl) hcols fun i _ => productRow_length ..

theorem tmm_parity (hbad : Named.operandBad ⟨ts.toNat, rows.toNat + 1, rb.toNat + 1, some fmt⟩ s.cores[c].latchS fmt
      s.cores[c] = true) (hk : k.val < 7) (hb : Rule.Bound s.cores[c] k) :
    Rule.Ends (.tmm c td ts tt z int rows rb fmt fmt2 nm1 .ok) s fun u => Rule.Faulted s u c k t ccParity 0 0 :=
  ends_tileParity h ho rfl hl
    (congrArg (tileResidue c .ok k.val s) (tileMultiply_of_bad hfits (productBad_of_left hbad) k.val)) hk hb

end

/-- Tile computations: conversions and products, whose results are checked, and the parity of what they read. -/
theorem tileComputations_settled : Rule.TileComputations := by
  intro s c t k h ho td ts tt fmt fmt2 nm1 ga rows rb z int v n m dst faults
  refine ⟨fun m2 hd hs hf hm2 hcfg hfit => ⟨fun hw => ?_, fun hbad hk hb => ?_⟩, ?_⟩
  · exact tcvt_checked h ho td ts fmt fmt2 ga rows rb hd hs hf hm2 hcfg hfit hw rfl
  · exact tcvt_parity h ho td ts fmt fmt2 ga rows rb hd hs hf hm2 hcfg hfit hbad hk hb
  · intro m2 hl elems cols out hm2 hleft hright hsum
    have hfits : ProductFits s c td.toNat ts.toNat tt.toNat n m m2 cols z int fmt fmt2 := ⟨hm2, hleft, hright, hsum⟩
    refine ⟨fun hw => ?_, fun hlatch hbad hk hb => ?_, fun l hlatch hr ht hbad hk hb => ?_⟩
    · exact tmm_checked h ho td ts tt fmt fmt2 nm1 rows rb z int hl hfits hw
    · refine tmm_parity h ho td ts tt fmt fmt2 nm1 rows rb z int hl hfits ?_ hk hb
      rw [hlatch]
      exact parityBad_of_row hbad
    · refine tmm_parity h ho td ts tt fmt fmt2 nm1 rows rb z int hl hfits ?_ hk hb
      rw [hlatch, operandBad_latched hr ht, hbad]

/-- Settles O36: each tile instruction by what it writes, and the parity faults of those that read whole rows. -/
theorem tileInstructions : Obligations.TileInstructions := ⟨tileRegisters_settled, tileComputations_settled⟩

end Sys2Proof.Machine

/-! SUPPORT. O37: TLD and TST leave the phases of their rows (10:R298 to R301). -/

namespace Sys2Proof.Machine

open Rule (Ready)

/-! The rows are translated (10:R299). -/

theorem looked_xlatRow (c : Fin 8) (k : Nat) (acc : Access) (ps : List (Nat × Nat)) (s : State) :
    Looked c s (xlatRow c k acc ps s).2 := by
  induction ps generalizing s with
  | nil => exact .refl c s
  | cons p ps ih =>
    obtain ⟨va, n⟩ := p
    have hx := looked_xlatCore c va acc k s
    unfold xlatRow
    generalize xlatCore c va acc k s = y at hx
    obtain ⟨r, u⟩ := y
    cases r with
    | wait => exact hx
    | fault ev => exact hx
    | ok pa attr =>
      have hrest := ih u
      dsimp only
      generalize xlatRow c k acc ps u = z at hrest
      obtain ⟨_ | rest, v⟩ := z <;> exact hx.trans hrest

theorem xlatRows_ok {c : Fin 8} {k n : Nat} {acc : Access} {vas : List Nat} {s w : State}
    {rs : List (Nat × List RowPiece)} (h : xlatRows c k acc n vas s = (.ok rs, w)) :
    Looked c s w ∧ rs.length = vas.length := by
  induction vas generalizing s rs with
  | nil =>
    cases h
    exact ⟨.refl c _, rfl⟩
  | cons va vas ih =>
    have hrow := looked_xlatRow c k acc (pageParts va n) s
    unfold xlatRows at h
    generalize xlatRow c k acc (pageParts va n) s = y at h hrow
    obtain ⟨_ | ps, u⟩ := y
    · cases h
    · dsimp only at h hrow
      split at h
      next rest v hrest =>
        cases h
        obtain ⟨hl, hlen⟩ := ih hrest
        exact ⟨hrow.trans hl, congrArg (· + 1) hlen⟩
      next r hno =>
        exact (hno _ _ h).elim

/-! Nothing of the core is before them (10:R298, R300). -/

theorem phaseRoom_of_nil {s : State} {c : Fin 8} (h : s.cores[c].rows = []) : phaseRoom c s = s := by
  have hr : s.cores[c.val].rows = [] := h
  simp [phaseRoom, phases, hr]

theorem drainMeeting_of_nil {s : State} {c : Fin 8} (h : s.cores[c].sb = []) (ps : List RowPiece) :
    drainMeeting c ps s = s := by
  have hs : s.cores[c.val].sb = [] := h
  simp [drainMeeting, drainFrom, hs]

/-- The core in which rows are left to be performed. -/
def withRows (x : Core) (ops : List RowOp) : Core := { x with rows := x.rows ++ ops }

/-- The bytes that a row of a load has in memory (10:R301, R309). -/
def loadLength (g : Tcfg) (conv : Bool) (m : Nat) (fmt : BitVec 4) : Option Nat :=
  if conv then (if tcfgLegal g then loadRowBytes g (rowElems (tileFmt fmt) m) else none) else some m

theorem loadLength_eq {g : Tcfg} {z : Bool} {m len : Nat} {fmt : BitVec 4} (hplain : z = false → len = m)
    (hconv : z = true → tcfgLegal g = true ∧ fmtBits g.cvtl.toNat ≠ 0 ∧
      8 * len = rowElems (tileFmt fmt) m * fmtBits g.cvtl.toNat ∧ len ≤ 256) : loadLength g z m fmt = some len := by
  cases z with
  | false => exact congrArg some (hplain rfl).symm
  | true =>
    obtain ⟨hlegal, hbits, hlen, hle⟩ := hconv rfl
    have hmod : rowElems (tileFmt fmt) m * fmtBits g.cvtl.toNat % 8 = 0 := by omega
    have hdiv : rowElems (tileFmt fmt) m * fmtBits g.cvtl.toNat / 8 = len := by omega
    simp [loadLength, loadRowBytes, hlegal, hbits, hmod, hdiv, hle]

section
variable {s w : State} {c : Fin 8} {t : Byte} {k : Fin 8} {n m : Nat} {rs : List (Nat × List RowPiece)}

theorem tileSite_eq (h : Ready s c t k) (hl : Looked c s w) : tileSite w c k.val = (t, (Rule.bank s c k).pc) := by
  have hrun : w.cores[c.val].running = some t := hl.sameTask.running.trans (running_of_ready h)
  simp [tileSite, hrun, bankNow_eq, hl.bank]

/-- The rows that a load leaves. -/
def loadRows (td : BitVec 4) (cv : Option (Byte × BitVec 4 × Word × Tcfg)) (m : Nat) (t : Byte) (pc : BitVec 48)
    (rs : List (Nat × List RowPiece)) : List RowOp :=
  rs.mapIdx fun i r => ⟨false, td, i, r.1, r.2, [], cv, m, t, pc⟩

/-- The rows that a store leaves. -/
def storeRows (ts : BitVec 4) (row : Nat → List Byte) (m : Nat) (t : Byte) (pc : BitVec 48)
    (rs : List (Nat × List RowPiece)) : List RowOp :=
  rs.mapIdx fun i r => ⟨true, ts, i, r.1, r.2, row i, none, m, t, pc⟩

/-- What a converting load keeps for its rows: the formats, the salt and the configuration (10:R301). -/
def loadConv (g : Tcfg) (z : Bool) (fmt : BitVec 4) (x : Word) : Option (Byte × BitVec 4 × Word × Tcfg) :=
  if z then some (g.cvtl, fmt, x, g) else none

theorem tileLoad_eq (h : Ready s c t k) (ho : Rule.Owns s c t) (hsb : s.cores[c].sb = []) (td fmt : BitVec 4) (z : Bool)
    {len : Nat} (ga gb : BitVec 5) (hlen : loadLength s.cores[c].tcfg z m fmt = some len)
    (hx : xlatRows c k.val .rowLoad len
      (rowAddrs (Rule.reg (Rule.bank s c k) ga) (Rule.reg (Rule.bank s c k) gb) n) s = (.ok rs, w)) :
    tileLoad c td.toNat ga gb z n m fmt k.val s = tileDone c k.val (fun x => withRows (writeTile td.toNat n m fmt id x)
      (loadRows td (loadConv s.cores[c].tcfg z fmt (Rule.reg (Rule.bank s c k) ga)) m t (Rule.bank s c k).pc rs)) w := by
  obtain ⟨hl, -⟩ := xlatRows_ok hx
  have hsbw : w.cores[c].sb = [] := hl.sb.trans hsb
  have hrows : w.cores[c].rows = [] := hl.rows.trans ho.rows
  have hroom := phaseRoom_of_nil hrows
  have hdrain := drainMeeting_of_nil hsbw (rs.flatMap (·.2))
  rw [Fin.getElem_fin] at hsbw hrows hlen
  rw [loadLength] at hlen
  simp only [tileLoad, getCore_fin, bankNow_eq, reg_eq, hlen, hx, hroom, hdrain, hsbw, hrows, meetsRows, List.any_nil, phases,
    List.isEmpty_nil, if_true, Nat.le_zero_eq, OfNat.ofNat_ne_zero, decide_false, Bool.or_self, Bool.false_eq_true, if_false,
    tileSite_eq h hl, loadRows, List.mapIdx_eq_zipIdx_map, BitVec.ofNat_toNat, BitVec.setWidth_eq]
  rfl

theorem storeRows_eq (ts : BitVec 4) (row : Nat → List Byte) (m : Nat) (t : Byte) (pc : BitVec 48)
    (hlen : rs.length = n) :
    ((rs.zip ((List.range n).map row)).zipIdx.map fun r =>
      (⟨true, ts, r.2, r.1.1.1, r.1.1.2, r.1.2, none, m, t, pc⟩ : RowOp)) = storeRows ts row m t pc rs :=
  List.ext_getElem (by simp [storeRows, hlen]) fun i _ _ => by simp [storeRows]

theorem tileStore_eq (h : Ready s c t k) (ho : Rule.Owns s c t) (hw : Rule.Whole s c) (hsb : s.cores[c].sb = [])
    (ts : BitVec 4) {fmt : Option (BitVec 4)} (hfit : Rule.Fits s c ts.toNat n m fmt) (ga gb : BitVec 5)
    (hx : xlatRows c k.val .rowStore m
      (rowAddrs (Rule.reg (Rule.bank s c k) ga) (Rule.reg (Rule.bank s c k) gb) n) s = (.ok rs, w)) :
    tileStore c ⟨ts.toNat, n, m, fmt⟩ ga gb k.val s = tileDone c k.val (fun x => withRows x
      (storeRows ts (fun i => Rule.tileRow s c ts.toNat i m) m t (Rule.bank s c k).pc rs)) w := by
  obtain ⟨hl, hlen⟩ := xlatRows_ok hx
  have hsbw : w.cores[c].sb = [] := hl.sb.trans hsb
  have hrows : w.cores[c].rows = [] := hl.rows.trans ho.rows
  have hroom := phaseRoom_of_nil hrows
  have hdrain := drainAll_of_nil hsbw
  have hread := readFault_of_whole hfit hw
  have htiles : w.cores[c].tiles = s.cores[c].tiles := hl.field Core.tiles fun _ _ _ => rfl
  have hbytes : namedRows w.cores[c.val] ⟨ts.toNat, n, m, fmt⟩ = (List.range n).map fun i => Rule.tileRow s c ts.toNat i m := by
    have hat := tileAt_congr htiles ts.toNat
    rw [namedRows_eq]
    simp only [Rule.tileRow, hat]
  have hn : rs.length = n := by rw [hlen, rowAddrs, List.length_map, List.length_range]
  rw [Fin.getElem_fin] at hsbw hrows hread
  simp only [tileStore, getCore_fin, bankNow_eq, reg_eq, hread, hx, hroom, hdrain, hsbw, hrows, phases, List.isEmpty_nil,
    Bool.not_true, if_true, Nat.le_zero_eq, OfNat.ofNat_ne_zero, decide_false, Bool.or_self, Bool.false_eq_true, if_false,
    tileSite_eq h hl, hbytes, BitVec.ofNat_toNat, BitVec.setWidth_eq, storeRows_eq _ _ _ _ _ hn]
  rfl

/-- A load or store commits after its translations, with its rows left to be performed. -/
theorem ends_tilePhase {dst src : List (BitVec 5)} {regs : List Nat} {legal : Bool} {f : Nat → State → Commit × State}
    {i : Instr} (h : Ready s c t k) (ho : Rule.Owns s c t) (he : effect i s = tileInstr c dst src regs legal f s)
    (hlegal : legal = true) (hl : Looked c s w) {g : Core → Core} {ops : List RowOp}
    (hf : f k.val s = tileDone c k.val (fun x => withRows (g x) ops) w) (hbanks : (g w.cores[c]).banks = w.cores[c].banks)
    (hcount : (g w.cores[c]).instret = w.cores[c].instret) (htasks : (g w.cores[c]).tasks = w.cores[c].tasks)
    (hrows : (g w.cores[c]).rows = w.cores[c].rows) :
    Rule.Ends i s fun u => Rule.TileDone s u c k (Rule.bank s c k) ∧ u.cores[c].tiles = (g w.cores[c]).tiles ∧
      u.cores[c].rows = ops := by
  have hbank : (withRows (g w.cores[c]) ops).banks[k] = Rule.bank s c k :=
    (congrArg (·[k]) hbanks).trans (hl.bank k)
  rw [tileDone_eq, hbank] at hf
  have hwork : TileWork s (Rule.withCore w c (withRows (g w.cores[c]) ops)) c k :=
    tileWork_withCore hl (fun b => congrArg (·.set k.val b) hbanks) hcount htasks
  refine ends_tile h ho he hlegal hf ⟨hwork.done _, ?_, ?_⟩ <;> rw [core_commit, core_withCore]
  · rfl
  · exact congrArg (· ++ ops) (hrows.trans (hl.rows.trans ho.rows))

end

section
variable {s w : State} {c : Fin 8} {t : Byte} {k : Fin 8} (h : Ready s c t k) (ho : Rule.Owns s c t)
  (hsb : s.cores[c].sb = []) (td ts fmt : BitVec 4) (ga gb rows : BitVec 5) (rb : BitVec 6)
  {rs : List (Nat × List RowPiece)}
include h ho hsb

theorem tld_ends (z : Bool) {len : Nat} (hd : destLegal td.toNat (rb.toNat + 1) fmt = true)
    (hlen : loadLength s.cores[c].tcfg z (rb.toNat + 1) fmt = some len)
    (hx : xlatRows c k.val .rowLoad len (rowAddrs (Rule.reg (Rule.bank s c k) ga) (Rule.reg (Rule.bank s c k) gb)
      (rows.toNat + 1)) s = (.ok rs, w)) :
    Rule.Ends (.tld c td ga gb z rows rb fmt) s fun u => Rule.TileDone s u c k (Rule.bank s c k) ∧
      (tileAt u.cores[c] td.toNat).tag = some ⟨rows.toNat + 1, rb.toNat + 1, fmt⟩ ∧
      (tileAt u.cores[c] td.toNat).inUse = true ∧
      u.cores[c].rows = loadRows td (loadConv s.cores[c].tcfg z fmt (Rule.reg (Rule.bank s c k) ga)) (rb.toNat + 1) t
        (Rule.bank s c k).pc rs := by
  obtain ⟨u, hu, hdone, htiles, hrows⟩ := ends_tilePhase h ho (i := .tld c td ga gb z rows rb fmt) rfl hd (xlatRows_ok hx).1
    (tileLoad_eq h ho hsb td fmt z ga gb hlen hx) rfl rfl rfl rfl
  have hat := (tileAt_congr htiles td.toNat).trans (tileAt_writeTile (lt_of_destLegal hd) _)
  exact ⟨u, hu, hdone, congrArg Tile.tag hat, congrArg Tile.inUse hat, hrows⟩

theorem tst_ends (x : Bool) (hs : ts.toNat < 12) (hshape : shapeLegal (rb.toNat + 1) fmt = true)
    (hfit : Rule.Fits s c ts.toNat (rows.toNat + 1) (rb.toNat + 1) (if x then none else some fmt)) (hw : Rule.Whole s c)
    (hx : xlatRows c k.val .rowStore (rb.toNat + 1) (rowAddrs (Rule.reg (Rule.bank s c k) ga)
      (Rule.reg (Rule.bank s c k) gb) (rows.toNat + 1)) s = (.ok rs, w)) :
    Rule.Ends (.tst c ts ga gb x rows rb fmt) s fun u => Rule.TileDone s u c k (Rule.bank s c k) ∧ Rule.TilesKept s u c ∧
      u.cores[c].rows = storeRows ts (fun i => Rule.tileRow s c ts.toNat i (rb.toNat + 1)) (rb.toNat + 1) t
        (Rule.bank s c k).pc rs := by
  have hl := (xlatRows_ok hx).1
  have hlegal : (isTile ts.toNat && shapeLegal (rb.toNat + 1) fmt) = true := by rw [isTile_of_lt hs, hshape]; rfl
  obtain ⟨u, hu, hdone, htiles, hrows⟩ := ends_tilePhase h ho (i := .tst c ts ga gb x rows rb fmt) (g := id) rfl hlegal hl
    (tileStore_eq h ho hw hsb ts hfit ga gb hx) rfl rfl rfl rfl
  exact ⟨u, hu, hdone, htiles.trans (hl.field Core.tiles fun _ _ _ => rfl), hrows⟩

end

end Sys2Proof.Machine

/-! SUPPORT. O37: TILE_ROW performs the oldest row (10:R298, R301, R302). -/

namespace Sys2Proof.Machine

open Rule (Ready)

/-! The oldest row (10:R298). -/

section
variable {s x v : State} {c : Fin 8} {r : RowOp} {rest : List RowOp} {p : RowPiece}

/-- The state in which the oldest row has left the row phase. -/
def rowTaken (s : State) (c : Fin 8) (rest : List RowOp) : State := Rule.withCore s c { s.cores[c] with rows := rest }

theorem rowTaken_core (s : State) (c : Fin 8) (rest : List RowOp) :
    (rowTaken s c rest).cores[c] = { s.cores[c] with rows := rest } := core_withCore ..

/-- What depends on the rows as little as on what a read changes is as it was. -/
theorem field_of_taken (hl : Looked c (rowTaken s c rest) v) {α : Type} (f : Core → α)
    (hf : ∀ y l d, f { y with l1tlb := l, l1d := d } = f y) (hr : ∀ y l, f { y with rows := l } = f y) :
    f v.cores[c] = f s.cores[c] := by
  rw [hl.field f hf, rowTaken_core, hr]

theorem nextRow_of_nil (h : s.cores[c].rows = []) : nextRow c s = s := by
  rw [nextRow, getCore_fin, show s.cores[c.val].rows = [] from h]

theorem nextRow_of_cons (hm : Rule.NoMismatch s) (h : s.cores[c].rows = r :: rest) :
    nextRow c s = performRow c r (rowTaken s c rest) := by
  have hp : (r.pieces.any fun p => portWaits s p.pa p.len) = false :=
    List.any_eq_false.mpr fun p _ => by simp [portWaits_of_noMismatch hm]
  rw [nextRow, getCore_fin, show s.cores[c.val].rows = r :: rest from h]
  simp only [hp, Bool.false_eq_true, if_false, modCore_eq_withCore]
  rfl

/-- What is left where the row has changed its core after its reads. -/
structure RowLeft (s u : State) (c : Fin 8) (rest : List RowOp) : Prop where
  mem  : u.mem = s.mem
  rows : u.cores[c].rows = rest
  only : Rule.CoreOnly s u c

theorem rowLeft_withCore (hl : Looked c (rowTaken s c rest) v) {y : Core} (hy : y.rows = v.cores[c].rows) :
    RowLeft s (Rule.withCore v c y) c rest where
  mem := hl.mem
  rows := by rw [core_withCore, hy, hl.rows, rowTaken_core]
  only := coreOnly_trans (coreOnly_trans (coreOnly_withCore ..) (coreOnly_of_quiet hl.toQuiet)) (coreOnly_withCore ..)

/-! A row is stored (10:R302; 08:R236). -/

theorem spared_readAccess (al : Bool) (pa n : Nat) (s : State) : Spared s (readAccess al pa n s).2 :=
  .of_kept (kept_readAccess ..) (coreView_readAccess ..)

/-- The fill of the line that a part of a stored row goes into, where it needs one. -/
def lineFill (needed : Bool) (pa : Nat) (x : State) : ReadStat × State :=
  if needed then readAccess true (pa / 128 * 128) 128 x else (.clean, x)

theorem lineFill_sound (hs : Rule.Sound x) (needed : Bool) (pa : Nat) :
    (lineFill needed pa x).1 ≠ .uncorrectable ∧ Kept x (lineFill needed pa x).2 ∧ Spared x (lineFill needed pa x).2 := by
  cases needed with
  | true => exact ⟨(reads_readAccess true _ 128 x hs).1, kept_readAccess .., spared_readAccess ..⟩
  | false => exact ⟨nofun, .refl x, .refl x⟩

/-- A part of a row that can be written is written where nothing is uncorrectable. -/
theorem rowWrite_writes {bs : List Byte} (hs : Rule.Sound x) (hw : Rule.Writable x (cellsAt p.pa bs)) :
    (rowWrite c p bs x).1 = true ∧ EngineWrote x (rowWrite c p bs x).2 (cellsAt p.pa bs) ∧
      Spared x (rowWrite c p bs x).2 := by
  have hfill := lineFill_sound hs (p.attr == attrWB && !(getCore x c).l1d.contains (p.pa / 128)) p.pa
  rw [lineFill] at hfill
  unfold rowWrite
  generalize (if (p.attr == attrWB && !(getCore x c).l1d.contains (p.pa / 128)) = true then
    readAccess true (p.pa / 128 * 128) 128 x else (ReadStat.clean, x)) = y at hfill
  obtain ⟨st, z⟩ := y
  obtain ⟨hst, hk, hspared⟩ := hfill
  have hok : (st == .uncorrectable) = false := beq_eq_false_iff_ne.mpr hst
  have hwords : z.sm.ueWords = [] := (ueWords_of_kept hk).trans hs.stage
  have hmerge : ((groupCells 32 (cellsAt p.pa bs)).any fun g =>
      g.length < 32 && z.sm.ueWords.contains ((g.headD (0, 0)).1 / 32)) = false :=
    List.any_eq_false.mpr fun g _ => by simp [hwords]
  have hbase := EngineWrote.of_kept hk
  obtain ⟨-, hwrote⟩ := writeAccess_engineWrote (writable_of_engineWrote hbase hw) (p.attr == attrWB) (p.attr != attrWB)
    (.coreStore c)
  simp only [hok, hmerge, Bool.and_false, Bool.false_eq_true, if_false]
  exact ⟨trivial, hbase.trans hwrote, hspared.trans (spared_writeAccess ..)⟩

theorem performRow_stored (hp : r.pieces = [p]) (hstore : r.store = true) (hlen : r.bytes.length = p.len)
    (hs : Rule.Sound x) (hw : Rule.Writable x (cellsAt p.pa r.bytes)) :
    EngineWrote x (performRow c r x) (cellsAt p.pa r.bytes) ∧ Spared x (performRow c r x) := by
  have hb : r.bytes.take p.len = r.bytes := hlen ▸ List.take_length
  obtain ⟨hok, hwrote, hspared⟩ := rowWrite_writes (c := c) hs hw
  simp only [performRow, hstore, hp, rowWrites, hb, hok, Bool.and_self, if_true]
  exact ⟨hwrote, hspared⟩

/-! A row is loaded (10:R301, R302). -/

/-- The read of a part of a loaded row. -/
def rowRead (c : Fin 8) (p : RowPiece) (x : State) : ReadStat × State := coreRead c.val p.attr p.pa p.len x

theorem rowReads_one (c : Fin 8) (p : RowPiece) (x : State) : rowReads c.val [p] x =
    ((rowRead c p x).1 != .uncorrectable, Memory.gets x.mem p.pa p.len, (rowRead c p x).2) := by
  have hmem := (looked_coreRead c p.attr p.pa p.len x).mem
  simp only [rowReads, Bool.and_true, List.append_nil, hmem]
  rfl

/-- The core in which a loaded row has been put into its register, the flags of its conversion raised in the bank of its
task, if that is there still. -/
def rowLoaded (r : RowOp) (v : List Byte × Exc) (y : Core) : Core :=
  let z := modTile r.tile.toNat (Tile.putRow r.row v.1) y
  let l := (getTask z r.task).level.val
  if occupant z l == some r.task then modBank l (fun b => { b with cs := csRaise b.cs v.2 }) z else z

theorem rowLoaded_rows (r : RowOp) (v : List Byte × Exc) (y : Core) : (rowLoaded r v y).rows = y.rows := by
  unfold rowLoaded
  dsimp only
  split <;> rfl

theorem rowLoaded_tiles (r : RowOp) (v : List Byte × Exc) (y : Core) :
    (rowLoaded r v y).tiles = (modTile r.tile.toNat (Tile.putRow r.row v.1) y).tiles := by
  unfold rowLoaded
  dsimp only
  split <;> rfl

theorem rowLoaded_banks (r : RowOp) (v : List Byte × Exc) {y : Core} {l : Fin 8} (hl : y.tasks[r.task.toNat].level = l)
    (ho : y.banks[l].occ = some r.task) :
    (rowLoaded r v y).banks = y.banks.set l.val { y.banks[l] with cs := y.banks[l].cs ||| (v.2.setWidth 13 <<< 8) } := by
  have hlevel : (getTask (modTile r.tile.toNat (Tile.putRow r.row v.1) y) r.task).level = l := (congrArg Task.level
    (getTask_eq y r.task)).trans hl
  have hocc : (occupant (modTile r.tile.toNat (Tile.putRow r.row v.1) y) l.val == some r.task) = true :=
    beq_iff_eq.mpr ((congrArg Bank.occ (vget_fin y.banks l .reset)).trans ho)
  simp only [rowLoaded, hlevel, hocc, if_true, modBank_fin]
  rfl

theorem performRow_loaded (hp : r.pieces = [p]) (hload : r.store = false) (hok : (rowRead c p x).1 ≠ .uncorrectable) :
    performRow c r x = Rule.withCore (rowRead c p x).2 c
      (rowLoaded r (rowValue r (Memory.gets x.mem p.pa p.len)) (rowRead c p x).2.cores[c]) := by
  simp only [performRow, hload, hp, rowReads_one, bne_iff_ne.mpr hok, Bool.not_true, Bool.false_eq_true, if_false,
    modCore_eq_withCore]
  rfl

/-- A row that cannot be read is zeroed, and its fault noted. -/
theorem performRow_faulted (hp : r.pieces = [p]) (hload : r.store = false) (hbad : (rowRead c p x).1 = .uncorrectable) :
    performRow c r x = Rule.withCore (rowRead c p x).2 c (noteRowFault r
      (modTile r.tile.toNat (Tile.putRow r.row (List.replicate r.rb 0)) (rowRead c p x).2.cores[c])) := by
  simp only [performRow, hload, hp, rowReads_one, hbad, bne_self_eq_false, Bool.not_false, Bool.false_eq_true, if_false,
    if_true, modCore_eq_withCore]

/-- A row that has been put into a register reads as it was put. -/
theorem gets_modTile_putRow (htile : r.tile.toNat < 12) (bs : List Byte) {y z : Core}
    (hz : z.tiles = (modTile r.tile.toNat (Tile.putRow r.row bs) y).tiles) :
    Memory.gets (tileAt z r.tile.toNat).bytes (64 * r.row) bs.length = bs := by
  rw [tileAt_congr hz, tileAt_modTile_same htile, Tile.gets_putRow]

end

/-! How TILE_ROW ends. -/

section
variable {s : State} {c : Fin 8} {r : RowOp} {rest : List RowOp} {p : RowPiece}

theorem noteRowFault_of_none {y : Core} (h : y.rowFault.valid = false) : (noteRowFault r y).rowFault =
    ⟨true, y.rowFault.more, r.store, r.tile, BitVec.ofNat 5 r.row, r.pc⟩ := by
  simp only [noteRowFault, modTask, h, Bool.false_eq_true, if_false]

theorem ends_tileRow (hm : Rule.NoMismatch s) (hrows : s.cores[c].rows = r :: rest) {P : State → Prop}
    (hp : P (performRow c r (rowTaken s c rest))) : Rule.Ends (.tileRow c) s P :=
  ends_of_next rfl ((nextRow_of_cons hm hrows).symm ▸ hp)

variable (hm : Rule.NoMismatch s) (hrows : s.cores[c].rows = r :: rest) (hp : r.pieces = [p])
include hm hrows hp

theorem row_stored (hstore : r.store = true) (hs : Rule.Sound s) (hlen : r.bytes.length = p.len)
    (hw : Rule.Writable s (cellsAt p.pa r.bytes)) :
    Rule.Ends (.tileRow c) s fun u => Rule.Wrote s u (cellsAt p.pa r.bytes) ∧ u.cores[c].rows = rest ∧
      Rule.TilesKept s u c ∧ u.cores[c].banks = s.cores[c].banks ∧ Rule.CoreOnly s u c := by
  have hs' : Rule.Sound (rowTaken s c rest) := ⟨hs.stage, hs.ports, hs.lines⟩
  obtain ⟨hwrote, hspared⟩ := performRow_stored (c := c) hp hstore hlen hs' hw
  have hcore : (performRow c r (rowTaken s c rest)).cores[c] = { s.cores[c] with rows := rest } := by
    rw [hspared.cores, rowTaken_core]
  refine ends_tileRow hm hrows ⟨hwrote.mem, ?_, ?_, ?_,
    coreOnly_trans (coreOnly_withCore ..) (coreOnly_of_quiet (.of_spared hspared))⟩
  · rw [hcore]
  · rw [Rule.TilesKept, hcore]
  · rw [hcore]

/-- A loaded row: its bytes as its register takes them, and the flags that it raises where its task still has its bank. -/
theorem row_loaded (hload : r.store = false) (htile : r.tile.toNat < 12)
    (hok : (rowRead c p (rowTaken s c rest)).1 ≠ .uncorrectable) {v : List Byte × Exc}
    (hv : v = rowValue r (Memory.gets s.mem p.pa p.len)) {P : State → Prop}
    (hP : ∀ u, RowLeft s u c rest → Memory.gets (tileAt u.cores[c] r.tile.toNat).bytes (64 * r.row) v.1.length = v.1 →
      (∀ j : Fin 12, j.val ≠ r.tile.toNat → u.cores[c].tiles[j] = s.cores[c].tiles[j]) →
      (∀ l : Fin 8, s.cores[c].tasks[r.task.toNat].level = l → s.cores[c].banks[l].occ = some r.task →
        u.cores[c].banks = s.cores[c].banks.set l.val { s.cores[c].banks[l] with
          cs := s.cores[c].banks[l].cs ||| (v.2.setWidth 13 <<< 8) }) → P u) : Rule.Ends (.tileRow c) s P := by
  have hl : Looked c (rowTaken s c rest) (rowRead c p (rowTaken s c rest)).2 := looked_coreRead ..
  have hbanks := field_of_taken hl Core.banks (fun _ _ _ => rfl) fun _ _ => rfl
  have htasks := field_of_taken hl Core.tasks (fun _ _ _ => rfl) fun _ _ => rfl
  have htiles := field_of_taken hl Core.tiles (fun _ _ _ => rfl) fun _ _ => rfl
  have hmem : (rowTaken s c rest).mem = s.mem := rfl
  refine ends_tileRow hm hrows ?_
  rw [performRow_loaded hp hload hok, hmem, ← hv]
  generalize (rowRead c p (rowTaken s c rest)).2 = x at hl hbanks htasks htiles
  have hcore := core_withCore x c (rowLoaded r v x.cores[c])
  refine hP _ (rowLeft_withCore hl (rowLoaded_rows ..)) ?_ (fun j hj => ?_) fun l hlevel ho => ?_
  · rw [hcore, gets_modTile_putRow htile _ (rowLoaded_tiles ..)]
  · rw [hcore, rowLoaded_tiles, modTile_other _ _ _ j hj, htiles]
  · rw [hcore, rowLoaded_banks r v (by rw [htasks, hlevel]) (by rw [hbanks, ho]), hbanks]

theorem row_faulted (hload : r.store = false) (htile : r.tile.toNat < 12)
    (hbad : (rowRead c p (rowTaken s c rest)).1 = .uncorrectable) (hnone : s.cores[c].rowFault.valid = false) :
    Rule.Ends (.tileRow c) s fun u => u.mem = s.mem ∧ u.cores[c].rows = rest ∧
      Memory.gets (tileAt u.cores[c] r.tile.toNat).bytes (64 * r.row) r.rb = List.replicate r.rb 0 ∧
      u.cores[c].rowFault = ⟨true, s.cores[c].rowFault.more, false, r.tile, BitVec.ofNat 5 r.row, r.pc⟩ := by
  have hl : Looked c (rowTaken s c rest) (rowRead c p (rowTaken s c rest)).2 := looked_coreRead ..
  have hfault := field_of_taken hl Core.rowFault (fun _ _ _ => rfl) fun _ _ => rfl
  refine ends_tileRow hm hrows ?_
  rw [performRow_faulted hp hload hbad]
  generalize (rowRead c p (rowTaken s c rest)).2 = x at hl hfault
  have hleft := rowLeft_withCore hl (y := noteRowFault r
    (modTile r.tile.toNat (Tile.putRow r.row (List.replicate r.rb 0)) x.cores[c])) rfl
  have hget := gets_modTile_putRow htile (List.replicate r.rb 0) (y := x.cores[c]) (z := noteRowFault r
    (modTile r.tile.toNat (Tile.putRow r.row (List.replicate r.rb 0)) x.cores[c])) rfl
  rw [List.length_replicate] at hget
  refine ⟨hleft.mem, hleft.rows, ?_, ?_⟩
  · rw [core_withCore, hget]
  · rw [core_withCore, noteRowFault_of_none (hfault.symm ▸ hnone), hload]
    exact congrArg (fun f : RowFault => (⟨true, f.more, false, r.tile, BitVec.ofNat 5 r.row, r.pc⟩ : RowFault)) hfault

end

end Sys2Proof.Machine

/-! SUPPORT. O37: TILE_FILE_RESTORE claims the tile file (11:R327). -/

namespace Sys2Proof.Machine

open Rule (Ready)

section
variable {s : State} {c : Fin 8} {t : Byte} {k : Fin 8}

theorem tileFileRestore_of_owner (h : Ready s c t k) (ho : s.cores[c].tileOwner = some t) : tileFileRestore c s = s := by
  have ho' : s.cores[c.val].tileOwner = some t := ho
  simp [tileFileRestore, h.runs, running_of_ready h, ho']

/-- No tile save of the core, and no restore of the task, is to be moved. -/
structure NoTileUnits (x : Core) (t : Byte) : Prop where
  saves    : savingTiles x = false
  restores : restoring x t = false
  others   : x.xq.filter (fun u => unitClass u.kind != 6 || u.task == t) = x.xq.filter fun u => unitClass u.kind ≠ 6

theorem noTileUnits_of_forall {x : Core} (h : ∀ u ∈ x.xq, unitClass u.kind ≠ 4 ∧ ¬(unitClass u.kind = 6 ∧ u.task = t)) :
    NoTileUnits x t where
  saves := List.any_eq_false.mpr fun u hu => by simpa using (h u hu).1
  restores := List.any_eq_false.mpr fun u hu => by simpa using (h u hu).2
  others := List.filter_congr fun u hu => by
    by_cases h6 : unitClass u.kind = 6
    · have ht : u.task ≠ t := fun ht => (h u hu).2 ⟨h6, ht⟩
      simp [h6, ht]
    · simp [h6]

/-- The core whose tile file task t has claimed: its own at once, or with its saved tiles to be restored. -/
def claimed (t : Byte) (x : Core) : Core :=
  if (getTask x t).tilesSaved then
    { clearTiles t x with xq := (clearTiles t x).xq ++ restoreUnits t (getTask x t).level }
  else claimTiles t x

theorem tileFileRestore_of_free (h : Ready s c t k) (ho : s.cores[c].tileOwner ≠ some t) (hrows : s.cores[c].rows = [])
    (hu : NoTileUnits s.cores[c] t) : tileFileRestore c s = Rule.withCore s c (claimed t s.cores[c]) := by
  obtain ⟨hsave, hrestore, -⟩ := hu
  rw [Fin.getElem_fin] at ho hrows hsave hrestore
  simp only [tileFileRestore, h.runs, getCore_fin, running_of_ready h, beq_eq_false_iff_ne.mpr ho, hsave, hrestore, hrows,
    List.isEmpty_nil, Bool.not_true, Bool.or_self, Bool.false_eq_true, if_false, modCore_eq_withCore]
  rfl

theorem claimed_eq {x : Core} (hu : NoTileUnits x t) : claimed t x =
    { x with
      tiles := .replicate 12 .reset, latchS := none, latchT := none, rowFault := .reset,
      tileOwner := if x.tasks[t.toNat].tilesSaved then none else some t,
      xq := (x.xq.filter fun u => unitClass u.kind ≠ 6) ++ if x.tasks[t.toNat].tilesSaved then
        [⟨.restoreHead false, t, x.tasks[t.toNat].level, []⟩, ⟨.restoreHead true, t, x.tasks[t.toNat].level, []⟩] else [] } := by
  rw [claimed, getTask_eq]
  cases x.tasks[t.toNat].tilesSaved <;> simp only [claimTiles, clearTiles, hu.others, restoreUnits, Bool.false_eq_true,
    if_true, if_false, List.append_nil]

end

/-- Settles O37: loads and stores by their translated rows, TILE_ROW by the oldest row, and the claim of the tile file. -/
theorem tileMemory : Obligations.TileMemory := by
  intro s w c t k h hm td ts fmt ga gb rows rb x rs v n m tcfg addresses
  refine ⟨fun z len ho hd hsb hplain hconv hx => ?_, fun ho hs hshape hfit hsb hw hx => ?_,
    fun r rest p hrows hp _ _ htile => ⟨fun hstore hs hlen hw => ?_, fun hload hconv hlen hok => ?_,
      fun src f y cfg hload hconv hok => ?_, fun hload hbad hnone => ?_⟩, fun hrows => ?_, fun ho => ?_, fun ho hrows hu => ?_⟩
  · exact tld_ends h ho hsb td fmt ga gb rows rb z hd (loadLength_eq hplain hconv) hx
  · exact tst_ends h ho hsb ts fmt ga gb rows rb x hs hshape hfit hw hx
  · exact row_stored hm hrows hp hstore hs hlen hw
  · have hv : (Memory.gets s.mem p.pa r.rb, (0 : Exc)) = rowValue r (Memory.gets s.mem p.pa p.len) := by
      rw [rowValue, hconv, hlen, List.take_of_length_le (Memory.length_gets ..).le]
    refine row_loaded hm hrows hp hload htile hok hv fun u hleft hbytes hothers _ =>
      ⟨hleft.mem, hleft.rows, ?_, hothers, hleft.only⟩
    rwa [Memory.length_gets] at hbytes
  · have hv : tileConv cfg y src.toNat (tileFmt f) r.row r.rb (Memory.gets s.mem p.pa p.len) =
        rowValue r (Memory.gets s.mem p.pa p.len) := by rw [rowValue, hconv]
    exact row_loaded hm hrows hp hload htile hok hv fun u hleft hbytes _ hbanks =>
      ⟨hleft.mem, hleft.rows, hleft.only, hbytes, hbanks⟩
  · exact row_faulted hm hrows hp hload htile hbad hnone
  · exact gives_of_next rfl (nextRow_of_nil hrows)
  · exact gives_of_next rfl (tileFileRestore_of_owner h ho)
  · have hunits := noTileUnits_of_forall hu
    exact gives_of_next rfl ((tileFileRestore_of_free h ho hrows hunits).trans (congrArg _ (claimed_eq hunits)))

end Sys2Proof.Machine

/-! SUPPORT. O59: a command leaves no FLAG or BEAT binding due, since every change of the state is settled (11:R317). -/

namespace Sys2Proof.Machine

open Rule (NotDue)

/-! Tasks that fire (11:R317, R318). -/

theorem causeTask_src (n : Nat) (x : Task) : (causeTask n x).src = x.src := by
  unfold causeTask
  split
  · rfl
  · dsimp only
    split <;> rfl

theorem causeTask_armed (n : Nat) (x : Task) : (causeTask n x).armed = x.armed := by
  unfold causeTask
  split
  · rfl
  · dsimp only
    split <;> rfl

/-- FLAG and BEAT bindings, which disarm as they fire. -/
def Disarms (x : Task) : Prop := x.src = 1 ∨ x.src = 2

theorem fireTask_disarmed {x : Task} (h : Disarms (fireTask x)) : (fireTask x).armed = false := by
  have hs : (x.src == 1 || x.src == 2) = true := by
    rw [Bool.or_eq_true, beq_iff_eq, beq_iff_eq]
    simpa only [Disarms, fireTask, causeTask_src] using h
  rw [fireTask, causeTask_armed, if_pos hs]

/-- A valid task whose FLAG or BEAT binding is armed after a firing has not fired. -/
theorem fireWhere_armed {p : Task → Bool} {x : Core} {j : Nat} {hj : j < 256} (hv : (fireWhere p x).tasks[j].st ≠ .invalid)
    (ha : (fireWhere p x).tasks[j].armed = true) (hd : Disarms (fireWhere p x).tasks[j]) :
    (fireWhere p x).tasks[j] = x.tasks[j] ∧ p x.tasks[j] = false := by
  rw [fireWhere_task] at hv ha hd ⊢
  by_cases hf : x.tasks[j].st ≠ .invalid ∧ p x.tasks[j] = true
  · rw [if_pos hf] at ha hd
    rw [fireTask_disarmed hd] at ha
    cases ha
  · rw [if_neg hf] at hv ⊢
    exact ⟨rfl, Bool.eq_false_iff.mpr fun hp => hf ⟨hv, hp⟩⟩

/-! Settling (11:R317). -/

theorem coreRuns_settle (u v : State) (c : Fin 8) : coreRuns (settle u v) c.val = coreRuns v c.val := by
  have hh := settle_halted u v c
  rw [Fin.getElem_fin, Fin.getElem_fin] at hh
  rw [coreRuns, coreRuns, getCore_fin, getCore_fin, hh]
  rfl

/-- An armed FLAG or BEAT binding of a running core, once the state is settled: the bindings that fired did not include it. -/
theorem bindingFires_settle {u v : State} {c : Fin 8} {t : Fin 256} (hr : coreRuns (settle u v) c.val = true)
    (hv : (settle u v).cores[c].tasks[t].st ≠ .invalid) (ha : (settle u v).cores[c].tasks[t].armed = true)
    (hd : Disarms (settle u v).cores[c].tasks[t]) :
    bindingFires v (queuesNotified u v) (queuesHalted u v) (linesPulsed u v) (settle u v).cores[c].tasks[t] = false := by
  rw [coreRuns_settle] at hr
  have hc := settle_core u v c.val c.isLt
  rw [if_pos hr] at hc
  simp only [Fin.getElem_fin, hc] at hv ha hd ⊢
  obtain ⟨he, hp⟩ := fireWhere_armed hv ha hd
  rwa [he]

/-- What has been settled leaves no binding due. -/
theorem notDue_settle (u v : State) : NotDue (settle u v) := by
  refine ⟨fun c t hr hv ha hs => ?_, fun c t hr hv ha hs => ?_, ?_⟩
  · have hf := bindingFires_settle hr hv ha (.inl hs)
    rw [bindingFires, hs, ha] at hf
    exact hf
  · have hf := bindingFires_settle hr hv ha (.inr hs)
    rw [bindingFires, hs, ha] at hf
    exact Nat.lt_of_not_le (of_decide_eq_false hf)
  · have hq : quiet (settle u v) = quiet v := rfl
    rw [settle_quietSeen, hq, Bool.and_eq_true, beq_iff_eq]

section
variable {s : State} (h : NotDue s)
include h

/-! What no binding looks at. -/

theorem notDue_pending (l : List Instr) : NotDue { s with pending := l } := ⟨h.flags, h.beats, h.quiet_⟩

theorem notDue_memp (m : Memp) : NotDue { s with memp := m } := ⟨h.flags, h.beats, h.quiet_⟩

theorem notDue_place (p : Nat) : NotDue { s with ctl := { s.ctl with place := p } } := ⟨h.flags, h.beats, h.quiet_⟩

theorem notDue_askPorts (k : Nat) (us : List Nat) : NotDue (askPorts k us s) := by
  obtain ⟨m, hm⟩ := askPorts_eq k us s
  rw [hm]
  exact notDue_memp h m

/-! The end of an f-cycle, and the turn of a command (logs 1 and 9). -/

theorem notDue_endCycle : NotDue (endCycle s) := by
  unfold Machine.endCycle
  split
  · exact ⟨h.flags, h.beats, h.quiet_⟩
  · exact notDue_settle ..

theorem notDue_arrive (p : Nat) : NotDue (arrive p s) := by
  unfold Machine.arrive
  split
  · exact notDue_place (notDue_endCycle h) p
  · exact notDue_place h p

theorem notDue_finds (i : Instr) : NotDue (Rule.finds i s) := by
  unfold Rule.finds
  split
  · exact notDue_memp (notDue_arrive h _) _
  · exact notDue_arrive h _

end

/-! The effects of the commands. -/

/-- What a command comes to, if it does not stop, leaves no binding due. -/
structure LeavesNotDue (o : Host.Outcome State Fault Refusal) : Prop where
  next : ∀ t, o = .next t → NotDue t

theorem leavesNotDue_next {t : State} (h : NotDue t) : LeavesNotDue (.next t) := by
  constructor
  rintro _ ⟨⟩
  exact h

/-- What stops has no next state. -/
theorem leavesNotDue_fault (f : Fault) : LeavesNotDue (.fault f) := ⟨by rintro _ ⟨⟩⟩

theorem leavesNotDue_settle (u v : State) : LeavesNotDue (.next (settle u v)) := leavesNotDue_next (notDue_settle u v)

theorem leavesNotDue_finish (u : State) (stop : Option Fault) (v : State) : LeavesNotDue (finish u stop v) := by
  cases stop with
  | none => exact leavesNotDue_settle u v
  | some f => exact leavesNotDue_fault f

theorem leavesNotDue_writeReg (src : Src) (off : Nat) (v : Word) (s : State) : LeavesNotDue (writeReg src off v s) :=
  leavesNotDue_finish ..

theorem leavesNotDue_odOutcome (path : Path) (ty : Nat) (p : List Byte) (s : State) :
    LeavesNotDue (odOutcome path ty p s) := by
  unfold odOutcome
  split
  · exact leavesNotDue_fault _
  · unfold thenHeld
    split
    · exact leavesNotDue_settle ..
    · split
      · exact leavesNotDue_settle ..
      · exact leavesNotDue_finish ..

theorem leavesNotDue_cmdWriteOf (by_ : CmdSrc) (off : Nat) (v : Word) (idx sub : Nat) (data : List Byte) (s : State) :
    LeavesNotDue (cmdWriteOf by_ off v idx sub data s) := by
  cases by_ with
  | reg src => exact leavesNotDue_writeReg ..
  | od p => exact leavesNotDue_odOutcome ..

theorem leavesNotDue_crCommand (who : CrWho) (r : Nat) (v : Word) (s : State) : LeavesNotDue (crCommand who r v s) := by
  cases who with
  | task c => exact leavesNotDue_settle ..
  | window src c => exact leavesNotDue_writeReg ..

theorem LeavesNotDue.edgeNext {o : Host.Outcome State Fault Refusal} (h : LeavesNotDue o) : LeavesNotDue (edgeNext o) := by
  cases o with
  | next t =>
    refine leavesNotDue_next ?_
    split
    · exact notDue_endCycle (h.next t rfl)
    · exact h.next t rfl
  | fault f => exact leavesNotDue_fault f
  | refused r => exact ⟨by rintro _ ⟨⟩⟩

/-- A write of a register that its kind or alignment may keep from its effect. -/
theorem leavesNotDue_writeReg_if {s : State} (h : NotDue s) (b : Bool) (src : Src) (off : Nat) (v : Word) :
    LeavesNotDue (if b then writeReg src off v s else .next s) := by
  cases b with
  | true => exact leavesNotDue_writeReg ..
  | false => exact leavesNotDue_next h

/-- The effect of every command is settled, but where it writes a register that is none of its kind and nothing happens. -/
theorem leavesNotDue_effect {s : State} (h : NotDue s) (i : Instr) : LeavesNotDue (effect i s) := by
  cases i with
  | applyNow => exact (leavesNotDue_cmdWriteOf ..).edgeNext
  | stateRequest => exact leavesNotDue_cmdWriteOf ..
  | applyArm by_ beat =>
    cases by_ with
    | reg src => exact leavesNotDue_settle ..
    | od p => exact leavesNotDue_odOutcome ..
  | stagedWrite | registerWrite | sqcClear => exact leavesNotDue_writeReg_if h ..
  | applyAtWrite | dqCfgWrite | dqDoorbell | queueFlush | queueResume | queueHalt | flagWriteSet | flagWriteAdd
  | mempCfgWrite | xlatCtxbaseWrite | xlatInvAddress | xlatInvAddressWalker | xlatInvContext | xlatInvBlock
  | preloadStart | wayPowerDown | wayPowerUp | faultAckWrite => exact leavesNotDue_writeReg ..
  | hostWindowWrite addr be data split =>
    cases split with
    | true => exact leavesNotDue_settle ..
    | false => exact leavesNotDue_finish ..
  | odRead | odWrite | odAwrite | serviceEnter | serviceEnd | regValueRead | regValueWrite | nodeAddrWrite
  | unitServiceEnter | unitServiceLeave | unitRetire | imgBlock | imgCommit | keyWrite | spareMapWrite | testmodeWrite =>
    exact leavesNotDue_odOutcome ..
  | mailboxDone | taskEntryWrite | wake | taskResume | taskKill | transferRetry | clearPend =>
    exact leavesNotDue_crCommand ..
  | st1 | st2 | st4 | st8 => exact leavesNotDue_finish ..
  | _ => exact leavesNotDue_settle ..

/-- Every command, in its turn or not. -/
theorem leavesNotDue_exec {s : State} (h : NotDue s) (i : Instr) : LeavesNotDue (exec i s) := by
  by_cases hl : (livesIn i).now s = true
  · have he := leavesNotDue_effect (notDue_finds h i) i
    rw [exec_live hl]
    cases ho : effect i (Rule.finds i s) with
    | fault f => exact leavesNotDue_fault f
    | refused r => exact ⟨by rintro _ ⟨⟩⟩
    | next t =>
      cases requester i with
      | none => exact leavesNotDue_next (he.next t ho)
      | some k =>
        dsimp only
        split
        · exact leavesNotDue_next (notDue_memp (he.next t ho) _)
        · exact leavesNotDue_next (notDue_askPorts (notDue_arrive h _) ..)
  · rw [exec_dead (Bool.not_eq_true _ ▸ hl)]
    exact leavesNotDue_next h

/-- Settles O59: an f-cycle ends settled, and a command leaves no binding due whatever its effect. -/
theorem noDueBinding : Obligations.NoDueBinding := by
  intro s t h hs
  unfold step at hs
  split at hs
  · cases hs
    exact notDue_endCycle h
  · exact (leavesNotDue_exec (notDue_pending h _) _).next t hs

end Sys2Proof.Machine

/-! SUPPORT. O33: the commands that end a task, or make it wait or fire (11:R317 to R319). -/

namespace Sys2Proof.Machine

open Rule (Ready)

/-! A task's registers and tile state go (11:R319, R320). -/

/-- The core without what task t has of it: its units, its bank and its tile state. -/
def discarded (t : Byte) (x : Core) : Core := dropTiles t (freeBank t (cancelUnits t x))

section
variable (t : Byte) (x : Core)

theorem discarded_tasks : (discarded t x).tasks =
    (Rule.withTask x t fun y => { y with tilesSaved := false, rowFault := none }).tasks := by
  rw [discarded, dropTiles, modTask_eq_withTask]
  split <;> rfl

theorem discarded_bank (j : Fin 8) :
    (discarded t x).banks[j] = if x.banks[j].occ = some t then Bank.reset else x.banks[j] := by
  have hb : (discarded t x).banks = (freeBank t x).banks := by
    rw [discarded, dropTiles]
    split <;> rfl
  simp [hb, freeBank]

theorem discarded_units : (discarded t x).xq = x.xq.filter (fun w => w.task ≠ t) ∧
    (discarded t x).xstop = x.xstop.filter (fun w => w.task ≠ t) := by
  have hu : (discarded t x).xq = (cancelUnits t x).xq ∧ (discarded t x).xstop = (cancelUnits t x).xstop := by
    rw [discarded, dropTiles]
    split <;> exact ⟨rfl, rfl⟩
  have hp : (fun w : XferUnit => w.task != t) = fun w => decide (w.task ≠ t) := by
    funext w
    exact (Bool.eq_iff_iff.mpr (by simp))
  rw [hu.1, hu.2, cancelUnits, hp]
  exact ⟨rfl, rfl⟩

theorem discarded_going : (discarded t x).running = x.running ∧ (discarded t x).instret = x.instret := by
  rw [discarded, dropTiles]
  split <;> exact ⟨rfl, rfl⟩

theorem discarded_owned (h : x.tileOwner = some t) :
    (discarded t x).tileOwner = none ∧ ∀ r : Fin 12, (discarded t x).tiles[r] = Tile.reset := by
  rw [discarded, dropTiles]
  split
  next => exact ⟨rfl, fun r => Vector.getElem_replicate r.isLt⟩
  next hn => exact absurd (beq_iff_eq.mpr h) hn

theorem discarded_not_owned (h : x.tileOwner ≠ some t) :
    (discarded t x).tileOwner = x.tileOwner ∧ (discarded t x).tiles = x.tiles := by
  rw [discarded, dropTiles]
  split
  next ho => exact absurd (beq_iff_eq.mp ho) h
  next => exact ⟨rfl, rfl⟩

end

/-- One task changed after another change of it. -/
theorem withTask_tasks_of {x z : Core} {t : Byte} {f : Task → Task} (h : z.tasks = (Rule.withTask x t f).tasks)
    (g : Task → Task) : (Rule.withTask z t g).tasks = x.tasks.set t.toNat (g (f x.tasks[t.toNat])) := by
  simp only [Rule.withTask] at h ⊢
  simp [h]

/-! Instructions after which the task's registers are no more the instruction's (09:R258). -/

/-- A core that has counted an instruction without a bank to commit. -/
def countedGone (x : Core) : Core := { x with instret := x.instret + 1, resumed := false, wants := [] }

section
variable {s : State} {c : Fin 8} {t : Byte} {k : Fin 8}

theorem gives_runInstr_gone (h : Ready s c t k) {i : Instr} {dst src : List (BitVec 5)} {f : Nat → State → Commit × State}
    {y : Core} (he : effect i s = .next (settle s (runInstr c dst src f s)))
    (hf : f k.val s = (.gone, Rule.withCore s c y)) : Rule.Gives i s (Rule.withCore s c (countedGone y)) := by
  refine gives_of_next he ?_
  rw [runInstr_ready h, hf, endInstr, modCore_eq_withCore, withCore_withCore, core_withCore]
  rfl

/-! TEND, TWAIT and TRAP (11:R317, R319). -/

theorem gives_tend (h : Ready s c t k) (hr : s.cores[c].rows = []) :
    Rule.Gives (.tend c) s (Rule.withCore s c (countedGone (endTask t s.cores[c]))) := by
  have hrows : (getCore s c.val).rows.isEmpty = true := by simp [show s.cores[c.val].rows = [] from hr]
  refine gives_runInstr_gone h rfl ?_
  simp only [afterRows, allRows_of_nil hr, hrows, Bool.not_true, Bool.false_eq_true, if_false, rowCheck_of_ready h, h.running,
    modCore_eq_withCore]

theorem endTask_tasks (t : Byte) (x : Core) : (endTask t x).tasks = x.tasks.set t.toNat { x.tasks[t.toNat] with
    st := if x.tasks[t.toNat].pend then .ready else .dormant, pend := false, spilled := false, tilesSaved := false,
    rowFault := none } := by
  rw [endTask, modTask_eq_withTask]
  exact withTask_tasks_of (z := { discarded t x with running := none, outgoing := none }) (discarded_tasks t x) _

theorem ends_tend (h : Ready s c t k) (hr : s.cores[c].rows = []) :
    let x := s.cores[c]
    let y := x.tasks[t.toNat]
    Rule.Ends (.tend c) s fun u =>
      let z := u.cores[c]
      z.running = none ∧ z.instret = x.instret + 1 ∧ Rule.CoreOnly s u c ∧
      z.tasks = x.tasks.set t.toNat { y with
        st := if y.pend then .ready else .dormant, pend := false, spilled := false, tilesSaved := false, rowFault := none } ∧
      (∀ j : Fin 8, z.banks[j] = if (x.banks[j]).occ = some t then Bank.reset else x.banks[j]) ∧
      z.xq = x.xq.filter (fun w => w.task ≠ t) ∧
      (x.tileOwner = some t → z.tileOwner = none ∧ ∀ r : Fin 12, z.tiles[r] = Tile.reset) ∧
      (x.tileOwner ≠ some t → z.tileOwner = x.tileOwner ∧ z.tiles = x.tiles) := by
  refine ⟨_, gives_tend h hr, ?_⟩
  simp only [core_withCore]
  exact ⟨rfl, congrArg (· + 1) (discarded_going t _).2, coreOnly_withCore .., endTask_tasks t _, discarded_bank t _,
    (discarded_units t _).1, discarded_owned t _, discarded_not_owned t _⟩

/-- TWAIT of a task at its bank: it goes on, or waits. -/
theorem gives_twait (h : Ready s c t k) :
    Rule.Gives (.twait c) s (Rule.withCore s c (countedGone (waitTask t k s.cores[c]))) := by
  refine gives_runInstr_gone h rfl ?_
  simp only [rowCheck_of_ready h, h.running, modCore_eq_withCore]

theorem waitTask_pend (hp : s.cores[c].tasks[t.toNat].pend = true) : countedGone (waitTask t k s.cores[c]) =
    Rule.counted (Rule.withTask s.cores[c] t fun z => { z with pend := false }) k (Rule.onward (Rule.bank s c k)) := by
  rw [waitTask, modBank_fin]
  dsimp only
  rw [getTask_eq, if_pos hp, modTask_eq_withTask]
  rfl

theorem waitTask_idle (hp : s.cores[c].tasks[t.toNat].pend = false) : countedGone (waitTask t k s.cores[c]) =
    Rule.counted { Rule.withTask s.cores[c] t fun z => { z with st := .waiting } with running := none, outgoing := some t } k
      (Rule.onward (Rule.bank s c k)) := by
  rw [waitTask, modBank_fin]
  dsimp only
  rw [getTask_eq, if_neg (Bool.eq_false_iff.mp hp), modTask_eq_withTask]
  rfl

theorem vmap_eq_map {α β : Type} {n : Nat} (f : α → β) (v : Vector α n) : vmap f v = v.map f :=
  Vector.ext fun i hi => by rw [vmap_getElem, Vector.getElem_map]

/-- A TRAP binding stays armed as it fires. -/
theorem fireTask_trap {y : Task} (h : y.src = 7) : fireTask y = causeTask 0 y := by
  cases y
  subst h
  rfl

theorem fireWhere_trap (code : Byte) (x : Core) : fireWhere (trapBound code) x =
    Rule.activated x fun z => z.src = 7 ∧ (z.smode.getLsbD 0 = true ∨ z.value.extractLsb' 0 8 = code) := by
  rw [fireWhere, vmap_eq_map, Rule.activated]
  congr 2
  funext y
  have hp : (y.st != .invalid && trapBound code y) = true ↔
      y.st ≠ .invalid ∧ y.src = 7 ∧ (y.smode.getLsbD 0 = true ∨ y.value.extractLsb' 0 8 = code) := by
    simp [trapBound]
  by_cases h : (y.st != .invalid && trapBound code y) = true
  · rw [if_pos h, if_pos (hp.mp h), fireTask_trap (hp.mp h).2.1]
  · rw [if_neg h, if_neg (mt hp.mpr h)]

theorem gives_trap (h : Ready s c t k) (code : Byte) : Rule.Gives (.trap c code) s (Rule.withCore s c (Rule.counted
    (Rule.activated s.cores[c] fun z => z.src = 7 ∧ (z.smode.getLsbD 0 = true ∨ z.value.extractLsb' 0 8 = code)) k
    (Rule.onward (Rule.bank s c k)))) := by
  rw [← fireWhere_trap]
  refine gives_runInstr_core h rfl ?_
  rw [rowCheck_of_ready h, modCore_eq_withCore]
  dsimp only
  rw [bankNow_eq, bank_withCore, advance_eq]
  rfl

end

theorem taskEnds : Rule.TaskEnds := fun _ _ _ _ h =>
  ⟨ends_tend h, fun hp => waitTask_pend hp ▸ gives_twait h, fun hp => waitTask_idle hp ▸ gives_twait h, gives_trap h⟩

end Sys2Proof.Machine

/-! SUPPORT. O33: wakes, the task commands, task entries and MBX_DONE, by a task or through the CC window (11:R315 to R320,
R333; 07:R228). -/

namespace Sys2Proof.Machine

open Rule (Ready)

/-! A control register written by a task, or through the window (09:R281; 11:R315). -/

/-- The command is a write of control register r. -/
def WritesCr (i : CrWho → Instr) (r : Nat) (v : Word) : Prop := ∀ who s, effect (i who) s = crCommand who r v s

section
variable {s : State} {src : Src} {c : Fin 8} {t : Byte} {k : Fin 8} {i : CrWho → Instr} {r : Nat} {v : Word} {y : Core}

/-- A write by the running task, after which it goes on. -/
theorem gives_crCommand_task (h : Ready s c t k) (hi : WritesCr i r v) {rd wr : Nat} (hr : crRules r = some (rd, wr))
    (hl : Rule.Legal wr k) {u : State} (hw : crWriteTask c.val k.val r v s = u) (ht : u.cores[c].running = some t) :
    Rule.Gives (i (.task c)) s (Rule.commit u c k (Rule.onward (Rule.bank u c k))) := by
  refine gives_runInstr h (hi (.task c) s) (dst := []) (src := []) (f := writeCr c r v) ?_
  have hrun : (getCore u c.val).running.isNone = false := by
    rw [getCore_fin, show u.cores[c.val].running = some t from ht]
    rfl
  simp only [writeCr, crFault_write hr hl, hw, hrun, Bool.false_eq_true, if_false, bankNow_eq, advance_eq]

/-- A write by the running task that leaves the bank of its level. -/
theorem byTask_of_write (h : Ready s c t k) (hi : WritesCr i r v) {rd wr : Nat} (hr : crRules r = some (rd, wr))
    (hl : Rule.Legal wr k) (hw : crWriteTask c.val k.val r v s = Rule.withCore s c y)
    (ht : y.running = s.cores[c].running) (hb : y.banks[k] = Rule.bank s c k) : Rule.byTask i s c k y := by
  have hg := gives_crCommand_task h hi hr hl hw (by rw [core_withCore, ht]; exact running_of_ready h)
  rwa [commit_withCore, bank_withCore, hb] at hg

theorem regWrite_cc (hr : r < 0x200) (hc : (ccBuilt s).getLsbD c.val = true) :
    regWrite src (0x600000 + c.val * 0x10000 + r * 8) v s = crWriteWindow c.val r v s := by
  have hc8 := c.isLt
  have hreg : (0x600000 + c.val * 0x10000 + r * 8) / 0x100000 = 6 := by omega
  have hlow : 0x600000 + c.val * 0x10000 + r * 8 < 0x680000 := by omega
  have hp : past 0x600000 (0x600000 + c.val * 0x10000 + r * 8) = c.val * 0x10000 + r * 8 := by unfold past; omega
  have hn : (c.val * 0x10000 + r * 8) / 0x10000 = c.val := by omega
  have hw : (c.val * 0x10000 + r * 8) % 0x10000 = r * 8 := by omega
  have hw2 : ¬ 0x1000 ≤ r * 8 := by omega
  have h8 : r * 8 % 8 = 0 := by omega
  have hd : r * 8 / 8 = r := by omega
  simp only [regWrite, hreg, hlow, if_true, ccWrite, hp, hn, hw, hw2, h8, hd, hc, Bool.not_true, decide_false,
    bne_self_eq_false, Bool.or_self, Bool.false_eq_true, if_false]

/-- A write through the window of a core that is built. -/
theorem gives_crCommand_window (hw : Rule.Writer s src) (hc : (ccBuilt s).getLsbD c.val = true) (hi : WritesCr i r v)
    (hr : r < 0x200) {u : State} (hu : crWriteWindow c.val r v s = u) : Rule.Gives (i (.window src c)) s u := by
  have hc8 := c.isLt
  apply gives_of_effect
  rw [hi]
  exact writeReg_eq_next hw (by omega) (.inl (by omega)) ((regWrite_cc hr hc).trans hu)

end

/-! The task table and its commands (11:R316, R318, R320). -/

section
variable (s : State) (c : Fin 8) (t : Byte)

theorem schRefuse_eq : schRefuse c.val s = Rule.withCore s c (Rule.refusedCore s s.cores[c]) := modCore_eq_withCore ..

theorem modCore_modTask (f : Task → Task) :
    modCore c.val (modTask t f) s = Rule.withCore s c (Rule.withTask s.cores[c] t f) := by
  rw [modCore_eq_withCore, modTask_eq_withTask]

theorem getCore_eq : getCore s c.val = s.cores[c] := getCore_fin s c

theorem getTask_getCore : getTask (getCore s c.val) t = s.cores[c].tasks[t.toNat] := by
  rw [getCore_eq, getTask_eq]

/-- The commands of CTL_TCMD. -/
theorem tcmdWord_fields {n : Nat} (h : n < 8) : (tcmdWord n t).extractLsb' 8 8 = t ∧ fld (tcmdWord n t) 0 3 = n := by
  have ht := t.isLt
  have hw : (tcmdWord n t).toNat = t.toNat * 256 + n := by
    rw [tcmdWord, w64, BitVec.toNat_ofNat]
    omega
  constructor
  · apply BitVec.eq_of_toNat_eq
    rw [BitVec.extractLsb'_toNat, hw, Nat.shiftRight_eq_div_pow]
    omega
  · rw [fld, hw]
    omega

theorem resumeTask_faulted (h : s.cores[c].tasks[t.toNat].st = .faulted) : resumeTask c.val t s =
    Rule.withCore s c (Rule.withTask s.cores[c] t fun z => { z with st := .runnable }) := by
  rw [resumeTask, getTask_getCore, if_pos (beq_iff_eq.mpr h), modCore_modTask]

theorem resumeTask_refused (h : s.cores[c].tasks[t.toNat].st ≠ .faulted) :
    resumeTask c.val t s = Rule.withCore s c (Rule.refusedCore s s.cores[c]) := by
  rw [resumeTask, getTask_getCore, if_neg (mt beq_iff_eq.mp h), schRefuse_eq]

theorem retryUnits_stopped (h : s.cores[c].xstop ≠ none) : retryUnits c.val s =
    Rule.withCore s c { s.cores[c] with xstop := none, xfirst := s.cores[c].xstop } := by
  rw [retryUnits, getCore_eq, if_pos (Option.isSome_iff_ne_none.mpr h), modCore_eq_withCore]

theorem retryUnits_refused (h : s.cores[c].xstop = none) :
    retryUnits c.val s = Rule.withCore s c (Rule.refusedCore s s.cores[c]) := by
  rw [retryUnits, getCore_eq, if_neg (fun hs => Option.isSome_iff_ne_none.mp hs h), schRefuse_eq]

theorem clearPendOf_valid (h : s.cores[c].tasks[t.toNat].st ≠ .invalid) : clearPendOf c.val t s =
    Rule.withCore s c (Rule.withTask s.cores[c] t fun z => { z with pend := false }) := by
  rw [clearPendOf, getTask_getCore, if_neg (mt beq_iff_eq.mp h), modCore_modTask]

theorem clearPendOf_refused (h : s.cores[c].tasks[t.toNat].st = .invalid) :
    clearPendOf c.val t s = Rule.withCore s c (Rule.refusedCore s s.cores[c]) := by
  rw [clearPendOf, getTask_getCore, if_pos (beq_iff_eq.mpr h), schRefuse_eq]

theorem killTask_refused (h : s.cores[c].tasks[t.toNat].st = .invalid ∨ s.cores[c].tasks[t.toNat].st = .running) :
    killTask c.val t s = Rule.withCore s c (Rule.refusedCore s s.cores[c]) := by
  rw [killTask, getTask_getCore, ← schRefuse_eq]
  exact if_pos (by simpa using h)

/-- The core neither runs task t nor switches to or from it. -/
def dismissed (x : Core) : Core :=
  { x with
    switchTo := if x.switchTo == some t then none else x.switchTo,
    outgoing := if x.outgoing == some t then none else x.outgoing,
    running := if x.running == some t then none else x.running }

/-- The core after the kill of task t. -/
def killed (x : Core) : Core :=
  modTask t (fun y => { y with st := .dormant, spilled := false }) (dismissed t (discarded t x))

theorem killTask_eq (h : s.cores[c].tasks[t.toNat].st ≠ .invalid) (hr : s.cores[c].tasks[t.toNat].st ≠ .running)
    (hrows : s.cores[c].rows = []) : killTask c.val t s = Rule.withCore s c (killed t s.cores[c]) := by
  have hn : ¬ (s.cores[c].tasks[t.toNat].st == .invalid || s.cores[c].tasks[t.toNat].st == .running) = true := by
    simpa using ⟨h, hr⟩
  rw [killTask, getTask_getCore]
  dsimp only
  rw [if_neg hn, Fin.ofNat_eq_cast, Fin.cast_val_eq_self, allRows_of_nil hrows, modCore_eq_withCore]
  rfl

theorem killed_tasks (x : Core) : (killed t x).tasks = x.tasks.set t.toNat { x.tasks[t.toNat] with
    st := .dormant, spilled := false, tilesSaved := false, rowFault := none } := by
  rw [killed, modTask_eq_withTask]
  exact withTask_tasks_of (z := dismissed t (discarded t x)) (discarded_tasks t x) _

theorem killed_running (x : Core) (h : x.running ≠ some t) : (killed t x).running = x.running := by
  have hr : (discarded t x).running = x.running := (discarded_going t x).1
  exact (if_neg (by simpa [hr] using h)).trans hr

end

/-! Task entries (11:R316, R317). -/

/-- The core after a write of word w of a task's entry. -/
def entryWritten (s : State) (x : Core) (sel : Byte) (w : Fin 4) (v : Word) : Core :=
  let o := x.tasks[sel.toNat]
  match w.val with
  | 0 =>
    if ¬ Rule.Idle o ∨ (v.getLsbD 63 = true ∧ bindingRefused (v.toNat / 2 ^ 28 % 16) (v.toNat / 2 ^ 24 % 8)
        (v.toNat / 2 ^ 12 % 4096) (v.toNat / 2 ^ 8 % 16) = true) then Rule.refusedCore s x
    else Rule.withTask x sel fun o => { o with
      src := v.extractLsb' 28 4, level := Fin.ofNat 8 (v.toNat / 2 ^ 24 % 8), sparam := v.extractLsb' 12 12,
      smode := v.extractLsb' 8 4, st := if v.getLsbD 63 then .dormant else .invalid,
      armed := if v.getLsbD 63 && o.st == .invalid then true else o.armed }
  | 1 => Rule.withTask x sel fun o => { o with value := v, armed := true }
  | 2 => if Rule.Idle o then Rule.withTask x sel fun o => { o with entry := v.extractLsb' 2 46 } else Rule.refusedCore s x
  | _ => if Rule.Idle o then Rule.withTask x sel fun o => { o with save := v.extractLsb' 9 39 } else Rule.refusedCore s x

section
variable (s : State) (c : Fin 8) (sel : Byte) (v : Word)

theorem fld_eq {n : Nat} (w : BitVec n) (lo len : Nat) : fld w lo len = w.toNat / 2 ^ lo % 2 ^ len := by
  rw [fld, Nat.shiftRight_eq_div_pow]

theorem idle_iff (o : Task) : (o.st == .invalid || o.st == .dormant) = true ↔ Rule.Idle o := by
  simp [Rule.Idle]

/-- A word that only an idle task takes. -/
theorem writeTent_idle (f : Task → Task) :
    (if (s.cores[c].tasks[sel.toNat].st == .invalid || s.cores[c].tasks[sel.toNat].st == .dormant) = true then
      modCore c.val (modTask sel f) s else schRefuse c.val s) =
    Rule.withCore s c (if Rule.Idle s.cores[c].tasks[sel.toNat] then Rule.withTask s.cores[c] sel f
      else Rule.refusedCore s s.cores[c]) := by
  by_cases hi : Rule.Idle s.cores[c].tasks[sel.toNat]
  · rw [if_pos ((idle_iff _).mpr hi), if_pos hi, modCore_modTask]
  · rw [if_neg (mt (idle_iff _).mp hi), if_neg hi, schRefuse_eq]

/-- The first word, which makes a task valid or invalid. -/
theorem writeTent_zero : writeTent c.val sel 0 v s = Rule.withCore s c (entryWritten s s.cores[c] sel 0 v) := by
  have hiff : (!(s.cores[c].tasks[sel.toNat].st == .invalid || s.cores[c].tasks[sel.toNat].st == .dormant) ||
      (v.getLsbD 63 && bindingRefused (fld v 28 4) (fld v 24 3) (fld v 12 12) (fld v 8 4))) = true ↔
      ¬ Rule.Idle s.cores[c].tasks[sel.toNat] ∨ (v.getLsbD 63 = true ∧ bindingRefused (v.toNat / 2 ^ 28 % 16)
        (v.toNat / 2 ^ 24 % 8) (v.toNat / 2 ^ 12 % 4096) (v.toNat / 2 ^ 8 % 16) = true) := by
    rw [Bool.or_eq_true, Bool.and_eq_true, Bool.not_eq_true', ← idle_iff, Bool.not_eq_true, fld_eq, fld_eq, fld_eq, fld_eq]
    rfl
  simp only [writeTent, getTask_getCore, modCore_modTask, schRefuse_eq]
  by_cases hr : (!(s.cores[c].tasks[sel.toNat].st == .invalid || s.cores[c].tasks[sel.toNat].st == .dormant) ||
      (v.getLsbD 63 && bindingRefused (fld v 28 4) (fld v 24 3) (fld v 12 12) (fld v 8 4))) = true
  · rw [if_pos hr]
    exact congrArg _ (if_pos (hiff.mp hr)).symm
  · rw [if_neg hr, fld_eq]
    exact congrArg _ (if_neg (mt hiff.mpr hr)).symm

theorem writeTent_eq (w : Fin 4) :
    writeTent c.val sel w.val v s = Rule.withCore s c (entryWritten s s.cores[c] sel w v) := by
  match w with
  | 0 => exact writeTent_zero s c sel v
  | 1 => exact modCore_modTask ..
  | 2 =>
    refine Eq.trans ?_ (writeTent_idle s c sel _)
    rw [← getTask_getCore]
    rfl
  | 3 =>
    refine Eq.trans ?_ (writeTent_idle s c sel _)
    rw [← getTask_getCore]
    rfl

theorem entryWritten_bank (x : Core) (w : Fin 4) :
    (entryWritten s x sel w v).running = x.running ∧ (entryWritten s x sel w v).banks = x.banks := by
  unfold entryWritten
  dsimp only
  split
  · split <;> exact ⟨rfl, rfl⟩
  · exact ⟨rfl, rfl⟩
  · split <;> exact ⟨rfl, rfl⟩
  · split <;> exact ⟨rfl, rfl⟩

theorem crWriteTask_entry (k : Fin 8) (w : Fin 4) : crWriteTask c.val k.val (0x63 + w.val) v s =
    Rule.withCore s c (entryWritten s s.cores[c] s.cores[c].tsel[k] w v) := by
  have hs : selOf (getCore s c.val) (.level k.val) = s.cores[c].tsel[k] := by
    rw [getCore_eq]
    exact vget_fin ..
  rw [← writeTent_eq, ← hs]
  match w with
  | 0 | 1 | 2 | 3 => rfl

theorem crWriteWindow_entry (w : Fin 4) : crWriteWindow c.val (0x63 + w.val) v s =
    Rule.withCore s c (entryWritten s s.cores[c] s.cores[c].winsel w v) := by
  rw [← writeTent_eq, ← getCore_eq]
  match w with
  | 0 | 1 | 2 | 3 => rfl

end

/-! MBX_DONE (11:R333; 07:R228). -/

section
variable {s : State} {c : Fin 8} {k : Fin 8} (m : Fin 16) (v : Word)

theorem crRules_mailbox : crRules (0x83 + 4 * m.val) = some (0, 1) := by
  revert m
  decide

theorem crWriteTask_mailbox : crWriteTask c.val k.val (0x83 + 4 * m.val) v s = mailboxWrite c.val m.val v s := by
  have hm := m.isLt
  have hs : crSync (0x83 + 4 * m.val) = false := by
    revert m
    decide
  have hlow : (decide (0x20 ≤ 0x83 + 4 * m.val) && decide (0x83 + 4 * m.val < 0x3C)) = false := by
    rw [Bool.and_eq_false_iff, decide_eq_false_iff_not, decide_eq_false_iff_not]
    omega
  have hin : (decide (0x80 ≤ 0x83 + 4 * m.val) && decide (0x83 + 4 * m.val < 0xC0)) = true := by
    rw [Bool.and_eq_true, decide_eq_true_iff, decide_eq_true_iff]
    omega
  have hd : (0x83 + 4 * m.val - 0x80) / 4 = m.val := by omega
  rw [crWriteTask, hs, hlow, hin, hd]
  rfl

theorem crWriteWindow_mailbox : crWriteWindow c.val (0x83 + 4 * m.val) v s = s := by
  unfold crWriteWindow
  split
  case h_8 => rfl
  all_goals omega

theorem mailboxWrite_free (h : s.cores[c].mbx[m].valid = false) : mailboxWrite c.val m.val v s = s := by
  rw [mailboxWrite, getCore_eq, vget_fin, h]
  rfl

/-- A descriptor in flight ends with an outcome: the first outcome stands (07:R228). -/
theorem endFlight_eq (q : Fin 32) (idx : BitVec 32) (e : Ended) (s : State) : endFlight q.val idx e s =
    Rule.withQ s q { s.dq[q] with inflight := (s.dq[q]).inflight.map fun f =>
      if f.idx = idx ∧ f.ended = none then { f with ended := some e } else f } := by
  rw [endFlight, modFlight, modQ_fin]
  congr 3
  funext f
  by_cases hi : f.idx = idx
  · cases he : f.ended with
    | none => simp [hi]
    | some x =>
      cases f
      cases he
      simp
  · simp [hi]

theorem mailboxWrite_valid (h : s.cores[c].mbx[m].valid = true) : mailboxWrite c.val m.val v s =
    let e := s.cores[c].mbx[m]
    Rule.withCore (Rule.withQ s e.queue { s.dq[e.queue] with
      inflight := (s.dq[e.queue]).inflight.map fun f =>
        if f.idx = e.index ∧ f.ended = none then { f with ended := some ⟨0, 0, 0xFF, v, false⟩ } else f }) c
      { s.cores[c] with mbx := s.cores[c].mbx.set m.val { e with valid := false } } := by
  rw [mailboxWrite, getCore_eq, vget_fin, h]
  dsimp only
  rw [endFlight_eq, withdrawEntry, modCore_eq_withCore]
  simp only [vmod_fin]
  rfl

end

/-! The obligation, by its parts. -/

section
variable {s : State} {src : Src} {c : Fin 8} {t0 : Byte} {k : Fin 8} {t : Byte} {i : CrWho → Instr}

/-- A command of CTL_TCMD that changes its core alone, by a task of level 6 or 7 and through the window. -/
theorem both_of_command {n : Nat} {z : Core} (hi : WritesCr i 0x67 (tcmdWord n t))
    (hz : taskCommand c.val (tcmdWord n t) s = Rule.withCore s c z) (hrun : z.running = s.cores[c].running)
    (hb : z.banks = s.cores[c].banks) :
    (Ready s c t0 k → 6 ≤ k.val → Rule.byTask i s c k z) ∧
    (Rule.Writer s src ∧ (ccBuilt s).getLsbD c.val = true → Rule.byWindow i s src c z) :=
  ⟨fun h hk => byTask_of_write h hi (rd := 0) (wr := 2) rfl (legal_high hk) hz hrun (congrArg (·[k]) hb),
    fun hw => gives_crCommand_window hw.1 hw.2 hi (by decide) hz⟩

theorem taskCommand_resume : taskCommand c.val (tcmdWord 1 t) s = resumeTask c.val t s := by
  obtain ⟨ht, hn⟩ := tcmdWord_fields t (n := 1) (by decide)
  simp only [taskCommand, ht, hn]

theorem taskCommand_kill : taskCommand c.val (tcmdWord 2 t) s = killTask c.val t s := by
  obtain ⟨ht, hn⟩ := tcmdWord_fields t (n := 2) (by decide)
  simp only [taskCommand, ht, hn]

theorem taskCommand_retry : taskCommand c.val (tcmdWord 3 t) s = retryUnits c.val s := by
  obtain ⟨-, hn⟩ := tcmdWord_fields t (n := 3) (by decide)
  simp only [taskCommand, hn]

theorem taskCommand_clearPend : taskCommand c.val (tcmdWord 4 t) s = clearPendOf c.val t s := by
  obtain ⟨ht, hn⟩ := tcmdWord_fields t (n := 4) (by decide)
  simp only [taskCommand, ht, hn]

theorem wakeTask_eq : wakeTask c.val ((t.setWidth 64 : Word).extractLsb' 0 8) s =
    Rule.withCore s c (Rule.withTask s.cores[c] t (causeTask 1)) := by
  have ht : (t.setWidth 64 : Word).extractLsb' 0 8 = t := by
    apply BitVec.eq_of_toNat_eq
    simpa using t.isLt
  rw [wakeTask, ht, modCore_modTask]

/-- What the kill of a task that is neither INVALID nor running leaves, n instructions counted with it. -/
def Killed (s : State) (c k : Fin 8) (t : Byte) (n : Nat) (u : State) : Prop :=
  let x := s.cores[c]
  let y := x.tasks[t.toNat]
  let z := u.cores[c]
  z.tasks = x.tasks.set t.toNat { y with st := .dormant, spilled := false, tilesSaved := false, rowFault := none } ∧
  z.xq = x.xq.filter (fun w => w.task ≠ t) ∧ z.xstop = x.xstop.filter (fun w => w.task ≠ t) ∧
  (∀ j : Fin 8, j ≠ k → z.banks[j] = if (x.banks[j]).occ = some t then Bank.reset else x.banks[j]) ∧
  (x.tileOwner = some t → z.tileOwner = none ∧ ∀ r : Fin 12, z.tiles[r] = Tile.reset) ∧
  z.running = x.running ∧ z.instret = x.instret + BitVec.ofNat 64 n ∧ Rule.CoreOnly s u c ∧ u.mem = s.mem

theorem killed_window (h : s.cores[c].running ≠ some t) : Killed s c k t 0 (Rule.withCore s c (killed t s.cores[c])) := by
  simp only [Killed, core_withCore]
  exact ⟨killed_tasks t _, (discarded_units t _).1, (discarded_units t _).2, fun j _ => discarded_bank t _ j,
    discarded_owned t _, killed_running t _ h, (discarded_going t _).2.trans (BitVec.add_zero _).symm,
    coreOnly_withCore .., rfl⟩

theorem killed_task (h : s.cores[c].running ≠ some t) (b : Bank) :
    Killed s c k t 1 (Rule.withCore s c (Rule.counted (killed t s.cores[c]) k b)) := by
  simp only [Killed, core_withCore]
  refine ⟨killed_tasks t _, (discarded_units t _).1, (discarded_units t _).2, fun j hj => ?_,
    discarded_owned t _, killed_running t _ h, congrArg (· + 1) (discarded_going t _).2, coreOnly_withCore .., rfl⟩
  have hv : k.val ≠ j.val := fun e => hj (Fin.ext e.symm)
  exact (Vector.getElem_set_ne k.isLt j.isLt hv).trans (discarded_bank t _ j)

/-- KILL of a task that is neither INVALID nor running (11:R320). -/
theorem ends_taskKill (h : s.cores[c].tasks[t.toNat].st ≠ .invalid) (hr : s.cores[c].tasks[t.toNat].st ≠ .running)
    (hrows : s.cores[c].rows = []) (hrun : s.cores[c].running ≠ some t) :
    (Ready s c t0 k → 6 ≤ k.val → Rule.Ends (.taskKill (.task c) t) s (Killed s c k t 1)) ∧
    (Rule.Writer s src ∧ (ccBuilt s).getLsbD c.val = true →
      Rule.Ends (.taskKill (.window src c) t) s (Killed s c k t 0)) := by
  have hk := taskCommand_kill.trans (killTask_eq s c t h hr hrows)
  refine ⟨fun h0 h6 => ⟨_, ?_, killed_task hrun (Rule.onward (killed t s.cores[c]).banks[k])⟩,
    fun hw => ⟨_, ?_, killed_window hrun⟩⟩
  · have hg := gives_crCommand_task h0 (i := (.taskKill · t)) (fun _ _ => rfl) (rd := 0) (wr := 2) rfl (legal_high h6) hk (by
      rw [core_withCore, killed_running t _ hrun]
      exact running_of_ready h0)
    rwa [commit_withCore, bank_withCore] at hg
  · exact gives_crCommand_window hw.1 hw.2 (i := (.taskKill · t)) (fun _ _ => rfl) (by decide) hk

end

theorem taskControl : Rule.TaskControl := by
  intro s src c t0 k t v
  refine ⟨fun h => ?_, fun hw => ?_, fun h => both_of_command (fun _ _ => rfl) (taskCommand_resume.trans (resumeTask_faulted s c t h)) rfl rfl,
    fun h => both_of_command (fun _ _ => rfl) (taskCommand_resume.trans (resumeTask_refused s c t h)) rfl rfl,
    fun h => both_of_command (fun _ _ => rfl) (taskCommand_retry.trans (retryUnits_stopped s c h)) rfl rfl,
    fun h => both_of_command (fun _ _ => rfl) (taskCommand_retry.trans (retryUnits_refused s c h)) rfl rfl,
    fun h => both_of_command (fun _ _ => rfl) (taskCommand_clearPend.trans (clearPendOf_valid s c t h)) rfl rfl,
    fun h => both_of_command (fun _ _ => rfl) (taskCommand_clearPend.trans (clearPendOf_refused s c t h)) rfl rfl,
    fun h => both_of_command (fun _ _ => rfl) (taskCommand_kill.trans (killTask_refused s c t h)) rfl rfl,
    ends_taskKill, fun w => ⟨fun h hk => ?_, fun hw => ?_⟩, fun m => ⟨fun hw => ?_, fun h hm => ?_, fun h hm => ?_⟩⟩
  · exact byTask_of_write h (fun _ _ => rfl) (rd := 0) (wr := 1) rfl (legal_low k) wakeTask_eq rfl rfl
  · exact gives_crCommand_window hw.1 hw.2 (i := (.wake · t)) (fun _ _ => rfl) (by decide) wakeTask_eq
  · have hr : crRules (0x63 + w.val) = some (2, 2) := by
      revert w
      decide
    have hz := entryWritten_bank s s.cores[c].tsel[k] v s.cores[c] w
    exact ⟨_, rfl, byTask_of_write h (fun _ _ => rfl) hr (legal_high hk) (crWriteTask_entry s c v k w) hz.1
      (congrArg (·[k]) hz.2)⟩
  · exact ⟨_, rfl, gives_crCommand_window hw.1 hw.2 (i := (.taskEntryWrite · w v)) (fun _ _ => rfl) (by omega)
      (crWriteWindow_entry s c v w)⟩
  · exact gives_crCommand_window hw.1 hw.2 (i := (.mailboxDone · m v)) (fun _ _ => rfl) (by omega) (crWriteWindow_mailbox m v)
  · exact byTask_of_write h (fun _ _ => rfl) (crRules_mailbox m) (legal_low k)
      ((crWriteTask_mailbox m v).trans ((mailboxWrite_free m v hm).trans (withCore_self s c).symm)) rfl rfl
  · have hg := gives_crCommand_task h (i := (.mailboxDone · m v)) (fun _ _ => rfl) (crRules_mailbox m) (legal_low k)
      ((crWriteTask_mailbox m v).trans (mailboxWrite_valid m v hm)) (by
        rw [core_withCore]
        exact running_of_ready h)
    rw [commit_withCore, bank_withCore] at hg
    exact hg

/-- Settles O33: the instructions by what they make of the task, the commands by the write of a control register. -/
theorem taskCommands : Obligations.TaskCommands := ⟨taskEnds, taskControl⟩

end Sys2Proof.Machine

/-! SUPPORT. O34: SCHEDULER_SELECT, level by level (11:R321 to R323). -/

namespace Sys2Proof.Machine

open Rule (Waits Holds)

/-! The tasks in their order. -/

theorem mem_allTasks (t : Byte) : t ∈ allTasks :=
  List.mem_map.mpr ⟨t.toNat, List.mem_range.mpr t.isLt, by rw [BitVec.ofNat_toNat, BitVec.setWidth_eq]⟩

theorem pairwise_allTasks : allTasks.Pairwise fun t u => t.toNat < u.toNat := by
  rw [allTasks, List.pairwise_map]
  refine List.Pairwise.imp_of_mem (fun {i j} hi hj h => ?_) List.pairwise_lt_range
  rw [List.mem_range] at hi hj
  rwa [BitVec.toNat_ofNat, BitVec.toNat_ofNat, Nat.mod_eq_of_lt hi, Nat.mod_eq_of_lt hj]

/-- In an ordered list the elements before one are those that its order puts there. -/
theorem mem_left_of_pairwise {α : Type} {r : α → α → Prop} {l₁ l₂ : List α} {a b : α}
    (hp : (l₁ ++ a :: l₂).Pairwise r) (hb : b ∈ l₁ ++ a :: l₂) (hn : b ≠ a) (hr : ¬ r a b) : b ∈ l₁ := by
  obtain ⟨-, hright, -⟩ := List.pairwise_append.mp hp
  rcases List.mem_append.mp hb with h | h
  · exact h
  · rcases List.mem_cons.mp h with h | h
    · exact absurd h hn
    · exact absurd (List.rel_of_pairwise_cons hright h) hr

/-- The first task with a property is the lowest numbered. -/
theorem find?_allTasks {p : Byte → Bool} {t : Byte} (h : allTasks.find? p = some t) :
    p t = true ∧ ∀ u, p u = true → t.toNat ≤ u.toNat := by
  obtain ⟨ht, l₁, l₂, hl, hnone⟩ := List.find?_eq_some_iff_append.mp h
  refine ⟨ht, fun u hu => Nat.le_of_not_lt fun hlt => ?_⟩
  have hp := pairwise_allTasks
  have hm := mem_allTasks u
  rw [hl] at hp hm
  have hleft := mem_left_of_pairwise hp hm (fun e => absurd hlt (by rw [e]; exact Nat.lt_irrefl _)) (Nat.lt_asymm hlt)
  exact absurd hu (by simpa using hnone u hleft)

/-! One level (11:R321, R323). -/

/-- The task that the scheduler takes at level k. -/
def pickAt (x : Core) (k : Nat) : Option Byte :=
  let cands := allTasks.filter fun t => (getTask x t).level.val == k && candidate x t
  match occupant x k with
  | some o => if cands.contains o then some o
              else cands.find? fun t => (getTask x t).st == .ready || (getTask x t).st == .runnable
  | none => cands.find? fun t => (getTask x t).st == .ready || (getTask x t).st == .runnable

theorem selectTask_eq (x : Core) : selectTask x = [7, 6, 5, 4, 3, 2, 1, 0].findSome? (pickAt x) := rfl

section
variable {x : Core} {k : Fin 8} {t : Byte}

theorem occupant_fin (x : Core) (k : Fin 8) : occupant x k.val = x.banks[k].occ := by
  rw [occupant, getBank, vget_fin]

/-- A candidate runs, was preempted, or waits. -/
theorem candidate_iff : candidate x t = true ↔
    x.tasks[t.toNat].st = .running ∨ x.tasks[t.toNat].st = .preempted ∨ Waits x t := by
  have hocc : occupant x 7 = x.banks[7].occ := occupant_fin x 7
  have hlevel : ((x.tasks[t.toNat].level.val != 7 || match occupant x 7 with | some o => o == t | none => true) = true) ↔
      (x.tasks[t.toNat].level = 7 → x.banks[7].occ = none ∨ x.banks[7].occ = some t) := by
    rw [hocc]
    cases x.banks[7].occ <;> simp [Fin.ext_iff, or_iff_not_imp_left]
  rw [candidate, getTask_eq]
  unfold Waits
  split
  next h => simp [h]
  next h => simp [h]
  next h => exact hlevel.trans (by simp [h])
  next h => exact hlevel.trans (by simp [h])
  next hrun hpre hready hable =>
    refine iff_of_false Bool.false_ne_true ?_
    rintro (h | h | ⟨h | h, -⟩)
    exacts [hrun h, hpre h, hready h, hable h]

/-- A candidate that is READY or RUNNABLE waits. -/
theorem waits_iff : Waits x t ↔
    candidate x t = true ∧ (x.tasks[t.toNat].st == .ready || x.tasks[t.toNat].st == .runnable) = true := by
  rw [candidate_iff, Bool.or_eq_true, beq_iff_eq, beq_iff_eq]
  refine ⟨fun h => ⟨.inr (.inr h), h.1⟩, fun ⟨h, hs⟩ => ?_⟩
  rcases h with h | h | h
  · simp [h] at hs
  · simp [h] at hs
  · exact h

theorem holds_iff : Holds x k t ↔
    x.banks[k].occ = some t ∧ x.tasks[t.toNat].level = k ∧ candidate x t = true := by
  rw [candidate_iff]
  rfl

/-- A task that waits at level k. -/
def waitsAt (x : Core) (k : Nat) (t : Byte) : Bool :=
  ((getTask x t).level.val == k && candidate x t) && ((getTask x t).st == .ready || (getTask x t).st == .runnable)

theorem waitsAt_iff : waitsAt x k.val t = true ↔ Waits x t ∧ x.tasks[t.toNat].level = k := by
  rw [waitsAt, getTask_eq, Bool.and_eq_true, Bool.and_eq_true, beq_iff_eq, waits_iff, Fin.val_inj]
  exact ⟨fun ⟨⟨hl, hc⟩, hs⟩ => ⟨⟨hc, hs⟩, hl⟩, fun ⟨⟨hc, hs⟩, hl⟩ => ⟨⟨hl, hc⟩, hs⟩⟩

/-- The occupant that is a candidate, else the first that waits. -/
theorem pickAt_eq (x : Core) (k : Fin 8) : pickAt x k.val = match x.banks[k].occ with
    | some o => if x.tasks[o.toNat].level = k ∧ candidate x o = true then some o else allTasks.find? (waitsAt x k.val)
    | none => allTasks.find? (waitsAt x k.val) := by
  have hfind : ((allTasks.filter fun t => (getTask x t).level.val == k.val && candidate x t).find?
      fun t => (getTask x t).st == .ready || (getTask x t).st == .runnable) = allTasks.find? (waitsAt x k.val) := by
    rw [List.find?_filter]
    simp only [Bool.decide_and, Bool.decide_eq_true]
    rfl
  have hmem (o : Byte) : ((allTasks.filter fun t => (getTask x t).level.val == k.val && candidate x t).contains o) = true ↔
      x.tasks[o.toNat].level = k ∧ candidate x o = true := by
    rw [List.contains_iff_mem, List.mem_filter, Bool.and_eq_true, beq_iff_eq, getTask_eq, Fin.val_inj]
    exact and_iff_right (mem_allTasks o)
  rw [pickAt, occupant_fin]
  simp only [hfind, hmem]

/-- What is taken at a level is its occupant, or waits there, where no occupant is a candidate, with the lowest number. -/
theorem pickAt_some (h : pickAt x k.val = some t) : x.tasks[t.toNat].level = k ∧
    (Holds x k t ∨ (Waits x t ∧ (∀ u, ¬ Holds x k u) ∧
      ∀ u, Waits x u → x.tasks[u.toNat].level = k → t.toNat ≤ u.toNat)) := by
  have first (hn : ∀ u, ¬ Holds x k u) (hf : allTasks.find? (waitsAt x k.val) = some t) :
      x.tasks[t.toNat].level = k ∧ (Holds x k t ∨ (Waits x t ∧ (∀ u, ¬ Holds x k u) ∧
        ∀ u, Waits x u → x.tasks[u.toNat].level = k → t.toNat ≤ u.toNat)) := by
    obtain ⟨ht, hmin⟩ := find?_allTasks hf
    obtain ⟨hw, hl⟩ := waitsAt_iff.mp ht
    exact ⟨hl, .inr ⟨hw, hn, fun u hu hk => hmin u (waitsAt_iff.mpr ⟨hu, hk⟩)⟩⟩
  rw [pickAt_eq] at h
  split at h
  next o ho =>
    split at h
    next hc =>
      cases h
      exact ⟨hc.1, .inl (holds_iff.mpr ⟨ho, hc⟩)⟩
    next hc =>
      refine first (fun u hu => ?_) h
      obtain ⟨hu, hc'⟩ := holds_iff.mp hu
      cases ho.symm.trans hu
      exact hc hc'
  next ho => exact first (fun u hu => nomatch ho.symm.trans (holds_iff.mp hu).1) h

/-- At a level at which nothing is taken no task waits and no occupant is a candidate. -/
theorem pickAt_none (h : pickAt x k.val = none) :
    (∀ u, Waits x u → x.tasks[u.toNat].level ≠ k) ∧ ∀ u, ¬ Holds x k u := by
  have hw (hf : allTasks.find? (waitsAt x k.val) = none) (u : Byte) (hu : Waits x u) : x.tasks[u.toNat].level ≠ k :=
    fun hl => List.find?_eq_none.mp hf u (mem_allTasks u) (waitsAt_iff.mpr ⟨hu, hl⟩)
  rw [pickAt_eq] at h
  split at h
  next o ho =>
    split at h
    next => cases h
    next hc =>
      refine ⟨hw h, fun u hu => ?_⟩
      obtain ⟨hu, hc'⟩ := holds_iff.mp hu
      cases ho.symm.trans hu
      exact hc hc'
  next ho => exact ⟨hw h, fun u hu => nomatch ho.symm.trans (holds_iff.mp hu).1⟩

/-! All levels, from the highest (11:R321). -/

theorem mem_levels (k : Fin 8) : k.val ∈ [7, 6, 5, 4, 3, 2, 1, 0] := by
  revert k
  decide

theorem lt_of_mem_levels {j : Nat} (h : j ∈ [7, 6, 5, 4, 3, 2, 1, 0]) : j < 8 := by
  simp only [List.mem_cons, List.not_mem_nil, or_false] at h
  omega

/-- Nothing is selected where nothing is taken at any level. -/
theorem selectTask_none : selectTask x = none ↔ (∀ u, ¬ Waits x u) ∧ ∀ j u, ¬ Holds x j u := by
  rw [selectTask_eq, List.findSome?_eq_none_iff]
  constructor
  · intro h
    exact ⟨fun u hu => (pickAt_none (h _ (mem_levels _))).1 u hu rfl, fun j => (pickAt_none (h _ (mem_levels j))).2⟩
  · rintro ⟨hw, hh⟩ j hj
    have hj8 := lt_of_mem_levels hj
    cases hp : pickAt x j with
    | none => rfl
    | some t =>
      obtain ⟨-, ht | ht⟩ := pickAt_some (k := ⟨j, hj8⟩) hp
      · exact absurd ht (hh _ t)
      · exact absurd ht.1 (hw t)

/-- What is selected is what its level gives, and no level above gives anything. -/
theorem selectTask_some (h : selectTask x = some t) :
    pickAt x x.tasks[t.toNat].level.val = some t ∧ ∀ j : Fin 8, x.tasks[t.toNat].level < j → pickAt x j.val = none := by
  obtain ⟨l₁, a, l₂, hl, ha, hnone⟩ := List.findSome?_eq_some_iff.mp (selectTask_eq x ▸ h)
  have hp : (l₁ ++ a :: l₂).Pairwise (· > ·) := hl ▸ (by decide : [7, 6, 5, 4, 3, 2, 1, 0].Pairwise (· > ·))
  have ha8 : a < 8 := lt_of_mem_levels (hl ▸ List.mem_append_right l₁ (List.mem_cons_self ..))
  have hlevel := (pickAt_some (k := ⟨a, ha8⟩) ha).1
  rw [hlevel]
  refine ⟨ha, fun j hj => hnone _ (mem_left_of_pairwise hp (hl ▸ mem_levels j) (Nat.ne_of_gt hj) (Nat.lt_asymm hj))⟩

end

/-! SCHEDULER_SELECT (11:R321, R322). -/

section
variable {s : State} {c : Fin 8} {t : Byte}

theorem gives_schedulerSelect (u : State) (h : schedulerSelect c s = u) : Rule.Gives (.schedulerSelect c) s u :=
  gives_of_next rfl h

theorem schedulerSelect_idle (h : selectTask s.cores[c] = none) : schedulerSelect c s = s := by
  rw [schedulerSelect, getCore_eq, h]
  exact ite_self _

theorem schedulerSelect_there (h : selectTask s.cores[c] = some t) (ht : targetTask s.cores[c] = some t) :
    schedulerSelect c s = s := by
  rw [schedulerSelect, getCore_eq, h]
  dsimp only
  rw [if_pos (beq_iff_eq.mpr ht), ite_self]

theorem schedulerSelect_switch (hr : coreRuns s c.val = true) (h : selectTask s.cores[c] = some t)
    (ht : targetTask s.cores[c] ≠ some t) :
    schedulerSelect c s = Rule.withCore s c (deliverSwitch t s.cores[c]) := by
  rw [schedulerSelect, getCore_eq, h, hr]
  dsimp only
  rw [if_neg (mt beq_iff_eq.mp ht), modCore_eq_withCore]
  rfl

theorem targetTask_ne {x : Core} (hs : x.switchTo ≠ some t) (hr : x.running ≠ some t) : targetTask x ≠ some t := by
  rw [targetTask]
  split
  next o ho => exact fun e => hs (ho.trans e)
  next => exact fun e => hr (Option.filter_eq_some_iff.mp e).1

theorem deliverSwitch_none {x : Core} (h : x.running = none) :
    deliverSwitch t x = { x with switches := x.switches + 1, switchTo := some t } := by
  rw [deliverSwitch]
  simp only [h]

theorem deliverSwitch_some {x : Core} {o : Byte} (h : x.running = some o) : deliverSwitch t x =
    Rule.withTask { x with switches := x.switches + 1, switchTo := some t, outgoing := some o } o
      fun z => { z with st := .preempted } := by
  rw [deliverSwitch, ← modTask_eq_withTask]
  simp only [h]

end

/-- The task that is taken is of the highest level, and the first of that level. -/
theorem selectTask_first {x : Core} {t : Byte} (h : selectTask x = some t) :
    let k := x.tasks[t.toNat].level
    (∀ u, Waits x u → x.tasks[u.toNat].level ≤ k) ∧ (∀ j u, Holds x j u → j ≤ k) ∧
      (Holds x k t ∨ (Waits x t ∧ (∀ u, ¬ Holds x k u) ∧
        ∀ u, Waits x u → x.tasks[u.toNat].level = k → t.toNat ≤ u.toNat)) := by
  obtain ⟨hp, habove⟩ := selectTask_some h
  refine ⟨fun u hu => ?_, fun j u hu => ?_, (pickAt_some hp).2⟩
  · exact Fin.not_lt.mp fun hlt => (pickAt_none (habove _ hlt)).1 u hu rfl
  · exact Fin.not_lt.mp fun hlt => (pickAt_none (habove j hlt)).2 u hu

theorem schedulerSelects : Rule.SchedulerSelects := by
  intro s c t x k hruns
  refine ⟨fun hw hh => ?_, selectTask_first, fun h => ?_, fun h hs => ?_, fun h hs hr hst => ?_, fun h hs => ⟨fun hr => ?_,
    fun o hr ho => ?_⟩⟩
  · exact gives_schedulerSelect _ (schedulerSelect_idle (selectTask_none.mpr ⟨hw, hh⟩))
  · refine Option.isSome_iff_ne_none.mpr fun hn => ?_
    obtain ⟨hw, hh⟩ := selectTask_none.mp hn
    rcases h with ⟨u, hu⟩ | ⟨j, u, hu⟩
    · exact hw u hu
    · exact hh j u hu
  · refine gives_schedulerSelect _ (schedulerSelect_there h ?_)
    simp only [targetTask, show s.cores[c].switchTo = some t from hs]
  · refine gives_schedulerSelect _ (schedulerSelect_there h ?_)
    rw [targetTask, show s.cores[c].switchTo = none from hs, show s.cores[c].running = some t from hr]
    exact Option.filter_eq_some_iff.mpr ⟨rfl, by rw [getTask_eq]; exact beq_iff_eq.mpr hst⟩
  · refine gives_schedulerSelect _ ((schedulerSelect_switch hruns h (targetTask_ne hs ?_)).trans ?_)
    · exact fun e => nomatch hr.symm.trans e
    · rw [deliverSwitch_none hr]
  · refine gives_schedulerSelect _ ((schedulerSelect_switch hruns h (targetTask_ne hs ?_)).trans ?_)
    · exact fun e => ho (Option.some.inj (hr.symm.trans e))
    · rw [deliverSwitch_some hr]

end Sys2Proof.Machine

/-! SUPPORT. O34: TASK_SWITCH: the incoming task takes its bank (11:R319, R322, R326). -/

namespace Sys2Proof.Machine

/-! What the switch does before the bank is taken (09:R282, 11:R326). -/

theorem applyHeld_nil {x : Core} (h : x.held = []) : applyHeld x = x := by
  rw [applyHeld_eq, h]
  cases x
  cases h
  rfl

/-- No tile state is saved of a task that is the incoming one or does not own the file. -/
theorem saveTiles_none {x : Core} {t : Byte} (h : ∀ o, x.outgoing = some o → o = t ∨ x.tileOwner ≠ some o) :
    saveTiles t x = x := by
  rw [saveTiles]
  split
  next o ho =>
    refine if_neg fun hc => ?_
    obtain ⟨hne, hown⟩ := Bool.and_eq_true_iff.mp hc
    rcases h o ho with he | he
    · exact bne_iff_ne.mp hne he
    · exact he (beq_iff_eq.mp hown)
  next => rfl

/-- The core once its bank is taken: task t runs, and the latches are gone. -/
def taken (t : Byte) (x : Core) : Core :=
  { x with running := some t, switchTo := none, outgoing := none, resumed := true, wants := [], latchS := none, latchT := none }

/-- A switch of a core with no row, no held write and no tile state to save. -/
theorem gives_taskSwitch {s : State} {c : Fin 8} {t : Byte} (hruns : coreRuns s c.val = true)
    (hs : s.cores[c].switchTo = some t) (hrows : s.cores[c].rows = []) (hheld : s.cores[c].held = [])
    (hout : ∀ o, s.cores[c].outgoing = some o → o = t ∨ s.cores[c].tileOwner ≠ some o) :
    Rule.Gives (.taskSwitch c) s (Rule.withCore s c (taken t (occupyBank t s.cores[c]))) := by
  refine gives_of_next rfl ?_
  rw [taskSwitch, getCore_eq, hruns, hs]
  dsimp only
  rw [allRows_of_nil hrows, getCore_eq, hrows, modCore_eq_withCore, takeSwitch, applyHeld_nil hheld, saveTiles_none hout]
  rfl

/-! The bank (11:R319, R321, R326). -/

/-- The core whose displaced occupant, if any, has left: task t, as y has it, takes its bank. -/
def enterBank (t : Byte) (y : Task) (x : Core) : Core :=
  if y.st == .ready then
    modTask t (fun z => { z with st := .running, spilled := false, tilesSaved := false })
      (modBank y.level.val (fun _ =>
        { g := .replicate 32 0, pc := (y.entry.setWidth 48) <<< 2, cs := 0, occ := some t, dirty := 0xF, bad := 0 }) x)
  else
    modTask t (fun z => { z with st := .running, spilled := false })
      (modBank y.level.val (fun b => { (if y.spilled then .reset else b) with occ := some t })
        { x with xq := x.xq ++ if y.spilled then
            ⟨.fillH, t, y.level, []⟩ :: (List.range 4).map fun g => ⟨.fillGroup (Fin.ofNat 4 g), t, y.level, []⟩
          else [] })

/-- The core in which a task has entered its bank. -/
def entered (x : Core) (t : Byte) (k : Fin 8) (b : Bank) (units : List XferUnit) (f : Task → Task) : Core :=
  { Rule.withTask x t f with banks := x.banks.set k.val b, xq := x.xq ++ units }

/-- The units that fill a spilled task's bank (11:R326). -/
def fillUnits (t : Byte) (k : Fin 8) : List XferUnit :=
  [⟨.fillH, t, k, []⟩, ⟨.fillGroup 0, t, k, []⟩, ⟨.fillGroup 1, t, k, []⟩, ⟨.fillGroup 2, t, k, []⟩, ⟨.fillGroup 3, t, k, []⟩]

section
variable (x : Core) (t o : Byte) (y : Task)

theorem taken_entered (b : Bank) (units : List XferUnit) (f : Task → Task) :
    taken t (entered x t x.tasks[t.toNat].level b units f) = Rule.incoming x t b units f := rfl

/-- The units of a displaced occupant come before those of the incoming task. -/
theorem taken_entered_behind {k : Fin 8} (h : x.tasks[t.toNat].level = k) (b : Bank) (units : List XferUnit)
    (f : Task → Task) :
    taken t (entered { x with xq := x.xq ++ units } t k b [] f) = Rule.incoming x t b units f := by
  subst h
  rw [entered, List.append_nil]
  rfl

theorem enterBank_fresh (h : y.st = .ready) : enterBank t y x = entered x t y.level
    { g := .replicate 32 0, pc := (y.entry.setWidth 48) <<< 2, cs := 0, occ := some t, dirty := 0xF, bad := 0 } []
    fun z => { z with st := .running, spilled := false, tilesSaved := false } := by
  rw [enterBank, if_pos (beq_iff_eq.mpr h), modBank_fin, modTask_eq_withTask, entered, List.append_nil]
  rfl

theorem enterBank_kept (h : y.st ≠ .ready) (hs : y.spilled = false) : enterBank t y x = entered x t y.level
    { x.banks[y.level] with occ := some t } [] fun z => { z with st := .running, spilled := false } := by
  rw [enterBank, if_neg (mt beq_iff_eq.mp h), modBank_fin, modTask_eq_withTask, hs]
  rfl

theorem enterBank_spilled (h : y.st ≠ .ready) (hs : y.spilled = true) : enterBank t y x = entered x t y.level
    { Bank.reset with occ := some t } (fillUnits t y.level) fun z => { z with st := .running, spilled := false } := by
  rw [enterBank, if_neg (mt beq_iff_eq.mp h), modBank_fin, modTask_eq_withTask, hs]
  rfl

/-- A bank that no other task occupies is entered at once. -/
theorem occupyBank_own (h : x.banks[x.tasks[t.toNat].level].occ = none ∨ x.banks[x.tasks[t.toNat].level].occ = some t) :
    occupyBank t x = enterBank t x.tasks[t.toNat] x := by
  rw [occupyBank, getTask_eq]
  dsimp only
  rw [occupant_fin]
  rcases h with h | h
  · rw [h]
    rfl
  · rw [h]
    simp only [beq_self_eq_true, if_true]
    rfl

theorem occupyBank_displace (h : x.banks[x.tasks[t.toNat].level].occ = some o) (ho : o ≠ t) :
    occupyBank t x = enterBank t x.tasks[t.toNat] (displace x.tasks[t.toNat].level.val o x) := by
  rw [occupyBank, getTask_eq]
  dsimp only
  rw [occupant_fin, h]
  simp only [beq_eq_false_iff_ne.mpr ho, Bool.false_eq_true, if_false]
  rfl

/-- The dirty groups of a bank, in their order. -/
theorem map_maskBits {α : Type} (m : BitVec 4) (f : Fin 4 → Nat → α) : (maskBits m).map (fun g => f (Fin.ofNat 4 g) g) =
    ((List.finRange 4).filter fun g => m.getLsbD g.val).map fun g => f g g.val := by
  rw [maskBits, ← List.map_coe_finRange_eq_range, List.filter_map, List.map_map]
  refine List.map_congr_left fun g _ => ?_
  rw [Function.comp_apply, Fin.ofNat_eq_cast, Fin.cast_val_eq_self]

/-- An occupant with no unit of its own is spilled whole: unit H and its dirty groups. -/
theorem displace_eq (k : Fin 8) (hx : ∀ u ∈ x.xq, u.task ≠ o) : displace k.val o x =
    { Rule.withTask x o fun z => { z with spilled := true } with
      xq := x.xq ++ ⟨.spillH, o, k, headBytes x.banks[k]⟩ ::
        ((List.finRange 4).filter fun g => x.banks[k].dirty.getLsbD g.val).map fun g =>
          ⟨.spillGroup g, o, k, groupBytes x.banks[k] g.val⟩ } := by
  have hkeep : x.xq.filter (fun u => !fillsBank o u) = x.xq :=
    List.filter_eq_self.mpr fun u hu => by simp [fillsBank, hx u hu]
  have hfill : fillPending x o 0 = false := List.any_eq_false.mpr fun u hu => by simp [hx u hu]
  have hb : getBank x k.val = x.banks[k] := vget_fin ..
  rw [displace, hkeep, modTask_eq_withTask, spillUnits, hb, hfill, Fin.ofNat_eq_cast, Fin.cast_val_eq_self]
  dsimp only
  rw [map_maskBits _ fun g n => (⟨.spillGroup g, o, k, groupBytes x.banks[k] n⟩ : XferUnit)]
  rfl

end

theorem withTask_ne (x : Core) {t o : Byte} (f : Task → Task) (h : o ≠ t) :
    (Rule.withTask x o f).tasks[t.toNat] = x.tasks[t.toNat] :=
  Vector.getElem_set_ne o.isLt t.isLt fun e => h (BitVec.eq_of_toNat_eq e)

theorem switchesOfTasks : Rule.SwitchesOfTasks := by
  intro s c t x y b hruns hs hrows hheld hout fresh started resumes
  have gives {u : Core} (he : taken t (occupyBank t x) = u) : Rule.Gives (.taskSwitch c) s (Rule.withCore s c u) :=
    he ▸ gives_taskSwitch hruns hs hrows hheld hout
  refine ⟨fun hocc => ⟨fun hst => gives ?_, fun hst hsp => gives ?_, fun hst hsp => gives ?_⟩,
    fun o hocc ho hxq hst => gives ?_⟩
  · rw [occupyBank_own x t hocc, enterBank_fresh x t _ hst, taken_entered]
  · rw [occupyBank_own x t hocc, enterBank_kept x t _ hst hsp, taken_entered]
  · rw [occupyBank_own x t hocc, enterBank_spilled x t _ hst hsp, taken_entered]
    rfl
  · rw [occupyBank_displace x t o hocc ho, enterBank_fresh _ t _ hst, displace_eq x o _ hxq]
    exact taken_entered_behind (Rule.withTask x o fun z => { z with spilled := true }) t
      (congrArg Task.level (withTask_ne x _ ho)) _ _ _

/-- Settles O34: the levels are tried from the highest, and the switch ends in the bank of the incoming task. -/
theorem taskSwitches : Obligations.TaskSwitches := ⟨schedulerSelects, switchesOfTasks⟩

end Sys2Proof.Machine

/-! SUPPORT. O35: the bytes of a unit that is written all land (11:R326; 08:R235, R236; 12:R352). -/

namespace Sys2Proof.Machine

/-! What goes before the write leaves memory, the cores and the queues. -/

structure Prepared (s t : State) : Prop where
  kept   : Kept s t
  spared : Spared s t

section
variable {s t u : State}

theorem Prepared.refl (s : State) : Prepared s s := ⟨.refl s, .refl s⟩

theorem Prepared.trans (h : Prepared s t) (k : Prepared t u) : Prepared s u :=
  ⟨h.kept.trans k.kept, h.spared.trans k.spared⟩

theorem Prepared.of_view (h : Kept s t) (hv : coreView t = coreView s) : Prepared s t := ⟨h, .of_kept h hv⟩

theorem prepared_bc (s : State) (b : Bc) : Prepared s { s with bc := b } := ⟨kept_bc s b, rfl, rfl, rfl⟩

theorem prepared_memp (s : State) (m : Memp) : Prepared s { s with memp := m } := ⟨kept_memp s m, rfl, rfl, rfl⟩

theorem prepared_bcCount (hit : Bool) (s : State) : Prepared s (bcCount hit s) := .of_view (kept_bcCount ..) (coreView_bcCount ..)

theorem prepared_bcAlloc (line : Nat) (s : State) : Prepared s (bcAlloc line s).2 :=
  .of_view (kept_bcAlloc ..) (coreView_bcAlloc ..)

theorem prepared_readPortUnits (us : List Nat) (s : State) : Prepared s (readPortUnits us s).2 :=
  .of_view (kept_readPortUnits ..) (coreView_readPortUnits ..)

/-- A move from the victim cache, where the line is there. -/
theorem prepared_ite {b : Prop} [Decidable b] (h : Prepared s t) (k : Prepared s u) : Prepared s (if b then t else u) := by
  split
  · exact h
  · exact k

end

/-! A unit whose bytes have all been put into memory. -/

/-- A write of cells that has not failed. -/
structure Landed (s : State) (r : Option (BitVec 16) × State) (cs : List Host.Cell) : Prop where
  none   : r.1 = .none
  wrote  : EngineWrote s r.2 cs
  spared : Spared s r.2

section
variable {s t : State} (cs : List Host.Cell)

theorem landed_storeUnit (h : Prepared s t) (unit : Nat) : Landed s (none, storeUnit unit cs t) cs :=
  ⟨rfl, .of_wrote (h.kept.store unit cs), h.spared.trans (spared_storeUnit ..)⟩

/-- A write at the port that is answered without ERROR. -/
theorem landed_portUnit (h : Prepared s t) (unit : Nat) : Landed s (portUnit unit cs false t) cs :=
  landed_storeUnit cs ((h.trans (prepared_memp ..)).trans (prepared_bc ..)) unit

theorem landed_markDirty (h : Prepared s t) (unit line : Nat) :
    Landed s (none, storeUnit unit cs (markDirty line t)) cs := landed_storeUnit cs (h.trans (prepared_bc ..)) unit

theorem landed_ite {b : Prop} [Decidable b] {x y : Option (BitVec 16) × State} (h : Landed s x cs) (k : Landed s y cs) :
    Landed s (if b then x else y) cs := by
  split
  · exact h
  · exact k

variable {cs}

/-- The read of a written line that is in no way: none where the victim cache has it. -/
def lineRead (inVictim : Bool) (line : Nat) (s : State) : ReadStat × State :=
  if inVictim then (.clean, s) else readPortUnits [line * 2, line * 2 + 1] s

/-- Its allocation. -/
def lineClaim (inVictim : Bool) (line : Nat) (s : State) : Bool × State :=
  let r := lineRead inVictim line s
  if r.1 == .uncorrectable then (false, r.2) else bcAlloc line r.2

theorem prepared_lineRead (inVictim : Bool) (line : Nat) (s : State) : Prepared s (lineRead inVictim line s).2 := by
  cases inVictim with
  | true => exact .refl s
  | false => exact prepared_readPortUnits ..

theorem prepared_lineClaim (inVictim : Bool) (line : Nat) (s : State) : Prepared s (lineClaim inVictim line s).2 := by
  have hread := prepared_lineRead inVictim line s
  unfold lineClaim
  dsimp only
  split
  · exact hread
  · exact hread.trans (prepared_bcAlloc ..)

/-- The allocation of the line of an address, counted. -/
def writeClaim (pa : Nat) (s : State) : Bool × State :=
  let inVictim := s.bc.victim.contains (pa / 64 / 2)
  lineClaim inVictim (pa / 64 / 2) (bcCount inVictim s)

theorem prepared_writeClaim (pa : Nat) (s : State) : Prepared s (writeClaim pa s).2 :=
  (prepared_bcCount ..).trans (prepared_lineClaim ..)

theorem writeXfer_allocates {pa : Nat} (hr : region s pa = .ext) (hm : (bcFind s (pa / 64 / 2)).isSome = false) :
    writeXfer attrWB pa cs false s =
      if (writeClaim pa s).1 then (none, storeUnit (pa / 64) cs (markDirty (pa / 64 / 2) (writeClaim pa s).2))
      else portUnit (pa / 64) cs false { (writeClaim pa s).2 with
        bc := { (writeClaim pa s).2.bc with victim := (writeClaim pa s).2.bc.victim.erase (pa / 64 / 2) } } := by
  unfold writeXfer
  rw [hr]
  dsimp only
  rw [hm]
  rfl

/-- Bytes that can be written are, where the port does not answer ERROR. -/
theorem landed_writeXfer (hw : Rule.Writable s cs) (attr : BitVec 3) (pa : Nat) :
    Landed s (writeXfer attr pa cs false s) cs := by
  by_cases h : region s pa = .ext ∧ attr = attrWB ∧ (bcFind s (pa / 64 / 2)).isSome = false
  · obtain ⟨hr, rfl, hm⟩ := h
    have hclaim := prepared_writeClaim pa s
    rw [writeXfer_allocates hr hm]
    exact landed_ite cs (landed_markDirty cs hclaim ..) (landed_portUnit cs (hclaim.trans (prepared_bc ..)) _)
  · unfold writeXfer
    dsimp only
    split
    · exact ⟨rfl, (writeAccess_engineWrote hw ..).2, spared_writeAccess ..⟩
    · split
      · exact landed_portUnit cs (prepared_ite ((prepared_bcCount ..).trans (prepared_bcAlloc ..)) (prepared_bcCount ..)) _
      · split
        · exact landed_markDirty cs (prepared_bcCount ..) ..
        next hr ha hm =>
          refine absurd ⟨?_, ?_, ?_⟩ h
          · simpa using hr
          · simpa using ha
          · exact Bool.eq_false_iff.mpr hm

end

end Sys2Proof.Machine

/-! SUPPORT. O35: TRANSFER_UNIT, a unit that is moved and one whose translation fails (11:R313, R325, R326, R328, R330). -/

namespace Sys2Proof.Machine

/-! The unit that is next, and where it goes. -/

section
variable {s v : State} {c : Fin 8} {u : XferUnit} {err : Bool} {pa : Nat} {attr : BitVec 3}

/-- The virtual address of a unit of core x. -/
abbrev unitAt (x : Core) (u : XferUnit) : Nat := x.tasks[u.task.toNat].save.toNat * 512 + 64 * unitOffset u.kind

theorem unitVa_eq (x : Core) (u : XferUnit) : unitVa x u = unitAt x u := by rw [unitVa, getTask_eq]

/-- The access that a unit makes. -/
def unitAccess (u : XferUnit) : Access := if unitWrites u.kind then .unitWrite else .unitRead

theorem gives_transferUnit (err : Bool) {w : State} (h : transferUnit c err s = w) : Rule.Gives (.transferUnit c err) s w :=
  gives_of_next rfl h

section
variable (hruns : coreRuns s c.val = true) (hstop : s.cores[c].xstop = none)
include hruns hstop

theorem transferUnit_none (err : Bool) (h : nextUnit s.cores[c] = none) : transferUnit c err s = s := by
  rw [transferUnit, getCore_eq, hruns, hstop, h]
  rfl

variable (hu : nextUnit s.cores[c] = some u)
include hu

theorem transferUnit_moves (err : Bool) (hm : Rule.NoMismatch v)
    (hx : xlatCore c (unitAt s.cores[c] u) (unitAccess u) 7 s = (.ok pa attr, v)) :
    transferUnit c err s = moveUnit c u (unitAt s.cores[c] u) pa attr err v := by
  rw [unitAccess] at hx
  rw [transferUnit, getCore_eq, hruns, hstop, hu]
  dsimp only
  rw [unitVa_eq, hx]
  dsimp only
  rw [portWaits_of_noMismatch hm]
  rfl

theorem transferUnit_faults (err : Bool) {ev : BitVec 16}
    (hx : xlatCore c (unitAt s.cores[c] u) (unitAccess u) 7 s = (.fault ev, v)) :
    transferUnit c err s = spillFault c u ev (unitAt s.cores[c] u) v := by
  rw [unitAccess] at hx
  rw [transferUnit, getCore_eq, hruns, hstop, hu]
  dsimp only
  rw [unitVa_eq, hx]
  rfl

end

/-! A unit that is written. -/

theorem moveUnit_written (hk : unitWrites u.kind = true) (va : Nat) (hw : Rule.Writable s (cellsAt pa u.bytes)) :
    ∃ t, moveUnit c u va pa attr false s = Rule.withCore t c (removeUnit u t.cores[c]) ∧
      EngineWrote s t (cellsAt pa u.bytes) ∧ Spared s t := by
  obtain ⟨hnone, hwrote, hspared⟩ := landed_writeXfer hw attr pa
  rw [moveUnit, if_pos hk]
  generalize writeXfer attr pa (cellsAt pa u.bytes) false s = r at hnone hwrote hspared
  obtain ⟨e, t⟩ := r
  cases hnone
  exact ⟨t, modCore_eq_withCore .., hwrote, hspared⟩

theorem ends_written (hruns : coreRuns s c.val = true) (hstop : s.cores[c].xstop = none) (hm : Rule.NoMismatch s)
    (hu : nextUnit s.cores[c] = some u) (hk : unitWrites u.kind = true)
    (hx : xlatCore c (unitAt s.cores[c] u) .unitWrite 7 s = (.ok pa attr, v))
    (hw : Rule.Writable s (cellsAt pa u.bytes)) : Rule.Ends (.transferUnit c false) s fun w =>
      Rule.Wrote s w (cellsAt pa u.bytes) ∧ (w.cores[c]).xq = s.cores[c].xq.erase u ∧
      (w.cores[c]).banks = s.cores[c].banks ∧ (w.cores[c]).tasks = s.cores[c].tasks ∧ Rule.CoreOnly s w c := by
  have hl : Looked c s v := by simpa only [hx] using looked_xlatCore c (unitAt s.cores[c] u) .unitWrite 7 s
  have hacc : unitAccess u = .unitWrite := if_pos hk
  obtain ⟨t, ht, hwrote, hspared⟩ := moveUnit_written (c := c) (attr := attr) hk (unitAt s.cores[c] u) (hl.writable hw)
  have hq : Quiet c s t := hl.toQuiet.trans (.of_spared hspared)
  refine ⟨_, gives_transferUnit false ((transferUnit_moves hruns hstop hu false (hl.noMismatch hm) (hacc ▸ hx)).trans ht), ?_⟩
  simp only [core_withCore]
  refine ⟨fun a => ?_, ?_, hq.banks, hq.field Core.tasks fun _ _ _ => rfl,
    coreOnly_trans (coreOnly_of_quiet hq) (coreOnly_withCore ..)⟩
  · rw [← hl.mem]
    exact hwrote.mem a
  · exact congrArg (·.erase u) (hq.field Core.xq fun _ _ _ => rfl)

/-! A unit that is read. -/

theorem moveUnit_read (hk : unitWrites u.kind = false) (va : Nat) (err : Bool)
    (hr : (readAccess (attrCached attr) pa 64 s).1 ≠ .uncorrectable) :
    let t := (readAccess (attrCached attr) pa 64 s).2
    moveUnit c u va pa attr err s =
      Rule.withCore t c (takeUnit u (Memory.gets t.mem pa 64) (removeUnit u t.cores[c])) := by
  rw [moveUnit, if_neg (Bool.eq_false_iff.mp hk)]
  generalize readAccess (attrCached attr) pa 64 s = r at hr
  obtain ⟨st, t⟩ := r
  dsimp only
  split
  next h => cases h; exact absurd rfl hr
  next h => cases h; exact modCore_eq_withCore ..

/-- A unit that is read ends with its bytes taken by a core that has changed in its L1 TLB and L1 data cache. -/
theorem ends_read (hruns : coreRuns s c.val = true) (hstop : s.cores[c].xstop = none) (hm : Rule.NoMismatch s)
    (hu : nextUnit s.cores[c] = some u) (hk : unitWrites u.kind = false)
    (hx : xlatCore c (unitAt s.cores[c] u) .unitRead 7 s = (.ok pa attr, v))
    (hr : (readAccess (attrCached attr) pa 64 v).1 ≠ .uncorrectable) {P : State → Prop}
    (hP : ∀ t, Looked c s t → P (Rule.withCore t c (takeUnit u (Memory.gets s.mem pa 64) (removeUnit u t.cores[c])))) :
    Rule.Ends (.transferUnit c err) s P := by
  have hl : Looked c s v := by simpa only [hx] using looked_xlatCore c (unitAt s.cores[c] u) .unitRead 7 s
  have hacc : unitAccess u = .unitRead := if_neg (Bool.eq_false_iff.mp hk)
  have hread := hl.trans (looked_readAccess c (attrCached attr) pa 64 v)
  have hmoved := moveUnit_read (c := c) hk (unitAt s.cores[c] u) err hr
  dsimp only at hmoved
  rw [hread.mem] at hmoved
  exact ⟨_, gives_transferUnit err ((transferUnit_moves hruns hstop hu err (hl.noMismatch hm) (hacc ▸ hx)).trans hmoved),
    hP _ hread⟩

/-- What a read unit leaves: memory, the other units, and all but its core. -/
theorem left_of_taken {t : State} (hl : Looked c s t) {y : Core} (hxq : y.xq = (removeUnit u t.cores[c]).xq) :
    (Rule.withCore t c y).mem = s.mem ∧ ((Rule.withCore t c y).cores[c]).xq = s.cores[c].xq.erase u ∧
      Rule.CoreOnly s (Rule.withCore t c y) c := by
  refine ⟨hl.mem, ?_, coreOnly_trans (coreOnly_of_quiet hl.toQuiet) (coreOnly_withCore ..)⟩
  rw [core_withCore, hxq]
  exact congrArg (·.erase u) (hl.field Core.xq fun _ _ _ => rfl)

end

/-! Unit H (11:R325). -/

theorem ofNat_and_pcMask (n : Nat) : BitVec.ofNat 48 n &&& 0xFFFFFFFFFFFC = BitVec.ofNat 48 (n / 4 * 4) := by
  apply BitVec.eq_of_toNat_eq
  have hmask : (0xFFFFFFFFFFFC : BitVec 48) = BitVec.allOnes 48 <<< 2 := by decide
  rw [hmask, ← BitVec.shiftLeft_ushiftRight, BitVec.toNat_shiftLeft, BitVec.toNat_ushiftRight, BitVec.toNat_ofNat,
    BitVec.toNat_ofNat, Nat.shiftRight_eq_div_pow, Nat.shiftLeft_eq]
  omega

theorem fillHeadReg_eq (bs : List Byte) (b : Bank) : fillHeadReg bs b = { b with
    pc := BitVec.ofNat 48 (leNat ((bs.drop (8 * 0)).take 8) / 4 * 4),
    cs := BitVec.ofNat 13 (leNat ((bs.drop (8 * 1)).take 8)) &&& 0x1F3F } := by
  rw [fillHeadReg, ofNat_and_pcMask]
  rfl

/-! A register group (11:R313, R325). -/

section
variable (g : Nat) (f : Nat → Word)

/-- The registers after word i of the group: G0 is not filled. -/
def fillWord (v : Vector Word 32) (i : Nat) : Vector Word 32 :=
  if 8 * g + i == 0 then v else vmod v (8 * g + i) fun _ => f i

theorem fillWord_get (v : Vector Word 32) (i : Nat) (r : Fin 32) (hr : r ≠ 0) :
    (fillWord g f v i)[r] = if 8 * g + i = r.val then f i else v[r] := by
  have hr0 : r.val ≠ 0 := fun h => hr (Fin.ext h)
  have hget (v : Vector Word 32) : v[r] = vget v r.val 0 := (vget_fin ..).symm
  unfold fillWord
  by_cases hi : 8 * g + i = r.val
  · rw [if_neg (by simpa using fun h : 8 * g + i = 0 => hr0 (hi ▸ h)), if_pos hi, hget, ← hi,
      vget_vmod_same _ _ _ _ (hi ▸ r.isLt)]
  · rw [if_neg hi]
    split
    · rfl
    · rw [hget, hget, vget_vmod_other _ _ _ _ _ hi]

theorem foldl_fillWord_get (is : List Nat) (v : Vector Word 32) (r : Fin 32) (hr : r ≠ 0) :
    (is.foldl (fillWord g f) v)[r] = if 8 * g ≤ r.val ∧ r.val - 8 * g ∈ is then f (r.val - 8 * g) else v[r] := by
  induction is generalizing v with
  | nil => simp
  | cons i is ih =>
    rw [List.foldl_cons, ih, fillWord_get g f v i r hr]
    simp only [List.mem_cons]
    by_cases hi : 8 * g + i = r.val
    · have hsub : r.val - 8 * g = i := by omega
      have hle : 8 * g ≤ r.val := by omega
      simp [hi, hsub, hle]
    · have hne : ¬ (8 * g ≤ r.val ∧ r.val - 8 * g = i) := by omega
      have hiff : (8 * g ≤ r.val ∧ (r.val - 8 * g = i ∨ r.val - 8 * g ∈ is)) ↔ (8 * g ≤ r.val ∧ r.val - 8 * g ∈ is) := by
        tauto
      simp only [if_neg hi, hiff]

end

/-- A filled group has the words of its unit; the other registers are as they were. -/
theorem fillGroupReg_get (g : Nat) (bs : List Byte) (b : Bank) (r : Fin 32) (hr : r ≠ 0) :
    (fillGroupReg g bs b).g[r] =
      if r.val / 8 = g then BitVec.ofNat 64 (leNat ((bs.drop (8 * (r.val % 8))).take 8)) else b.g[r] := by
  refine (foldl_fillWord_get g (fun i => w64 (leNat ((bs.drop (8 * i)).take 8))) (List.range 8) b.g r hr).trans ?_
  by_cases hg : r.val / 8 = g
  · have hsub : r.val - 8 * g = r.val % 8 := by omega
    rw [if_pos ⟨by omega, List.mem_range.mpr (by omega)⟩, if_pos hg, hsub]
    rfl
  · rw [if_neg (by rw [List.mem_range]; omega), if_neg hg]

theorem fillGroupReg_clean (g : Fin 4) (bs : List Byte) (b : Bank) : (fillGroupReg g.val bs b).dirty.getLsbD g.val = false := by
  have hmask : (BitVec.ofNat 4 (2 ^ g.val)).getLsbD g.val = true := by
    rw [BitVec.getLsbD_ofNat, Nat.testBit_two_pow_self]
    simp
  rw [fillGroupReg, BitVec.getLsbD_and, BitVec.getLsbD_not, hmask, Bool.not_true, Bool.and_false, Bool.and_false]

/-! A row of a tile (11:R325, R327). -/

section
variable {t : Byte} {x : Core}

theorem endRestore_pending (h : ∃ y ∈ x.xq, unitClass y.kind = 6 ∧ y.task = t) : endRestore t x = x := by
  obtain ⟨y, hy, hc, ht⟩ := h
  exact if_pos (List.any_eq_true.mpr ⟨y, hy, by simp [hc, ht]⟩)

theorem endRestore_last (h : ∀ y ∈ x.xq, ¬ (unitClass y.kind = 6 ∧ y.task = t)) :
    endRestore t x = { x with tileOwner := some t } :=
  if_neg (by simpa [restoring] using h)

theorem endRestore_rest (t : Byte) (x : Core) :
    (endRestore t x).xq = x.xq ∧ (endRestore t x).banks = x.banks ∧ (endRestore t x).tiles = x.tiles := by
  unfold endRestore
  split <;> exact ⟨rfl, rfl, rfl⟩

end

/-! A unit whose translation fails (11:R328, R330). -/

/-- A task bound to SPILL. -/
def spillBound (y : Task) : Bool := y.src == 6

/-- The core whose unit has failed, before the tasks bound to SPILL fire. -/
def spillFailed (u : XferUnit) (ev : BitVec 16) (va : Nat) (time : Word) (x : Core) : Core :=
  let y := faultUnitTask u (recordSpill u ev va x)
  { y with schstat := y.schstat.event time (sqcBit 1) }

section
variable {s : State} {c : Fin 8} (u : XferUnit) (ev : BitVec 16) (va : Nat) (time : Word) (x : Core)

theorem recordSpill_tasks : (recordSpill u ev va x).tasks = x.tasks := by
  unfold recordSpill
  split <;> rfl

/-- The failed unit's task is FAULTED, and whether the core runs it or leaves it aside that is all. -/
theorem faultUnitTask_cases (y : Core) : ∃ n r o, faultUnitTask u y =
    { Rule.withTask y u.task (fun z => { z with st := .faulted }) with
      xstop := some u, switchTo := n, running := r, outgoing := o } := by
  rw [faultUnitTask, modTask_eq_withTask]
  by_cases h : y.running = some u.task
  · exact ⟨_, _, _, if_pos (beq_iff_eq.mpr h)⟩
  · exact ⟨_, _, _, if_neg (mt beq_iff_eq.mp h)⟩

theorem faultUnitTask_tasks (y : Core) :
    (faultUnitTask u y).tasks = (Rule.withTask y u.task fun z => { z with st := .faulted }).tasks := by
  obtain ⟨n, r, o, h⟩ := faultUnitTask_cases u y
  rw [h]

theorem faultUnitTask_rest (y : Core) : (faultUnitTask u y).xstop = some u ∧ (faultUnitTask u y).xq = y.xq ∧
    (faultUnitTask u y).banks = y.banks ∧ (faultUnitTask u y).spillf = y.spillf := by
  obtain ⟨n, r, o, h⟩ := faultUnitTask_cases u y
  rw [h]
  exact ⟨rfl, rfl, rfl, rfl⟩

theorem spillFailed_tasks :
    (spillFailed u ev va time x).tasks = (Rule.withTask x u.task fun z => { z with st := .faulted }).tasks := by
  rw [spillFailed]
  dsimp only
  rw [faultUnitTask_tasks, Rule.withTask, Rule.withTask]
  dsimp only
  rw [recordSpill_tasks]

theorem recordSpill_rest : (recordSpill u ev va x).xq = x.xq ∧ (recordSpill u ev va x).banks = x.banks ∧
    (recordSpill u ev va x).spillf = if x.spillf.valid then x.spillf
      else ⟨true, unitKindCode u.kind, u.task, BitVec.ofNat 9 (unitOffset u.kind), ev, BitVec.ofNat 48 va⟩ := by
  unfold recordSpill
  split <;> exact ⟨rfl, rfl, rfl⟩

theorem spillFailed_task : (spillFailed u ev va time x).tasks[u.task.toNat].st = .faulted := by
  simp [spillFailed_tasks, Rule.withTask]

/-- A task that is bound to SPILL is bound still, the one whose unit has failed too. -/
theorem any_spillBound (h : ∃ j : Fin 256, x.tasks[j].st ≠ .invalid ∧ x.tasks[j].src = 6) :
    ((spillFailed u ev va time x).tasks.toList.any fun y => y.st != .invalid && spillBound y) = true := by
  obtain ⟨j, hst, hsrc⟩ := h
  rw [Vector.any_toList, spillFailed_tasks]
  refine Vector.any_eq_true.mpr ⟨j.val, j.isLt, ?_⟩
  have hsrc : x.tasks[j.val].src = 6 := hsrc
  have hst : x.tasks[j.val].st ≠ .invalid := hst
  by_cases hj : u.task.toNat = j.val
  · simp [Rule.withTask, hj, spillBound, hsrc]
  · simp [Rule.withTask, hj, spillBound, hsrc, hst]

/-- A spill fault for which a task is bound. -/
theorem spillFault_bound (h : ∃ j : Fin 256, s.cores[c].tasks[j].st ≠ .invalid ∧ s.cores[c].tasks[j].src = 6) :
    spillFault c u ev va s =
      Rule.withCore s c (fireWhere spillBound (spillFailed u ev va s.ctl.fcycles s.cores[c])) := by
  have hfailed : modCore c (fun k =>
      let k := faultUnitTask u (recordSpill u ev va k)
      { k with schstat := k.schstat.event s.ctl.fcycles (sqcBit 1) }) s =
      Rule.withCore s c (spillFailed u ev va s.ctl.fcycles s.cores[c]) := modCore_eq_withCore ..
  rw [spillFault]
  dsimp only at hfailed ⊢
  rw [hfailed, getCore_eq, core_withCore]
  refine (if_pos (any_spillBound u ev va s.ctl.fcycles s.cores[c] h)).trans ?_
  rw [modCore_eq_withCore, core_withCore, withCore_withCore]
  rfl

theorem fireWhere_spill (y : Core) (h : y.tasks[u.task.toNat].st = .faulted) :
    (fireWhere spillBound y).tasks[u.task.toNat].st = .faulted := by
  rw [fireWhere_task _ _ _ u.task.isLt]
  split
  · exact fireTask_faulted h
  · exact h

end

end Sys2Proof.Machine

/-! SUPPORT. O35: what each kind of unit that is read leaves, and the spill fault (11:R313, R325 to R328, R330). -/

namespace Sys2Proof.Machine

/-- The core with the bytes of a row put back into its tile. -/
def rowRestored (r : Fin 12) (i : Fin 32) (bs : List Byte) (x : Core) : Core := modTile r.val (Tile.putRow i.val bs) x

theorem gets_rowRestored (r : Fin 12) (i : Fin 32) (x : Core) {bs : List Byte} (h : bs.length = 64) :
    Memory.gets (tileAt (rowRestored r i bs x) r.val).bytes (64 * i.val) 64 = bs := by
  have hput := Tile.gets_putRow i.val bs (tileAt x r.val)
  rw [h] at hput
  rw [rowRestored, tileAt_modTile_same r.isLt, hput]

theorem takeUnit_restoreTile {u : XferUnit} {r : Fin 12} {i : Fin 32} (h : u.kind = .restoreTile r i) (bs : List Byte)
    (x : Core) : takeUnit u bs x = endRestore u.task (rowRestored r i bs x) := by
  rw [takeUnit, h]
  rfl

section
variable {s v : State} {c : Fin 8} {u : XferUnit} {err : Bool} {pa : Nat} {attr : BitVec 3}

section
variable (hruns : coreRuns s c.val = true) (hstop : s.cores[c].xstop = none) (hm : Rule.NoMismatch s)
  (hu : nextUnit s.cores[c] = some u) (hk : unitWrites u.kind = false)
  (hx : xlatCore c (unitAt s.cores[c] u) .unitRead 7 s = (.ok pa attr, v))
  (hr : (readAccess (attrCached attr) pa 64 v).1 ≠ .uncorrectable)
include hruns hstop hm hu hk hx hr

/-- A unit that fills its bank: the bank as it is filled. -/
theorem ends_fill {f : Bank → Bank} (hf : ∀ x, takeUnit u (Memory.gets s.mem pa 64) x = modBank u.level.val f x) :
    Rule.Ends (.transferUnit c err) s fun w =>
      w.mem = s.mem ∧ (w.cores[c]).xq = s.cores[c].xq.erase u ∧ (w.cores[c]).tasks = s.cores[c].tasks ∧
      Rule.CoreOnly s w c ∧ (w.cores[c]).banks = s.cores[c].banks.set u.level.val (f s.cores[c].banks[u.level]) := by
  refine ends_read hruns hstop hm hu hk hx hr fun t hl => ?_
  rw [hf, modBank_fin]
  have hbanks : (removeUnit u t.cores[c]).banks = s.cores[c].banks := hl.banks
  obtain ⟨hmem, hxq, honly⟩ := left_of_taken (u := u) hl (y := { removeUnit u t.cores[c] with
    banks := (removeUnit u t.cores[c]).banks.set u.level.val (f (removeUnit u t.cores[c]).banks[u.level]) }) rfl
  refine ⟨hmem, hxq, ?_, honly, ?_⟩
  · rw [core_withCore]
    exact hl.field Core.tasks fun _ _ _ => rfl
  · rw [core_withCore, hbanks]

/-- A unit that restores a row of a tile. -/
theorem ends_restored {r : Fin 12} {i : Fin 32} (hkind : u.kind = .restoreTile r i) :
    Rule.Ends (.transferUnit c err) s fun w =>
      w.mem = s.mem ∧ (w.cores[c]).xq = s.cores[c].xq.erase u ∧ (w.cores[c]).banks = s.cores[c].banks ∧
      Rule.CoreOnly s w c ∧
      Memory.gets (tileAt w.cores[c] r.val).bytes (64 * i.val) 64 = Memory.gets s.mem pa 64 ∧
      ((∃ y ∈ s.cores[c].xq.erase u, unitClass y.kind = 6 ∧ y.task = u.task) →
        (w.cores[c]).tileOwner = s.cores[c].tileOwner) ∧
      ((∀ y ∈ s.cores[c].xq.erase u, ¬ (unitClass y.kind = 6 ∧ y.task = u.task)) →
        (w.cores[c]).tileOwner = some u.task) := by
  refine ends_read hruns hstop hm hu hk hx hr fun t hl => ?_
  rw [takeUnit_restoreTile hkind]
  have hxq : (rowRestored r i (Memory.gets s.mem pa 64) (removeUnit u t.cores[c])).xq = s.cores[c].xq.erase u :=
    congrArg (·.erase u) (hl.field Core.xq fun _ _ _ => rfl)
  obtain ⟨hend, hendBanks, hendTiles⟩ :=
    endRestore_rest u.task (rowRestored r i (Memory.gets s.mem pa 64) (removeUnit u t.cores[c]))
  obtain ⟨hmem, hleft, honly⟩ := left_of_taken (u := u) hl hend
  refine ⟨hmem, hleft, ?_, honly, ?_, fun h => ?_, fun h => ?_⟩
  · rw [core_withCore, hendBanks]
    exact hl.banks
  · rw [core_withCore, tileAt_congr hendTiles, gets_rowRestored _ _ _ (Memory.length_gets ..)]
  · rw [core_withCore, endRestore_pending (hxq ▸ h)]
    exact hl.field Core.tileOwner fun _ _ _ => rfl
  · rw [core_withCore, endRestore_last (hxq ▸ h)]

end

/-- A unit whose translation fails, where a task is bound to SPILL. -/
theorem ends_spillFault (hruns : coreRuns s c.val = true) (hstop : s.cores[c].xstop = none)
    (hu : nextUnit s.cores[c] = some u) {ev : BitVec 16}
    (hx : xlatCore c (unitAt s.cores[c] u) (unitAccess u) 7 s = (.fault ev, v))
    (hb : ∃ j : Fin 256, s.cores[c].tasks[j].st ≠ .invalid ∧ s.cores[c].tasks[j].src = 6) :
    Rule.Ends (.transferUnit c err) s fun w =>
      Rule.SpillFaulted s w c u ev (unitAt s.cores[c] u) ∧ w.mem = s.mem := by
  have hl : Looked c s v := by simpa only [hx] using looked_xlatCore c (unitAt s.cores[c] u) (unitAccess u) 7 s
  have htasks : v.cores[c].tasks = s.cores[c].tasks := hl.field Core.tasks fun _ _ _ => rfl
  refine ⟨_, gives_transferUnit err ((transferUnit_faults hruns hstop hu err hx).trans
    (spillFault_bound u ev _ (htasks.symm ▸ hb))), ?_, hl.mem⟩
  obtain ⟨hstopped, hxq, hbanks, hspillf⟩ := faultUnitTask_rest u (recordSpill u ev (unitAt s.cores[c] u) v.cores[c])
  obtain ⟨hrxq, hrbanks, hrspillf⟩ := recordSpill_rest u ev (unitAt s.cores[c] u) v.cores[c]
  refine ⟨?_, ⟨?_, ?_⟩, ?_, ?_, ?_⟩ <;> rw [core_withCore]
  · exact fireWhere_spill u _ (spillFailed_task ..)
  · exact hstopped
  · exact hxq.trans (hrxq.trans (hl.field Core.xq fun _ _ _ => rfl))
  · rw [← show v.cores[c].spillf = s.cores[c].spillf from hl.field Core.spillf fun _ _ _ => rfl]
    exact hspillf.trans hrspillf
  · refine (congrArg (BitVec.getLsbD · 1) (Sqc.event_status ..)).trans ?_
    rw [BitVec.getLsbD_or]
    exact Bool.or_true _
  · exact hbanks.trans (hrbanks.trans hl.banks)

end

/-- Settles O35: a unit that is written goes through the write of its bytes, one that is read is taken by kind, and a failed
translation is the spill fault. -/
theorem transferUnits : Obligations.TransferUnits := by
  intro s v c u err x va t hruns hstop hm
  refine ⟨fun hu => ?_, fun hu hk pa attr hx hw _ => ends_written hruns hstop hm hu hk hx hw,
    fun hu hk pa attr hx _ hr => ⟨fun hkind => ?_, fun g hkind => ?_, fun r i hkind => ?_⟩,
    fun hu ev hx hb => ends_spillFault hruns hstop hu hx hb⟩
  · exact gives_transferUnit err (transferUnit_none hruns hstop err hu)
  · obtain ⟨w, hw, hmem, hxq, htasks, honly, hbanks⟩ := ends_fill (err := err) hruns hstop hm hu hk hx hr
      (f := fillHeadReg (Memory.gets s.mem pa 64)) fun y => by rw [takeUnit, hkind]
    rw [fillHeadReg_eq] at hbanks
    exact ⟨w, hw, hmem, hxq, htasks, honly, hbanks⟩
  · obtain ⟨w, hw, hmem, hxq, htasks, honly, hbanks⟩ := ends_fill (err := err) hruns hstop hm hu hk hx hr
      (f := fillGroupReg g.val (Memory.gets s.mem pa 64)) fun y => by rw [takeUnit, hkind]
    have hlevel : (w.cores[c]).banks[u.level] = fillGroupReg g.val (Memory.gets s.mem pa 64) x.banks[u.level] := by
      rw [hbanks]
      exact Vector.getElem_set_self _
    refine ⟨w, hw, hmem, hxq, htasks, honly, fun j hj => ?_, ?_⟩
    · rw [hbanks]
      exact Vector.getElem_set_ne _ _ fun h => hj (Fin.ext h.symm)
    · rw [hlevel]
      exact ⟨rfl, rfl, rfl, fillGroupReg_clean .., fillGroupReg_get g.val _ _⟩
  · exact ends_restored hruns hstop hm hu hk hx hr hkind

end Sys2Proof.Machine
